-- ==== Sys2Proof/Word.lean ====
section
/-! DEFINITION. The words of the part and the plain types that operands are made of: register numbers, scalar
sources, element types, rounding modes, scopes and cause codes (01, R18-R28, R51). -/

namespace Sys2Proof

abbrev Word := BitVec 64
abbrev W32 := BitVec 32
abbrev Byte := BitVec 8
/-- A logical core number (R4). -/
abbrev CoreId := Fin 256
/-- A runner die, or a crown die (R3). -/
abbrev DieId := Fin 4
/-- x0-x30, g0-g30 or v0-v30 (R23). -/
abbrev Reg := Fin 31
/-- An index of the 64 UCIe crown modules (0-63: 16 x crown die + module), the 32 runner-to-runner modules
(64-95: 64 + 8 x die + module, toward die + 1) and the 16 Yunan ports (96-111). -/
abbrev LinkId := Fin 112

/-- A scalar source of the stem or of a move sequencer (R21). -/
inductive Src where
  | reg (n : Reg)
  | lit32 (v : W32)
  | lit64 (v : Word)
  deriving DecidableEq, Repr, Inhabited

/-- The value of LI (R94): its IMM16, or a literal. -/
inductive LiVal where
  | imm (i : BitVec 16)
  | lit (v : W32)
  deriving DecidableEq, Repr, Inhabited

/-- A vector source v/# (R143). -/
inductive VSrc where
  | reg (n : Reg)
  | lit (v : W32)
  deriving DecidableEq, Repr, Inhabited

/-- A scalar source e/# of the vector engine (R137). -/
inductive ESrc where
  | reg (n : Fin 8)
  | lit (v : W32)
  deriving DecidableEq, Repr, Inhabited

/-- TYPE codes (Table 01-8). -/
inductive Ty where
  | fn (n : Fin 8)
  | f32 | bf16 | f16 | i8 | i16 | i32 | i64
  deriving DecidableEq, Repr, Inhabited

/-- Rounding modes (Table 01-9). -/
inductive Round where
  | rne | rz | rdn | rup | rsr
  deriving DecidableEq, Repr, Inhabited

/-- Scopes a memory operation accepts (Table 00-5; .l is accepted by none, R329). -/
inductive Scope where
  | core | quad | die | package | pod
  deriving DecidableEq, Repr, Inhabited

/-- Directions of Table 05-2. -/
inductive Dir where
  | row | col | sr | sk
  deriving DecidableEq, Repr, Inhabited

/-- The three instruction streams. -/
inductive Strm where
  | stem | vector | perco
  deriving DecidableEq, Repr, Inhabited

/-- The engine that a core trap names (Table 01-13). -/
inductive Engine where
  | stem | vector | matrix
  deriving DecidableEq, Repr, Inhabited

/-- Cause codes (Table 01-26), in code order. -/
inductive Cause where
  | illegalOpcode | reservedField | badLiteral | privViolation | misaligned | scratchRange
  | bankgroupConflict | tileProtocol | tokenFormat | segmentTooLong | vshapeInvalid | formatInvalid
  | mcmdInvalid | sparseMeta | raggedTable | raggedCross | shapeStale | pendingRead | divZero | loopDepth
  | callDepth | semOverflow | semRange | probeFull | imemRange | breakpoint | singleStep | watchpoint
  | userTrap | testbarMismatch | eccUncorrectable | mouldParity | replayExhausted | preempt | kill | watchdog
  | pageNotPresent | pagePermission | vaRange | ptFormat | ptPoison | hbmPoison | peerUnreachable | linkTimeout
  | atomicMisaligned | codeTable | streamCorrupt | convRange | boxInvalid | destOverlap | collectiveAbort
  | collectiveSeq | publishState | childPool | launchInvalid | queueInvalid | vfIsolation | deadlineMissed
  | thermal | voltage | fwAuth | hostAbort | internalCheck | configDegraded
  deriving DecidableEq, Repr, Inhabited

/-- The code of a cause (Table 01-26). -/
def Cause.code (c : Cause) : Nat := c.ctorIdx

def Ty.code : Ty → BitVec 4
  | .fn n => BitVec.ofNat 4 n.val
  | .f32 => 8 | .bf16 => 9 | .f16 => 10 | .i8 => 11 | .i16 => 12 | .i32 => 13 | .i64 => 14

/-- The type a TYPE code names; code 15 is reserved (R24). -/
def Ty.ofCode (c : BitVec 4) : Option Ty :=
  if h : c.toNat < 8 then some (.fn ⟨c.toNat, h⟩)
  else match c.toNat with
    | 8 => some .f32 | 9 => some .bf16 | 10 => some .f16 | 11 => some .i8 | 12 => some .i16
    | 13 => some .i32 | 14 => some .i64 | _ => none

def Ty.isInt : Ty → Bool
  | .i8 | .i16 | .i32 | .i64 => true
  | _ => false

def Ty.isFloat : Ty → Bool
  | .f32 | .bf16 | .f16 => true
  | _ => false

/-- Register width in bits (Table 04-1). -/
def Ty.bits : Ty → Nat
  | .fn _ | .i8 => 8
  | .bf16 | .f16 | .i16 => 16
  | .f32 | .i32 => 32
  | .i64 => 64

def Round.code : Round → BitVec 4
  | .rne => 0 | .rz => 1 | .rdn => 2 | .rup => 3 | .rsr => 4

def Round.ofCode (c : BitVec 4) : Round :=
  match c.toNat with
  | 1 => .rz | 2 => .rdn | 3 => .rup | 4 => .rsr | _ => .rne

def Scope.code : Scope → BitVec 6
  | .core => 1 | .quad => 2 | .die => 3 | .package => 4 | .pod => 5

def Scope.ofCode (c : BitVec 3) : Scope :=
  match c.toNat with
  | 2 => .quad | 3 => .die | 4 => .package | 5 => .pod | _ => .core

def Dir.code : Dir → BitVec 2
  | .row => 0 | .col => 1 | .sr => 2 | .sk => 3

def Dir.ofCode (c : BitVec 2) : Dir :=
  match c.toNat with
  | 1 => .col | 2 => .sr | 3 => .sk | _ => .row

/-- The .sr and .sk directions, which take a segment word (R177). -/
def Dir.segmented : Dir → Bool
  | .sr | .sk => true
  | _ => false

/-- Words of literal a source takes (R21). -/
def Src.words : Src → List W32
  | .reg _ => []
  | .lit32 v => [v]
  | .lit64 v => [v.extractLsb' 0 32, v.extractLsb' 32 32]

def VSrc.words : VSrc → List W32
  | .reg _ => []
  | .lit v => [v]

def ESrc.words : ESrc → List W32
  | .reg _ => []
  | .lit v => [v]

def LiVal.words : LiVal → List W32
  | .imm _ => []
  | .lit v => [v]

def regCode (r : Reg) : BitVec 5 := BitVec.ofNat 5 r.val
def Src.code : Src → BitVec 5
  | .reg n => regCode n
  | _ => 31
def VSrc.code : VSrc → BitVec 5
  | .reg n => regCode n
  | .lit _ => 31
def ESrc.code : ESrc → BitVec 5
  | .reg n => BitVec.ofNat 5 n.val
  | .lit _ => 31

def Src.isLit : Src → Bool
  | .reg _ => false
  | _ => true
def Src.isWide : Src → Bool
  | .lit64 _ => true
  | _ => false
def VSrc.isLit : VSrc → Bool
  | .reg _ => false
  | .lit _ => true
def ESrc.isLit : ESrc → Bool
  | .reg _ => false
  | .lit _ => true

/-- A request of another package, as its end-to-end header carries it (Table 19-2), with its data; hdr: the sequence
number of a collective write and its offset in the shadow half, the target being the header (R261, R369). -/
structure FarReq where
  /-- SRCPKG, DSTPKG, SRCDIE -/
  src : BitVec 12
  dst : BitVec 12
  sdie : DieId
  epoch : BitVec 8
  op : Nat
  /-- LEN, in units of 8 bytes -/
  len : Nat
  ctx : BitVec 16
  wseq : W32
  eack : W32
  /-- the rest of the tag (R347), the core on whose behalf the request acts (R329, R365), and the deadline class (R362):
  their places in a message are not stated (log 20) -/
  vf : Nat
  sup : Bool
  core : Option CoreId
  dclass : Nat
  scratch : Bool
  target : Nat
  bytes : Nat
  aop : Nat
  data : Word
  cmp : Word
  hdr : Option (W32 × Word)
  deriving DecidableEq, Repr, Inhabited

/-- An abort request, with what the first one carries (R371). -/
structure AbortReq where
  ctx : BitVec 16
  seq : W32
  dbuf : Word
  ranktab : List Word
  lo : Word
  hi : Word
  deriving DecidableEq, Repr, Inhabited

/-- A unit that errors are counted against (Table 19-9). -/
structure UnitRef where
  kind : Fin 8
  unit : Nat
  die : DieId
  crown : Bool
  deriving DecidableEq, Repr, Inhabited

/-- What an SPDM request carries (R428): its version, whether it offers the extended asymmetric algorithm,
the session it names and the nonce or index of its body. -/
structure SpdmReq where
  version : Nat
  extAsym : Bool
  session : Nat
  param : Nat
  deriving DecidableEq, Repr, Inhabited

end Sys2Proof
end

