-- ==== Sys2Proof/Syntax.lean ====
section
/-! DEFINITION. Every row of the opcode table: the stem instructions and matrix commands (03, 06), the vector
instructions (04, 05), the Perco move set (07), and the events of 95_what_each_step_holds.md. -/

namespace Sys2Proof

/-- One constructor per row of spec/opcode_table.json. -/
inductive Instr where
  /-- R92: Stem ALU add of width N, written sign-extended to D. -/
  | add (d : Reg) (a : Src) (b : Src) (ty : Ty)
  /-- R92: Stem ALU subtract modulo 2^N. -/
  | sub (d : Reg) (a : Src) (b : Src) (ty : Ty)
  /-- R92: Stem ALU multiply modulo 2^N. -/
  | mul (d : Reg) (a : Src) (b : Src) (ty : Ty)
  /-- R92: Stem high half of the signed 2N-bit product. -/
  | mulh (d : Reg) (a : Src) (b : Src) (ty : Ty)
  /-- R93: Stem signed divide truncating toward zero; a zero divisor raises DIV_ZERO. -/
  | div (d : Reg) (a : Src) (b : Src) (ty : Ty)
  /-- R93: Stem signed remainder; a zero divisor raises DIV_ZERO. -/
  | rem (d : Reg) (a : Src) (b : Src) (ty : Ty)
  /-- R92: Stem bitwise and. -/
  | and (d : Reg) (a : Src) (b : Src) (ty : Ty)
  /-- R92: Stem bitwise or. -/
  | or (d : Reg) (a : Src) (b : Src) (ty : Ty)
  /-- R92: Stem bitwise exclusive or. -/
  | xor (d : Reg) (a : Src) (b : Src) (ty : Ty)
  /-- R92: Stem shift left by b mod N. -/
  | shl (d : Reg) (a : Src) (b : Src) (ty : Ty)
  /-- R92: Stem logical shift right by b mod N. -/
  | shr (d : Reg) (a : Src) (b : Src) (ty : Ty)
  /-- R92: Stem arithmetic shift right by b mod N. -/
  | sra (d : Reg) (a : Src) (b : Src) (ty : Ty)
  /-- R92: Stem signed minimum. -/
  | min (d : Reg) (a : Src) (b : Src) (ty : Ty)
  /-- R92: Stem signed maximum. -/
  | max (d : Reg) (a : Src) (b : Src) (ty : Ty)
  /-- R92: Stem set D to 1 when a < b signed. -/
  | slt (d : Reg) (a : Src) (b : Src) (ty : Ty)
  /-- R92: Stem set D to 1 when a < b unsigned. -/
  | sltu (d : Reg) (a : Src) (b : Src) (ty : Ty)
  /-- R92: Stem multiply-add D + a × b modulo 2^N. -/
  | madd (d : Reg) (a : Src) (b : Src) (ty : Ty)
  /-- R92: Stem count of leading zeros. -/
  | clz (d : Reg) (a : Src) (ty : Ty)
  /-- R92: Stem population count. -/
  | popc (d : Reg) (a : Src) (ty : Ty)
  /-- R92: Stem high half of the unsigned 2N-bit product. -/
  | mulhUnsigned (d : Reg) (a : Src) (b : Src) (ty : Ty)
  /-- R93: Stem unsigned divide; a zero divisor raises DIV_ZERO. -/
  | divUnsigned (d : Reg) (a : Src) (b : Src) (ty : Ty)
  /-- R93: Stem unsigned remainder; a zero divisor raises DIV_ZERO. -/
  | remUnsigned (d : Reg) (a : Src) (b : Src) (ty : Ty)
  /-- R92: Stem unsigned minimum. -/
  | minUnsigned (d : Reg) (a : Src) (b : Src) (ty : Ty)
  /-- R92: Stem unsigned maximum. -/
  | maxUnsigned (d : Reg) (a : Src) (b : Src) (ty : Ty)
  /-- R94: Stem load of a sign-extended immediate or literal. -/
  | li (d : Reg) (v : LiVal)
  /-- R95: Stem branch if equal. -/
  | beq (x : Src) (y : Src) (ofs : BitVec 16)
  /-- R95: Stem branch if not equal. -/
  | bne (x : Src) (y : Src) (ofs : BitVec 16)
  /-- R95: Stem branch if less, signed. -/
  | blt (x : Src) (y : Src) (ofs : BitVec 16)
  /-- R95: Stem branch if greater or equal, signed. -/
  | bge (x : Src) (y : Src) (ofs : BitVec 16)
  /-- R95: Stem branch if less, unsigned. -/
  | bltu (x : Src) (y : Src) (ofs : BitVec 16)
  /-- R95: Stem branch if greater or equal, unsigned. -/
  | bgeu (x : Src) (y : Src) (ofs : BitVec 16)
  /-- R95: Stem PC-relative jump. -/
  | j (ofs : BitVec 26)
  /-- R95: Stem PC-relative jump that pushes the return address. -/
  | jal (ofs : BitVec 26)
  /-- R96: Stem jump to register target. -/
  | jr (a : Src)
  /-- R96: Stem call through register target, pushing the return address. -/
  | jrCall (a : Src)
  /-- R97: Stem hardware loop with latched count. -/
  | loop (a : Src) (imm : BitVec 16)
  /-- R99: Stem write of a loop counter. -/
  | mvlc (lc : Fin 4) (a : Src)
  /-- R99: Stem read of a loop counter into a register. -/
  | mvlcRead (d : Reg) (lc : Fin 4)
  /-- R102: Stem sign-extending scratchpad load. -/
  | ld (d : Reg) (a : Src) (cls : BitVec 4) (size : BitVec 2) (ofs : BitVec 10)
  /-- R102: Stem zero-extending scratchpad load. -/
  | ldZeroExtending (d : Reg) (a : Src) (cls : BitVec 4) (size : BitVec 2) (ofs : BitVec 10)
  /-- R102: Stem scratchpad store. -/
  | st (x : Src) (a : Src) (cls : BitVec 4) (size : BitVec 2) (ofs : BitVec 10)
  /-- R107: Stem local atomic add. -/
  | amoAdd (d : Reg) (a : Src) (b : Src) (ty : Ty)
  /-- R107: Stem local atomic and. -/
  | amoAnd (d : Reg) (a : Src) (b : Src) (ty : Ty)
  /-- R107: Stem local atomic or. -/
  | amoOr (d : Reg) (a : Src) (b : Src) (ty : Ty)
  /-- R107: Stem local atomic xor. -/
  | amoXor (d : Reg) (a : Src) (b : Src) (ty : Ty)
  /-- R107: Stem local atomic signed minimum. -/
  | amoMin (d : Reg) (a : Src) (b : Src) (ty : Ty)
  /-- R107: Stem local atomic signed maximum. -/
  | amoMax (d : Reg) (a : Src) (b : Src) (ty : Ty)
  /-- R107: Stem local atomic unsigned minimum. -/
  | amoMinu (d : Reg) (a : Src) (b : Src) (ty : Ty)
  /-- R107: Stem local atomic unsigned maximum. -/
  | amoMaxu (d : Reg) (a : Src) (b : Src) (ty : Ty)
  /-- R107: Stem local atomic swap. -/
  | amoSwap (d : Reg) (a : Src) (b : Src) (ty : Ty)
  /-- R107: Stem local compare-and-swap. -/
  | cas (d : Reg) (a : Src) (b : Src) (ty : Ty)
  /-- R110: Stem wait until a semaphore reaches n, subtract it and acquire. -/
  | semwait (a : Src) (b : Src) (sc : Scope)
  /-- R110: Stem release and add to a semaphore. -/
  | sempost (a : Src) (b : Src) (sc : Scope)
  /-- R111: Stem request to park on a global word at its home. -/
  | waita (d : Reg) (a : Src) (b : Src) (ty : Ty) (sc : Scope)
  /-- R112: Stem ordering of classes in a mask, with a marker among posts. -/
  | fence (a : Src) (sc : Scope)
  /-- R114: Stem barrier at a scope: release, arrive, wait, acquire. -/
  | bar (a : Src) (sc : Scope)
  /-- R115: Stem enqueue of a token to the vector control queue. -/
  | token (d : Fin 32) (n : Fin 5) (a : Src) (b : Src)
  /-- R117: Stem wait until a tile is FULL. -/
  | twait (t : Fin 4)
  /-- R119: Stem post of a box descriptor to a runner die. -/
  | xfer (a : Src) (hi : Bool)
  /-- R119: Stem start of a runner program. -/
  | rcall (a : Src) (b : Src) (hi : Bool)
  /-- R121: Stem remote fetch-and-add at the word's home. -/
  | ratomAdd (d : Reg) (a : Src) (b : Src) (ty : Ty)
  /-- R121: Stem remote atomic and. -/
  | ratomAnd (d : Reg) (a : Src) (b : Src) (ty : Ty)
  /-- R121: Stem remote atomic or. -/
  | ratomOr (d : Reg) (a : Src) (b : Src) (ty : Ty)
  /-- R121: Stem remote atomic xor. -/
  | ratomXor (d : Reg) (a : Src) (b : Src) (ty : Ty)
  /-- R121: Stem remote atomic signed minimum. -/
  | ratomMin (d : Reg) (a : Src) (b : Src) (ty : Ty)
  /-- R121: Stem remote atomic signed maximum. -/
  | ratomMax (d : Reg) (a : Src) (b : Src) (ty : Ty)
  /-- R121: Stem remote atomic unsigned minimum. -/
  | ratomMinu (d : Reg) (a : Src) (b : Src) (ty : Ty)
  /-- R121: Stem remote atomic unsigned maximum. -/
  | ratomMaxu (d : Reg) (a : Src) (b : Src) (ty : Ty)
  /-- R121: Stem remote atomic swap. -/
  | ratomSwap (d : Reg) (a : Src) (b : Src) (ty : Ty)
  /-- R121: Stem remote compare-and-swap. -/
  | ratomCas (d : Reg) (a : Src) (b : Src) (ty : Ty)
  /-- R123: Stem probe-cache lookup, posting a fill on a miss. -/
  | probe (d : Reg) (a : Src) (imm : BitVec 16)
  /-- R124: Stem wait until a probe slot is valid. -/
  | pwait (a : Src)
  /-- R124: Stem set of a probe slot's pin bit. -/
  | pin (a : Src)
  /-- R124: Stem clear of a probe slot's pin bit. -/
  | unpin (a : Src)
  /-- R125: Stem invalidation of the probe slot holding one block. -/
  | cinv (a : Src)
  /-- R126: Stem load of a shape record into a shape slot. -/
  | shld (sh : Fin 4) (a : Src)
  /-- R126: Stem invalidation of a shape slot. -/
  | shinv (sh : Fin 4)
  /-- R127: Stem device-side launch of a nest record into the child pool. -/
  | launch (a : Src)
  /-- R129: Stem user trap with USER_TRAP. -/
  | trap (imm : BitVec 16)
  /-- R130: Stem read of a system register. -/
  | sysrd (d : Reg) (r : BitVec 12)
  /-- R130: Stem write of a system register, waiting for earlier work where required. -/
  | syswr (a : Src) (r : BitVec 12)
  /-- R131: Stem read of CYCLE. -/
  | rdcyc (d : Reg)
  /-- R210: Matrix multiply-accumulate command, checked at issue and queued. -/
  | mma (c : Src) (a : Src) (b : Src) (mods : BitVec 6)
  /-- R212: Matrix multiply with structured sparse B. -/
  | mmas (c : Src) (a : Src) (b : Src) (mods : BitVec 6)
  /-- R213: Matrix clear of a mould tile. -/
  | mclr (m : Fin 2)
  /-- R213: Matrix copy of a mould tile into an EMPTY tile, optionally clearing the mould. -/
  | memit (t : Fin 4) (m : Fin 2) (z : Bool)
  /-- R213: Matrix load of a mould tile from scratchpad. -/
  | mtld (m : Fin 2) (a : Src)
  /-- R213: Matrix store of a mould tile to scratchpad. -/
  | mtst (m : Fin 2) (a : Src)
  /-- R218: Matrix known-answer test bar. -/
  | mtbar (a : Src) (b : Src)
  /-- R215: Matrix write of a GFMT register at the queue head. -/
  | mfmt (g : Fin 4) (a : Src)
  /-- R198: Fill of the pending matrix wait prefix. -/
  | mwait (a : Src) (b : Src) (sc : Scope)
  /-- R198: Fill of the pending matrix signal prefix. -/
  | msig (a : Src) (b : Src) (sc : Scope)
  /-- R159: Vector floating add. -/
  | vadd (d : Reg) (a : VSrc) (b : VSrc) (m : Fin 8) (ty : Ty) (r : Round)
  /-- R159: Vector floating subtract. -/
  | vsub (d : Reg) (a : VSrc) (b : VSrc) (m : Fin 8) (ty : Ty) (r : Round)
  /-- R159: Vector floating multiply. -/
  | vmul (d : Reg) (a : VSrc) (b : VSrc) (m : Fin 8) (ty : Ty) (r : Round)
  /-- R159: Vector fused multiply-add. -/
  | vfma (d : Reg) (a : VSrc) (b : VSrc) (m : Fin 8) (ty : Ty) (r : Round)
  /-- R159: Vector IEEE minimum. -/
  | vmin (d : Reg) (a : VSrc) (b : VSrc) (m : Fin 8) (ty : Ty)
  /-- R159: Vector IEEE maximum. -/
  | vmax (d : Reg) (a : VSrc) (b : VSrc) (m : Fin 8) (ty : Ty)
  /-- R160: Vector base-2 exponential. -/
  | vexp2 (d : Reg) (a : VSrc) (m : Fin 8) (ty : Ty)
  /-- R160: Vector base-2 logarithm. -/
  | vlog2 (d : Reg) (a : VSrc) (m : Fin 8) (ty : Ty)
  /-- R160: Vector reciprocal. -/
  | vrcp (d : Reg) (a : VSrc) (m : Fin 8) (ty : Ty)
  /-- R160: Vector reciprocal square root. -/
  | vrsq (d : Reg) (a : VSrc) (m : Fin 8) (ty : Ty)
  /-- R160: Vector hyperbolic tangent. -/
  | vtanh (d : Reg) (a : VSrc) (m : Fin 8) (ty : Ty)
  /-- R161: Vector integer add, optionally saturating. -/
  | viadd (d : Reg) (a : VSrc) (b : VSrc) (m : Fin 8) (ty : Ty) (u : Bool) (sat : Bool)
  /-- R161: Vector integer subtract, optionally saturating. -/
  | visub (d : Reg) (a : VSrc) (b : VSrc) (m : Fin 8) (ty : Ty) (u : Bool) (sat : Bool)
  /-- R161: Vector integer multiply, low or high half. -/
  | vimul (d : Reg) (a : VSrc) (b : VSrc) (m : Fin 8) (ty : Ty) (h : Bool) (u : Bool)
  /-- R161: Vector integer multiply-add. -/
  | vimad (d : Reg) (a : VSrc) (b : VSrc) (m : Fin 8) (ty : Ty) (u : Bool) (sat : Bool)
  /-- R161: Vector bitwise and. -/
  | vand (d : Reg) (a : VSrc) (b : VSrc) (m : Fin 8) (ty : Ty)
  /-- R161: Vector bitwise or. -/
  | vor (d : Reg) (a : VSrc) (b : VSrc) (m : Fin 8) (ty : Ty)
  /-- R161: Vector bitwise xor. -/
  | vxor (d : Reg) (a : VSrc) (b : VSrc) (m : Fin 8) (ty : Ty)
  /-- R161: Vector shift left. -/
  | vshl (d : Reg) (a : VSrc) (b : VSrc) (m : Fin 8) (ty : Ty)
  /-- R161: Vector logical shift right. -/
  | vshr (d : Reg) (a : VSrc) (b : VSrc) (m : Fin 8) (ty : Ty)
  /-- R161: Vector arithmetic shift right. -/
  | vsra (d : Reg) (a : VSrc) (b : VSrc) (m : Fin 8) (ty : Ty)
  /-- R161: Vector integer minimum. -/
  | vimin (d : Reg) (a : VSrc) (b : VSrc) (m : Fin 8) (ty : Ty) (u : Bool)
  /-- R161: Vector integer maximum. -/
  | vimax (d : Reg) (a : VSrc) (b : VSrc) (m : Fin 8) (ty : Ty) (u : Bool)
  /-- R162: Vector compare into a mask register. -/
  | vcmp (d : Fin 8) (a : VSrc) (b : VSrc) (m : Fin 8) (ty : Ty) (u : Bool) (c : Fin 8)
  /-- R163: Vector select under a mask. -/
  | vsel (d : Reg) (a : VSrc) (b : VSrc) (m : Fin 8) (ty : Ty)
  /-- R164: Mask and. -/
  | vmopAnd (d : Fin 8) (a : Fin 8) (b : Fin 8)
  /-- R164: Mask or. -/
  | vmopOr (d : Fin 8) (a : Fin 8) (b : Fin 8)
  /-- R164: Mask xor. -/
  | vmopXor (d : Fin 8) (a : Fin 8) (b : Fin 8)
  /-- R164: Mask and-not. -/
  | vmopAndn (d : Fin 8) (a : Fin 8) (b : Fin 8)
  /-- R164: Mask not. -/
  | vmopNot (d : Fin 8) (a : Fin 8)
  /-- R164: Mask set to all ones. -/
  | vmopOnes (d : Fin 8)
  /-- R164: Mask set to all zeros. -/
  | vmopZeros (d : Fin 8)
  /-- R164: Mask copy. -/
  | vmopCopy (d : Fin 8) (a : Fin 8)
  /-- R164: Count of set mask bits into a scalar. -/
  | vmpop (d : Fin 8) (a : Fin 8)
  /-- R164: Lowest set mask position into a scalar. -/
  | vmpopFirst (d : Fin 8) (a : Fin 8)
  /-- R165: Vector conversion between element types. -/
  | vcvt (d : Reg) (a : Reg) (sty : Ty) (su : Bool) (m : Fin 8) (ty : Ty) (du : Bool) (r : Round)
  /-- R167: Vector quantisation to scaled narrow codes with block scales. -/
  | vquant (d : Reg) (a : Reg) (s : Reg) (m : Fin 8) (ty : Ty) (r : Round)
  /-- R168: Vector dequantisation of scaled narrow codes to FP32. -/
  | vdeq (d : Reg) (a : Reg) (s : Reg) (m : Fin 8) (ty : Ty)
  /-- R166: Vector round to integral value. -/
  | vrnd (d : Reg) (a : VSrc) (m : Fin 8) (ty : Ty) (r : Round)
  /-- R169: Vector scaled chunk accumulation. -/
  | vsacc (d : Reg) (a : Reg) (s : Reg) (m : Fin 8)
  /-- R149: Vector strided load with optional post-increment. -/
  | vld (d : Reg) (a : Fin 8) (b : ESrc) (m : Fin 8) (ty : Ty) (p : Fin 4)
  /-- R151: Vector ragged load under a shape slot. -/
  | vldRagged (d : Reg) (a : Fin 8) (b : ESrc) (m : Fin 8) (ty : Ty) (pf : Bool) (k : Fin 4)
  /-- R149: Vector strided store with optional post-increment. -/
  | vst (x : VSrc) (a : Fin 8) (b : ESrc) (m : Fin 8) (ty : Ty) (p : Fin 4)
  /-- R151: Vector ragged store under a shape slot. -/
  | vstRagged (x : VSrc) (a : Fin 8) (b : ESrc) (m : Fin 8) (ty : Ty) (pf : Bool) (k : Fin 4)
  /-- R152: Vector broadcast load of one row to every row. -/
  | vldb (d : Reg) (a : Fin 8) (m : Fin 8) (ty : Ty)
  /-- R152: Vector broadcast load with footprint post-increment. -/
  | vldbPf (d : Reg) (a : Fin 8) (m : Fin 8) (ty : Ty)
  /-- R153: Vector indexed gather. -/
  | vgath (d : Reg) (a : Fin 8) (b : VSrc) (m : Fin 8) (ty : Ty) (sc : Bool)
  /-- R153: Vector indexed scatter. -/
  | vscat (x : VSrc) (a : Fin 8) (b : VSrc) (m : Fin 8) (ty : Ty) (sc : Bool)
  /-- R155: Vector read of a window of a granted FULL tile. -/
  | vtrd (d : Reg) (t : Fin 4) (b : ESrc) (m : Fin 8) (ty : Ty)
  /-- R156: Vector release of a tile to EMPTY. -/
  | vtrel (t : Fin 4)
  /-- R157: Vector element-wise move. -/
  | vmov (d : Reg) (a : VSrc) (m : Fin 8) (ty : Ty)
  /-- R157: Vector insertion of a scalar at an index. -/
  | vmovIns (d : Reg) (a : ESrc) (b : ESrc) (ty : Ty)
  /-- R157: Vector extraction of an element into a scalar. -/
  | vmovExt (d : Fin 8) (a : Reg) (b : ESrc) (ty : Ty)
  /-- R158: Vector broadcast of a scalar. -/
  | vsplat (d : Reg) (a : ESrc) (m : Fin 8) (ty : Ty)
  /-- R158: Vector broadcast of row 0 to every row. -/
  | vsplatRow (d : Reg) (a : Reg) (m : Fin 8) (ty : Ty)
  /-- R158: Vector broadcast of column 0 to every column. -/
  | vsplatCol (d : Reg) (a : Reg) (m : Fin 8) (ty : Ty)
  /-- R145: Write of VSHAPE and rebuild of vm0. -/
  | vshape (a : ESrc)
  /-- R145: Read of VSHAPE into a scalar. -/
  | vshapeRd (d : Fin 8)
  /-- R188: Vector column permutation. -/
  | vperm (d : Reg) (a : Reg) (b : VSrc) (m : Fin 8) (ty : Ty)
  /-- R188: Vector row permutation. -/
  | vpermRows (d : Reg) (a : Reg) (b : VSrc) (m : Fin 8) (ty : Ty)
  /-- R189: Vector transpose of a square shape. -/
  | vxpose (d : Reg) (a : Reg) (m : Fin 8) (ty : Ty)
  /-- R190: Vector slide within rows with zero fill. -/
  | vslide (d : Reg) (a : Reg) (b : ESrc) (m : Fin 8) (ty : Ty)
  /-- R190: Vector rotate within rows. -/
  | vslideRot (d : Reg) (a : Reg) (b : ESrc) (m : Fin 8) (ty : Ty)
  /-- R190: Vector slide over flat positions. -/
  | vslideFlat (d : Reg) (a : Reg) (b : ESrc) (m : Fin 8) (ty : Ty)
  /-- R180: Vector tree sum reduction per group. -/
  | vredAdd (d : Reg) (a : Reg) (b : ESrc) (m : Fin 8) (ty : Ty) (g : Dir)
  /-- R180: Vector maximum reduction per group. -/
  | vredMax (d : Reg) (a : Reg) (b : ESrc) (m : Fin 8) (ty : Ty) (g : Dir)
  /-- R180: Vector minimum reduction per group. -/
  | vredMin (d : Reg) (a : Reg) (b : ESrc) (m : Fin 8) (ty : Ty) (g : Dir)
  /-- R181: Vector index and value of the group maximum. -/
  | vridxMax (d : Reg) (a : Reg) (b : ESrc) (m : Fin 8) (ty : Ty) (g : Dir)
  /-- R181: Vector index and value of the group minimum. -/
  | vridxMin (d : Reg) (a : Reg) (b : ESrc) (m : Fin 8) (ty : Ty) (g : Dir)
  /-- R182: Vector prefix sum per group. -/
  | vscanAdd (d : Reg) (a : Reg) (b : ESrc) (m : Fin 8) (ty : Ty) (g : Dir)
  /-- R182: Vector prefix maximum per group. -/
  | vscanMax (d : Reg) (a : Reg) (b : ESrc) (m : Fin 8) (ty : Ty) (g : Dir)
  /-- R182: Vector prefix minimum per group. -/
  | vscanMin (d : Reg) (a : Reg) (b : ESrc) (m : Fin 8) (ty : Ty) (g : Dir)
  /-- R184: Vector mean-and-variance normalisation per group. -/
  | vnormMs (d : Reg) (a : Reg) (b : ESrc) (m : Fin 8) (ty : Ty) (g : Dir)
  /-- R184: Vector root-mean-square normalisation per group. -/
  | vnormRms (d : Reg) (a : Reg) (b : ESrc) (m : Fin 8) (ty : Ty) (g : Dir)
  /-- R185: Vector base-2 softmax per group. -/
  | vsmax (d : Reg) (a : Reg) (b : ESrc) (m : Fin 8) (ty : Ty) (g : Dir)
  /-- R187: Vector Hadamard transform over column blocks. -/
  | vhad (d : Reg) (a : Reg) (m : Fin 8) (ty : Ty) (n : Bool) (k : Fin 8)
  /-- R146: Write of a pointer register. -/
  | vaset (n : Fin 8) (a : ESrc)
  /-- R146: Write of a window start. -/
  | vasetWst (n : Fin 8) (a : ESrc)
  /-- R146: Write of a window length. -/
  | vasetWlen (n : Fin 8) (a : ESrc)
  /-- R146: Read of a pointer into a scalar. -/
  | vasetRd (d : Fin 8) (a : Fin 8)
  /-- R147: Pointer add through its window. -/
  | vaadd (n : Fin 8) (a : ESrc)
  /-- R171: Read of a field of the running token. -/
  | vtokr (d : Fin 8) (f : Fin 6)
  /-- R172: Early end of the token when a mask is empty. -/
  | veop (a : Fin 8)
  /-- R192: CRC-32C digest check of a register, raising TESTBAR_MISMATCH. -/
  | vchk (a : Reg) (b : ESrc)
  /-- R192: CRC-32C digest of a register into a scalar. -/
  | vchkRd (d : Fin 8) (a : Reg)
  /-- R173: Scalar set from an operand. -/
  | vlit (d : Fin 8) (a : ESrc)
  /-- R173: Scalar add. -/
  | vlitAdd (d : Fin 8) (a : ESrc)
  /-- R173: Scalar subtract. -/
  | vlitSub (d : Fin 8) (a : ESrc)
  /-- R229: Sequencer ALU add. -/
  | percoAdd (d : Reg) (a : Src) (b : Src) (ty : Ty)
  /-- R229: Sequencer ALU subtract. -/
  | percoSub (d : Reg) (a : Src) (b : Src) (ty : Ty)
  /-- R229: Sequencer ALU multiply. -/
  | percoMul (d : Reg) (a : Src) (b : Src) (ty : Ty)
  /-- R229: Sequencer ALU and. -/
  | percoAnd (d : Reg) (a : Src) (b : Src) (ty : Ty)
  /-- R229: Sequencer ALU or. -/
  | percoOr (d : Reg) (a : Src) (b : Src) (ty : Ty)
  /-- R229: Sequencer ALU xor. -/
  | percoXor (d : Reg) (a : Src) (b : Src) (ty : Ty)
  /-- R229: Sequencer ALU shift left. -/
  | percoShl (d : Reg) (a : Src) (b : Src) (ty : Ty)
  /-- R229: Sequencer ALU logical shift right. -/
  | percoShr (d : Reg) (a : Src) (b : Src) (ty : Ty)
  /-- R229: Sequencer ALU signed minimum. -/
  | percoMin (d : Reg) (a : Src) (b : Src) (ty : Ty)
  /-- R229: Sequencer ALU signed maximum. -/
  | percoMax (d : Reg) (a : Src) (b : Src) (ty : Ty)
  /-- R229: Sequencer ALU unsigned minimum. -/
  | percoMinUnsigned (d : Reg) (a : Src) (b : Src) (ty : Ty)
  /-- R229: Sequencer ALU unsigned maximum. -/
  | percoMaxUnsigned (d : Reg) (a : Src) (b : Src) (ty : Ty)
  /-- R229: Sequencer load immediate. -/
  | percoLi (d : Reg) (v : LiVal)
  /-- R230: Sequencer sign-extending runner-store load. -/
  | percoLd (d : Reg) (a : Src) (size : BitVec 2) (ofs : BitVec 10)
  /-- R230: Sequencer runner-store store. -/
  | percoSt (x : Src) (a : Src) (size : BitVec 2) (ofs : BitVec 10)
  /-- R231: Sequencer branch if equal. -/
  | percoBeq (x : Src) (y : Src) (ofs : BitVec 16)
  /-- R231: Sequencer branch if not equal. -/
  | percoBne (x : Src) (y : Src) (ofs : BitVec 16)
  /-- R231: Sequencer branch if less, signed. -/
  | percoBlt (x : Src) (y : Src) (ofs : BitVec 16)
  /-- R231: Sequencer branch if greater or equal, signed. -/
  | percoBge (x : Src) (y : Src) (ofs : BitVec 16)
  /-- R231: Sequencer PC-relative jump. -/
  | percoJ (ofs : BitVec 26)
  /-- R231: Sequencer call pushing the return address. -/
  | percoCall (ofs : BitVec 26)
  /-- R232: Sequencer hardware loop. -/
  | percoLoop (a : Src) (imm : BitVec 16)
  /-- R244: Sequencer issue of a COPY box. -/
  | copy (a : Src) (sy : Bool)
  /-- R245: Sequencer issue of a gather box. -/
  | gath (a : Src) (sy : Bool)
  /-- R245: Sequencer issue of a scatter box. -/
  | scat (a : Src) (sy : Bool)
  /-- R246: Sequencer issue of a transposing box. -/
  | xpose (a : Src) (sy : Bool)
  /-- R247: Sequencer issue of a converting box. -/
  | conv (a : Src) (sy : Bool)
  /-- R253: Sequencer issue of an entropy-inflation box. -/
  | infl (a : Src) (sy : Bool)
  /-- R250: Sequencer issue of a multicast box. -/
  | mcast (a : Src) (sy : Bool)
  /-- R249: Sequencer issue of an inline-reduce box. -/
  | red (a : Src) (sy : Bool)
  /-- R248: Sequencer issue of a fill box. -/
  | fill (a : Src) (sy : Bool)
  /-- R261: Sequencer start of a collective walker instance. -/
  | nest (a : Src) (sy : Bool)
  /-- R263: Sequencer abort of a collective instance. -/
  | abort (d : Reg) (a : Src)
  /-- R265: Sequencer release and flip of a dual-backed buffer header. -/
  | publish (a : Src) (b : Src) (sc : Scope)
  /-- R262: Sequencer read of a collective instance state. -/
  | seqst (d : Reg) (a : Src)
  /-- R255: Sequencer release and atomic add to a semaphore. -/
  | semadd (a : Src) (b : Src) (sc : Scope)
  /-- R256: Sequencer semaphore wait, subtract and acquire. -/
  | percoSemwait (a : Src) (b : Src) (sc : Scope)
  /-- R257: Sequencer wait for earlier boxes of masked classes. -/
  | percoFence (a : Src) (sc : Scope)
  /-- R258: Sequencer remote fetch-and-add. -/
  | percoRatomAdd (d : Reg) (a : Src) (b : Src) (ty : Ty)
  /-- R258: Sequencer remote atomic and. -/
  | percoRatomAnd (d : Reg) (a : Src) (b : Src) (ty : Ty)
  /-- R258: Sequencer remote atomic or. -/
  | percoRatomOr (d : Reg) (a : Src) (b : Src) (ty : Ty)
  /-- R258: Sequencer remote atomic xor. -/
  | percoRatomXor (d : Reg) (a : Src) (b : Src) (ty : Ty)
  /-- R258: Sequencer remote atomic signed minimum. -/
  | percoRatomMin (d : Reg) (a : Src) (b : Src) (ty : Ty)
  /-- R258: Sequencer remote atomic signed maximum. -/
  | percoRatomMax (d : Reg) (a : Src) (b : Src) (ty : Ty)
  /-- R258: Sequencer remote atomic unsigned minimum. -/
  | percoRatomMinu (d : Reg) (a : Src) (b : Src) (ty : Ty)
  /-- R258: Sequencer remote atomic unsigned maximum. -/
  | percoRatomMaxu (d : Reg) (a : Src) (b : Src) (ty : Ty)
  /-- R258: Sequencer remote atomic swap. -/
  | percoRatomSwap (d : Reg) (a : Src) (b : Src) (ty : Ty)
  /-- R258: Sequencer remote compare-and-swap. -/
  | percoRatomCas (d : Reg) (a : Src) (b : Src) (ty : Ty)
  /-- R259: Sequencer release and spurious wake of every watcher of a line. -/
  | wakea (a : Src) (sc : Scope)
  /-- R266: Drop of one page's translation on all runner dies. -/
  | tlbinv (a : Src) (b : Src)
  /-- R266: Drop of every translation of a context. -/
  | tlbinvCtx (a : Src) (b : Src)
  /-- R267: Check of a translation, returning the cause it would raise. -/
  | mapchk (d : Reg) (a : Src) (b : Src) (sup : Bool) (wr : Bool)
  /-- R268: Continuation of suspended work by record identifier. -/
  | resume (d : Reg) (a : Src)
  /-- R268: Ending of suspended work by record identifier. -/
  | resumeDrop (d : Reg) (a : Src)
  /-- R269: Cancellation of all runner work of a context, with drain. -/
  | killctx (d : Reg) (a : Src)
  /-- R270: Sequencer USER_TRAP record and suspension. -/
  | percoTrap (imm : BitVec 16)
  /-- R226: Sequencer read of a system register. -/
  | percoSysrd (d : Reg) (r : BitVec 12)
  /-- R226: Sequencer privileged write of a system register. -/
  | percoSyswr (a : Src) (r : BitVec 12)
  /-- R50: A stream fetches a word whose major, or whose SUB in a group major, is unassigned, and decodes it to
  ILLEGAL_OPCODE. -/
  | unassignedEncoding (st : Strm) (w : W32)
  /-- R278: Vector engine takes the head token, fills its segment buffer and writes e0-e3 and vm0. -/
  | tokenStart (c : CoreId)
  /-- R154: Uncorrectable check found when a vector word is served; issue stops. -/
  | vectorLoadEcc (c : CoreId)
  /-- R290: Vector engine, after earlier writes land, writes VFAULT, ends the token and reports to the stem. -/
  | vectorFaultReport (c : CoreId)
  /-- R291: Stem takes a held engine fault at its next instruction boundary. -/
  | engineFaultTrap (c : CoreId)
  /-- R132: A stem wait exceeds the grain's watchdog interval. -/
  | watchdog (c : CoreId)
  /-- R111: The home's reply to a WAITA reaches the stem, which writes D and acquires. -/
  | waitaReply (c : CoreId)
  /-- R111: The stem's WAITA timeout expires and it cancels the watch. -/
  | waitaTimeout (c : CoreId)
  /-- R111: The home reads the watched word and installs a watch or replies at once. -/
  | watchInstall (c : CoreId)
  /-- R121: A remote atomic performs indivisibly at its home and replies. -/
  | ratomAtHome (c : CoreId) (i : Nat)
  /-- R121: A remote atomic's reply arrives and writes D, or the saved record. -/
  | ratomReply (c : CoreId) (i : Nat)
  /-- R200: The matrix engine takes the queue head, performs its carried wait and reads GFMT. -/
  | matrixCommandStart (c : CoreId)
  /-- R210: A chunk of an MMA or MMAS completes its exact sum and updates the mould or output. -/
  | mmaChunk (c : CoreId)
  /-- R214: Emission to a tile once it is EMPTY, marking it FULL, then any signal. -/
  | tileEmit (c : CoreId)
  /-- R220: Detection of a mould or array error starts command window replay. -/
  | mouldParity (c : CoreId)
  /-- R287: A bank-side queue request is served in a granted S slot. -/
  | bankSideService (c : CoreId) (b : Fin 128)
  /-- R323: Corrected scratchpad word written back in the next granted S slot. -/
  | eccWriteback (c : CoreId) (wd : Nat)
  /-- R364: A probe fill's last word performs and the slot becomes valid. -/
  | probeFillComplete (d : DieId) (i : Nat)
  /-- R223: The start-queue head goes to an idle sequencer with initial state. -/
  | sequencerStart (d : DieId)
  /-- R227: A sequencer wait exceeds WDOG, posts WATCHDOG and suspends. -/
  | percoWatchdog (d : DieId) (n : Fin 16)
  /-- R238: A runner die takes a post and applies acceptance checks to an XFER box. -/
  | postAccept (c : CoreId) (hi : Bool)
  /-- R238: A copy engine starts a box and applies the start checks. -/
  | boxStart (d : DieId) (mid : W32)
  /-- R241: A copy engine translates and writes one element, suspending on a fault. -/
  | boxElement (d : DieId) (mid : W32)
  /-- R355: A held record is posted when room appears in the fault queue. -/
  | overflowRecordPost (d : DieId)
  /-- R242: After its last write performs a box releases at SCOPE and adds its credit. -/
  | boxComplete (d : DieId) (mid : W32)
  /-- R261: The collective walker emits the box of the next iteration point. -/
  | walkerEmit (d : DieId) (i : Nat)
  /-- R265: After the release, the header flip is performed at the header's home. -/
  | publishFlip (d : DieId) (n : Fin 16)
  /-- R358: Every request of a killed context answered; KILL record posted and count returned. -/
  | killctxDrainDone (d : DieId) (n : Fin 16)
  /-- R358: A far package marks its homes killed and answers after earlier arrivals settle. -/
  | killMessage (pkg : BitVec 12) (ctx : BitVec 16)
  /-- R363: An HBM controller receives and serves a request, setting any deadline. -/
  | hbmRequest (d : DieId) (i : Nat)
  /-- R363: A deadline request becomes urgent 64 cycles before its deadline. -/
  | deadlineUrgent (d : DieId) (i : Nat)
  /-- R296: The scheduler reads and accepts or refuses the next user queue entry. -/
  | queueEntryRead (k : Fin 64)
  /-- R306: A waiting record's counters reach their targets and it becomes READY. -/
  | nestReady (id : Nat)
  /-- R302: After image copies, the core reset and grain start values are set and the stem begins. -/
  | grainStart (c : CoreId)
  /-- R308: After the last grain ends, release and write of the completion word. -/
  | nestDone (id : Nat)
  /-- R310: The spill queue head enters the child pool when a record frees. -/
  | spillEntryTaken (d : DieId)
  /-- R311: The scheduler sends a pre-emption request and the core's streams stop. -/
  | preemptRequest (c : CoreId)
  /-- R312: The halt point is reached; drain and collective aborts begin. -/
  | coreHalted (c : CoreId)
  /-- R313: The save record is in memory and the grain is SAVED. -/
  | saveComplete (c : CoreId)
  /-- R313: The restore finishes and the stem's first instruction issues. -/
  | restoreComplete (c : CoreId)
  /-- R396: A data flit arrives and is delivered or discarded with ACK or NAK. -/
  | flitReceived (l : LinkId) (up : Bool) (bad : Bool)
  /-- R396: A cumulative acknowledgement frees replay-buffer flits. -/
  | ackReceived (l : LinkId) (up : Bool)
  /-- R396: A NAK frees earlier flits and starts resending from its FSEQ. -/
  | nakReceived (l : LinkId) (up : Bool)
  /-- R396: An acknowledgement-only flit is sent within 8 cycles on an idle direction. -/
  | ackFlitSend (l : LinkId) (up : Bool)
  /-- R396: The oldest unacknowledged flit waits 256 cycles and is resent. -/
  | replayTimeout (l : LinkId) (up : Bool)
  /-- R398: Lane test ends; the direction comes up at half width or goes down. -/
  | retrainDone (l : LinkId) (up : Bool)
  /-- R409: A Yunan port goes down and windows on it resend on the next route. -/
  | yunanPortDown (p : Fin 16)
  /-- R408: A far end handles an arriving request by its WSEQ. -/
  | farEndRequest (d : DieId) (q : FarReq)
  /-- R409: The source receives NAK(w) and resends from w. -/
  | endToEndNak (d : DieId) (pkg : BitVec 12) (ws : W32)
  /-- R409: The oldest unanswered window request waits RETRY and is resent or the window closes. -/
  | windowRetryTimeout (d : DieId) (pkg : BitVec 12)
  /-- R409: The far end receives a close, replies with its expected WSEQ and takes the new EPOCH. -/
  | windowClose (d : DieId) (pkg : BitVec 12) (sd : DieId) (ep : BitVec 8)
  /-- R409: The close reply settles each unanswered request and the EPOCH advances. -/
  | closeReply (d : DieId) (pkg : BitVec 12) (expected : W32) (results : List (W32 × Word))
  /-- R409: No close reply within 200 us: unanswered requests get LINK_TIMEOUT. -/
  | closeTimeout (d : DieId) (pkg : BitVec 12)
  /-- R411: A reply or acknowledgement reaches the source end of a window. -/
  | endToEndReply (d : DieId) (pkg : BitVec 12) (ws : W32) (val : Word) (poison : Bool)
  /-- R371: An abort request reaches the resolver and opens or joins the round. -/
  | abortRequest (q : AbortReq)
  /-- R372: A settle at a header home seals it or finds it committed. -/
  | settle (ctx : BitVec 16) (sq : W32) (rank : Nat)
  /-- R372: A stop moves the walker instance to aborting. -/
  | stop (d : DieId) (ctx : BitVec 16) (sq : W32)
  /-- R373: With every settle answered, the resolver decides aborted or starts repair. -/
  | abortOutcome (ctx : BitVec 16) (sq : W32)
  /-- R373: After a repair copy and pod release, a sealed rank's header flips. -/
  | repairFlip (ctx : BitVec 16) (sq : W32) (rank : Nat)
  /-- R375: A die receives an outcome and changes the instance state. -/
  | outcomeReceived (d : DieId) (ctx : BitVec 16) (sq : W32) (o : Fin 3)
  /-- R378: KILLCTX stops awaiting open collective rounds after 40 ms. -/
  | roundDrainTimeout (d : DieId) (n : Fin 16)
  /-- R415: A unit's event count reaches its threshold and it is retired. -/
  | automaticRetirement (u : UnitRef)
  /-- R432: A die reaches 105 degrees C; THERMAL is reported and cores halt. -/
  | thermal (die : Fin 8)
  /-- R432: A rail leaves its range; VOLTAGE is reported and cores halt. -/
  | voltage (rail : Fin 32)
  /-- R426: Function-level reset of a virtual function. -/
  | flr (f : Fin 17)
  /-- R422: A doorbell write starts the read of the next submission entry. -/
  | doorbell (f : Fin 17) (v : W32)
  /-- R423: The host acknowledges completions, releasing held ones. -/
  | cack (f : Fin 17) (v : Word)
  /-- R422: Map a queue into a slot after translating its descriptor. -/
  | mapq (f : Fin 17)
  /-- R422: Unmap a queue from a slot. -/
  | unmapq (f : Fin 17)
  /-- R422: Write a context table entry. -/
  | setctx (f : Fin 17)
  /-- R315: Kill a context on the host's order. -/
  | kill (f : Fin 17)
  /-- R429: Copy the heartwood table to a host buffer. -/
  | hwread (f : Fin 17)
  /-- R309: Quarantine a physical quad. -/
  | quarantine (f : Fin 17)
  /-- R422: Host submission that completes and then starts a warm reset. -/
  | warmreset (f : Fin 17)
  /-- R427: Check and write a signed image into the unbooted flash bank. -/
  | fwload (f : Fin 17)
  /-- R298: Writing MAPPED = 1 reads the descriptor and serves any gap. -/
  | slotMap (k : Fin 64)
  /-- R298: Writing MAPPED = 0 stops reading entries. -/
  | slotUnmap (k : Fin 64)
  /-- R298: A notify write updates the queue's WRIDX mirror and sets WAKEPEND. -/
  | notify (f : Fin 17) (k : Fin 64) (v : Word)
  /-- R310: A write of CHILDQd taking effect only while the spill ring is empty. -/
  | childqWrite (d : DieId) (v : Word)
  /-- R434: A write of PKGID, ignored while Yunan traffic is enabled. -/
  | pkgidWrite (v : Word)
  /-- R419: A host write of a window register that has no behaviour of its own. -/
  | registerWrite (f : Fin 17) (off : Nat) (v : Word)
  /-- R414: A host read of global memory, poisoned data completing as poisoned. -/
  | hostRead (pa : Nat) (n : Nat)
  /-- R320: A host write of global memory performed at its home. -/
  | hostWrite (pa : Nat) (bytes : List Byte)
  /-- R428: SPDM GET_VERSION request. -/
  | getVersion (q : SpdmReq)
  /-- R428: SPDM GET_CAPABILITIES request. -/
  | getCapabilities (q : SpdmReq)
  /-- R428: SPDM NEGOTIATE_ALGORITHMS request. -/
  | negotiateAlgorithms (q : SpdmReq)
  /-- R428: SPDM GET_DIGESTS request. -/
  | getDigests (q : SpdmReq)
  /-- R428: SPDM GET_CERTIFICATE request. -/
  | getCertificate (q : SpdmReq)
  /-- R428: SPDM CHALLENGE request. -/
  | challenge (q : SpdmReq)
  /-- R428: SPDM GET_MEASUREMENTS request. -/
  | getMeasurements (q : SpdmReq)
  /-- R428: SPDM KEY_EXCHANGE request. -/
  | keyExchange (q : SpdmReq)
  /-- R428: SPDM FINISH request. -/
  | finish (q : SpdmReq)
  /-- R200: A chunkless matrix command such as MTLD, MTST, MCLR, MTBAR or MFMT finishes its work after its cycles of
  Table 06-9 and performs its carried signal. -/
  | matrixCommandComplete (c : CoreId)
  /-- R432: A die that was halted at 105 degrees C falls below 95 degrees C and its cores resume. -/
  | thermalRecovery (die : Fin 8)
  /-- R432: A rail that left its ±5 % range returns to it, and the cores halted by VOLTAGE resume. -/
  | voltageRecovery (rail : Fin 32)
  /-- R96: Stem pop of the return stack and jump. -/
  | ret
  /-- R100: Stem pop of the innermost loop, jumping to its END. -/
  | lbrk
  /-- R125: Stem invalidation of every probe slot. -/
  | cinvAll
  /-- R129: Stem return from trap to TRAPPC with SUP := PSUP. -/
  | eret
  /-- R131: Stem halt: drain queues and return the core to the scheduler. -/
  | halt
  /-- R131: Stem no operation. -/
  | nop
  /-- R131: Stem offer of a pre-emption point to the scheduler. -/
  | yield
  /-- R113: Stem discard of fetched words and refetch. -/
  | ifence
  /-- R118: Stem wait until the vector engine is drained. -/
  | vsync
  /-- R128: Stem wait for engines, replies and posts, then end of the grain. -/
  | grainend
  /-- R216: Stem wait until the matrix queue is empty and complete. -/
  | msync
  /-- R170: End of the current iteration of a token. -/
  | vend
  /-- R170: Vector no operation for one cycle. -/
  | vnop
  /-- R231: Sequencer return. -/
  | percoRet
  /-- R266: Drop of every translation. -/
  | tlbinvAll
  /-- R270: End of the runner program. -/
  | percoHalt
  /-- R270: Sequencer no operation. -/
  | percoNop
  /-- R305: A free logical core takes the next grain of the highest-priority ready record. -/
  | grainDispatch
  /-- R432: Each millisecond the crown-die clock steps down or back up. -/
  | clockStep
  /-- R425: Power-on or PERST# resets the part and the root of trust boots. -/
  | coldReset
  /-- R425: A hot reset of function 0 resets the part and recomputes the configuration. -/
  | warmReset
  /-- R425: All links and PHYs have trained and MEMREADY is set. -/
  | memready
  deriving DecidableEq, Repr, Inhabited

end Sys2Proof
end

