-- ==== Sys2Proof/WellFormed.lean ====
section
/-! DEFINITION. Which instructions have an encoding: at most one literal, a literal of 64 bits only where R89 and
R228 allow one, a type that the row accepts, and operands that the row's fields can hold (R21-R24, R50). -/

namespace Sys2Proof

/-- At most one field names a literal (R22). -/
def oneLit (a b : Src) : Bool := !(a.isLit && b.isLit)
def oneLit3 (a b c : Src) : Bool := oneLit a b && oneLit a c && oneLit b c
def oneV (a b : VSrc) : Bool := !(a.isLit && b.isLit)
def oneE (a b : ESrc) : Bool := !(a.isLit && b.isLit)
def oneVE (a : VSrc) (b : ESrc) : Bool := !(a.isLit && b.isLit)
/-- No 64-bit literal (W = 1 is not accepted). -/
def narrow (a : Src) : Bool := !a.isWide
/-- A 64-bit literal needs TYPE 14 (R89). -/
def wide64 (a b : Src) (ty : Ty) : Bool := !(a.isWide || b.isWide) || ty == .i64

/-- The assigned stem system registers (Table 01-11). -/
def stemSysNum (n : Nat) : Bool := n ≤ 0x00B || (0x010 ≤ n && n ≤ 0x013) || (0x018 ≤ n && n ≤ 0x01F)
/-- The assigned sequencer system registers (Table 07-2). -/
def percoSysNum (n : Nat) : Bool := n ≤ 0x004

/-- The registers a TOKEN carries lie in x0-x30, and D is 0 when it carries none (R115). -/
def tokenRegs (d : Fin 32) (n : Fin 5) : Bool := if n.val = 0 then d.val == 0 else d.val + n.val ≤ 31

/-- Encodable (events have no encoding and are well formed as they stand). -/
def Instr.wf (i : Instr) : Bool :=
  match i with
  | .add _ a b ty => oneLit a b && wide64 a b ty && ty.isInt
  | .sub _ a b ty => oneLit a b && wide64 a b ty && ty.isInt
  | .mul _ a b ty => oneLit a b && wide64 a b ty && ty.isInt
  | .mulh _ a b ty => oneLit a b && wide64 a b ty && ty.isInt
  | .div _ a b ty => oneLit a b && wide64 a b ty && ty.isInt
  | .rem _ a b ty => oneLit a b && wide64 a b ty && ty.isInt
  | .and _ a b ty => oneLit a b && wide64 a b ty && ty.isInt
  | .or _ a b ty => oneLit a b && wide64 a b ty && ty.isInt
  | .xor _ a b ty => oneLit a b && wide64 a b ty && ty.isInt
  | .shl _ a b ty => oneLit a b && wide64 a b ty && ty.isInt
  | .shr _ a b ty => oneLit a b && wide64 a b ty && ty.isInt
  | .sra _ a b ty => oneLit a b && wide64 a b ty && ty.isInt
  | .min _ a b ty => oneLit a b && wide64 a b ty && ty.isInt
  | .max _ a b ty => oneLit a b && wide64 a b ty && ty.isInt
  | .slt _ a b ty => oneLit a b && wide64 a b ty && ty.isInt
  | .sltu _ a b ty => oneLit a b && wide64 a b ty && ty.isInt
  | .madd _ a b ty => oneLit a b && wide64 a b ty && ty.isInt
  | .clz _ a ty => wide64 a a ty && ty.isInt
  | .popc _ a ty => wide64 a a ty && ty.isInt
  | .mulhUnsigned _ a b ty => oneLit a b && wide64 a b ty && ty.isInt
  | .divUnsigned _ a b ty => oneLit a b && wide64 a b ty && ty.isInt
  | .remUnsigned _ a b ty => oneLit a b && wide64 a b ty && ty.isInt
  | .minUnsigned _ a b ty => oneLit a b && wide64 a b ty && ty.isInt
  | .maxUnsigned _ a b ty => oneLit a b && wide64 a b ty && ty.isInt
  | .li _ _ => true
  | .beq x y _ => oneLit x y && narrow x && narrow y
  | .bne x y _ => oneLit x y && narrow x && narrow y
  | .blt x y _ => oneLit x y && narrow x && narrow y
  | .bge x y _ => oneLit x y && narrow x && narrow y
  | .bltu x y _ => oneLit x y && narrow x && narrow y
  | .bgeu x y _ => oneLit x y && narrow x && narrow y
  | .j _ => true
  | .jal _ => true
  | .jr a => narrow a
  | .jrCall a => narrow a
  | .loop a _ => narrow a
  | .mvlc _ a => narrow a
  | .mvlcRead _ _ => true
  | .ld _ a _ _ _ => narrow a
  | .ldZeroExtending _ a _ size _ => narrow a && size != 3
  | .st x a _ _ _ => oneLit x a && narrow x && narrow a
  | .amoAdd _ a b ty => oneLit a b && wide64 a b ty && ty.isInt
  | .amoAnd _ a b ty => oneLit a b && wide64 a b ty && ty.isInt
  | .amoOr _ a b ty => oneLit a b && wide64 a b ty && ty.isInt
  | .amoXor _ a b ty => oneLit a b && wide64 a b ty && ty.isInt
  | .amoMin _ a b ty => oneLit a b && wide64 a b ty && ty.isInt
  | .amoMax _ a b ty => oneLit a b && wide64 a b ty && ty.isInt
  | .amoMinu _ a b ty => oneLit a b && wide64 a b ty && ty.isInt
  | .amoMaxu _ a b ty => oneLit a b && wide64 a b ty && ty.isInt
  | .amoSwap _ a b ty => oneLit a b && wide64 a b ty && ty.isInt
  | .cas _ a b ty => oneLit a b && wide64 a b ty && ty.isInt
  | .semwait a b _ => oneLit a b && narrow a && narrow b
  | .sempost a b _ => oneLit a b && narrow a && narrow b
  | .waita _ a b ty _ => oneLit a b && narrow a && narrow b && (ty == .i32 || ty == .i64)
  | .fence a _ => narrow a
  | .bar a _ => narrow a
  | .token d n a b => oneLit a b && tokenRegs d n
  | .twait _ => true
  | .xfer a _ => narrow a
  | .rcall a b _ => oneLit a b
  | .ratomAdd _ a b ty => oneLit a b && wide64 a b ty && (ty == .i32 || ty == .i64)
  | .ratomAnd _ a b ty => oneLit a b && wide64 a b ty && (ty == .i32 || ty == .i64)
  | .ratomOr _ a b ty => oneLit a b && wide64 a b ty && (ty == .i32 || ty == .i64)
  | .ratomXor _ a b ty => oneLit a b && wide64 a b ty && (ty == .i32 || ty == .i64)
  | .ratomMin _ a b ty => oneLit a b && wide64 a b ty && (ty == .i32 || ty == .i64)
  | .ratomMax _ a b ty => oneLit a b && wide64 a b ty && (ty == .i32 || ty == .i64)
  | .ratomMinu _ a b ty => oneLit a b && wide64 a b ty && (ty == .i32 || ty == .i64)
  | .ratomMaxu _ a b ty => oneLit a b && wide64 a b ty && (ty == .i32 || ty == .i64)
  | .ratomSwap _ a b ty => oneLit a b && wide64 a b ty && (ty == .i32 || ty == .i64)
  | .ratomCas _ a b ty => oneLit a b && wide64 a b ty && (ty == .i32 || ty == .i64)
  | .probe _ a _ => narrow a
  | .pwait a => narrow a
  | .pin a => narrow a
  | .unpin a => narrow a
  | .cinv a => narrow a
  | .shld _ a => narrow a
  | .shinv _ => true
  | .launch a => narrow a
  | .trap _ => true
  | .sysrd _ r => stemSysNum r.toNat
  | .syswr a r => narrow a && stemSysNum r.toNat
  | .rdcyc _ => true
  | .mma c a b _ => oneLit3 c a b
  | .mmas c a b _ => oneLit3 c a b
  | .mclr _ => true
  | .memit _ _ _ => true
  | .mtld _ a => narrow a
  | .mtst _ a => narrow a
  | .mtbar a b => oneLit a b && narrow a && narrow b
  | .mfmt _ _ => true
  | .mwait a b _ => oneLit a b && narrow a && narrow b
  | .msig a b _ => oneLit a b && narrow a && narrow b
  | .vadd _ a b _ ty _ => oneV a b && (ty.isFloat)
  | .vsub _ a b _ ty _ => oneV a b && (ty.isFloat)
  | .vmul _ a b _ ty _ => oneV a b && (ty.isFloat)
  | .vfma _ a b _ ty _ => oneV a b && (ty.isFloat)
  | .vmin _ a b _ ty => oneV a b && (ty.isFloat)
  | .vmax _ a b _ ty => oneV a b && (ty.isFloat)
  | .vexp2 _ _ _ ty => (ty.isFloat)
  | .vlog2 _ _ _ ty => (ty.isFloat)
  | .vrcp _ _ _ ty => (ty.isFloat)
  | .vrsq _ _ _ ty => (ty.isFloat)
  | .vtanh _ _ _ ty => (ty.isFloat)
  | .viadd _ a b _ ty _ _ => oneV a b && (ty.isInt && ty != .i64)
  | .visub _ a b _ ty _ _ => oneV a b && (ty.isInt && ty != .i64)
  | .vimul _ a b _ ty _ _ => oneV a b && (ty.isInt && ty != .i64)
  | .vimad _ a b _ ty _ _ => oneV a b && (ty.isInt && ty != .i64)
  | .vand _ a b _ ty => oneV a b && (ty.isInt && ty != .i64)
  | .vor _ a b _ ty => oneV a b && (ty.isInt && ty != .i64)
  | .vxor _ a b _ ty => oneV a b && (ty.isInt && ty != .i64)
  | .vshl _ a b _ ty => oneV a b && (ty.isInt && ty != .i64)
  | .vshr _ a b _ ty => oneV a b && (ty.isInt && ty != .i64)
  | .vsra _ a b _ ty => oneV a b && (ty.isInt && ty != .i64)
  | .vimin _ a b _ ty _ => oneV a b && (ty.isInt && ty != .i64)
  | .vimax _ a b _ ty _ => oneV a b && (ty.isInt && ty != .i64)
  | .vcmp d a b _ ty u c => oneV a b && ((ty.isFloat || ty.isInt) && ty != .i64) && d != 0 && (!ty.isInt || c.val < 6) && (!u || ty.isInt)
  | .vsel _ a b m ty => oneV a b && (ty != .i64) && m != 0
  | .vmopAnd d _ _ => d != 0
  | .vmopOr d _ _ => d != 0
  | .vmopXor d _ _ => d != 0
  | .vmopAndn d _ _ => d != 0
  | .vmopNot d _ => d != 0
  | .vmopOnes d => d != 0
  | .vmopZeros d => d != 0
  | .vmopCopy d _ => d != 0
  | .vmpop _ _ => true
  | .vmpopFirst _ _ => true
  | .vcvt _ _ sty su _ ty du _ => (ty != .i64) && sty != .i64 && (!su || sty.isInt) && (!du || ty.isInt)
  | .vquant d _ s _ ty _ => (ty.code.toNat < 8) && s != d
  | .vdeq _ _ _ _ ty => (ty.code.toNat < 8)
  | .vrnd _ _ _ ty r => (ty.isFloat) && r != .rsr
  | .vsacc _ _ _ _ => true
  | .vld _ _ _ _ ty _ => (ty != .i64)
  | .vldRagged _ _ _ _ ty _ _ => (ty != .i64)
  | .vst x _ b _ ty _ => (ty != .i64) && oneVE x b
  | .vstRagged x _ b _ ty _ _ => (ty != .i64) && oneVE x b
  | .vldb _ _ _ ty => (ty != .i64)
  | .vldbPf _ _ _ ty => (ty != .i64)
  | .vgath _ _ _ _ ty _ => (ty != .i64)
  | .vscat x _ b _ ty _ => (ty != .i64) && oneV x b
  | .vtrd _ _ _ _ ty => (ty == .f32 || ty == .i32)
  | .vtrel _ => true
  | .vmov _ _ _ ty => (ty != .i64)
  | .vmovIns _ a b ty => (ty != .i64) && oneE a b
  | .vmovExt _ _ _ ty => (ty != .i64)
  | .vsplat _ _ _ ty => (ty != .i64)
  | .vsplatRow _ _ _ ty => (ty != .i64)
  | .vsplatCol _ _ _ ty => (ty != .i64)
  | .vshape _ => true
  | .vshapeRd _ => true
  | .vperm _ _ _ _ ty => (ty != .i64)
  | .vpermRows _ _ _ _ ty => (ty != .i64)
  | .vxpose _ _ _ ty => (ty != .i64)
  | .vslide _ _ _ _ ty => (ty != .i64)
  | .vslideRot _ _ _ _ ty => (ty != .i64)
  | .vslideFlat _ _ _ _ ty => (ty != .i64)
  | .vredAdd _ _ b _ ty g => ((ty.isFloat || ty.isInt) && ty != .i64) && (g.segmented || b == .reg 0)
  | .vredMax _ _ b _ ty g => ((ty.isFloat || ty.isInt) && ty != .i64) && (g.segmented || b == .reg 0)
  | .vredMin _ _ b _ ty g => ((ty.isFloat || ty.isInt) && ty != .i64) && (g.segmented || b == .reg 0)
  | .vridxMax d _ b _ ty g => (ty == .f32 || ty == .i32) && (g.segmented || b == .reg 0) && d != 30
  | .vridxMin d _ b _ ty g => (ty == .f32 || ty == .i32) && (g.segmented || b == .reg 0) && d != 30
  | .vscanAdd _ _ b _ ty g => ((ty.isFloat || ty.isInt) && ty != .i64) && (g.segmented || b == .reg 0)
  | .vscanMax _ _ b _ ty g => ((ty.isFloat || ty.isInt) && ty != .i64) && (g.segmented || b == .reg 0)
  | .vscanMin _ _ b _ ty g => ((ty.isFloat || ty.isInt) && ty != .i64) && (g.segmented || b == .reg 0)
  | .vnormMs _ _ b _ ty g => (ty.isFloat) && (g.segmented || b == .reg 0)
  | .vnormRms _ _ b _ ty g => (ty.isFloat) && (g.segmented || b == .reg 0)
  | .vsmax _ _ b _ ty g => (ty.isFloat) && (g.segmented || b == .reg 0)
  | .vhad _ _ _ ty _ k => (ty.isFloat) && k != 0
  | .vaset _ _ => true
  | .vasetWst _ _ => true
  | .vasetWlen _ _ => true
  | .vasetRd _ _ => true
  | .vaadd _ _ => true
  | .vtokr _ _ => true
  | .veop _ => true
  | .vchk _ _ => true
  | .vchkRd _ _ => true
  | .vlit _ _ => true
  | .vlitAdd _ _ => true
  | .vlitSub _ _ => true
  | .percoAdd _ a b ty => oneLit a b && wide64 a b ty && ty.isInt
  | .percoSub _ a b ty => oneLit a b && wide64 a b ty && ty.isInt
  | .percoMul _ a b ty => oneLit a b && wide64 a b ty && ty.isInt
  | .percoAnd _ a b ty => oneLit a b && wide64 a b ty && ty.isInt
  | .percoOr _ a b ty => oneLit a b && wide64 a b ty && ty.isInt
  | .percoXor _ a b ty => oneLit a b && wide64 a b ty && ty.isInt
  | .percoShl _ a b ty => oneLit a b && wide64 a b ty && ty.isInt
  | .percoShr _ a b ty => oneLit a b && wide64 a b ty && ty.isInt
  | .percoMin _ a b ty => oneLit a b && wide64 a b ty && ty.isInt
  | .percoMax _ a b ty => oneLit a b && wide64 a b ty && ty.isInt
  | .percoMinUnsigned _ a b ty => oneLit a b && wide64 a b ty && ty.isInt
  | .percoMaxUnsigned _ a b ty => oneLit a b && wide64 a b ty && ty.isInt
  | .percoLi _ _ => true
  | .percoLd _ a _ _ => narrow a
  | .percoSt x a _ _ => oneLit x a && narrow x && narrow a
  | .percoBeq x y _ => oneLit x y && narrow x && narrow y
  | .percoBne x y _ => oneLit x y && narrow x && narrow y
  | .percoBlt x y _ => oneLit x y && narrow x && narrow y
  | .percoBge x y _ => oneLit x y && narrow x && narrow y
  | .percoJ _ => true
  | .percoCall _ => true
  | .percoLoop a _ => narrow a
  | .copy _ _ => true
  | .gath _ _ => true
  | .scat _ _ => true
  | .xpose _ _ => true
  | .conv _ _ => true
  | .infl _ _ => true
  | .mcast _ _ => true
  | .red _ _ => true
  | .fill _ _ => true
  | .nest _ _ => true
  | .abort _ a => narrow a
  | .publish a b _ => oneLit a b && !b.isWide
  | .seqst _ a => narrow a
  | .semadd a b _ => oneLit a b && !b.isWide
  | .percoSemwait a b _ => oneLit a b && !b.isWide
  | .percoFence a _ => narrow a
  | .percoRatomAdd _ a b ty => oneLit a b && wide64 a b ty && (ty == .i32 || ty == .i64)
  | .percoRatomAnd _ a b ty => oneLit a b && wide64 a b ty && (ty == .i32 || ty == .i64)
  | .percoRatomOr _ a b ty => oneLit a b && wide64 a b ty && (ty == .i32 || ty == .i64)
  | .percoRatomXor _ a b ty => oneLit a b && wide64 a b ty && (ty == .i32 || ty == .i64)
  | .percoRatomMin _ a b ty => oneLit a b && wide64 a b ty && (ty == .i32 || ty == .i64)
  | .percoRatomMax _ a b ty => oneLit a b && wide64 a b ty && (ty == .i32 || ty == .i64)
  | .percoRatomMinu _ a b ty => oneLit a b && wide64 a b ty && (ty == .i32 || ty == .i64)
  | .percoRatomMaxu _ a b ty => oneLit a b && wide64 a b ty && (ty == .i32 || ty == .i64)
  | .percoRatomSwap _ a b ty => oneLit a b && wide64 a b ty && (ty == .i32 || ty == .i64)
  | .percoRatomCas _ a b ty => oneLit a b && wide64 a b ty && (ty == .i32 || ty == .i64)
  | .wakea _ _ => true
  | .tlbinv a b => oneLit a b && !b.isWide
  | .tlbinvCtx a b => oneLit a b && !b.isWide
  | .mapchk _ a b _ _ => oneLit a b && !b.isWide
  | .resume _ a => narrow a
  | .resumeDrop _ a => narrow a
  | .killctx _ a => narrow a
  | .percoTrap _ => true
  | .percoSysrd _ r => percoSysNum r.toNat
  | .percoSyswr a r => narrow a && percoSysNum r.toNat
  | .unassignedEncoding _ _ => true
  | .tokenStart _ => true
  | .vectorLoadEcc _ => true
  | .vectorFaultReport _ => true
  | .engineFaultTrap _ => true
  | .watchdog _ => true
  | .waitaReply _ => true
  | .waitaTimeout _ => true
  | .watchInstall _ => true
  | .ratomAtHome _ _ => true
  | .ratomReply _ _ => true
  | .matrixCommandStart _ => true
  | .mmaChunk _ => true
  | .tileEmit _ => true
  | .mouldParity _ => true
  | .bankSideService _ _ => true
  | .eccWriteback _ _ => true
  | .probeFillComplete _ _ => true
  | .sequencerStart _ => true
  | .percoWatchdog _ _ => true
  | .postAccept _ _ => true
  | .boxStart _ _ => true
  | .boxElement _ _ => true
  | .overflowRecordPost _ => true
  | .boxComplete _ _ => true
  | .walkerEmit _ _ => true
  | .publishFlip _ _ => true
  | .killctxDrainDone _ _ => true
  | .killMessage _ _ => true
  | .hbmRequest _ _ => true
  | .deadlineUrgent _ _ => true
  | .queueEntryRead _ => true
  | .nestReady _ => true
  | .grainStart _ => true
  | .nestDone _ => true
  | .spillEntryTaken _ => true
  | .preemptRequest _ => true
  | .coreHalted _ => true
  | .saveComplete _ => true
  | .restoreComplete _ => true
  | .flitReceived _ _ _ => true
  | .ackReceived _ _ => true
  | .nakReceived _ _ => true
  | .ackFlitSend _ _ => true
  | .replayTimeout _ _ => true
  | .retrainDone _ _ => true
  | .yunanPortDown _ => true
  | .farEndRequest _ _ => true
  | .endToEndNak _ _ _ => true
  | .windowRetryTimeout _ _ => true
  | .windowClose _ _ _ _ => true
  | .closeReply _ _ _ _ => true
  | .closeTimeout _ _ => true
  | .endToEndReply _ _ _ _ _ => true
  | .abortRequest _ => true
  | .settle _ _ _ => true
  | .stop _ _ _ => true
  | .abortOutcome _ _ => true
  | .repairFlip _ _ _ => true
  | .outcomeReceived _ _ _ _ => true
  | .roundDrainTimeout _ _ => true
  | .automaticRetirement _ => true
  | .thermal _ => true
  | .voltage _ => true
  | .flr _ => true
  | .doorbell _ _ => true
  | .cack _ _ => true
  | .mapq _ => true
  | .unmapq _ => true
  | .setctx _ => true
  | .kill _ => true
  | .hwread _ => true
  | .quarantine _ => true
  | .warmreset _ => true
  | .fwload _ => true
  | .slotMap _ => true
  | .slotUnmap _ => true
  | .notify _ _ _ => true
  | .childqWrite _ _ => true
  | .pkgidWrite _ => true
  | .registerWrite _ _ _ => true
  | .hostRead _ _ => true
  | .hostWrite _ _ => true
  | .getVersion _ => true
  | .getCapabilities _ => true
  | .negotiateAlgorithms _ => true
  | .getDigests _ => true
  | .getCertificate _ => true
  | .challenge _ => true
  | .getMeasurements _ => true
  | .keyExchange _ => true
  | .finish _ => true
  | .matrixCommandComplete _ => true
  | .thermalRecovery _ => true
  | .voltageRecovery _ => true
  | .ret => true
  | .lbrk => true
  | .cinvAll => true
  | .eret => true
  | .halt => true
  | .nop => true
  | .yield => true
  | .ifence => true
  | .vsync => true
  | .grainend => true
  | .msync => true
  | .vend => true
  | .vnop => true
  | .percoRet => true
  | .tlbinvAll => true
  | .percoHalt => true
  | .percoNop => true
  | .grainDispatch => true
  | .clockStep => true
  | .coldReset => true
  | .warmReset => true
  | .memready => true

/-- The stream whose words encode the instruction; none for an event. -/
def Instr.stream (i : Instr) : Option Strm :=
  match i with
  | .add _ _ _ _ => some .stem
  | .sub _ _ _ _ => some .stem
  | .mul _ _ _ _ => some .stem
  | .mulh _ _ _ _ => some .stem
  | .div _ _ _ _ => some .stem
  | .rem _ _ _ _ => some .stem
  | .and _ _ _ _ => some .stem
  | .or _ _ _ _ => some .stem
  | .xor _ _ _ _ => some .stem
  | .shl _ _ _ _ => some .stem
  | .shr _ _ _ _ => some .stem
  | .sra _ _ _ _ => some .stem
  | .min _ _ _ _ => some .stem
  | .max _ _ _ _ => some .stem
  | .slt _ _ _ _ => some .stem
  | .sltu _ _ _ _ => some .stem
  | .madd _ _ _ _ => some .stem
  | .clz _ _ _ => some .stem
  | .popc _ _ _ => some .stem
  | .mulhUnsigned _ _ _ _ => some .stem
  | .divUnsigned _ _ _ _ => some .stem
  | .remUnsigned _ _ _ _ => some .stem
  | .minUnsigned _ _ _ _ => some .stem
  | .maxUnsigned _ _ _ _ => some .stem
  | .li _ _ => some .stem
  | .beq _ _ _ => some .stem
  | .bne _ _ _ => some .stem
  | .blt _ _ _ => some .stem
  | .bge _ _ _ => some .stem
  | .bltu _ _ _ => some .stem
  | .bgeu _ _ _ => some .stem
  | .j _ => some .stem
  | .jal _ => some .stem
  | .jr _ => some .stem
  | .jrCall _ => some .stem
  | .loop _ _ => some .stem
  | .mvlc _ _ => some .stem
  | .mvlcRead _ _ => some .stem
  | .ld _ _ _ _ _ => some .stem
  | .ldZeroExtending _ _ _ _ _ => some .stem
  | .st _ _ _ _ _ => some .stem
  | .amoAdd _ _ _ _ => some .stem
  | .amoAnd _ _ _ _ => some .stem
  | .amoOr _ _ _ _ => some .stem
  | .amoXor _ _ _ _ => some .stem
  | .amoMin _ _ _ _ => some .stem
  | .amoMax _ _ _ _ => some .stem
  | .amoMinu _ _ _ _ => some .stem
  | .amoMaxu _ _ _ _ => some .stem
  | .amoSwap _ _ _ _ => some .stem
  | .cas _ _ _ _ => some .stem
  | .semwait _ _ _ => some .stem
  | .sempost _ _ _ => some .stem
  | .waita _ _ _ _ _ => some .stem
  | .fence _ _ => some .stem
  | .bar _ _ => some .stem
  | .token _ _ _ _ => some .stem
  | .twait _ => some .stem
  | .xfer _ _ => some .stem
  | .rcall _ _ _ => some .stem
  | .ratomAdd _ _ _ _ => some .stem
  | .ratomAnd _ _ _ _ => some .stem
  | .ratomOr _ _ _ _ => some .stem
  | .ratomXor _ _ _ _ => some .stem
  | .ratomMin _ _ _ _ => some .stem
  | .ratomMax _ _ _ _ => some .stem
  | .ratomMinu _ _ _ _ => some .stem
  | .ratomMaxu _ _ _ _ => some .stem
  | .ratomSwap _ _ _ _ => some .stem
  | .ratomCas _ _ _ _ => some .stem
  | .probe _ _ _ => some .stem
  | .pwait _ => some .stem
  | .pin _ => some .stem
  | .unpin _ => some .stem
  | .cinv _ => some .stem
  | .shld _ _ => some .stem
  | .shinv _ => some .stem
  | .launch _ => some .stem
  | .trap _ => some .stem
  | .sysrd _ _ => some .stem
  | .syswr _ _ => some .stem
  | .rdcyc _ => some .stem
  | .mma _ _ _ _ => some .stem
  | .mmas _ _ _ _ => some .stem
  | .mclr _ => some .stem
  | .memit _ _ _ => some .stem
  | .mtld _ _ => some .stem
  | .mtst _ _ => some .stem
  | .mtbar _ _ => some .stem
  | .mfmt _ _ => some .stem
  | .mwait _ _ _ => some .stem
  | .msig _ _ _ => some .stem
  | .vadd _ _ _ _ _ _ => some .vector
  | .vsub _ _ _ _ _ _ => some .vector
  | .vmul _ _ _ _ _ _ => some .vector
  | .vfma _ _ _ _ _ _ => some .vector
  | .vmin _ _ _ _ _ => some .vector
  | .vmax _ _ _ _ _ => some .vector
  | .vexp2 _ _ _ _ => some .vector
  | .vlog2 _ _ _ _ => some .vector
  | .vrcp _ _ _ _ => some .vector
  | .vrsq _ _ _ _ => some .vector
  | .vtanh _ _ _ _ => some .vector
  | .viadd _ _ _ _ _ _ _ => some .vector
  | .visub _ _ _ _ _ _ _ => some .vector
  | .vimul _ _ _ _ _ _ _ => some .vector
  | .vimad _ _ _ _ _ _ _ => some .vector
  | .vand _ _ _ _ _ => some .vector
  | .vor _ _ _ _ _ => some .vector
  | .vxor _ _ _ _ _ => some .vector
  | .vshl _ _ _ _ _ => some .vector
  | .vshr _ _ _ _ _ => some .vector
  | .vsra _ _ _ _ _ => some .vector
  | .vimin _ _ _ _ _ _ => some .vector
  | .vimax _ _ _ _ _ _ => some .vector
  | .vcmp _ _ _ _ _ _ _ => some .vector
  | .vsel _ _ _ _ _ => some .vector
  | .vmopAnd _ _ _ => some .vector
  | .vmopOr _ _ _ => some .vector
  | .vmopXor _ _ _ => some .vector
  | .vmopAndn _ _ _ => some .vector
  | .vmopNot _ _ => some .vector
  | .vmopOnes _ => some .vector
  | .vmopZeros _ => some .vector
  | .vmopCopy _ _ => some .vector
  | .vmpop _ _ => some .vector
  | .vmpopFirst _ _ => some .vector
  | .vcvt _ _ _ _ _ _ _ _ => some .vector
  | .vquant _ _ _ _ _ _ => some .vector
  | .vdeq _ _ _ _ _ => some .vector
  | .vrnd _ _ _ _ _ => some .vector
  | .vsacc _ _ _ _ => some .vector
  | .vld _ _ _ _ _ _ => some .vector
  | .vldRagged _ _ _ _ _ _ _ => some .vector
  | .vst _ _ _ _ _ _ => some .vector
  | .vstRagged _ _ _ _ _ _ _ => some .vector
  | .vldb _ _ _ _ => some .vector
  | .vldbPf _ _ _ _ => some .vector
  | .vgath _ _ _ _ _ _ => some .vector
  | .vscat _ _ _ _ _ _ => some .vector
  | .vtrd _ _ _ _ _ => some .vector
  | .vtrel _ => some .vector
  | .vmov _ _ _ _ => some .vector
  | .vmovIns _ _ _ _ => some .vector
  | .vmovExt _ _ _ _ => some .vector
  | .vsplat _ _ _ _ => some .vector
  | .vsplatRow _ _ _ _ => some .vector
  | .vsplatCol _ _ _ _ => some .vector
  | .vshape _ => some .vector
  | .vshapeRd _ => some .vector
  | .vperm _ _ _ _ _ => some .vector
  | .vpermRows _ _ _ _ _ => some .vector
  | .vxpose _ _ _ _ => some .vector
  | .vslide _ _ _ _ _ => some .vector
  | .vslideRot _ _ _ _ _ => some .vector
  | .vslideFlat _ _ _ _ _ => some .vector
  | .vredAdd _ _ _ _ _ _ => some .vector
  | .vredMax _ _ _ _ _ _ => some .vector
  | .vredMin _ _ _ _ _ _ => some .vector
  | .vridxMax _ _ _ _ _ _ => some .vector
  | .vridxMin _ _ _ _ _ _ => some .vector
  | .vscanAdd _ _ _ _ _ _ => some .vector
  | .vscanMax _ _ _ _ _ _ => some .vector
  | .vscanMin _ _ _ _ _ _ => some .vector
  | .vnormMs _ _ _ _ _ _ => some .vector
  | .vnormRms _ _ _ _ _ _ => some .vector
  | .vsmax _ _ _ _ _ _ => some .vector
  | .vhad _ _ _ _ _ _ => some .vector
  | .vaset _ _ => some .vector
  | .vasetWst _ _ => some .vector
  | .vasetWlen _ _ => some .vector
  | .vasetRd _ _ => some .vector
  | .vaadd _ _ => some .vector
  | .vtokr _ _ => some .vector
  | .veop _ => some .vector
  | .vchk _ _ => some .vector
  | .vchkRd _ _ => some .vector
  | .vlit _ _ => some .vector
  | .vlitAdd _ _ => some .vector
  | .vlitSub _ _ => some .vector
  | .percoAdd _ _ _ _ => some .perco
  | .percoSub _ _ _ _ => some .perco
  | .percoMul _ _ _ _ => some .perco
  | .percoAnd _ _ _ _ => some .perco
  | .percoOr _ _ _ _ => some .perco
  | .percoXor _ _ _ _ => some .perco
  | .percoShl _ _ _ _ => some .perco
  | .percoShr _ _ _ _ => some .perco
  | .percoMin _ _ _ _ => some .perco
  | .percoMax _ _ _ _ => some .perco
  | .percoMinUnsigned _ _ _ _ => some .perco
  | .percoMaxUnsigned _ _ _ _ => some .perco
  | .percoLi _ _ => some .perco
  | .percoLd _ _ _ _ => some .perco
  | .percoSt _ _ _ _ => some .perco
  | .percoBeq _ _ _ => some .perco
  | .percoBne _ _ _ => some .perco
  | .percoBlt _ _ _ => some .perco
  | .percoBge _ _ _ => some .perco
  | .percoJ _ => some .perco
  | .percoCall _ => some .perco
  | .percoLoop _ _ => some .perco
  | .copy _ _ => some .perco
  | .gath _ _ => some .perco
  | .scat _ _ => some .perco
  | .xpose _ _ => some .perco
  | .conv _ _ => some .perco
  | .infl _ _ => some .perco
  | .mcast _ _ => some .perco
  | .red _ _ => some .perco
  | .fill _ _ => some .perco
  | .nest _ _ => some .perco
  | .abort _ _ => some .perco
  | .publish _ _ _ => some .perco
  | .seqst _ _ => some .perco
  | .semadd _ _ _ => some .perco
  | .percoSemwait _ _ _ => some .perco
  | .percoFence _ _ => some .perco
  | .percoRatomAdd _ _ _ _ => some .perco
  | .percoRatomAnd _ _ _ _ => some .perco
  | .percoRatomOr _ _ _ _ => some .perco
  | .percoRatomXor _ _ _ _ => some .perco
  | .percoRatomMin _ _ _ _ => some .perco
  | .percoRatomMax _ _ _ _ => some .perco
  | .percoRatomMinu _ _ _ _ => some .perco
  | .percoRatomMaxu _ _ _ _ => some .perco
  | .percoRatomSwap _ _ _ _ => some .perco
  | .percoRatomCas _ _ _ _ => some .perco
  | .wakea _ _ => some .perco
  | .tlbinv _ _ => some .perco
  | .tlbinvCtx _ _ => some .perco
  | .mapchk _ _ _ _ _ => some .perco
  | .resume _ _ => some .perco
  | .resumeDrop _ _ => some .perco
  | .killctx _ _ => some .perco
  | .percoTrap _ => some .perco
  | .percoSysrd _ _ => some .perco
  | .percoSyswr _ _ => some .perco
  | .unassignedEncoding _ _ => none
  | .tokenStart _ => none
  | .vectorLoadEcc _ => none
  | .vectorFaultReport _ => none
  | .engineFaultTrap _ => none
  | .watchdog _ => none
  | .waitaReply _ => none
  | .waitaTimeout _ => none
  | .watchInstall _ => none
  | .ratomAtHome _ _ => none
  | .ratomReply _ _ => none
  | .matrixCommandStart _ => none
  | .mmaChunk _ => none
  | .tileEmit _ => none
  | .mouldParity _ => none
  | .bankSideService _ _ => none
  | .eccWriteback _ _ => none
  | .probeFillComplete _ _ => none
  | .sequencerStart _ => none
  | .percoWatchdog _ _ => none
  | .postAccept _ _ => none
  | .boxStart _ _ => none
  | .boxElement _ _ => none
  | .overflowRecordPost _ => none
  | .boxComplete _ _ => none
  | .walkerEmit _ _ => none
  | .publishFlip _ _ => none
  | .killctxDrainDone _ _ => none
  | .killMessage _ _ => none
  | .hbmRequest _ _ => none
  | .deadlineUrgent _ _ => none
  | .queueEntryRead _ => none
  | .nestReady _ => none
  | .grainStart _ => none
  | .nestDone _ => none
  | .spillEntryTaken _ => none
  | .preemptRequest _ => none
  | .coreHalted _ => none
  | .saveComplete _ => none
  | .restoreComplete _ => none
  | .flitReceived _ _ _ => none
  | .ackReceived _ _ => none
  | .nakReceived _ _ => none
  | .ackFlitSend _ _ => none
  | .replayTimeout _ _ => none
  | .retrainDone _ _ => none
  | .yunanPortDown _ => none
  | .farEndRequest _ _ => none
  | .endToEndNak _ _ _ => none
  | .windowRetryTimeout _ _ => none
  | .windowClose _ _ _ _ => none
  | .closeReply _ _ _ _ => none
  | .closeTimeout _ _ => none
  | .endToEndReply _ _ _ _ _ => none
  | .abortRequest _ => none
  | .settle _ _ _ => none
  | .stop _ _ _ => none
  | .abortOutcome _ _ => none
  | .repairFlip _ _ _ => none
  | .outcomeReceived _ _ _ _ => none
  | .roundDrainTimeout _ _ => none
  | .automaticRetirement _ => none
  | .thermal _ => none
  | .voltage _ => none
  | .flr _ => none
  | .doorbell _ _ => none
  | .cack _ _ => none
  | .mapq _ => none
  | .unmapq _ => none
  | .setctx _ => none
  | .kill _ => none
  | .hwread _ => none
  | .quarantine _ => none
  | .warmreset _ => none
  | .fwload _ => none
  | .slotMap _ => none
  | .slotUnmap _ => none
  | .notify _ _ _ => none
  | .childqWrite _ _ => none
  | .pkgidWrite _ => none
  | .registerWrite _ _ _ => none
  | .hostRead _ _ => none
  | .hostWrite _ _ => none
  | .getVersion _ => none
  | .getCapabilities _ => none
  | .negotiateAlgorithms _ => none
  | .getDigests _ => none
  | .getCertificate _ => none
  | .challenge _ => none
  | .getMeasurements _ => none
  | .keyExchange _ => none
  | .finish _ => none
  | .matrixCommandComplete _ => none
  | .thermalRecovery _ => none
  | .voltageRecovery _ => none
  | .ret => some .stem
  | .lbrk => some .stem
  | .cinvAll => some .stem
  | .eret => some .stem
  | .halt => some .stem
  | .nop => some .stem
  | .yield => some .stem
  | .ifence => some .stem
  | .vsync => some .stem
  | .grainend => some .stem
  | .msync => some .stem
  | .vend => some .vector
  | .vnop => some .vector
  | .percoRet => some .perco
  | .tlbinvAll => some .perco
  | .percoHalt => some .perco
  | .percoNop => some .perco
  | .grainDispatch => none
  | .clockStep => none
  | .coldReset => none
  | .warmReset => none
  | .memready => none

end Sys2Proof
end

