-- ==== Sys2Proof/Decode.lean ====
section
/-! DEFINITION. Decoding: words of a stream to an instruction, or to the one decode fault that R27 selects; then
the encoder, written from the same tables, and the word interface of the host. -/

namespace Sys2Proof

/-- What a stream decodes (R27, R50): an instruction with its length in words, or a decode cause. -/
inductive Dec where
  | ok (i : Instr) (n : Nat)
  | bad (c : Cause)
  deriving DecidableEq, Repr

/-! The field positions of Tables 01-1 to 01-7. -/
def wMaj (w : W32) : Nat := (w.extractLsb' 26 6).toNat
def wD (w : W32) : BitVec 5 := w.extractLsb' 21 5
def wA (w : W32) : BitVec 5 := w.extractLsb' 16 5
def wB (w : W32) : BitVec 5 := w.extractLsb' 11 5
def wW (w : W32) : BitVec 1 := w.extractLsb' 10 1
def wTy (w : W32) : BitVec 4 := w.extractLsb' 6 4
def wSub (w : W32) : BitVec 6 := w.extractLsb' 0 6
def wImm (w : W32) : BitVec 16 := w.extractLsb' 0 16
def wJ (w : W32) : BitVec 26 := w.extractLsb' 0 26
def wCls (w : W32) : BitVec 4 := w.extractLsb' 12 4
def wSize (w : W32) : BitVec 2 := w.extractLsb' 10 2
def wOfs (w : W32) : BitVec 10 := w.extractLsb' 0 10
def wSys (w : W32) : BitVec 12 := w.extractLsb' 0 12
def vMsel (w : W32) : BitVec 3 := w.extractLsb' 8 3
def vTyc (w : W32) : BitVec 4 := w.extractLsb' 4 4
def vSub (w : W32) : BitVec 4 := w.extractLsb' 0 4
def vBit (w : W32) (i : Nat) : Bool := (vSub w).getLsbD i

/-! Operands out of fields. -/
def regOf (c : BitVec 5) : Reg := if h : c.toNat < 31 then ⟨c.toNat, h⟩ else 0
def fin2 (c : BitVec 5) : Fin 2 := if h : c.toNat < 2 then ⟨c.toNat, h⟩ else 0
def fin4 (c : BitVec 5) : Fin 4 := if h : c.toNat < 4 then ⟨c.toNat, h⟩ else 0
def fin8 (c : BitVec 5) : Fin 8 := if h : c.toNat < 8 then ⟨c.toNat, h⟩ else 0
def fin32 (c : BitVec 5) : Fin 32 := c.toFin
def fin5 (c : BitVec 6) : Fin 5 := if h : c.toNat < 5 then ⟨c.toNat, h⟩ else 0
def fin6 (c : BitVec 4) : Fin 6 := if h : c.toNat < 6 then ⟨c.toNat, h⟩ else 0
/-- A scalar source of format G: code 31 is the literal, of 64 bits when W = 1, low word first (R21). -/
def gSrc (c : BitVec 5) (wide : Bool) (rest : List W32) : Src :=
  if c = 31 then
    if wide then .lit64 (rest.getD 1 0 ++ rest.getD 0 0) else .lit32 (rest.getD 0 0)
  else .reg (regOf c)
def vSrc (c : BitVec 5) (rest : List W32) : VSrc := if c = 31 then .lit (rest.getD 0 0) else .reg (regOf c)
def eSrc (c : BitVec 5) (rest : List W32) : ESrc := if c = 31 then .lit (rest.getD 0 0) else .reg (fin8 c)
def rD (w : W32) : Reg := regOf (wD w)
def rA (w : W32) : Reg := regOf (wA w)
def rB (w : W32) : Reg := regOf (wB w)
def sD (w : W32) (rest : List W32) : Src := gSrc (wD w) (wW w == 1) rest
def sA (w : W32) (rest : List W32) : Src := gSrc (wA w) (wW w == 1) rest
def sB (w : W32) (rest : List W32) : Src := gSrc (wB w) (wW w == 1) rest
def nD (w : W32) (rest : List W32) : Src := gSrc (wD w) false rest
def nA (w : W32) (rest : List W32) : Src := gSrc (wA w) false rest
def vD (w : W32) (rest : List W32) : VSrc := vSrc (wD w) rest
def vA (w : W32) (rest : List W32) : VSrc := vSrc (wA w) rest
def vB (w : W32) (rest : List W32) : VSrc := vSrc (wB w) rest
def eA (w : W32) (rest : List W32) : ESrc := eSrc (wA w) rest
def eB (w : W32) (rest : List W32) : ESrc := eSrc (wB w) rest
def gTy (w : W32) : Ty := (Ty.ofCode (wTy w)).getD .i64
def vTy (w : W32) : Ty := (Ty.ofCode (vTyc w)).getD .i64
/-- The source type of VCVT, in B[3:0] (R165). -/
def vSty (w : W32) : Ty := (Ty.ofCode ((wB w).extractLsb' 0 4)).getD .i64
def vM (w : W32) : Fin 8 := (vMsel w).toFin
def gScope (w : W32) : Scope := Scope.ofCode ((wSub w).extractLsb' 0 3)
def vRound (w : W32) : Round := Round.ofCode (vSub w)
def vRound3 (w : W32) : Round := Round.ofCode (((vSub w).extractLsb' 0 3).setWidth 4)
def vDir (w : W32) : Dir := Dir.ofCode ((vSub w).extractLsb' 2 2)
def vLow2 (w : W32) : Fin 4 := ((vSub w).extractLsb' 0 2).toFin
def vLow3 (w : W32) : Fin 8 := ((vSub w).extractLsb' 0 3).toFin
def liVal (w : W32) (rest : List W32) : LiVal := if wA w = 31 then .lit (rest.getD 0 0) else .imm (wImm w)

/-! What makes a field reserved. -/
/-- What a register field may hold. -/
inductive FieldKind where
  | zero | dst | src | esrc | mask17 | any | src0 | lim (n : Nat)
  deriving DecidableEq, Repr

/-- A field code that raises RESERVED_FIELD (R22, R23, R88). -/
def FieldKind.bad (k : FieldKind) (c : BitVec 5) : Bool :=
  match k with
  | .zero => c != 0
  | .dst => c == 31
  | .src | .any | .src0 => false
  | .esrc => c.toNat ≥ 8 && c != 31
  | .mask17 => c == 0 || c.toNat ≥ 8
  | .lim n => c.toNat ≥ n

/-- The field names a literal (R21). -/
def FieldKind.lit (k : FieldKind) (c : BitVec 5) : Bool :=
  match k with
  | .src | .esrc => c == 31
  | _ => false

/-- Where W = 1 is accepted (R89, R228). -/
inductive WideRule where
  | never | ty14 | ty0
  deriving DecidableEq, Repr

/-- What TYPE may hold in formats G and V. -/
inductive TypeRule where
  | none | zero | ints | word | fl | fi | any | nar | wide | f32only
  deriving DecidableEq, Repr

/-- The rule gives the row no type, so TYPE is a reserved field (R24). -/
def TypeRule.untyped : TypeRule → Bool
  | .none | .zero => true
  | _ => false

/-- A TYPE that a stem or Perco row accepts. -/
def TypeRule.okG (r : TypeRule) (c : BitVec 4) : Bool :=
  match r with
  | .none | .zero => c == 0
  | .word => c == 13 || c == 14
  | _ => 11 ≤ c.toNat && c.toNat ≤ 14

/-- A TYPE that a vector row accepts; .i64 is accepted by none (Table 04-1). -/
def TypeRule.okV (r : TypeRule) (c : BitVec 4) : Bool :=
  match r with
  | .none | .zero => c == 0
  | .fl => 8 ≤ c.toNat && c.toNat ≤ 10
  | .ints => 11 ≤ c.toNat && c.toNat ≤ 13
  | .fi => 8 ≤ c.toNat && c.toNat ≤ 13
  | .any => c.toNat ≤ 13
  | .nar => c.toNat < 8
  | .wide | .word => c == 8 || c == 13
  | .f32only => c == 8

/-- The fields of a format G row (Tables 03-1, 06-1, 07-4). -/
structure GRule where
  d : FieldKind
  a : FieldKind
  b : FieldKind
  wide : WideRule
  ty : TypeRule

/-- W = 1 with the literal in a B field of which no bit above 31 is read: no full-width source (R22). -/
def wideB (w : W32) : Bool := wW w == 1 && wB w == 31

/-- The lowest-numbered decode cause that applies, or the instruction (R27). -/
def settle (illegal reserved : Bool) (lits : Nat) (rest : List W32) (fmt : Bool) (i : Instr) : Dec :=
  if illegal then .bad .illegalOpcode
  else if reserved then .bad .reservedField
  else if rest.length < lits then .bad .badLiteral
  else if fmt then .bad .formatInvalid
  else .ok i (1 + lits)

/-- How many of the fields name a literal. -/
def litCount (l : List Bool) : Nat := (l.filter id).length

def GRule.lits (r : GRule) (w : W32) : Nat := litCount [r.d.lit (wD w), r.a.lit (wA w), r.b.lit (wB w)]

/-- W = 1 where it is not accepted, or with no literal (R22, R89). -/
def GRule.wideBad (r : GRule) (w : W32) : Bool :=
  wW w == 1 && (r.lits w == 0 || match r.wide with
    | .never => true
    | .ty14 => wTy w != 14
    | .ty0 => false)

/-- A format G row. -/
def gRow (r : GRule) (extra : Bool) (w : W32) (rest : List W32) (i : Instr) : Dec :=
  settle false
    (r.d.bad (wD w) || r.a.bad (wA w) || r.b.bad (wB w) || r.lits w > 1 || r.wideBad w
      || (r.ty.untyped && wTy w != 0) || extra)
    (r.lits w * (if wW w = 1 then 2 else 1)) rest
    (!r.ty.untyped && !r.ty.okG (wTy w)) i

/-- A matrix or Perco row whose SUB values stand below n: one not listed raises ILLEGAL_OPCODE (R196, R228), which
comes before every other decode cause (R27). -/
def below (n : Nat) (w : W32) (d : Dec) : Dec := if (wSub w).toNat < n then d else .bad .illegalOpcode

/-- A row of format I, B or M, with the kinds of its D and A fields. -/
def iRow (d a : FieldKind) (extra fmt : Bool) (w : W32) (rest : List W32) (i : Instr) : Dec :=
  settle false
    (d.bad (wD w) || a.bad (wA w) || litCount [d.lit (wD w), a.lit (wA w)] > 1 || extra)
    (litCount [d.lit (wD w), a.lit (wA w)]) rest fmt i

/-- LI takes A = 0, or A = 31 with IMM16 = 0 (R94). -/
def liRow (w : W32) (rest : List W32) (i : Instr) : Dec :=
  settle false (wD w == 31 || !(wA w == 0 || (wA w == 31 && wImm w == 0)))
    (if wA w = 31 then 1 else 0) rest false i

/-- A format V row (Tables 04-2, 05-1). -/
def vRow (d a b : FieldKind) (mselZero : Bool) (ty : TypeRule) (illegal reserved : Bool)
    (w : W32) (rest : List W32) (i : Instr) : Dec :=
  let lits := litCount [d.lit (wD w), a.lit (wA w), b.lit (wB w)]
  settle illegal
    (d.bad (wD w) || a.bad (wA w) || b.bad (wB w) || lits > 1 || (mselZero && vMsel w != 0)
      || (ty.untyped && vTyc w != 0) || reserved)
    lits rest (!ty.untyped && !ty.okV (vTyc w)) i

/-- Scope .l, codes 6 and 7, and a non-zero SUB[5:3] (R88, R109). -/
def badScope (w : W32) : Bool := (wSub w).toNat = 0 || (wSub w).toNat ≥ 6
/-- The encoding checks of TOKEN (R115). -/
def badToken (w : W32) : Bool :=
  (wSub w).toNat > 4 || ((wSub w).toNat > 0 && (wD w).toNat + (wSub w).toNat - 1 > 30) || (wSub w == 0 && wD w != 0)
def badStemSys (w : W32) : Bool := (wImm w).toNat ≥ 0x1000 || !stemSysNum (wSys w).toNat
def badPercoSys (w : W32) : Bool := (wImm w).toNat ≥ 0x1000 || !percoSysNum (wSys w).toNat
def vSubNe (w : W32) (n : Nat) : Bool := (vSub w).toNat != n
def vSubIs (w : W32) (n : Nat) : Bool := (vSub w).toNat == n
/-- SUB[3] set where SUB[2:0] is a rounding code: a SUB value not listed (R48). -/
def vHigh (w : W32) : Bool := vBit w 3
/-- Rounding codes 5-7 (R143). -/
def vRoundBad (w : W32) : Bool := (vSub w).toNat ≥ 5 && (vSub w).toNat ≤ 7
def vRound3Bad (w : W32) : Bool := ((vSub w).extractLsb' 0 3).toNat ≥ 5
/-- B non-zero in a direction that takes no segment word (R174). -/
def segBad (w : W32) : Bool := !(vDir w).segmented && wB w != 0


def decStem01 (w : W32) (rest : List W32) : Dec :=
  match (wSub w).toNat with
  | 0 => gRow ⟨.dst, .src, .src, .ty14, .ints⟩ false w rest (.add (rD w) (sA w rest) (sB w rest) (gTy w))
  | 1 => gRow ⟨.dst, .src, .src, .ty14, .ints⟩ false w rest (.sub (rD w) (sA w rest) (sB w rest) (gTy w))
  | 2 => gRow ⟨.dst, .src, .src, .ty14, .ints⟩ false w rest (.mul (rD w) (sA w rest) (sB w rest) (gTy w))
  | 3 => gRow ⟨.dst, .src, .src, .ty14, .ints⟩ false w rest (.mulh (rD w) (sA w rest) (sB w rest) (gTy w))
  | 4 => gRow ⟨.dst, .src, .src, .ty14, .ints⟩ false w rest (.div (rD w) (sA w rest) (sB w rest) (gTy w))
  | 5 => gRow ⟨.dst, .src, .src, .ty14, .ints⟩ false w rest (.rem (rD w) (sA w rest) (sB w rest) (gTy w))
  | 6 => gRow ⟨.dst, .src, .src, .ty14, .ints⟩ false w rest (.and (rD w) (sA w rest) (sB w rest) (gTy w))
  | 7 => gRow ⟨.dst, .src, .src, .ty14, .ints⟩ false w rest (.or (rD w) (sA w rest) (sB w rest) (gTy w))
  | 8 => gRow ⟨.dst, .src, .src, .ty14, .ints⟩ false w rest (.xor (rD w) (sA w rest) (sB w rest) (gTy w))
  | 9 => gRow ⟨.dst, .src, .src, .ty14, .ints⟩ false w rest (.shl (rD w) (sA w rest) (sB w rest) (gTy w))
  | 10 => gRow ⟨.dst, .src, .src, .ty14, .ints⟩ false w rest (.shr (rD w) (sA w rest) (sB w rest) (gTy w))
  | 11 => gRow ⟨.dst, .src, .src, .ty14, .ints⟩ false w rest (.sra (rD w) (sA w rest) (sB w rest) (gTy w))
  | 12 => gRow ⟨.dst, .src, .src, .ty14, .ints⟩ false w rest (.min (rD w) (sA w rest) (sB w rest) (gTy w))
  | 13 => gRow ⟨.dst, .src, .src, .ty14, .ints⟩ false w rest (.max (rD w) (sA w rest) (sB w rest) (gTy w))
  | 14 => gRow ⟨.dst, .src, .src, .ty14, .ints⟩ false w rest (.slt (rD w) (sA w rest) (sB w rest) (gTy w))
  | 15 => gRow ⟨.dst, .src, .src, .ty14, .ints⟩ false w rest (.sltu (rD w) (sA w rest) (sB w rest) (gTy w))
  | 16 => gRow ⟨.dst, .src, .src, .ty14, .ints⟩ false w rest (.madd (rD w) (sA w rest) (sB w rest) (gTy w))
  | 17 => gRow ⟨.dst, .src, .zero, .ty14, .ints⟩ false w rest (.clz (rD w) (sA w rest) (gTy w))
  | 18 => gRow ⟨.dst, .src, .zero, .ty14, .ints⟩ false w rest (.popc (rD w) (sA w rest) (gTy w))
  | 35 => gRow ⟨.dst, .src, .src, .ty14, .ints⟩ false w rest (.mulhUnsigned (rD w) (sA w rest) (sB w rest) (gTy w))
  | 36 => gRow ⟨.dst, .src, .src, .ty14, .ints⟩ false w rest (.divUnsigned (rD w) (sA w rest) (sB w rest) (gTy w))
  | 37 => gRow ⟨.dst, .src, .src, .ty14, .ints⟩ false w rest (.remUnsigned (rD w) (sA w rest) (sB w rest) (gTy w))
  | 44 => gRow ⟨.dst, .src, .src, .ty14, .ints⟩ false w rest (.minUnsigned (rD w) (sA w rest) (sB w rest) (gTy w))
  | 45 => gRow ⟨.dst, .src, .src, .ty14, .ints⟩ false w rest (.maxUnsigned (rD w) (sA w rest) (sB w rest) (gTy w))
  | _ => .bad .illegalOpcode

/-- JR in its two forms, SUB 0 and 1. The spec does not say which cause a SUB of 2 or more raises: RESERVED_FIELD here
(log 17). -/
def decStem0B (w : W32) (rest : List W32) : Dec :=
  match (wSub w).toNat with
  | 0 => gRow ⟨.zero, .src, .zero, .never, .none⟩ false w rest (.jr (sA w rest))
  | 1 => gRow ⟨.zero, .src, .zero, .never, .none⟩ false w rest (.jrCall (sA w rest))
  | _ => .bad .reservedField

/-- MVLC in its two forms, SUB 0 and 1. The spec does not say which cause a SUB of 2 or more raises: RESERVED_FIELD here
(log 17). -/
def decStem0E (w : W32) (rest : List W32) : Dec :=
  match (wSub w).toNat with
  | 0 => gRow ⟨.lim 4, .src, .zero, .never, .none⟩ false w rest (.mvlc (fin4 (wD w)) (sA w rest))
  | 1 => gRow ⟨.dst, .lim 4, .zero, .never, .none⟩ false w rest (.mvlcRead (rD w) (fin4 (wA w)))
  | _ => .bad .reservedField

def decStem12 (w : W32) (rest : List W32) : Dec :=
  match (wSub w).toNat with
  | 0 => gRow ⟨.dst, .src, .src, .ty14, .ints⟩ false w rest (.amoAdd (rD w) (sA w rest) (sB w rest) (gTy w))
  | 1 => gRow ⟨.dst, .src, .src, .ty14, .ints⟩ false w rest (.amoAnd (rD w) (sA w rest) (sB w rest) (gTy w))
  | 2 => gRow ⟨.dst, .src, .src, .ty14, .ints⟩ false w rest (.amoOr (rD w) (sA w rest) (sB w rest) (gTy w))
  | 3 => gRow ⟨.dst, .src, .src, .ty14, .ints⟩ false w rest (.amoXor (rD w) (sA w rest) (sB w rest) (gTy w))
  | 4 => gRow ⟨.dst, .src, .src, .ty14, .ints⟩ false w rest (.amoMin (rD w) (sA w rest) (sB w rest) (gTy w))
  | 5 => gRow ⟨.dst, .src, .src, .ty14, .ints⟩ false w rest (.amoMax (rD w) (sA w rest) (sB w rest) (gTy w))
  | 6 => gRow ⟨.dst, .src, .src, .ty14, .ints⟩ false w rest (.amoMinu (rD w) (sA w rest) (sB w rest) (gTy w))
  | 7 => gRow ⟨.dst, .src, .src, .ty14, .ints⟩ false w rest (.amoMaxu (rD w) (sA w rest) (sB w rest) (gTy w))
  | 8 => gRow ⟨.dst, .src, .src, .ty14, .ints⟩ false w rest (.amoSwap (rD w) (sA w rest) (sB w rest) (gTy w))
  | _ => .bad .illegalOpcode

def decStem1D (w : W32) (rest : List W32) : Dec :=
  match (wSub w).toNat with
  | 0 => gRow ⟨.dst, .src, .src, .ty14, .word⟩ false w rest (.ratomAdd (rD w) (sA w rest) (sB w rest) (gTy w))
  | 1 => gRow ⟨.dst, .src, .src, .ty14, .word⟩ false w rest (.ratomAnd (rD w) (sA w rest) (sB w rest) (gTy w))
  | 2 => gRow ⟨.dst, .src, .src, .ty14, .word⟩ false w rest (.ratomOr (rD w) (sA w rest) (sB w rest) (gTy w))
  | 3 => gRow ⟨.dst, .src, .src, .ty14, .word⟩ false w rest (.ratomXor (rD w) (sA w rest) (sB w rest) (gTy w))
  | 4 => gRow ⟨.dst, .src, .src, .ty14, .word⟩ false w rest (.ratomMin (rD w) (sA w rest) (sB w rest) (gTy w))
  | 5 => gRow ⟨.dst, .src, .src, .ty14, .word⟩ false w rest (.ratomMax (rD w) (sA w rest) (sB w rest) (gTy w))
  | 6 => gRow ⟨.dst, .src, .src, .ty14, .word⟩ false w rest (.ratomMinu (rD w) (sA w rest) (sB w rest) (gTy w))
  | 7 => gRow ⟨.dst, .src, .src, .ty14, .word⟩ false w rest (.ratomMaxu (rD w) (sA w rest) (sB w rest) (gTy w))
  | 8 => gRow ⟨.dst, .src, .src, .ty14, .word⟩ false w rest (.ratomSwap (rD w) (sA w rest) (sB w rest) (gTy w))
  | 9 => gRow ⟨.dst, .src, .src, .ty14, .word⟩ false w rest (.ratomCas (rD w) (sA w rest) (sB w rest) (gTy w))
  | _ => .bad .illegalOpcode

/-- CINV in its two forms, SUB 0 and 1. The spec does not say which cause a SUB of 2 or more raises: RESERVED_FIELD here
(log 17). -/
def decStem22 (w : W32) (rest : List W32) : Dec :=
  match (wSub w).toNat with
  | 0 => gRow ⟨.zero, .src, .zero, .never, .none⟩ false w rest (.cinv (sA w rest))
  | 1 => gRow ⟨.zero, .zero, .zero, .never, .none⟩ false w rest (.cinvAll)
  | _ => .bad .reservedField

def decStem29 (w : W32) (rest : List W32) : Dec :=
  match (wSub w).toNat with
  | 4 => gRow ⟨.dst, .zero, .zero, .never, .none⟩ false w rest (.rdcyc (rD w))
  | 0 => gRow ⟨.zero, .zero, .zero, .never, .none⟩ false w rest (.eret)
  | 1 => gRow ⟨.zero, .zero, .zero, .never, .none⟩ false w rest (.halt)
  | 2 => gRow ⟨.zero, .zero, .zero, .never, .none⟩ false w rest (.nop)
  | 3 => gRow ⟨.zero, .zero, .zero, .never, .none⟩ false w rest (.yield)
  | 5 => gRow ⟨.zero, .zero, .zero, .never, .none⟩ false w rest (.ifence)
  | 6 => gRow ⟨.zero, .zero, .zero, .never, .none⟩ false w rest (.vsync)
  | 7 => gRow ⟨.zero, .zero, .zero, .never, .none⟩ false w rest (.grainend)
  | _ => .bad .illegalOpcode

/-- The stem map with the matrix window (Table 01-22, Table 01-23): the first word and the words after it. -/
def decStem (w : W32) (rest : List W32) : Dec :=
  match wMaj w with
  | 0x01 => decStem01 w rest
  | 0x02 => liRow w rest (.li (rD w) (liVal w rest))
  | 0x03 => iRow .src .src false false w rest (.beq (nD w rest) (nA w rest) (wImm w))
  | 0x04 => iRow .src .src false false w rest (.bne (nD w rest) (nA w rest) (wImm w))
  | 0x05 => iRow .src .src false false w rest (.blt (nD w rest) (nA w rest) (wImm w))
  | 0x06 => iRow .src .src false false w rest (.bge (nD w rest) (nA w rest) (wImm w))
  | 0x07 => iRow .src .src false false w rest (.bltu (nD w rest) (nA w rest) (wImm w))
  | 0x08 => iRow .src .src false false w rest (.bgeu (nD w rest) (nA w rest) (wImm w))
  | 0x09 => .ok (.j (wJ w)) 1
  | 0x0A => .ok (.jal (wJ w)) 1
  | 0x0B => decStem0B w rest
  | 0x0C => gRow ⟨.zero, .zero, .zero, .never, .none⟩ (wSub w != 0) w rest (.ret)
  | 0x0D => iRow .zero .src false false w rest (.loop (nA w rest) (wImm w))
  | 0x0E => decStem0E w rest
  | 0x0F => gRow ⟨.zero, .zero, .zero, .never, .none⟩ (wSub w != 0) w rest (.lbrk)
  | 0x10 => iRow .dst .src false false w rest (.ld (rD w) (nA w rest) (wCls w) (wSize w) (wOfs w))
  | 0x11 => iRow .src .src false false w rest (.st (nD w rest) (nA w rest) (wCls w) (wSize w) (wOfs w))
  | 0x12 => decStem12 w rest
  | 0x13 => gRow ⟨.dst, .src, .src, .ty14, .ints⟩ (wSub w != 0) w rest (.cas (rD w) (sA w rest) (sB w rest) (gTy w))
  | 0x14 => gRow ⟨.zero, .src, .src, .never, .none⟩ (badScope w) w rest (.semwait (sA w rest) (sB w rest) (gScope w))
  | 0x15 => gRow ⟨.zero, .src, .src, .never, .none⟩ (badScope w) w rest (.sempost (sA w rest) (sB w rest) (gScope w))
  | 0x16 => gRow ⟨.dst, .src, .src, .never, .word⟩ (badScope w) w rest (.waita (rD w) (sA w rest) (sB w rest) (gTy w) (gScope w))
  | 0x17 => gRow ⟨.zero, .src, .zero, .never, .none⟩ (badScope w) w rest (.fence (sA w rest) (gScope w))
  | 0x18 => gRow ⟨.zero, .src, .zero, .never, .none⟩ (badScope w) w rest (.bar (sA w rest) (gScope w))
  | 0x19 => gRow ⟨.src0, .src, .src, .ty0, .none⟩ (badToken w) w rest (.token (fin32 (wD w)) (fin5 (wSub w)) (sA w rest) (sB w rest))
  | 0x1A => gRow ⟨.lim 4, .zero, .zero, .never, .none⟩ (wSub w != 0) w rest (.twait (fin4 (wD w)))
  | 0x1B => gRow ⟨.zero, .src, .zero, .never, .none⟩ (decide (2 ≤ (wSub w).toNat)) w rest (.xfer (sA w rest) ((wSub w) == 1))
  | 0x1C => gRow ⟨.zero, .src, .src, .ty0, .none⟩ (decide (2 ≤ (wSub w).toNat)) w rest (.rcall (sA w rest) (sB w rest) ((wSub w) == 1))
  | 0x1D => decStem1D w rest
  | 0x1E => iRow .dst .src false false w rest (.probe (rD w) (nA w rest) (wImm w))
  | 0x1F => gRow ⟨.zero, .src, .zero, .never, .none⟩ (wSub w != 0) w rest (.pwait (sA w rest))
  | 0x20 => gRow ⟨.zero, .src, .zero, .never, .none⟩ (wSub w != 0) w rest (.pin (sA w rest))
  | 0x21 => gRow ⟨.zero, .src, .zero, .never, .none⟩ (wSub w != 0) w rest (.unpin (sA w rest))
  | 0x22 => decStem22 w rest
  | 0x23 => gRow ⟨.lim 4, .src, .zero, .never, .none⟩ (wSub w != 0) w rest (.shld (fin4 (wD w)) (sA w rest))
  | 0x24 => gRow ⟨.lim 4, .zero, .zero, .never, .none⟩ (wSub w != 0) w rest (.shinv (fin4 (wD w)))
  | 0x25 => gRow ⟨.zero, .src, .zero, .never, .none⟩ (wSub w != 0) w rest (.launch (sA w rest))
  | 0x26 => iRow .zero .zero false false w rest (.trap (wImm w))
  | 0x27 => iRow .dst .zero (badStemSys w) false w rest (.sysrd (rD w) (wSys w))
  | 0x28 => iRow .zero .src (badStemSys w) false w rest (.syswr (nA w rest) (wSys w))
  | 0x29 => decStem29 w rest
  | 0x2A => iRow .dst .src (wSize w == 3) false w rest (.ldZeroExtending (rD w) (nA w rest) (wCls w) (wSize w) (wOfs w))
  | 0x30 => gRow ⟨.src, .src, .src, .ty0, .none⟩ false w rest (.mma (sD w rest) (sA w rest) (sB w rest) (wSub w))
  | 0x31 => gRow ⟨.src, .src, .src, .ty0, .none⟩ false w rest (.mmas (sD w rest) (sA w rest) (sB w rest) (wSub w))
  | 0x32 => below 1 w <| gRow ⟨.lim 2, .zero, .zero, .never, .none⟩ false w rest (.mclr (fin2 (wD w)))
  | 0x33 => below 2 w <| gRow ⟨.lim 4, .lim 2, .zero, .never, .none⟩ false w rest (.memit (fin4 (wD w)) (fin2 (wA w)) ((wSub w) == 1))
  | 0x34 => below 1 w <| gRow ⟨.lim 2, .src, .zero, .never, .none⟩ false w rest (.mtld (fin2 (wD w)) (sA w rest))
  | 0x35 => below 1 w <| gRow ⟨.lim 2, .src, .zero, .never, .none⟩ false w rest (.mtst (fin2 (wD w)) (sA w rest))
  | 0x36 => below 1 w <| gRow ⟨.zero, .src, .src, .never, .none⟩ false w rest (.mtbar (sA w rest) (sB w rest))
  | 0x37 => below 1 w <| gRow ⟨.lim 4, .src, .zero, .ty0, .none⟩ false w rest (.mfmt (fin4 (wD w)) (sA w rest))
  | 0x38 => below 1 w <| gRow ⟨.zero, .zero, .zero, .never, .none⟩ false w rest (.msync)
  | 0x39 => below 8 w (gRow ⟨.zero, .src, .src, .never, .none⟩ (badScope w) w rest (.mwait (sA w rest) (sB w rest) (gScope w)))
  | 0x3A => below 8 w (gRow ⟨.zero, .src, .src, .never, .none⟩ (badScope w) w rest (.msig (sA w rest) (sB w rest) (gScope w)))
  | _ => .bad .illegalOpcode

def decVector1A (w : W32) (rest : List W32) : Dec :=
  match (vSub w).toNat with
  | 0 => vRow .mask17 (.lim 8) (.lim 8) true .zero false false w rest (.vmopAnd (fin8 (wD w)) (fin8 (wA w)) (fin8 (wB w)))
  | 1 => vRow .mask17 (.lim 8) (.lim 8) true .zero false false w rest (.vmopOr (fin8 (wD w)) (fin8 (wA w)) (fin8 (wB w)))
  | 2 => vRow .mask17 (.lim 8) (.lim 8) true .zero false false w rest (.vmopXor (fin8 (wD w)) (fin8 (wA w)) (fin8 (wB w)))
  | 3 => vRow .mask17 (.lim 8) (.lim 8) true .zero false false w rest (.vmopAndn (fin8 (wD w)) (fin8 (wA w)) (fin8 (wB w)))
  | 4 => vRow .mask17 (.lim 8) .zero true .zero false false w rest (.vmopNot (fin8 (wD w)) (fin8 (wA w)))
  | 5 => vRow .mask17 .zero .zero true .zero false false w rest (.vmopOnes (fin8 (wD w)))
  | 6 => vRow .mask17 .zero .zero true .zero false false w rest (.vmopZeros (fin8 (wD w)))
  | 7 => vRow .mask17 (.lim 8) .zero true .zero false false w rest (.vmopCopy (fin8 (wD w)) (fin8 (wA w)))
  | _ => .bad .illegalOpcode

def decVector1B (w : W32) (rest : List W32) : Dec :=
  match (vSub w).toNat with
  | 0 => vRow (.lim 8) (.lim 8) .zero true .zero false false w rest (.vmpop (fin8 (wD w)) (fin8 (wA w)))
  | 1 => vRow (.lim 8) (.lim 8) .zero true .zero false false w rest (.vmpopFirst (fin8 (wD w)) (fin8 (wA w)))
  | _ => .bad .illegalOpcode

def decVector21 (w : W32) (rest : List W32) : Dec :=
  if vBit w 3 then vRow .dst (.lim 8) .esrc false .any false false w rest (.vldRagged (rD w) (fin8 (wA w)) (eB w rest) (vM w) (vTy w) (vBit w 2) (vLow2 w))
  else if vBit w 2 then .bad .illegalOpcode
  else vRow .dst (.lim 8) .esrc false .any false false w rest (.vld (rD w) (fin8 (wA w)) (eB w rest) (vM w) (vTy w) (vLow2 w))

def decVector22 (w : W32) (rest : List W32) : Dec :=
  if vBit w 3 then vRow .src (.lim 8) .esrc false .any false false w rest (.vstRagged (vD w rest) (fin8 (wA w)) (eB w rest) (vM w) (vTy w) (vBit w 2) (vLow2 w))
  else if vBit w 2 then .bad .illegalOpcode
  else vRow .src (.lim 8) .esrc false .any false false w rest (.vst (vD w rest) (fin8 (wA w)) (eB w rest) (vM w) (vTy w) (vLow2 w))

def decVector23 (w : W32) (rest : List W32) : Dec :=
  match (vSub w).toNat with
  | 0 => vRow .dst (.lim 8) .zero false .any false false w rest (.vldb (rD w) (fin8 (wA w)) (vM w) (vTy w))
  | 3 => vRow .dst (.lim 8) .zero false .any false false w rest (.vldbPf (rD w) (fin8 (wA w)) (vM w) (vTy w))
  | _ => .bad .illegalOpcode

def decVector28 (w : W32) (rest : List W32) : Dec :=
  match (vSub w).toNat with
  | 0 => vRow .dst .src .zero false .any false false w rest (.vmov (rD w) (vA w rest) (vM w) (vTy w))
  | 1 => vRow .dst .esrc .esrc true .any false false w rest (.vmovIns (rD w) (eA w rest) (eB w rest) (vTy w))
  | 2 => vRow (.lim 8) .dst .esrc true .any false false w rest (.vmovExt (fin8 (wD w)) (rA w) (eB w rest) (vTy w))
  | _ => .bad .illegalOpcode

def decVector29 (w : W32) (rest : List W32) : Dec :=
  match (vSub w).toNat with
  | 0 => vRow .dst .esrc .zero false .any false false w rest (.vsplat (rD w) (eA w rest) (vM w) (vTy w))
  | 1 => vRow .dst .dst .zero false .any false false w rest (.vsplatRow (rD w) (rA w) (vM w) (vTy w))
  | 2 => vRow .dst .dst .zero false .any false false w rest (.vsplatCol (rD w) (rA w) (vM w) (vTy w))
  | _ => .bad .illegalOpcode

def decVector2A (w : W32) (rest : List W32) : Dec :=
  match (vSub w).toNat with
  | 0 => vRow .zero .esrc .zero true .zero false false w rest (.vshape (eA w rest))
  | 1 => vRow (.lim 8) .zero .zero true .zero false false w rest (.vshapeRd (fin8 (wD w)))
  | _ => .bad .illegalOpcode

def decVector2B (w : W32) (rest : List W32) : Dec :=
  match (vSub w).toNat with
  | 0 => vRow .dst .dst .src false .any false false w rest (.vperm (rD w) (rA w) (vB w rest) (vM w) (vTy w))
  | 1 => vRow .dst .dst .src false .any false false w rest (.vpermRows (rD w) (rA w) (vB w rest) (vM w) (vTy w))
  | _ => .bad .illegalOpcode

def decVector2D (w : W32) (rest : List W32) : Dec :=
  match (vSub w).toNat with
  | 0 => vRow .dst .dst .esrc false .any false false w rest (.vslide (rD w) (rA w) (eB w rest) (vM w) (vTy w))
  | 1 => vRow .dst .dst .esrc false .any false false w rest (.vslideRot (rD w) (rA w) (eB w rest) (vM w) (vTy w))
  | 2 => vRow .dst .dst .esrc false .any false false w rest (.vslideFlat (rD w) (rA w) (eB w rest) (vM w) (vTy w))
  | _ => .bad .illegalOpcode

def decVector2E (w : W32) (rest : List W32) : Dec :=
  match (vLow2 w).val with
  | 0 => vRow .dst .dst .esrc false .fi false (segBad w) w rest (.vredAdd (rD w) (rA w) (eB w rest) (vM w) (vTy w) (vDir w))
  | 1 => vRow .dst .dst .esrc false .fi false (segBad w) w rest (.vredMax (rD w) (rA w) (eB w rest) (vM w) (vTy w) (vDir w))
  | 2 => vRow .dst .dst .esrc false .fi false (segBad w) w rest (.vredMin (rD w) (rA w) (eB w rest) (vM w) (vTy w) (vDir w))
  | _ => .bad .illegalOpcode

def decVector2F (w : W32) (rest : List W32) : Dec :=
  match (vLow2 w).val with
  | 1 => vRow .dst .dst .esrc false .wide false (segBad w || wD w == 30) w rest (.vridxMax (rD w) (rA w) (eB w rest) (vM w) (vTy w) (vDir w))
  | 2 => vRow .dst .dst .esrc false .wide false (segBad w || wD w == 30) w rest (.vridxMin (rD w) (rA w) (eB w rest) (vM w) (vTy w) (vDir w))
  | _ => .bad .illegalOpcode

def decVector30 (w : W32) (rest : List W32) : Dec :=
  match (vLow2 w).val with
  | 0 => vRow .dst .dst .esrc false .fi false (segBad w) w rest (.vscanAdd (rD w) (rA w) (eB w rest) (vM w) (vTy w) (vDir w))
  | 1 => vRow .dst .dst .esrc false .fi false (segBad w) w rest (.vscanMax (rD w) (rA w) (eB w rest) (vM w) (vTy w) (vDir w))
  | 2 => vRow .dst .dst .esrc false .fi false (segBad w) w rest (.vscanMin (rD w) (rA w) (eB w rest) (vM w) (vTy w) (vDir w))
  | _ => .bad .illegalOpcode

def decVector31 (w : W32) (rest : List W32) : Dec :=
  match (vLow2 w).val with
  | 0 => vRow .dst .dst .esrc false .fl false (segBad w) w rest (.vnormMs (rD w) (rA w) (eB w rest) (vM w) (vTy w) (vDir w))
  | 1 => vRow .dst .dst .esrc false .fl false (segBad w) w rest (.vnormRms (rD w) (rA w) (eB w rest) (vM w) (vTy w) (vDir w))
  | _ => .bad .illegalOpcode

def decVector34 (w : W32) (rest : List W32) : Dec :=
  match (vSub w).toNat with
  | 0 => vRow (.lim 8) .esrc .zero true .zero false false w rest (.vaset (fin8 (wD w)) (eA w rest))
  | 1 => vRow (.lim 8) .esrc .zero true .zero false false w rest (.vasetWst (fin8 (wD w)) (eA w rest))
  | 2 => vRow (.lim 8) .esrc .zero true .zero false false w rest (.vasetWlen (fin8 (wD w)) (eA w rest))
  | 3 => vRow (.lim 8) (.lim 8) .zero true .zero false false w rest (.vasetRd (fin8 (wD w)) (fin8 (wA w)))
  | _ => .bad .illegalOpcode

def decVector3A (w : W32) (rest : List W32) : Dec :=
  match (vSub w).toNat with
  | 0 => vRow .zero .dst .esrc true .zero false false w rest (.vchk (rA w) (eB w rest))
  | 1 => vRow (.lim 8) .dst .zero true .zero false false w rest (.vchkRd (fin8 (wD w)) (rA w))
  | _ => .bad .illegalOpcode

def decVector3B (w : W32) (rest : List W32) : Dec :=
  match (vSub w).toNat with
  | 0 => vRow (.lim 8) .esrc .zero true .zero false false w rest (.vlit (fin8 (wD w)) (eA w rest))
  | 1 => vRow (.lim 8) .esrc .zero true .zero false false w rest (.vlitAdd (fin8 (wD w)) (eA w rest))
  | 2 => vRow (.lim 8) .esrc .zero true .zero false false w rest (.vlitSub (fin8 (wD w)) (eA w rest))
  | _ => .bad .illegalOpcode

/-- The vector map (Table 01-24). -/
def decVector (w : W32) (rest : List W32) : Dec :=
  match wMaj w with
  | 0x01 => vRow .dst .src .src false .fl (vHigh w) (vRoundBad w) w rest (.vadd (rD w) (vA w rest) (vB w rest) (vM w) (vTy w) (vRound w))
  | 0x02 => vRow .dst .src .src false .fl (vHigh w) (vRoundBad w) w rest (.vsub (rD w) (vA w rest) (vB w rest) (vM w) (vTy w) (vRound w))
  | 0x03 => vRow .dst .src .src false .fl (vHigh w) (vRoundBad w) w rest (.vmul (rD w) (vA w rest) (vB w rest) (vM w) (vTy w) (vRound w))
  | 0x04 => vRow .dst .src .src false .fl (vHigh w) (vRoundBad w) w rest (.vfma (rD w) (vA w rest) (vB w rest) (vM w) (vTy w) (vRound w))
  | 0x05 => vRow .dst .src .src false .fl (vSubNe w 0) false w rest (.vmin (rD w) (vA w rest) (vB w rest) (vM w) (vTy w))
  | 0x06 => vRow .dst .src .src false .fl (vSubNe w 0) false w rest (.vmax (rD w) (vA w rest) (vB w rest) (vM w) (vTy w))
  | 0x07 => vRow .dst .src .zero false .fl (vSubNe w 0) false w rest (.vexp2 (rD w) (vA w rest) (vM w) (vTy w))
  | 0x08 => vRow .dst .src .zero false .fl (vSubNe w 0) false w rest (.vlog2 (rD w) (vA w rest) (vM w) (vTy w))
  | 0x09 => vRow .dst .src .zero false .fl (vSubNe w 0) false w rest (.vrcp (rD w) (vA w rest) (vM w) (vTy w))
  | 0x0A => vRow .dst .src .zero false .fl (vSubNe w 0) false w rest (.vrsq (rD w) (vA w rest) (vM w) (vTy w))
  | 0x0B => vRow .dst .src .zero false .fl (vSubNe w 0) false w rest (.vtanh (rD w) (vA w rest) (vM w) (vTy w))
  | 0x0C => vRow .dst .src .src false .ints (vBit w 3 || vBit w 2) false w rest (.viadd (rD w) (vA w rest) (vB w rest) (vM w) (vTy w) (vBit w 1) (vBit w 0))
  | 0x0D => vRow .dst .src .src false .ints (vBit w 3 || vBit w 2) false w rest (.visub (rD w) (vA w rest) (vB w rest) (vM w) (vTy w) (vBit w 1) (vBit w 0))
  | 0x0E => vRow .dst .src .src false .ints (vBit w 3 || vBit w 0) false w rest (.vimul (rD w) (vA w rest) (vB w rest) (vM w) (vTy w) (vBit w 2) (vBit w 1))
  | 0x0F => vRow .dst .src .src false .ints (vBit w 3 || vBit w 2) false w rest (.vimad (rD w) (vA w rest) (vB w rest) (vM w) (vTy w) (vBit w 1) (vBit w 0))
  | 0x10 => vRow .dst .src .src false .ints (vSubNe w 0) false w rest (.vand (rD w) (vA w rest) (vB w rest) (vM w) (vTy w))
  | 0x11 => vRow .dst .src .src false .ints (vSubNe w 0) false w rest (.vor (rD w) (vA w rest) (vB w rest) (vM w) (vTy w))
  | 0x12 => vRow .dst .src .src false .ints (vSubNe w 0) false w rest (.vxor (rD w) (vA w rest) (vB w rest) (vM w) (vTy w))
  | 0x13 => vRow .dst .src .src false .ints (vSubNe w 0) false w rest (.vshl (rD w) (vA w rest) (vB w rest) (vM w) (vTy w))
  | 0x14 => vRow .dst .src .src false .ints (vSubNe w 0) false w rest (.vshr (rD w) (vA w rest) (vB w rest) (vM w) (vTy w))
  | 0x15 => vRow .dst .src .src false .ints (vSubNe w 0) false w rest (.vsra (rD w) (vA w rest) (vB w rest) (vM w) (vTy w))
  | 0x16 => vRow .dst .src .src false .ints (vBit w 3 || vBit w 2 || vBit w 0) false w rest (.vimin (rD w) (vA w rest) (vB w rest) (vM w) (vTy w) (vBit w 1))
  | 0x17 => vRow .dst .src .src false .ints (vBit w 3 || vBit w 2 || vBit w 0) false w rest (.vimax (rD w) (vA w rest) (vB w rest) (vM w) (vTy w) (vBit w 1))
  | 0x18 => vRow .mask17 .src .src false .fi false false w rest (.vcmp (fin8 (wD w)) (vA w rest) (vB w rest) (vM w) (vTy w) (vBit w 3) (vLow3 w))
  | 0x19 => vRow .dst .src .src false .any (vSubNe w 0) (vM w == 0) w rest (.vsel (rD w) (vA w rest) (vB w rest) (vM w) (vTy w))
  | 0x1A => decVector1A w rest
  | 0x1B => decVector1B w rest
  | 0x1C => vRow .dst .dst .any false .any false (vRound3Bad w) w rest (.vcvt (rD w) (rA w) (vSty w) (wB w).msb (vM w) (vTy w) (vBit w 3) (vRound3 w))
  | 0x1D => vRow .dst .dst .dst false .nar (vHigh w) (vRoundBad w || wB w == wD w) w rest (.vquant (rD w) (rA w) (rB w) (vM w) (vTy w) (vRound w))
  | 0x1E => vRow .dst .dst .dst false .nar (vSubNe w 0) false w rest (.vdeq (rD w) (rA w) (rB w) (vM w) (vTy w))
  | 0x1F => vRow .dst .src .zero false .fl (vHigh w) (vRoundBad w || vSubIs w 4) w rest (.vrnd (rD w) (vA w rest) (vM w) (vTy w) (vRound w))
  | 0x20 => vRow .dst .dst .dst false .f32only (vSubNe w 0) false w rest (.vsacc (rD w) (rA w) (rB w) (vM w))
  | 0x21 => decVector21 w rest
  | 0x22 => decVector22 w rest
  | 0x23 => decVector23 w rest
  | 0x24 => vRow .dst (.lim 8) .src false .any (vBit w 3 || vBit w 2 || vBit w 1) false w rest (.vgath (rD w) (fin8 (wA w)) (vB w rest) (vM w) (vTy w) (vBit w 0))
  | 0x25 => vRow .src (.lim 8) .src false .any (vBit w 3 || vBit w 2 || vBit w 1) false w rest (.vscat (vD w rest) (fin8 (wA w)) (vB w rest) (vM w) (vTy w) (vBit w 0))
  | 0x26 => vRow .dst (.lim 4) .esrc false .wide (vSubNe w 0) false w rest (.vtrd (rD w) (fin4 (wA w)) (eB w rest) (vM w) (vTy w))
  | 0x27 => vRow .zero (.lim 4) .zero true .zero (vSubNe w 0) false w rest (.vtrel (fin4 (wA w)))
  | 0x28 => decVector28 w rest
  | 0x29 => decVector29 w rest
  | 0x2A => decVector2A w rest
  | 0x2B => decVector2B w rest
  | 0x2C => vRow .dst .dst .zero false .any (vSubNe w 0) false w rest (.vxpose (rD w) (rA w) (vM w) (vTy w))
  | 0x2D => decVector2D w rest
  | 0x2E => decVector2E w rest
  | 0x2F => decVector2F w rest
  | 0x30 => decVector30 w rest
  | 0x31 => decVector31 w rest
  | 0x32 => vRow .dst .dst .esrc false .fl (vBit w 0 || vBit w 1) (segBad w) w rest (.vsmax (rD w) (rA w) (eB w rest) (vM w) (vTy w) (vDir w))
  | 0x33 => vRow .dst .dst .zero false .fl (vLow3 w == 0) false w rest (.vhad (rD w) (rA w) (vM w) (vTy w) (vBit w 3) (vLow3 w))
  | 0x34 => decVector34 w rest
  | 0x35 => vRow (.lim 8) .esrc .zero true .zero (vSubNe w 0) false w rest (.vaadd (fin8 (wD w)) (eA w rest))
  | 0x36 => vRow .zero .zero .zero true .zero (vSubNe w 0) false w rest (.vend )
  | 0x37 => vRow .zero .zero .zero true .zero (vSubNe w 0) false w rest (.vnop )
  | 0x38 => vRow (.lim 8) .zero .zero true .zero (decide (6 ≤ (vSub w).toNat)) false w rest (.vtokr (fin8 (wD w)) (fin6 (vSub w)))
  | 0x39 => vRow .zero (.lim 8) .zero true .zero (vSubNe w 0) false w rest (.veop (fin8 (wA w)))
  | 0x3A => decVector3A w rest
  | 0x3B => decVector3B w rest
  | _ => .bad .illegalOpcode

def decPerco01 (w : W32) (rest : List W32) : Dec :=
  match (wSub w).toNat with
  | 0 => gRow ⟨.dst, .src, .src, .ty14, .ints⟩ false w rest (.percoAdd (rD w) (sA w rest) (sB w rest) (gTy w))
  | 1 => gRow ⟨.dst, .src, .src, .ty14, .ints⟩ false w rest (.percoSub (rD w) (sA w rest) (sB w rest) (gTy w))
  | 2 => gRow ⟨.dst, .src, .src, .ty14, .ints⟩ false w rest (.percoMul (rD w) (sA w rest) (sB w rest) (gTy w))
  | 3 => gRow ⟨.dst, .src, .src, .ty14, .ints⟩ false w rest (.percoAnd (rD w) (sA w rest) (sB w rest) (gTy w))
  | 4 => gRow ⟨.dst, .src, .src, .ty14, .ints⟩ false w rest (.percoOr (rD w) (sA w rest) (sB w rest) (gTy w))
  | 5 => gRow ⟨.dst, .src, .src, .ty14, .ints⟩ false w rest (.percoXor (rD w) (sA w rest) (sB w rest) (gTy w))
  | 6 => gRow ⟨.dst, .src, .src, .ty14, .ints⟩ false w rest (.percoShl (rD w) (sA w rest) (sB w rest) (gTy w))
  | 7 => gRow ⟨.dst, .src, .src, .ty14, .ints⟩ false w rest (.percoShr (rD w) (sA w rest) (sB w rest) (gTy w))
  | 8 => gRow ⟨.dst, .src, .src, .ty14, .ints⟩ false w rest (.percoMin (rD w) (sA w rest) (sB w rest) (gTy w))
  | 9 => gRow ⟨.dst, .src, .src, .ty14, .ints⟩ false w rest (.percoMax (rD w) (sA w rest) (sB w rest) (gTy w))
  | 40 => gRow ⟨.dst, .src, .src, .ty14, .ints⟩ false w rest (.percoMinUnsigned (rD w) (sA w rest) (sB w rest) (gTy w))
  | 41 => gRow ⟨.dst, .src, .src, .ty14, .ints⟩ false w rest (.percoMaxUnsigned (rD w) (sA w rest) (sB w rest) (gTy w))
  | _ => .bad .illegalOpcode

def decPerco23 (w : W32) (rest : List W32) : Dec :=
  match (wSub w).toNat with
  | 0 => gRow ⟨.dst, .src, .src, .ty14, .word⟩ false w rest (.percoRatomAdd (rD w) (sA w rest) (sB w rest) (gTy w))
  | 1 => gRow ⟨.dst, .src, .src, .ty14, .word⟩ false w rest (.percoRatomAnd (rD w) (sA w rest) (sB w rest) (gTy w))
  | 2 => gRow ⟨.dst, .src, .src, .ty14, .word⟩ false w rest (.percoRatomOr (rD w) (sA w rest) (sB w rest) (gTy w))
  | 3 => gRow ⟨.dst, .src, .src, .ty14, .word⟩ false w rest (.percoRatomXor (rD w) (sA w rest) (sB w rest) (gTy w))
  | 4 => gRow ⟨.dst, .src, .src, .ty14, .word⟩ false w rest (.percoRatomMin (rD w) (sA w rest) (sB w rest) (gTy w))
  | 5 => gRow ⟨.dst, .src, .src, .ty14, .word⟩ false w rest (.percoRatomMax (rD w) (sA w rest) (sB w rest) (gTy w))
  | 6 => gRow ⟨.dst, .src, .src, .ty14, .word⟩ false w rest (.percoRatomMinu (rD w) (sA w rest) (sB w rest) (gTy w))
  | 7 => gRow ⟨.dst, .src, .src, .ty14, .word⟩ false w rest (.percoRatomMaxu (rD w) (sA w rest) (sB w rest) (gTy w))
  | 8 => gRow ⟨.dst, .src, .src, .ty14, .word⟩ false w rest (.percoRatomSwap (rD w) (sA w rest) (sB w rest) (gTy w))
  | 9 => gRow ⟨.dst, .src, .src, .ty14, .word⟩ false w rest (.percoRatomCas (rD w) (sA w rest) (sB w rest) (gTy w))
  | _ => .bad .illegalOpcode

def decPerco28 (w : W32) (rest : List W32) : Dec :=
  match (wSub w).toNat with
  | 0 => gRow ⟨.zero, .src, .src, .ty0, .none⟩ (wideB w) w rest (.tlbinv (sA w rest) (sB w rest))
  | 1 => gRow ⟨.zero, .src, .src, .ty0, .none⟩ (wideB w) w rest (.tlbinvCtx (sA w rest) (sB w rest))
  | 2 => gRow ⟨.zero, .zero, .zero, .never, .none⟩ false w rest (.tlbinvAll)
  | _ => .bad .illegalOpcode

def decPerco2A (w : W32) (rest : List W32) : Dec :=
  match (wSub w).toNat with
  | 0 => gRow ⟨.dst, .src, .zero, .never, .none⟩ false w rest (.resume (rD w) (sA w rest))
  | 1 => gRow ⟨.dst, .src, .zero, .never, .none⟩ false w rest (.resumeDrop (rD w) (sA w rest))
  | _ => .bad .illegalOpcode

/-- The Perco map (Table 01-25). -/
def decPerco (w : W32) (rest : List W32) : Dec :=
  match wMaj w with
  | 0x01 => decPerco01 w rest
  | 0x02 => liRow w rest (.percoLi (rD w) (liVal w rest))
  | 0x03 => iRow .dst .src (wCls w != 0) false w rest (.percoLd (rD w) (nA w rest) (wSize w) (wOfs w))
  | 0x04 => iRow .src .src (wCls w != 0) false w rest (.percoSt (nD w rest) (nA w rest) (wSize w) (wOfs w))
  | 0x05 => iRow .src .src false false w rest (.percoBeq (nD w rest) (nA w rest) (wImm w))
  | 0x06 => iRow .src .src false false w rest (.percoBne (nD w rest) (nA w rest) (wImm w))
  | 0x07 => iRow .src .src false false w rest (.percoBlt (nD w rest) (nA w rest) (wImm w))
  | 0x08 => iRow .src .src false false w rest (.percoBge (nD w rest) (nA w rest) (wImm w))
  | 0x09 => .ok (.percoJ (wJ w)) 1
  | 0x0A => .ok (.percoCall (wJ w)) 1
  | 0x0B => below 1 w <| gRow ⟨.zero, .zero, .zero, .never, .none⟩ false w rest (.percoRet)
  | 0x0C => iRow .zero .src false false w rest (.percoLoop (nA w rest) (wImm w))
  | 0x10 => below 2 w <| gRow ⟨.zero, .src, .zero, .ty0, .none⟩ false w rest (.copy (sA w rest) ((wSub w) == 1))
  | 0x11 => below 2 w <| gRow ⟨.zero, .src, .zero, .ty0, .none⟩ false w rest (.gath (sA w rest) ((wSub w) == 1))
  | 0x12 => below 2 w <| gRow ⟨.zero, .src, .zero, .ty0, .none⟩ false w rest (.scat (sA w rest) ((wSub w) == 1))
  | 0x13 => below 2 w <| gRow ⟨.zero, .src, .zero, .ty0, .none⟩ false w rest (.xpose (sA w rest) ((wSub w) == 1))
  | 0x14 => below 2 w <| gRow ⟨.zero, .src, .zero, .ty0, .none⟩ false w rest (.conv (sA w rest) ((wSub w) == 1))
  | 0x15 => below 2 w <| gRow ⟨.zero, .src, .zero, .ty0, .none⟩ false w rest (.infl (sA w rest) ((wSub w) == 1))
  | 0x16 => below 2 w <| gRow ⟨.zero, .src, .zero, .ty0, .none⟩ false w rest (.mcast (sA w rest) ((wSub w) == 1))
  | 0x17 => below 2 w <| gRow ⟨.zero, .src, .zero, .ty0, .none⟩ false w rest (.red (sA w rest) ((wSub w) == 1))
  | 0x18 => below 2 w <| gRow ⟨.zero, .src, .zero, .ty0, .none⟩ false w rest (.fill (sA w rest) ((wSub w) == 1))
  | 0x19 => below 2 w <| gRow ⟨.zero, .src, .zero, .ty0, .none⟩ false w rest (.nest (sA w rest) ((wSub w) == 1))
  | 0x1A => below 1 w <| gRow ⟨.dst, .src, .zero, .never, .none⟩ false w rest (.abort (rD w) (sA w rest))
  | 0x1B => gRow ⟨.zero, .src, .src, .ty0, .none⟩ (badScope w || wideB w) w rest (.publish (sA w rest) (sB w rest) (gScope w))
  | 0x1C => below 1 w <| gRow ⟨.dst, .src, .zero, .never, .none⟩ false w rest (.seqst (rD w) (sA w rest))
  | 0x20 => gRow ⟨.zero, .src, .src, .ty0, .none⟩ (badScope w || wideB w) w rest (.semadd (sA w rest) (sB w rest) (gScope w))
  | 0x21 => gRow ⟨.zero, .src, .src, .ty0, .none⟩ (badScope w || wideB w) w rest (.percoSemwait (sA w rest) (sB w rest) (gScope w))
  | 0x22 => gRow ⟨.zero, .src, .zero, .never, .none⟩ (badScope w) w rest (.percoFence (sA w rest) (gScope w))
  | 0x23 => decPerco23 w rest
  | 0x24 => gRow ⟨.zero, .src, .zero, .ty0, .none⟩ (badScope w) w rest (.wakea (sA w rest) (gScope w))
  | 0x28 => decPerco28 w rest
  | 0x29 => below 4 w <| gRow ⟨.dst, .src, .src, .ty0, .none⟩ (wideB w) w rest (.mapchk (rD w) (sA w rest) (sB w rest) ((wSub w).getLsbD 1) ((wSub w).getLsbD 0))
  | 0x2A => decPerco2A w rest
  | 0x2B => below 1 w <| gRow ⟨.dst, .src, .zero, .never, .none⟩ false w rest (.killctx (rD w) (sA w rest))
  | 0x30 => iRow .zero .zero false false w rest (.percoTrap (wImm w))
  | 0x31 => below 1 w <| gRow ⟨.zero, .zero, .zero, .never, .none⟩ false w rest (.percoHalt)
  | 0x32 => below 1 w <| gRow ⟨.zero, .zero, .zero, .never, .none⟩ false w rest (.percoNop)
  | 0x33 => iRow .dst .zero (badPercoSys w) false w rest (.percoSysrd (rD w) (wSys w))
  | 0x34 => iRow .zero .src (badPercoSys w) false w rest (.percoSyswr (nA w rest) (wSys w))
  | _ => .bad .illegalOpcode

/-- VCVT carries two more checks: a source TYPE above 13 in B[3:0], and an unsigned mark on a side that has no
integer type of 11-13 (R165). -/
def vcvtBad (w : W32) : Bool :=
  ((wB w).extractLsb' 0 4).toNat > 13
    || ((wB w).msb && !(11 ≤ ((wB w).extractLsb' 0 4).toNat)) || (vBit w 3 && !(11 ≤ (vTyc w).toNat))

/-- VCMP codes 6 and 7 need a floating type, and SUB[3] an integer one (R162). -/
def vcmpBad (w : W32) : Bool :=
  ((vLow3 w).val ≥ 6 && 11 ≤ (vTyc w).toNat) || (vBit w 3 && (vTyc w).toNat < 11)

/-- The vector map with the type checks of VCVT and VCMP, which come after every other decode cause. -/
def decVectorChecked (w : W32) (rest : List W32) : Dec :=
  match decVector w rest with
  | .ok i n =>
    if (wMaj w == 0x1C && vcvtBad w) || (wMaj w == 0x18 && vcmpBad w) then .bad .formatInvalid else .ok i n
  | .bad c => .bad c

/-- One stream's decoder. -/
def decode (s : Strm) (ws : List W32) : Dec :=
  match ws with
  | [] => .bad .badLiteral
  | w :: rest =>
    match s with
    | .stem => decStem w rest
    | .vector => decVectorChecked w rest
    | .perco => decPerco w rest

/-! The encoder. -/
def eG (maj : BitVec 6) (d a b : BitVec 5) (wide : Bool) (ty : BitVec 4) (sub : BitVec 6) (lit : List W32) : List W32 :=
  (maj ++ d ++ a ++ b ++ BitVec.ofBool wide ++ ty ++ sub) :: lit
def eI (maj : BitVec 6) (d a : BitVec 5) (imm : BitVec 16) (lit : List W32) : List W32 := (maj ++ d ++ a ++ imm) :: lit
def eM (maj : BitVec 6) (d a : BitVec 5) (cls : BitVec 4) (size : BitVec 2) (ofs : BitVec 10) (lit : List W32) : List W32 :=
  (maj ++ d ++ a ++ cls ++ size ++ ofs) :: lit
def eJ (maj : BitVec 6) (ofs : BitVec 26) : List W32 := [maj ++ ofs]
def eV (maj : BitVec 6) (d a b : BitVec 5) (msel : BitVec 3) (ty sub : BitVec 4) (lit : List W32) : List W32 :=
  (maj ++ d ++ a ++ b ++ msel ++ ty ++ sub) :: lit
def liCode : LiVal → BitVec 5
  | .imm _ => 0
  | .lit _ => 31
def liImm : LiVal → BitVec 16
  | .imm i => i
  | .lit _ => 0
/-- SUB[3:0] from its four bits, highest first. -/
def subBits (b3 b2 b1 b0 : Bool) : BitVec 4 := BitVec.ofBool b3 ++ BitVec.ofBool b2 ++ BitVec.ofBool b1 ++ BitVec.ofBool b0


/-- The words of an instruction, written from the encoding tables (Tables 03-1, 04-2, 05-1, 06-1, 07-4); none for an
event. -/
def encode (i : Instr) : List W32 :=
  match i with
  | .add d a b ty => eG 0x01 (regCode d) a.code b.code (a.isWide || b.isWide) ty.code 0x00 (a.words ++ b.words)
  | .sub d a b ty => eG 0x01 (regCode d) a.code b.code (a.isWide || b.isWide) ty.code 0x01 (a.words ++ b.words)
  | .mul d a b ty => eG 0x01 (regCode d) a.code b.code (a.isWide || b.isWide) ty.code 0x02 (a.words ++ b.words)
  | .mulh d a b ty => eG 0x01 (regCode d) a.code b.code (a.isWide || b.isWide) ty.code 0x03 (a.words ++ b.words)
  | .div d a b ty => eG 0x01 (regCode d) a.code b.code (a.isWide || b.isWide) ty.code 0x04 (a.words ++ b.words)
  | .rem d a b ty => eG 0x01 (regCode d) a.code b.code (a.isWide || b.isWide) ty.code 0x05 (a.words ++ b.words)
  | .and d a b ty => eG 0x01 (regCode d) a.code b.code (a.isWide || b.isWide) ty.code 0x06 (a.words ++ b.words)
  | .or d a b ty => eG 0x01 (regCode d) a.code b.code (a.isWide || b.isWide) ty.code 0x07 (a.words ++ b.words)
  | .xor d a b ty => eG 0x01 (regCode d) a.code b.code (a.isWide || b.isWide) ty.code 0x08 (a.words ++ b.words)
  | .shl d a b ty => eG 0x01 (regCode d) a.code b.code (a.isWide || b.isWide) ty.code 0x09 (a.words ++ b.words)
  | .shr d a b ty => eG 0x01 (regCode d) a.code b.code (a.isWide || b.isWide) ty.code 0x0A (a.words ++ b.words)
  | .sra d a b ty => eG 0x01 (regCode d) a.code b.code (a.isWide || b.isWide) ty.code 0x0B (a.words ++ b.words)
  | .min d a b ty => eG 0x01 (regCode d) a.code b.code (a.isWide || b.isWide) ty.code 0x0C (a.words ++ b.words)
  | .max d a b ty => eG 0x01 (regCode d) a.code b.code (a.isWide || b.isWide) ty.code 0x0D (a.words ++ b.words)
  | .slt d a b ty => eG 0x01 (regCode d) a.code b.code (a.isWide || b.isWide) ty.code 0x0E (a.words ++ b.words)
  | .sltu d a b ty => eG 0x01 (regCode d) a.code b.code (a.isWide || b.isWide) ty.code 0x0F (a.words ++ b.words)
  | .madd d a b ty => eG 0x01 (regCode d) a.code b.code (a.isWide || b.isWide) ty.code 0x10 (a.words ++ b.words)
  | .clz d a ty => eG 0x01 (regCode d) a.code 0 a.isWide ty.code 0x11 a.words
  | .popc d a ty => eG 0x01 (regCode d) a.code 0 a.isWide ty.code 0x12 a.words
  | .mulhUnsigned d a b ty => eG 0x01 (regCode d) a.code b.code (a.isWide || b.isWide) ty.code 0x23 (a.words ++ b.words)
  | .divUnsigned d a b ty => eG 0x01 (regCode d) a.code b.code (a.isWide || b.isWide) ty.code 0x24 (a.words ++ b.words)
  | .remUnsigned d a b ty => eG 0x01 (regCode d) a.code b.code (a.isWide || b.isWide) ty.code 0x25 (a.words ++ b.words)
  | .minUnsigned d a b ty => eG 0x01 (regCode d) a.code b.code (a.isWide || b.isWide) ty.code 0x2C (a.words ++ b.words)
  | .maxUnsigned d a b ty => eG 0x01 (regCode d) a.code b.code (a.isWide || b.isWide) ty.code 0x2D (a.words ++ b.words)
  | .li d v => eI 0x02 (regCode d) (liCode v) (liImm v) v.words
  | .beq x y ofs => eI 0x03 x.code y.code ofs (x.words ++ y.words)
  | .bne x y ofs => eI 0x04 x.code y.code ofs (x.words ++ y.words)
  | .blt x y ofs => eI 0x05 x.code y.code ofs (x.words ++ y.words)
  | .bge x y ofs => eI 0x06 x.code y.code ofs (x.words ++ y.words)
  | .bltu x y ofs => eI 0x07 x.code y.code ofs (x.words ++ y.words)
  | .bgeu x y ofs => eI 0x08 x.code y.code ofs (x.words ++ y.words)
  | .j ofs => eJ 0x09 ofs
  | .jal ofs => eJ 0x0A ofs
  | .jr a => eG 0x0B 0 a.code 0 false 0 0x00 a.words
  | .jrCall a => eG 0x0B 0 a.code 0 false 0 0x01 a.words
  | .loop a imm => eI 0x0D 0 a.code imm a.words
  | .mvlc lc a => eG 0x0E (BitVec.ofNat 5 lc.val) a.code 0 false 0 0x00 a.words
  | .mvlcRead d lc => eG 0x0E (regCode d) (BitVec.ofNat 5 lc.val) 0 false 0 0x01 []
  | .ld d a cls size ofs => eM 0x10 (regCode d) a.code cls size ofs a.words
  | .ldZeroExtending d a cls size ofs => eM 0x2A (regCode d) a.code cls size ofs a.words
  | .st x a cls size ofs => eM 0x11 x.code a.code cls size ofs (x.words ++ a.words)
  | .amoAdd d a b ty => eG 0x12 (regCode d) a.code b.code (a.isWide || b.isWide) ty.code 0x00 (a.words ++ b.words)
  | .amoAnd d a b ty => eG 0x12 (regCode d) a.code b.code (a.isWide || b.isWide) ty.code 0x01 (a.words ++ b.words)
  | .amoOr d a b ty => eG 0x12 (regCode d) a.code b.code (a.isWide || b.isWide) ty.code 0x02 (a.words ++ b.words)
  | .amoXor d a b ty => eG 0x12 (regCode d) a.code b.code (a.isWide || b.isWide) ty.code 0x03 (a.words ++ b.words)
  | .amoMin d a b ty => eG 0x12 (regCode d) a.code b.code (a.isWide || b.isWide) ty.code 0x04 (a.words ++ b.words)
  | .amoMax d a b ty => eG 0x12 (regCode d) a.code b.code (a.isWide || b.isWide) ty.code 0x05 (a.words ++ b.words)
  | .amoMinu d a b ty => eG 0x12 (regCode d) a.code b.code (a.isWide || b.isWide) ty.code 0x06 (a.words ++ b.words)
  | .amoMaxu d a b ty => eG 0x12 (regCode d) a.code b.code (a.isWide || b.isWide) ty.code 0x07 (a.words ++ b.words)
  | .amoSwap d a b ty => eG 0x12 (regCode d) a.code b.code (a.isWide || b.isWide) ty.code 0x08 (a.words ++ b.words)
  | .cas d a b ty => eG 0x13 (regCode d) a.code b.code (a.isWide || b.isWide) ty.code 0x00 (a.words ++ b.words)
  | .semwait a b sc => eG 0x14 0 a.code b.code false 0 sc.code (a.words ++ b.words)
  | .sempost a b sc => eG 0x15 0 a.code b.code false 0 sc.code (a.words ++ b.words)
  | .waita d a b ty sc => eG 0x16 (regCode d) a.code b.code false ty.code sc.code (a.words ++ b.words)
  | .fence a sc => eG 0x17 0 a.code 0 false 0 sc.code a.words
  | .bar a sc => eG 0x18 0 a.code 0 false 0 sc.code a.words
  | .token d n a b => eG 0x19 (BitVec.ofNat 5 d.val) a.code b.code (a.isWide || b.isWide) 0 (BitVec.ofNat 6 n.val) (a.words ++ b.words)
  | .twait t => eG 0x1A (BitVec.ofNat 5 t.val) 0 0 false 0 0x00 []
  | .xfer a hi => eG 0x1B 0 a.code 0 false 0 (BitVec.ofNat 6 hi.toNat) a.words
  | .rcall a b hi => eG 0x1C 0 a.code b.code (a.isWide || b.isWide) 0 (BitVec.ofNat 6 hi.toNat) (a.words ++ b.words)
  | .ratomAdd d a b ty => eG 0x1D (regCode d) a.code b.code (a.isWide || b.isWide) ty.code 0x00 (a.words ++ b.words)
  | .ratomAnd d a b ty => eG 0x1D (regCode d) a.code b.code (a.isWide || b.isWide) ty.code 0x01 (a.words ++ b.words)
  | .ratomOr d a b ty => eG 0x1D (regCode d) a.code b.code (a.isWide || b.isWide) ty.code 0x02 (a.words ++ b.words)
  | .ratomXor d a b ty => eG 0x1D (regCode d) a.code b.code (a.isWide || b.isWide) ty.code 0x03 (a.words ++ b.words)
  | .ratomMin d a b ty => eG 0x1D (regCode d) a.code b.code (a.isWide || b.isWide) ty.code 0x04 (a.words ++ b.words)
  | .ratomMax d a b ty => eG 0x1D (regCode d) a.code b.code (a.isWide || b.isWide) ty.code 0x05 (a.words ++ b.words)
  | .ratomMinu d a b ty => eG 0x1D (regCode d) a.code b.code (a.isWide || b.isWide) ty.code 0x06 (a.words ++ b.words)
  | .ratomMaxu d a b ty => eG 0x1D (regCode d) a.code b.code (a.isWide || b.isWide) ty.code 0x07 (a.words ++ b.words)
  | .ratomSwap d a b ty => eG 0x1D (regCode d) a.code b.code (a.isWide || b.isWide) ty.code 0x08 (a.words ++ b.words)
  | .ratomCas d a b ty => eG 0x1D (regCode d) a.code b.code (a.isWide || b.isWide) ty.code 0x09 (a.words ++ b.words)
  | .probe d a imm => eI 0x1E (regCode d) a.code imm a.words
  | .pwait a => eG 0x1F 0 a.code 0 false 0 0x00 a.words
  | .pin a => eG 0x20 0 a.code 0 false 0 0x00 a.words
  | .unpin a => eG 0x21 0 a.code 0 false 0 0x00 a.words
  | .cinv a => eG 0x22 0 a.code 0 false 0 0x00 a.words
  | .shld sh a => eG 0x23 (BitVec.ofNat 5 sh.val) a.code 0 false 0 0x00 a.words
  | .shinv sh => eG 0x24 (BitVec.ofNat 5 sh.val) 0 0 false 0 0x00 []
  | .launch a => eG 0x25 0 a.code 0 false 0 0x00 a.words
  | .trap imm => eI 0x26 0 0 imm []
  | .sysrd d r => eI 0x27 (regCode d) 0 ((0 : BitVec 4) ++ r) []
  | .syswr a r => eI 0x28 0 a.code ((0 : BitVec 4) ++ r) a.words
  | .rdcyc d => eG 0x29 (regCode d) 0 0 false 0 0x04 []
  | .mma c a b mods => eG 0x30 c.code a.code b.code (c.isWide || a.isWide || b.isWide) 0 mods (c.words ++ a.words ++ b.words)
  | .mmas c a b mods => eG 0x31 c.code a.code b.code (c.isWide || a.isWide || b.isWide) 0 mods (c.words ++ a.words ++ b.words)
  | .mclr m => eG 0x32 (BitVec.ofNat 5 m.val) 0 0 false 0 0x00 []
  | .memit t m z => eG 0x33 (BitVec.ofNat 5 t.val) (BitVec.ofNat 5 m.val) 0 false 0 (BitVec.ofNat 6 z.toNat) []
  | .mtld m a => eG 0x34 (BitVec.ofNat 5 m.val) a.code 0 false 0 0x00 a.words
  | .mtst m a => eG 0x35 (BitVec.ofNat 5 m.val) a.code 0 false 0 0x00 a.words
  | .mtbar a b => eG 0x36 0 a.code b.code false 0 0x00 (a.words ++ b.words)
  | .mfmt g a => eG 0x37 (BitVec.ofNat 5 g.val) a.code 0 a.isWide 0 0x00 a.words
  | .mwait a b sc => eG 0x39 0 a.code b.code false 0 sc.code (a.words ++ b.words)
  | .msig a b sc => eG 0x3A 0 a.code b.code false 0 sc.code (a.words ++ b.words)
  | .vadd d a b m ty r => eV 0x01 (regCode d) a.code b.code (BitVec.ofNat 3 m.val) ty.code r.code (a.words ++ b.words)
  | .vsub d a b m ty r => eV 0x02 (regCode d) a.code b.code (BitVec.ofNat 3 m.val) ty.code r.code (a.words ++ b.words)
  | .vmul d a b m ty r => eV 0x03 (regCode d) a.code b.code (BitVec.ofNat 3 m.val) ty.code r.code (a.words ++ b.words)
  | .vfma d a b m ty r => eV 0x04 (regCode d) a.code b.code (BitVec.ofNat 3 m.val) ty.code r.code (a.words ++ b.words)
  | .vmin d a b m ty => eV 0x05 (regCode d) a.code b.code (BitVec.ofNat 3 m.val) ty.code 0x0 (a.words ++ b.words)
  | .vmax d a b m ty => eV 0x06 (regCode d) a.code b.code (BitVec.ofNat 3 m.val) ty.code 0x0 (a.words ++ b.words)
  | .vexp2 d a m ty => eV 0x07 (regCode d) a.code 0 (BitVec.ofNat 3 m.val) ty.code 0x0 a.words
  | .vlog2 d a m ty => eV 0x08 (regCode d) a.code 0 (BitVec.ofNat 3 m.val) ty.code 0x0 a.words
  | .vrcp d a m ty => eV 0x09 (regCode d) a.code 0 (BitVec.ofNat 3 m.val) ty.code 0x0 a.words
  | .vrsq d a m ty => eV 0x0A (regCode d) a.code 0 (BitVec.ofNat 3 m.val) ty.code 0x0 a.words
  | .vtanh d a m ty => eV 0x0B (regCode d) a.code 0 (BitVec.ofNat 3 m.val) ty.code 0x0 a.words
  | .viadd d a b m ty u sat => eV 0x0C (regCode d) a.code b.code (BitVec.ofNat 3 m.val) ty.code (subBits false false u sat) (a.words ++ b.words)
  | .visub d a b m ty u sat => eV 0x0D (regCode d) a.code b.code (BitVec.ofNat 3 m.val) ty.code (subBits false false u sat) (a.words ++ b.words)
  | .vimul d a b m ty h u => eV 0x0E (regCode d) a.code b.code (BitVec.ofNat 3 m.val) ty.code (subBits false h u false) (a.words ++ b.words)
  | .vimad d a b m ty u sat => eV 0x0F (regCode d) a.code b.code (BitVec.ofNat 3 m.val) ty.code (subBits false false u sat) (a.words ++ b.words)
  | .vand d a b m ty => eV 0x10 (regCode d) a.code b.code (BitVec.ofNat 3 m.val) ty.code 0x0 (a.words ++ b.words)
  | .vor d a b m ty => eV 0x11 (regCode d) a.code b.code (BitVec.ofNat 3 m.val) ty.code 0x0 (a.words ++ b.words)
  | .vxor d a b m ty => eV 0x12 (regCode d) a.code b.code (BitVec.ofNat 3 m.val) ty.code 0x0 (a.words ++ b.words)
  | .vshl d a b m ty => eV 0x13 (regCode d) a.code b.code (BitVec.ofNat 3 m.val) ty.code 0x0 (a.words ++ b.words)
  | .vshr d a b m ty => eV 0x14 (regCode d) a.code b.code (BitVec.ofNat 3 m.val) ty.code 0x0 (a.words ++ b.words)
  | .vsra d a b m ty => eV 0x15 (regCode d) a.code b.code (BitVec.ofNat 3 m.val) ty.code 0x0 (a.words ++ b.words)
  | .vimin d a b m ty u => eV 0x16 (regCode d) a.code b.code (BitVec.ofNat 3 m.val) ty.code (subBits false false u false) (a.words ++ b.words)
  | .vimax d a b m ty u => eV 0x17 (regCode d) a.code b.code (BitVec.ofNat 3 m.val) ty.code (subBits false false u false) (a.words ++ b.words)
  | .vcmp d a b m ty u c => eV 0x18 (BitVec.ofNat 5 d.val) a.code b.code (BitVec.ofNat 3 m.val) ty.code (BitVec.ofBool u ++ BitVec.ofNat 3 c.val) (a.words ++ b.words)
  | .vsel d a b m ty => eV 0x19 (regCode d) a.code b.code (BitVec.ofNat 3 m.val) ty.code 0 (a.words ++ b.words)
  | .vmopAnd d a b => eV 0x1A (BitVec.ofNat 5 d.val) (BitVec.ofNat 5 a.val) (BitVec.ofNat 5 b.val) 0 0 0x0 []
  | .vmopOr d a b => eV 0x1A (BitVec.ofNat 5 d.val) (BitVec.ofNat 5 a.val) (BitVec.ofNat 5 b.val) 0 0 0x1 []
  | .vmopXor d a b => eV 0x1A (BitVec.ofNat 5 d.val) (BitVec.ofNat 5 a.val) (BitVec.ofNat 5 b.val) 0 0 0x2 []
  | .vmopAndn d a b => eV 0x1A (BitVec.ofNat 5 d.val) (BitVec.ofNat 5 a.val) (BitVec.ofNat 5 b.val) 0 0 0x3 []
  | .vmopNot d a => eV 0x1A (BitVec.ofNat 5 d.val) (BitVec.ofNat 5 a.val) 0 0 0 0x4 []
  | .vmopOnes d => eV 0x1A (BitVec.ofNat 5 d.val) 0 0 0 0 0x5 []
  | .vmopZeros d => eV 0x1A (BitVec.ofNat 5 d.val) 0 0 0 0 0x6 []
  | .vmopCopy d a => eV 0x1A (BitVec.ofNat 5 d.val) (BitVec.ofNat 5 a.val) 0 0 0 0x7 []
  | .vmpop d a => eV 0x1B (BitVec.ofNat 5 d.val) (BitVec.ofNat 5 a.val) 0 0 0 0x0 []
  | .vmpopFirst d a => eV 0x1B (BitVec.ofNat 5 d.val) (BitVec.ofNat 5 a.val) 0 0 0 0x1 []
  | .vcvt d a sty su m ty du r => eV 0x1C (regCode d) (regCode a) (BitVec.ofBool su ++ sty.code) (BitVec.ofNat 3 m.val) ty.code (BitVec.ofBool du ++ r.code.setWidth 3) []
  | .vquant d a s m ty r => eV 0x1D (regCode d) (regCode a) (regCode s) (BitVec.ofNat 3 m.val) ty.code r.code []
  | .vdeq d a s m ty => eV 0x1E (regCode d) (regCode a) (regCode s) (BitVec.ofNat 3 m.val) ty.code 0 []
  | .vrnd d a m ty r => eV 0x1F (regCode d) a.code 0 (BitVec.ofNat 3 m.val) ty.code r.code a.words
  | .vsacc d a s m => eV 0x20 (regCode d) (regCode a) (regCode s) (BitVec.ofNat 3 m.val) 8 0 []
  | .vld d a b m ty p => eV 0x21 (regCode d) (BitVec.ofNat 5 a.val) b.code (BitVec.ofNat 3 m.val) ty.code (BitVec.ofNat 4 p.val) b.words
  | .vldRagged d a b m ty pf k => eV 0x21 (regCode d) (BitVec.ofNat 5 a.val) b.code (BitVec.ofNat 3 m.val) ty.code (BitVec.ofBool true ++ BitVec.ofBool pf ++ BitVec.ofNat 2 k.val) b.words
  | .vst x a b m ty p => eV 0x22 x.code (BitVec.ofNat 5 a.val) b.code (BitVec.ofNat 3 m.val) ty.code (BitVec.ofNat 4 p.val) (x.words ++ b.words)
  | .vstRagged x a b m ty pf k => eV 0x22 x.code (BitVec.ofNat 5 a.val) b.code (BitVec.ofNat 3 m.val) ty.code (BitVec.ofBool true ++ BitVec.ofBool pf ++ BitVec.ofNat 2 k.val) (x.words ++ b.words)
  | .vldb d a m ty => eV 0x23 (regCode d) (BitVec.ofNat 5 a.val) 0 (BitVec.ofNat 3 m.val) ty.code 0x0 []
  | .vldbPf d a m ty => eV 0x23 (regCode d) (BitVec.ofNat 5 a.val) 0 (BitVec.ofNat 3 m.val) ty.code 0x3 []
  | .vgath d a b m ty sc => eV 0x24 (regCode d) (BitVec.ofNat 5 a.val) b.code (BitVec.ofNat 3 m.val) ty.code (subBits false false false sc) b.words
  | .vscat x a b m ty sc => eV 0x25 x.code (BitVec.ofNat 5 a.val) b.code (BitVec.ofNat 3 m.val) ty.code (subBits false false false sc) (x.words ++ b.words)
  | .vtrd d t b m ty => eV 0x26 (regCode d) (BitVec.ofNat 5 t.val) b.code (BitVec.ofNat 3 m.val) ty.code 0 b.words
  | .vtrel t => eV 0x27 0 (BitVec.ofNat 5 t.val) 0 0 0 0 []
  | .vmov d a m ty => eV 0x28 (regCode d) a.code 0 (BitVec.ofNat 3 m.val) ty.code 0x0 a.words
  | .vmovIns d a b ty => eV 0x28 (regCode d) a.code b.code 0 ty.code 1 (a.words ++ b.words)
  | .vmovExt d a b ty => eV 0x28 (BitVec.ofNat 5 d.val) (regCode a) b.code 0 ty.code 2 b.words
  | .vsplat d a m ty => eV 0x29 (regCode d) a.code 0 (BitVec.ofNat 3 m.val) ty.code 0x0 a.words
  | .vsplatRow d a m ty => eV 0x29 (regCode d) (regCode a) 0 (BitVec.ofNat 3 m.val) ty.code 0x1 []
  | .vsplatCol d a m ty => eV 0x29 (regCode d) (regCode a) 0 (BitVec.ofNat 3 m.val) ty.code 0x2 []
  | .vshape a => eV 0x2A 0 a.code 0 0 0 0 a.words
  | .vshapeRd d => eV 0x2A (BitVec.ofNat 5 d.val) 0 0 0 0 1 []
  | .vperm d a b m ty => eV 0x2B (regCode d) (regCode a) b.code (BitVec.ofNat 3 m.val) ty.code 0x0 b.words
  | .vpermRows d a b m ty => eV 0x2B (regCode d) (regCode a) b.code (BitVec.ofNat 3 m.val) ty.code 0x1 b.words
  | .vxpose d a m ty => eV 0x2C (regCode d) (regCode a) 0 (BitVec.ofNat 3 m.val) ty.code 0x0 []
  | .vslide d a b m ty => eV 0x2D (regCode d) (regCode a) b.code (BitVec.ofNat 3 m.val) ty.code 0x0 b.words
  | .vslideRot d a b m ty => eV 0x2D (regCode d) (regCode a) b.code (BitVec.ofNat 3 m.val) ty.code 0x1 b.words
  | .vslideFlat d a b m ty => eV 0x2D (regCode d) (regCode a) b.code (BitVec.ofNat 3 m.val) ty.code 0x2 b.words
  | .vredAdd d a b m ty g => eV 0x2E (regCode d) (regCode a) b.code (BitVec.ofNat 3 m.val) ty.code (g.code ++ (0x0 : BitVec 2)) b.words
  | .vredMax d a b m ty g => eV 0x2E (regCode d) (regCode a) b.code (BitVec.ofNat 3 m.val) ty.code (g.code ++ (0x1 : BitVec 2)) b.words
  | .vredMin d a b m ty g => eV 0x2E (regCode d) (regCode a) b.code (BitVec.ofNat 3 m.val) ty.code (g.code ++ (0x2 : BitVec 2)) b.words
  | .vridxMax d a b m ty g => eV 0x2F (regCode d) (regCode a) b.code (BitVec.ofNat 3 m.val) ty.code (g.code ++ (0x1 : BitVec 2)) b.words
  | .vridxMin d a b m ty g => eV 0x2F (regCode d) (regCode a) b.code (BitVec.ofNat 3 m.val) ty.code (g.code ++ (0x2 : BitVec 2)) b.words
  | .vscanAdd d a b m ty g => eV 0x30 (regCode d) (regCode a) b.code (BitVec.ofNat 3 m.val) ty.code (g.code ++ (0x0 : BitVec 2)) b.words
  | .vscanMax d a b m ty g => eV 0x30 (regCode d) (regCode a) b.code (BitVec.ofNat 3 m.val) ty.code (g.code ++ (0x1 : BitVec 2)) b.words
  | .vscanMin d a b m ty g => eV 0x30 (regCode d) (regCode a) b.code (BitVec.ofNat 3 m.val) ty.code (g.code ++ (0x2 : BitVec 2)) b.words
  | .vnormMs d a b m ty g => eV 0x31 (regCode d) (regCode a) b.code (BitVec.ofNat 3 m.val) ty.code (g.code ++ (0x0 : BitVec 2)) b.words
  | .vnormRms d a b m ty g => eV 0x31 (regCode d) (regCode a) b.code (BitVec.ofNat 3 m.val) ty.code (g.code ++ (0x1 : BitVec 2)) b.words
  | .vsmax d a b m ty g => eV 0x32 (regCode d) (regCode a) b.code (BitVec.ofNat 3 m.val) ty.code (g.code ++ (0x0 : BitVec 2)) b.words
  | .vhad d a m ty n k => eV 0x33 (regCode d) (regCode a) 0 (BitVec.ofNat 3 m.val) ty.code (BitVec.ofBool n ++ BitVec.ofNat 3 k.val) []
  | .vaset n a => eV 0x34 (BitVec.ofNat 5 n.val) a.code 0 0 0 0x0 a.words
  | .vasetWst n a => eV 0x34 (BitVec.ofNat 5 n.val) a.code 0 0 0 0x1 a.words
  | .vasetWlen n a => eV 0x34 (BitVec.ofNat 5 n.val) a.code 0 0 0 0x2 a.words
  | .vasetRd d a => eV 0x34 (BitVec.ofNat 5 d.val) (BitVec.ofNat 5 a.val) 0 0 0 3 []
  | .vaadd n a => eV 0x35 (BitVec.ofNat 5 n.val) a.code 0 0 0 0 a.words
  | .vtokr d f => eV 0x38 (BitVec.ofNat 5 d.val) 0 0 0 0 (BitVec.ofNat 4 f.val) []
  | .veop a => eV 0x39 0 (BitVec.ofNat 5 a.val) 0 0 0 0 []
  | .vchk a b => eV 0x3A 0 (regCode a) b.code 0 0 0 b.words
  | .vchkRd d a => eV 0x3A (BitVec.ofNat 5 d.val) (regCode a) 0 0 0 1 []
  | .vlit d a => eV 0x3B (BitVec.ofNat 5 d.val) a.code 0 0 0 0x0 a.words
  | .vlitAdd d a => eV 0x3B (BitVec.ofNat 5 d.val) a.code 0 0 0 0x1 a.words
  | .vlitSub d a => eV 0x3B (BitVec.ofNat 5 d.val) a.code 0 0 0 0x2 a.words
  | .percoAdd d a b ty => eG 0x01 (regCode d) a.code b.code (a.isWide || b.isWide) ty.code 0x00 (a.words ++ b.words)
  | .percoSub d a b ty => eG 0x01 (regCode d) a.code b.code (a.isWide || b.isWide) ty.code 0x01 (a.words ++ b.words)
  | .percoMul d a b ty => eG 0x01 (regCode d) a.code b.code (a.isWide || b.isWide) ty.code 0x02 (a.words ++ b.words)
  | .percoAnd d a b ty => eG 0x01 (regCode d) a.code b.code (a.isWide || b.isWide) ty.code 0x03 (a.words ++ b.words)
  | .percoOr d a b ty => eG 0x01 (regCode d) a.code b.code (a.isWide || b.isWide) ty.code 0x04 (a.words ++ b.words)
  | .percoXor d a b ty => eG 0x01 (regCode d) a.code b.code (a.isWide || b.isWide) ty.code 0x05 (a.words ++ b.words)
  | .percoShl d a b ty => eG 0x01 (regCode d) a.code b.code (a.isWide || b.isWide) ty.code 0x06 (a.words ++ b.words)
  | .percoShr d a b ty => eG 0x01 (regCode d) a.code b.code (a.isWide || b.isWide) ty.code 0x07 (a.words ++ b.words)
  | .percoMin d a b ty => eG 0x01 (regCode d) a.code b.code (a.isWide || b.isWide) ty.code 0x08 (a.words ++ b.words)
  | .percoMax d a b ty => eG 0x01 (regCode d) a.code b.code (a.isWide || b.isWide) ty.code 0x09 (a.words ++ b.words)
  | .percoMinUnsigned d a b ty => eG 0x01 (regCode d) a.code b.code (a.isWide || b.isWide) ty.code 0x28 (a.words ++ b.words)
  | .percoMaxUnsigned d a b ty => eG 0x01 (regCode d) a.code b.code (a.isWide || b.isWide) ty.code 0x29 (a.words ++ b.words)
  | .percoLi d v => eI 0x02 (regCode d) (liCode v) (liImm v) v.words
  | .percoLd d a size ofs => eM 0x03 (regCode d) a.code 0 size ofs a.words
  | .percoSt x a size ofs => eM 0x04 x.code a.code 0 size ofs (x.words ++ a.words)
  | .percoBeq x y ofs => eI 0x05 x.code y.code ofs (x.words ++ y.words)
  | .percoBne x y ofs => eI 0x06 x.code y.code ofs (x.words ++ y.words)
  | .percoBlt x y ofs => eI 0x07 x.code y.code ofs (x.words ++ y.words)
  | .percoBge x y ofs => eI 0x08 x.code y.code ofs (x.words ++ y.words)
  | .percoJ ofs => eJ 0x09 ofs
  | .percoCall ofs => eJ 0x0A ofs
  | .percoLoop a imm => eI 0x0C 0 a.code imm a.words
  | .copy a sy => eG 0x10 0 a.code 0 a.isWide 0 (BitVec.ofNat 6 sy.toNat) a.words
  | .gath a sy => eG 0x11 0 a.code 0 a.isWide 0 (BitVec.ofNat 6 sy.toNat) a.words
  | .scat a sy => eG 0x12 0 a.code 0 a.isWide 0 (BitVec.ofNat 6 sy.toNat) a.words
  | .xpose a sy => eG 0x13 0 a.code 0 a.isWide 0 (BitVec.ofNat 6 sy.toNat) a.words
  | .conv a sy => eG 0x14 0 a.code 0 a.isWide 0 (BitVec.ofNat 6 sy.toNat) a.words
  | .infl a sy => eG 0x15 0 a.code 0 a.isWide 0 (BitVec.ofNat 6 sy.toNat) a.words
  | .mcast a sy => eG 0x16 0 a.code 0 a.isWide 0 (BitVec.ofNat 6 sy.toNat) a.words
  | .red a sy => eG 0x17 0 a.code 0 a.isWide 0 (BitVec.ofNat 6 sy.toNat) a.words
  | .fill a sy => eG 0x18 0 a.code 0 a.isWide 0 (BitVec.ofNat 6 sy.toNat) a.words
  | .nest a sy => eG 0x19 0 a.code 0 a.isWide 0 (BitVec.ofNat 6 sy.toNat) a.words
  | .abort d a => eG 0x1A (regCode d) a.code 0 false 0 0x00 a.words
  | .publish a b sc => eG 0x1B 0 a.code b.code (a.isWide || b.isWide) 0 sc.code (a.words ++ b.words)
  | .seqst d a => eG 0x1C (regCode d) a.code 0 false 0 0x00 a.words
  | .semadd a b sc => eG 0x20 0 a.code b.code (a.isWide || b.isWide) 0 sc.code (a.words ++ b.words)
  | .percoSemwait a b sc => eG 0x21 0 a.code b.code (a.isWide || b.isWide) 0 sc.code (a.words ++ b.words)
  | .percoFence a sc => eG 0x22 0 a.code 0 false 0 sc.code a.words
  | .percoRatomAdd d a b ty => eG 0x23 (regCode d) a.code b.code (a.isWide || b.isWide) ty.code 0x00 (a.words ++ b.words)
  | .percoRatomAnd d a b ty => eG 0x23 (regCode d) a.code b.code (a.isWide || b.isWide) ty.code 0x01 (a.words ++ b.words)
  | .percoRatomOr d a b ty => eG 0x23 (regCode d) a.code b.code (a.isWide || b.isWide) ty.code 0x02 (a.words ++ b.words)
  | .percoRatomXor d a b ty => eG 0x23 (regCode d) a.code b.code (a.isWide || b.isWide) ty.code 0x03 (a.words ++ b.words)
  | .percoRatomMin d a b ty => eG 0x23 (regCode d) a.code b.code (a.isWide || b.isWide) ty.code 0x04 (a.words ++ b.words)
  | .percoRatomMax d a b ty => eG 0x23 (regCode d) a.code b.code (a.isWide || b.isWide) ty.code 0x05 (a.words ++ b.words)
  | .percoRatomMinu d a b ty => eG 0x23 (regCode d) a.code b.code (a.isWide || b.isWide) ty.code 0x06 (a.words ++ b.words)
  | .percoRatomMaxu d a b ty => eG 0x23 (regCode d) a.code b.code (a.isWide || b.isWide) ty.code 0x07 (a.words ++ b.words)
  | .percoRatomSwap d a b ty => eG 0x23 (regCode d) a.code b.code (a.isWide || b.isWide) ty.code 0x08 (a.words ++ b.words)
  | .percoRatomCas d a b ty => eG 0x23 (regCode d) a.code b.code (a.isWide || b.isWide) ty.code 0x09 (a.words ++ b.words)
  | .wakea a sc => eG 0x24 0 a.code 0 a.isWide 0 sc.code a.words
  | .tlbinv a b => eG 0x28 0 a.code b.code (a.isWide || b.isWide) 0 0x00 (a.words ++ b.words)
  | .tlbinvCtx a b => eG 0x28 0 a.code b.code (a.isWide || b.isWide) 0 0x01 (a.words ++ b.words)
  | .mapchk d a b sup wr => eG 0x29 (regCode d) a.code b.code (a.isWide || b.isWide) 0 ((0 : BitVec 4) ++ BitVec.ofBool sup ++ BitVec.ofBool wr) (a.words ++ b.words)
  | .resume d a => eG 0x2A (regCode d) a.code 0 false 0 0x00 a.words
  | .resumeDrop d a => eG 0x2A (regCode d) a.code 0 false 0 0x01 a.words
  | .killctx d a => eG 0x2B (regCode d) a.code 0 false 0 0x00 a.words
  | .percoTrap imm => eI 0x30 0 0 imm []
  | .percoSysrd d r => eI 0x33 (regCode d) 0 ((0 : BitVec 4) ++ r) []
  | .percoSyswr a r => eI 0x34 0 a.code ((0 : BitVec 4) ++ r) a.words
  | .unassignedEncoding _ _ => []
  | .tokenStart _ => []
  | .vectorLoadEcc _ => []
  | .vectorFaultReport _ => []
  | .engineFaultTrap _ => []
  | .watchdog _ => []
  | .waitaReply _ => []
  | .waitaTimeout _ => []
  | .watchInstall _ => []
  | .ratomAtHome _ _ => []
  | .ratomReply _ _ => []
  | .matrixCommandStart _ => []
  | .mmaChunk _ => []
  | .tileEmit _ => []
  | .mouldParity _ => []
  | .bankSideService _ _ => []
  | .eccWriteback _ _ => []
  | .probeFillComplete _ _ => []
  | .sequencerStart _ => []
  | .percoWatchdog _ _ => []
  | .postAccept _ _ => []
  | .boxStart _ _ => []
  | .boxElement _ _ => []
  | .overflowRecordPost _ => []
  | .boxComplete _ _ => []
  | .walkerEmit _ _ => []
  | .publishFlip _ _ => []
  | .killctxDrainDone _ _ => []
  | .killMessage _ _ => []
  | .hbmRequest _ _ => []
  | .deadlineUrgent _ _ => []
  | .queueEntryRead _ => []
  | .nestReady _ => []
  | .grainStart _ => []
  | .nestDone _ => []
  | .spillEntryTaken _ => []
  | .preemptRequest _ => []
  | .coreHalted _ => []
  | .saveComplete _ => []
  | .restoreComplete _ => []
  | .flitReceived _ _ _ => []
  | .ackReceived _ _ => []
  | .nakReceived _ _ => []
  | .ackFlitSend _ _ => []
  | .replayTimeout _ _ => []
  | .retrainDone _ _ => []
  | .yunanPortDown _ => []
  | .farEndRequest _ _ => []
  | .endToEndNak _ _ _ => []
  | .windowRetryTimeout _ _ => []
  | .windowClose _ _ _ _ => []
  | .closeReply _ _ _ _ => []
  | .closeTimeout _ _ => []
  | .endToEndReply _ _ _ _ _ => []
  | .abortRequest _ => []
  | .settle _ _ _ => []
  | .stop _ _ _ => []
  | .abortOutcome _ _ => []
  | .repairFlip _ _ _ => []
  | .outcomeReceived _ _ _ _ => []
  | .roundDrainTimeout _ _ => []
  | .automaticRetirement _ => []
  | .thermal _ => []
  | .voltage _ => []
  | .flr _ => []
  | .doorbell _ _ => []
  | .cack _ _ => []
  | .mapq _ => []
  | .unmapq _ => []
  | .setctx _ => []
  | .kill _ => []
  | .hwread _ => []
  | .quarantine _ => []
  | .warmreset _ => []
  | .fwload _ => []
  | .slotMap _ => []
  | .slotUnmap _ => []
  | .notify _ _ _ => []
  | .childqWrite _ _ => []
  | .pkgidWrite _ => []
  | .registerWrite _ _ _ => []
  | .hostRead _ _ => []
  | .hostWrite _ _ => []
  | .getVersion _ => []
  | .getCapabilities _ => []
  | .negotiateAlgorithms _ => []
  | .getDigests _ => []
  | .getCertificate _ => []
  | .challenge _ => []
  | .getMeasurements _ => []
  | .keyExchange _ => []
  | .finish _ => []
  | .matrixCommandComplete _ => []
  | .thermalRecovery _ => []
  | .voltageRecovery _ => []
  | .ret => eG 0x0C 0 0 0 false 0 0x00 []
  | .lbrk => eG 0x0F 0 0 0 false 0 0x00 []
  | .cinvAll => eG 0x22 0 0 0 false 0 0x01 []
  | .eret => eG 0x29 0 0 0 false 0 0x00 []
  | .halt => eG 0x29 0 0 0 false 0 0x01 []
  | .nop => eG 0x29 0 0 0 false 0 0x02 []
  | .yield => eG 0x29 0 0 0 false 0 0x03 []
  | .ifence => eG 0x29 0 0 0 false 0 0x05 []
  | .vsync => eG 0x29 0 0 0 false 0 0x06 []
  | .grainend => eG 0x29 0 0 0 false 0 0x07 []
  | .msync => eG 0x38 0 0 0 false 0 0x00 []
  | .vend => eV 0x36 0 0 0 0 0 0 []
  | .vnop => eV 0x37 0 0 0 0 0 0 []
  | .percoRet => eG 0x0B 0 0 0 false 0 0x00 []
  | .tlbinvAll => eG 0x28 0 0 0 false 0 0x02 []
  | .percoHalt => eG 0x31 0 0 0 false 0 0x00 []
  | .percoNop => eG 0x32 0 0 0 false 0 0x00 []
  | .grainDispatch => []
  | .clockStep => []
  | .coldReset => []
  | .warmReset => []
  | .memready => []

/-! The host's word interface. -/
/-- The words of an instruction whose bits are numbered from the first word's bit 0 on, operand words of zeros
after the bits given (an instruction is at most three words, R21). -/
def tableWords (w : Nat) : List W32 :=
  [BitVec.ofNat 32 w, BitVec.ofNat 32 (w >>> 32), BitVec.ofNat 32 (w >>> 64)]

/-- The stream in which a bare word is read: a word does not say its stream, so the stem's map is tried first,
then the vector map, then the Perco map; a word that is no instruction of any map stays a stem word
(DESIGN CHOICE, log 11). -/
def tableStream (ws : List W32) : Strm :=
  match decode .stem ws, decode .vector ws, decode .perco ws with
  | .ok _ _, _, _ => .stem
  | _, .ok _ _, _ => .vector
  | _, _, .ok _ _ => .perco
  | _, _, _ => .stem

/-- The instruction that the decoder reads from a table word. -/
def decodeTableWord (_nbits w : Nat) : Option Instr :=
  let ws := tableWords w
  match decode (tableStream ws) ws with
  | .ok i _ => some i
  | .bad .illegalOpcode => some (.unassignedEncoding (tableStream ws) (BitVec.ofNat 32 w))
  | .bad _ => none

end Sys2Proof
end

