-- ==== Sys2Proof/Config.lean ====
section
/-! DEFINITION. What the part leaves open: which agent moves next (log 2), the values the spec bounds or does not
state (R79, R113, R427, R428), and the physical causes that enter a run as turns. Every constant here is opaque: no
proof can see its value. -/

namespace Sys2Proof

/-- Physical causes of R323, R401, R412, R414, R432: they enter a run as turns of their own (log 16). -/
inductive Upset where
  /-- A scratchpad word takes a single-bit error, or an uncorrectable one (R323, R324). -/
  | scratch (c : CoreId) (word : Nat) (hard : Bool)
  /-- A word of stem instruction memory or of the segment store becomes uncorrectable (R279, R412). -/
  | imem (c : CoreId) (word : Nat)
  | seg (c : CoreId) (word : Nat)
  /-- A stem register takes a parity error (R412). -/
  | stemReg (c : CoreId) (r : Reg)
  /-- A runner-store word becomes uncorrectable (R412). -/
  | rstore (d : DieId) (n : Fin 16) (word : Nat)
  /-- A 32-byte block of main memory becomes poisoned (R414). -/
  | poison (pa : Nat)
  /-- A lane of one direction of a link fails, or is healed by nothing (R398, R401). -/
  | lane (l : LinkId) (up : Bool) (n : Fin 64)
  /-- A Yunan port or lane state seen by the far end (R405). -/
  | port (p : Fin 16) (live : Bool)
  /-- Sensor and power readings (R432). -/
  | temp (i : Fin 64) (v : Nat)
  | volt (i : Fin 32) (v : Nat)
  | power (v : Nat)
  /-- Training of a channel's PHY fails (R415). -/
  | phy (ch : Fin 256)
  /-- A copy of the heartwood table fails its CRC (R429). -/
  | heart (second : Bool)
  /-- A flit with a good CRC but a reserved KIND or a reserved bit set arrives (R401). -/
  | malformed (l : LinkId) (up : Bool)
  /-- A copy engine's buffer holds an uncorrectable word: the box at a place of the die's list (R412). -/
  | engine (d : DieId) (i : Nat)
  deriving DecidableEq, Repr, Inhabited

/-- Which agent moves next: one step of the machine is one turn. -/
inductive Turn where
  | stem (c : CoreId)
  | vector (c : CoreId)
  /-- An entry of a core's store queue performs at its bank (R104). -/
  | perform (c : CoreId) (i : Nat)
  /-- A core sends the cancellation of a watch at another package (R111, R132). -/
  | cancel (c : CoreId)
  /-- A home replies to a watch of its own accord: the spurious wake of R111. -/
  | wake (d : DieId) (i : Nat)
  | seq (d : DieId) (n : Fin 16)
  /-- The oldest message that waits at a runner die is tried again (R408). -/
  | ingress (d : DieId)
  /-- The oldest message of a runner die to another package leaves (R366). -/
  | message (d : DieId)
  /-- A remote atomic that its program does not wait for goes to its home (R258). -/
  | posted (d : DieId) (i : Nat)
  /-- Package services ask a runner die for a start: entry, argument, context (R222). -/
  | service (d : DieId) (entry arg : Word) (ctx : BitVec 16)
  /-- An event of 95_what_each_step_holds.md, with its operands. -/
  | event (i : Instr)
  /-- Cycles pass on a die: 0-3 crown dies, 4-7 runner dies (R3, R8). -/
  | elapse (die : Fin 8) (n : Nat)
  /-- A runner die drops a cached translation of its own accord (R353, log 18). -/
  | evict (d : DieId) (i : Nat)
  /-- An engine of a runner die walks for a page whose leaf its own cache lacks (R353). -/
  | rewalk (d : DieId) (ctx : BitVec 16) (va : Nat)
  | upset (u : Upset)
  deriving DecidableEq, Repr, Inhabited

/-- The agent that moves at the n-th turn that the agenda does not name (log 2). -/
opaque Config.arbiter : Nat → Turn
/-- Which of the results inside the bound of R79 a special function gives: function, input bits (log 8). -/
opaque Config.specialPick : Nat → BitVec 32 → Nat
/-- Whether the n-th fetch of an overwritten instruction word sees the old word (R113, log 9). -/
opaque Config.stalePick : Nat → Bool
/-- An unstated 64-bit value: the n-th one taken (log 8, log 14). -/
opaque Config.freeWord : Nat → Word
/-- The data an opaque cryptographic service answers (R427, R428, log 14): service code and input. -/
opaque Config.crypto : Nat → List Byte → List Byte
/-- The nominal voltage of a rail in mV (R432, log 30). -/
opaque Config.nominalMv : Fin 32 → BitVec 16

end Sys2Proof
end

