-- ==== Sys2Proof/Machine/State.lean ====
section
/-! DEFINITION. The state of the machine as plain data: every piece of state the spec gives the part, and the
model's own bookkeeping (agenda, ticks, current agent). INVENTORY.md lists each with its rule and reset value. -/

namespace Sys2Proof.Machine

/-- Bytes by address in one canonical form: addresses strictly rising, no zero byte listed (log 3). -/
abbrev Mem := List Host.Cell
/-- The contents of one vector register (R134), flat, element p of width w at bits w*p. -/
abbrev VReg := BitVec 32768
abbrev Mask := BitVec 4096

/-! ### Stem (R29-R33) -/

/-- A translated target: main memory or a scratchpad, of a package of the pod (R350). -/
structure Target where
  pkg : BitVec 12
  scratch : Bool
  core : CoreId
  addr : Nat
  deriving DecidableEq, Repr, Inhabited

/-- An active hardware loop (R97): the addresses of its first word and of the first word after its body. -/
structure Loop where
  start : Nat
  fin : Nat
  deriving DecidableEq, Repr, Inhabited

/-- The tag of a request (R347), with the core on whose behalf the work acts (R329). -/
structure Tag where
  ctx : BitVec 16
  vf : Nat
  sup : Bool
  core : Option CoreId
  deriving DecidableEq, Repr, Inhabited

/-- Where a remote atomic or a WAITA request stands on its way (R121, R395). -/
inductive MsgPhase where
  | travelling | atHome | suspended | replying | replied
  deriving DecidableEq, Repr, Inhabited

/-- A remote atomic of a core (R121); RATOM_REPLY takes it off the list. -/
structure Ratom where
  id : Nat
  op : Nat
  wide : Bool
  va : Word
  b : Word
  c : Word
  tag : Tag
  d : Reg
  phase : MsgPhase
  /-- where its home is, once the runner die has translated its address -/
  target : Option Target
  /-- the record under which it is suspended -/
  susp : Option W32
  old : Word
  /-- the core's remote atomics below this number perform first (R112) -/
  fence : Nat
  deriving DecidableEq, Repr, Inhabited

/-- The watch request of a WAITA in progress (R111); sent is the crown-die cycle in which it was sent. -/
structure Waita where
  wide : Bool
  va : Word
  expected : Word
  timeout : W32
  ctx : BitVec 16
  sent : Word
  phase : MsgPhase
  /-- where its home is, once the request has reached it -/
  target : Option Target
  susp : Option W32
  seen : Word
  deriving DecidableEq, Repr, Inhabited

/-- The arrival of a core at a barrier (R114); released once every participant has arrived. -/
structure BarArrival where
  num : BitVec 2
  scope : Scope
  released : Bool
  deriving DecidableEq, Repr, Inhabited

/-- A stem store that has not performed at its bank, or a FENCE among them (R104, R112, R327): the store's class,
address and bytes, and the number below which the core's remote atomics perform first. -/
inductive StEntry where
  | store (cls : BitVec 4) (addr : Nat) (bytes : List Byte) (rats : Nat)
  | fence (mask : BitVec 16)
  deriving DecidableEq, Repr, Inhabited

structure Stem where
  x : Vector Word 31
  lc : Vector W32 4
  /-- innermost first, at most four (R97) -/
  loops : List Loop
  /-- newest first, at most sixteen (R96) -/
  rets : List (BitVec 16)
  pc : BitVec 16
  status : Word
  trapcause : Word
  trappc : Word
  trapval : Word
  trapvec : Word
  trapscr : Word
  vfault : Word
  ctxid : BitVec 16
  seed : Word
  pwindow : Word
  gfmt : Vector Word 4
  fmt : Vector Word 8
  ratoms : List Ratom
  ratomNext : Nat
  /-- for each class, the number below which a FENCE has put the remote atomics first (R112) -/
  ratomFence : Vector Nat 16
  /-- stores and FENCE marks in program order, not yet performed (R104, R321) -/
  stq : List StEntry
  /-- the first word of the instruction under way, as it was fetched (R27, R113) -/
  ir : W32
  /-- the cycle in which the wait in progress began (R132) -/
  waitSince : Option Word
  waita : Option Waita
  /-- arrivals kept until the wait is over (R114) -/
  bars : List BarArrival
  /-- old words of overwritten instruction memory that fetch may still return (R113) -/
  stale : List (Nat × W32)
  /-- registers with a parity error (R412) -/
  parity : List Reg
  /-- engine faults wait for the handler's ERET (R291) -/
  deferred : Bool
  deriving DecidableEq, Repr

/-! ### Vector engine (R34-R35, R138-R154, R278-R280) -/

/-- A shape slot (R388): the record as read, its address, its valid bit. -/
structure Slot where
  bits : BitVec 1024
  addr : Nat
  valid : Bool
  deriving DecidableEq, Repr, Inhabited

/-- A token as TOKEN enqueues it (R115). -/
structure Token where
  ent : BitVec 16
  trip : Nat
  rows : W32
  tail : Nat
  grant : BitVec 4
  scal : List W32
  slots : Vector Slot 4
  /-- the crown-die cycle in which TOKEN queued it (R138) -/
  cycle : Nat
  deriving DecidableEq, Repr

/-- The running token with its segment buffer (R278, R279). -/
structure Run where
  tok : Token
  iter : Nat
  buf : List W32
  /-- indices of buffer words read with an uncorrectable check -/
  bad : List Nat
  pos : Nat
  grant : BitVec 4
  eop : Bool
  pchk : Bool
  deriving DecidableEq, Repr

inductive VTarget where
  | v (n : Reg)
  | vm (n : Fin 8)
  | e (n : Fin 8)
  deriving DecidableEq, Repr, Inhabited

/-- A register write in flight (R139): the bits of mask take those of data from cycle `at` on. -/
structure VWrite where
  time : Nat
  target : VTarget
  mask : VReg
  data : VReg
  /-- the load whose words fill the data as they are served -/
  load : Option Nat := none
  deriving DecidableEq, Repr

/-- An element's place: position, byte address, and for a packed code whether it is the high nibble (R149, R150). -/
structure VPlace where
  p : Nat
  addr : Nat
  nib : Option Bool
  deriving DecidableEq, Repr, Inhabited

/-- What a bank does with a word of a vector memory instruction: a load of elements of some bytes at places in it, or
a store of the bits of a mask (R148). -/
inductive SvcOp where
  | load (bytes : Nat) (places : List VPlace)
  | store (mask data : Nat)
  deriving DecidableEq, Repr, Inhabited

/-- A word to be served (R148): its cycle, its address, the instruction's number and VFAULT, its pointer before and
after its post-increment; told: the instruction's first uncorrectable word has been reported (R154). -/
structure Svc where
  time : Nat
  word : Nat
  id : Nat
  op : SvcOp
  loc : Word
  ptr : Option (Fin 8 × BitVec 21 × BitVec 21)
  told : Bool
  deriving DecidableEq, Repr, Inhabited

/-- A fault that an engine has found (R290, R201): cause, TRAPVAL, VFAULT, and the cycle of its report. -/
structure EngFault where
  cause : Cause
  val : Word
  loc : Word
  time : Nat
  deriving DecidableEq, Repr, Inhabited

structure Vec where
  v : Vector VReg 31
  vm : Vector Mask 8
  a : Vector (BitVec 21) 8
  wst : Vector (BitVec 21) 8
  wlen : Vector (BitVec 22) 8
  e : Vector W32 8
  shape : W32
  gens : Vector W32 128
  /-- by visible cycle, then by issue -/
  pend : List VWrite
  /-- the cycle in which the next instruction may issue (R138) -/
  next : Nat
  /-- first free service cycle of each bank that is busy (R148) -/
  busy : List (Nat × Nat)
  /-- words that banks have still to serve, by service cycle; the number of the next memory instruction -/
  svc : List Svc
  memNext : Nat
  queue : List Token
  run : Option Run
  /-- uncorrectable words found by loads and stores, with the cycle of detection (R154) -/
  ecc : List EngFault
  /-- found, waiting for earlier writes to land (R290) -/
  found : Option EngFault
  /-- reported and not yet taken (R291) -/
  held : Option EngFault
  /-- taken: the engine is stopped until ERET (R292) -/
  taken : Bool
  deriving DecidableEq, Repr

/-! ### Matrix engine (R196-R221) -/

structure Prefix where
  addr : Nat
  count : W32
  scope : Scope
  deriving DecidableEq, Repr, Inhabited

/-- A carrier command with its captured operands (R199). -/
inductive MCmd where
  | mma (sparse : Bool) (ctl addr size : Word) (mods : BitVec 6)
  | mclr (m : Fin 2)
  | memit (t : Fin 4) (m : Fin 2) (z : Bool)
  | mtld (m : Fin 2) (a : Nat)
  | mtst (m : Fin 2) (a : Nat)
  | mtbar (seed digest : W32)
  | mfmt (g : Fin 4) (val : Word)
  deriving DecidableEq, Repr, Inhabited

/-- The formats of a command's operands, fixed when it first started (R204, R220): GFMT and FMT entry of A, of B. -/
structure MFmts where
  ga : Word
  fa : Word
  gb : Word
  fb : Word
  deriving DecidableEq, Repr, Inhabited

structure MEntry where
  cmd : MCmd
  pc : BitVec 16
  /-- not yet performed -/
  wait : Option Prefix
  sig : Option Prefix
  slots : Vector Slot 4
  fmts : MFmts
  deriving DecidableEq, Repr

/-- Where the command at the head of the queue stands (R200, R210). -/
inductive MPhase where
  /-- its wait not yet performed -/
  | waiting
  /-- started; the next chunk to compute -/
  | chunks (c : Nat)
  /-- a tile write waits for the tile to be EMPTY: the bytes to write, and the chunk to go on with -/
  | emit (tile : Fin 4) (out : Mem) (c : Nat)
  /-- its writes made; its signal not yet performed -/
  | signal
  deriving DecidableEq, Repr, Inhabited

structure Mat where
  queue : List MEntry
  phase : MPhase
  /-- the row validity mask and the boundaries read when the command started (R209, R391) -/
  rowMask : BitVec 128
  bounds : List Nat
  /-- the scratchpad as it stood then: a word written since may still be read so (R202) -/
  seen : Mem
  /-- completed commands kept for replay, oldest first (R220) -/
  kept : List MEntry
  /-- replays of the window of each mould since its START -/
  replays : Vector Nat 2
  /-- the window of each mould has lost its first entry -/
  lost : Vector Bool 2
  /-- a strike during the MTBAR in progress (R293) -/
  barStruck : Bool
  pwait : Option Prefix
  psig : Option Prefix
  held : Option EngFault
  taken : Bool
  deriving DecidableEq, Repr

/-! ### The rest of a core -/

inductive ProbeState where
  | invalid | filling | valid
  deriving DecidableEq, Repr, Inhabited

/-- A probe slot's tag entry (R123). -/
structure Probe where
  tag : BitVec 53
  ctx : BitVec 16
  state : ProbeState
  pin : Bool
  deriving DecidableEq, Repr, Inhabited

/-- A post not yet accepted (R119, R120): its number, the box's class and the FENCE markers ahead of it, each a
class mask with the number of the first post after the marker (R112). -/
structure Post where
  num : Nat
  hi : Bool
  isBox : Bool
  desc : BitVec 1024
  entry : Word
  arg : Word
  ctx : BitVec 16
  sup : Bool
  vf : Nat
  /-- the grain that posted it: nest record and grain number -/
  grain : Option (Nat × Nat)
  marks : List (BitVec 16 × Nat)
  deriving DecidableEq, Repr

/-- A request at a home: one element of a box, or a semaphore credit (R287, R363). -/
inductive HomeOp where
  /-- a raw or tagged write: format tag, element width in bits -/
  | write (tag : BitVec 4) (fmt : Word) (width : Nat)
  /-- one 4-bit element, the low or high nibble of its byte (R237) -/
  | nibble (tag : BitVec 4) (fmt : Word) (hi : Bool)
  /-- an inline reduce: operation and type (R249) -/
  | combine (op : Nat) (ty : Ty)
  /-- a semaphore credit (R242) -/
  | credit
  /-- a read of some bytes for the element at hand -/
  | read (n : Nat)
  deriving DecidableEq, Repr, Inhabited

/-- A request queued at a home: from which box of which runner die, its tag (R347), byte address, bytes; its deadline
class, the deadline its controller set, and whether it has become urgent (R362, R363). -/
structure HomeReq where
  die : DieId
  mid : W32
  tag : Tag
  op : HomeOp
  addr : Nat
  bytes : List Byte
  dclass : Nat
  deadline : Option Nat
  urgent : Bool
  deriving DecidableEq, Repr, Inhabited

/-- The states of a core's grain (Table 10-6). Starting lasts from dispatch to the first instruction; the save is one
step out of HALTED, and a saved grain stands in its nest record. -/
inductive Phase where
  | idle | starting | running | stopping | halted | restoring
  deriving DecidableEq, Repr, Inhabited

/-- What the scheduler knows of the grain on a core (R299-R310). -/
structure Grain where
  nest : Nat
  num : Nat
  idx : Vector W32 4
  vf : Nat
  sup : Bool
  child : Bool
  wdog : W32
  saveva : Word
  ctx : BitVec 16
  prio : BitVec 4
  seq : Nat
  deriving DecidableEq, Repr

/-- The image last loaded into a store (R302). -/
structure Image where
  va : Word
  len : Nat
  ctx : BitVec 16
  deriving DecidableEq, Repr, Inhabited

structure Core where
  stem : Stem
  vec : Vec
  mat : Mat
  slots : Vector Slot 4
  tiles : Vector Mem 4
  full : Vector Bool 4
  moulds : Vector Mem 2
  scratch : Mem
  imem : Mem
  seg : Mem
  /-- scratchpad words with an uncorrectable error; with a latent single error; found and awaiting write-back
  (R323, R324) -/
  eccHard : List Nat
  eccSoft : List Nat
  eccFix : List Nat
  /-- corrected errors found by this core's reads (R323) -/
  eccCount : Nat
  /-- words found uncorrectable over the core's life (R415) -/
  eccWords : List Nat
  imemBad : List Nat
  segBad : List Nat
  probes : Vector Probe 256
  victim : Fin 256
  bankq : List HomeReq
  posts : List Post
  postNum : Nat
  marks : List (BitVec 16 × Nat)
  /-- watches at other packages to be cancelled there (R111, R132) -/
  cancels : List Waita
  phase : Phase
  grain : Option Grain
  /-- the record for which the core was last asked to stop (R307) -/
  stopFor : Option Nat
  stext : Option Image
  vtext : Option Image
  lastCtx : Option (BitVec 16)
  deriving DecidableEq, Repr

/-! ### Runner dies (R37, R222-R263, R347-R366, R408) -/

/-- Who waits for a request to another package (R408, R409). -/
inductive Owner where
  | ratom (c : CoreId) (id : Nat)
  /-- a WAITA, with the cycle in which it was sent -/
  | waita (c : CoreId) (sent : Word)
  /-- a program, with the virtual address of its request -/
  | prog (n : Fin 16) (id : Nat) (va : Word)
  | box (mid : W32)
  /-- the settle of a rank (R372), and a kill (R358) -/
  | round (ctx : BitVec 16) (seq : W32) (rank : Nat)
  | kill (ctx : BitVec 16)
  /-- the repair flip of a rank (R373) -/
  | repair (ctx : BitVec 16) (seq : W32) (rank : Nat)
  /-- a remote atomic whose program does not wait for it (R258) -/
  | posted (id : Nat)
  | nobody
  deriving DecidableEq, Repr, Inhabited

/-- The agent whose program order a box belongs to (R243). -/
inductive Agent where
  | prog (d : DieId) (p : Nat)
  | core (c : CoreId)
  | inst (id : Nat)
  | services
  deriving DecidableEq, Repr, Inhabited

/-- What a sequencer waits for inside one instruction (R227, R243, R261, R265, R269). -/
inductive SeqWait where
  | box (mid : W32)
  | inst (id : Nat)
  /-- a PUBLISH whose release is done, waiting for its flip -/
  | flip (t : Target) (seq : W32) (va : Word)
  /-- a KILLCTX waiting for its drain -/
  | drain (count : Nat)
  /-- the answer of another package -/
  | far
  | answered (val : Word)
  deriving DecidableEq, Repr, Inhabited

/-- A move sequencer (R37, R222-R227). -/
structure Seqr where
  g : Vector Word 31
  lc : Vector W32 2
  loops : List Loop
  rets : List Word
  pc : Word
  tag : Tag
  wdog : Word
  store : Mem
  storeBad : List Nat
  running : Bool
  prog : Nat
  /-- the grain whose RCALL started it (R314) -/
  grain : Option (Nat × Nat)
  wait : Option SeqWait
  waitSince : Option Nat
  /-- the record under which the program is suspended -/
  susp : Option W32
  deriving DecidableEq, Repr

/-- A remote atomic with D = g0: its program has gone on (R258). Away: it is at another package. -/
structure Posted where
  id : Nat
  prog : Nat
  tag : Tag
  op : Nat
  bytes : Nat
  va : Word
  b : Word
  pc : Word
  target : Target
  away : Bool
  susp : Option W32
  deriving DecidableEq, Repr, Inhabited

/-- A start in a runner die's start queue (R222). -/
structure Start where
  entry : Word
  arg : Word
  g2 : Word
  tag : Tag
  services : Bool
  grain : Option (Nat × Nat)
  deriving DecidableEq, Repr, Inhabited

inductive BoxState where
  | queued | running | suspended (recid : W32)
  deriving DecidableEq, Repr, Inhabited

/-- What a running box does next (R241, R242, R247, R251). -/
inductive BoxPart where
  /-- its elements -/
  | elements
  /-- the scale byte of the current block is written, its elements follow, with this scaling exponent -/
  | block (k : Int)
  /-- the validity mask of a packing copy -/
  | mask
  /-- the credit -/
  | credit
  /-- its credit is queued at its home -/
  | credited
  deriving DecidableEq, Repr, Inhabited

/-- A box accepted by a runner die (R233-R254). -/
structure Box where
  mid : W32
  num : Nat
  desc : BitVec 1024
  tag : Tag
  agent : Agent
  /-- the sequencer that issued it, whose store RSTORE names -/
  seqn : Option (Fin 16)
  marks : List (BitVec 16 × Nat)
  dests : List (Word × Word)
  state : BoxState
  part : BoxPart
  /-- the start checks are passed (R238) -/
  checked : Bool
  elem : Nat
  lpos : Nat
  /-- the stream's bit offset at the element, and after the symbol under way (R254) -/
  bit : Nat
  nbit : Nat
  /-- the request under way is a block's scale byte (R247) -/
  scaling : Bool
  /-- the list entry of the row at hand (R245) -/
  idx : Option Int
  /-- requests of the box that stand at a home or at another package -/
  outs : Nat
  /-- bytes that homes have answered, of those the element at hand reads, and the address of the read under way -/
  got : List Byte
  rva : Nat
  /-- source bytes read once for several writes: a scaled block (R247), the element of a multicast (R250) -/
  blk : List Byte
  /-- rows of the record of a packing copy; code lengths of an INFL table -/
  packRows : Nat
  lens : List Nat
  /-- collective boxes: header address, sequence number, instance (R261, R369) -/
  hdr : Option Word
  seq : W32
  inst : Option Nat
  oldSeq : Bool
  /-- repair boxes are exempt from R369 (R373) -/
  exempt : Bool
  deriving DecidableEq, Repr

/-- An instance in a die's collective walker (R260-R263, R375). -/
structure Inst where
  id : Nat
  bits : BitVec 2048
  tag : Tag
  prog : Nat
  grain : Option (Nat × Nat)
  seqn : Fin 16
  seq : W32
  state : Nat
  point : Nat
  emitted : Nat
  susp : Option W32
  deriving DecidableEq, Repr

/-- A remembered instance state (R262). -/
structure InstPast where
  ctx : BitVec 16
  seq : W32
  state : Nat
  emitted : Nat
  deriving DecidableEq, Repr, Inhabited

/-- A fault record (Table 14-6). -/
structure FaultRec where
  recid : W32
  ctx : BitVec 16
  work : Nat
  access : Nat
  ended : Bool
  cause : Cause
  va : Word
  moveid : W32
  seq : W32
  pos : Word
  sub : Word
  origin : BitVec 16
  die : DieId
  deriving DecidableEq, Repr, Inhabited

/-- A cached translation (R353): the page's base and size, its target and its permissions. -/
structure TlbEntry where
  ctx : BitVec 16
  base : Nat
  size : Nat
  pkg : BitVec 12
  scratch : Bool
  addr : Nat
  perms : BitVec 4
  deriving DecidableEq, Repr, Inhabited

/-- A cached table entry (R321, R353): the level of its table, the base and size of the range that it covers, the entry;
level 4 stands for the first word of a context entry. -/
structure WalkEntry where
  ctx : BitVec 16
  lvl : Nat
  base : Nat
  size : Nat
  entry : Nat
  deriving DecidableEq, Repr, Inhabited

/-- A watch at its home (R365). -/
structure Watch where
  target : Target
  wide : Bool
  expected : Word
  pkg : BitVec 12
  core : CoreId
  ctx : BitVec 16
  va : Word
  /-- of a watch of another package: the die that took its request, and what its reply names (Table 19-2) -/
  die : DieId
  sdie : DieId
  epoch : BitVec 8
  ws : W32
  deriving DecidableEq, Repr, Inhabited

/-- A probe fill in progress (R364). -/
structure Fill where
  core : CoreId
  slot : Fin 256
  va : Word
  tag : Tag
  /-- it has a copy engine (R357) -/
  run : Bool
  susp : Option W32
  deriving DecidableEq, Repr, Inhabited

/-- An unanswered request of a source window (R408). -/
structure FarOut where
  ws : W32
  owner : Owner
  req : FarReq
  /-- the cycle in which it was last sent (R409) -/
  sent : Nat
  deriving DecidableEq, Repr, Inhabited

/-- The source end of a sequence window (R408, R409). -/
structure SrcWin where
  pkg : BitVec 12
  epoch : BitVec 8
  next : W32
  out : List FarOut
  /-- the port of its route, and the ports of the tries that had no answer -/
  route : Nat
  tried : List Nat
  closing : Option Nat
  deriving DecidableEq, Repr, Inhabited

/-- The far end of a sequence window (R408, R410). -/
structure FarWin where
  pkg : BitVec 12
  sdie : DieId
  epoch : BitVec 8
  expected : W32
  results : List (W32 × Word)
  lastNak : Option Nat
  /-- closed by its source: its place is free, its epoch is kept -/
  freed : Bool
  deriving DecidableEq, Repr, Inhabited

/-- The end-to-end header of a message of this package on a Yunan port (Table 19-2), with the word that it carries. -/
structure FarMsg where
  src : BitVec 12
  dst : BitVec 12
  sdie : DieId
  epoch : BitVec 8
  op : Nat
  len : Nat
  ctx : BitVec 16
  wseq : W32
  eack : W32
  val : Word
  poison : Bool
  deriving DecidableEq, Repr, Inhabited

/-- A message on a link: a remote atomic between a core and a home (R395), and whether it is on its way back; or one
that leaves the package by a port (R405). -/
structure Packet where
  core : CoreId
  id : Nat
  back : Bool
  yunan : Option FarMsg
  deriving DecidableEq, Repr, Inhabited

/-- A flit in a replay buffer: its FSEQ, its message, and the cycle in which it was last sent (R396). -/
structure Flit where
  seq : BitVec 12
  msg : Packet
  sent : Nat
  deriving DecidableEq, Repr, Inhabited

structure Runner where
  seqs : Vector Seqr 16
  startq : List Start
  posted : List Posted
  postedNext : Nat
  boxes : List Box
  insts : List Inst
  past : List InstPast
  overflow : List FaultRec
  /-- cached leaves, newest first: those of the shared cache and of the engines' own, which may hold an older leaf of a
  page beside a newer one; and cached table and context entries (R353) -/
  tlb : List TlbEntry
  walks : List WalkEntry
  watches : List Watch
  fills : List Fill
  hbmq : List HomeReq
  /-- messages that have arrived and wait for a place in a window (R408) -/
  ingress : List Packet
  /-- messages to other packages that wait to be sent (R366) -/
  messages : List FarMsg
  cycle : Nat
  srcWins : List SrcWin
  farWins : List FarWin
  lost : Word
  ywbase : Word
  ywbaseNext : Word
  deriving DecidableEq, Repr

/-! ### Links (R395-R398, R401-R405) -/

/-- An acknowledgement or a NAK on its way to the transmitter (Table 18-1). -/
inductive Back where
  | ack (f : BitVec 12)
  | nak (f : BitVec 12)
  deriving DecidableEq, Repr, Inhabited

/-- One direction of a link. -/
structure LinkDir where
  next : BitVec 12
  buf : List Flit
  /-- packets that wait for room in the replay buffer -/
  waiting : List Packet
  /-- flits under way, first to arrive first -/
  wire : List (BitVec 12 × Packet)
  expected : BitVec 12
  /-- an acknowledgement is owed -/
  owed : Bool
  /-- the FSEQ of the last NAK with no delivery since -/
  naked : Option (BitVec 12)
  back : List Back
  retrain : Bool
  /-- lanes that fail their test -/
  failing : BitVec 64
  /-- live lanes: 64, 32 or 0 on UCIe; 8, 4, 2, 1 or 0 on a Yunan port -/
  lanes : Nat
  /-- the direction that took over (R403) -/
  sub : Option LinkId
  deriving DecidableEq, Repr

/-! ### Package (10, 15, 20) -/

/-- A hardware slot (R297, R298). -/
structure QSlot where
  slotq : Word
  mapped : Bool
  lastv : Bool
  lastqid : BitVec 16
  /-- the descriptor's physical address when the queue was last mapped, and its 64 bytes as read then -/
  phys : Nat
  desc : BitVec 512
  /-- the queue's service ended with QUEUE_INVALID (R296) -/
  dead : Bool
  wakepend : Bool
  /-- the map has taken effect and the indices are still to be looked at (R298) -/
  look : Bool
  /-- an FLR drops every NOTIFY (R426) -/
  closed : Bool
  deriving DecidableEq, Repr, Inhabited

/-- The states of a nest record (Table 10-5). -/
inductive NestState where
  | waiting | ready | running | draining | done
  deriving DecidableEq, Repr, Inhabited

/-- A grain saved at SAVEVA (R313): the part of the record whose layout the spec leaves open is kept as data, with the
cause and the step that name its free bytes; the other sections stand in memory (log 15). -/
structure Saved where
  core : CoreId
  state : Core
  cause : Cause
  tick : Nat
  /-- the scratchpad of the record, and what requests of the context have written there since (R345) -/
  image : Mem
  late : List (Nat × List Byte)
  deriving DecidableEq, Repr

structure Nest where
  id : Nat
  bits : BitVec 1024
  ctx : BitVec 16
  vf : Nat
  sup : Bool
  child : Bool
  /-- the pool that holds it, or the slot it was read from -/
  pool : Option DieId
  slot : Option (Fin 64)
  wdog : W32
  saveva : Word
  prio : BitVec 4
  state : NestState
  /-- the next grain to dispatch, and the core pointer (R305) -/
  next : Nat
  ptr : Nat
  halted : Bool
  cause : Option Cause
  saved : List Saved
  deriving DecidableEq, Repr

/-- An abort round at its resolver (R371-R373). -/
structure AbortRound where
  ctx : BitVec 16
  seq : W32
  dbuf : Word
  ranktab : List Word
  lo : Word
  hi : Word
  vf : Nat
  /-- settles that have replied: rank and whether it was committed -/
  replies : List (Nat × Bool)
  /-- ranks whose header cannot be reached: the round stays open (R375) -/
  unreached : List Nat
  stopped : List DieId
  /-- the repair copies of a sealed rank, by move identifier; ranks whose header has flipped -/
  copies : List (Nat × W32)
  repaired : List Nat
  /-- 0 undecided, 1 aborted, 2 completion with repair in progress, 3 complete -/
  outcome : Nat
  told : List DieId
  deriving DecidableEq, Repr

/-- Who ordered a context kill: a program, a host submission (R315), a function-level reset (R426). -/
inductive KillBy where
  | prog
  | host (f : Fin 17)
  | flr (f : Fin 17)
  deriving DecidableEq, Repr, Inhabited

/-- Where a context kill stands: its cores are halting (R315), its rounds are open (R378), its work drains (R358). -/
inductive KillStage where
  | halting | rounds | draining
  deriving DecidableEq, Repr, Inhabited

/-- A context kill in progress (R269, R358, R378): package services run theirs as sequencer 14 of die 0. -/
structure Kill where
  die : DieId
  seqn : Fin 16
  ctx : BitVec 16
  count : Nat
  since : Nat
  by_ : KillBy
  stage : KillStage
  /-- packages that have still to be sent the kill (R358) -/
  toSend : List (DieId × BitVec 12)
  /-- the rounds whose outcome is still awaited, and whether one was left open -/
  rounds : List (DieId × W32)
  left : Bool
  deriving DecidableEq, Repr, Inhabited

/-- A completion (R423). -/
structure Completion where
  hseq : W32
  status : W32
  detail : W32
  deriving DecidableEq, Repr, Inhabited

/-- The host queues and the resources of one function (R419-R423). -/
structure HostFn where
  sbase : Word
  cbase : Word
  slog2n : Nat
  clog2n : Nat
  doorbell : W32
  lastc : W32
  lastd : W32
  cacknow : W32
  /-- the submission accepted and not yet performed: eight words -/
  accepted : Option (List Word)
  heldc : List Completion
  msix : Nat
  vfcores : Word
  vfslots : Word
  vfcoresNext : Word
  vfslotsNext : Word
  deriving DecidableEq, Repr

/-- An event record of the heartwood table (R429). -/
structure HwEvent where
  event : Nat
  cause : Nat
  unit : UnitRef
  wherev : Word
  stamp : Word
  deriving DecidableEq, Repr, Inhabited

structure Heartwood where
  quads : Vector (BitVec 17) 4
  chans : BitVec 256
  /-- retired lanes: link, direction, lane -/
  lanes : List (LinkId × Bool × Nat)
  cls : W32
  events : List HwEvent
  bad0 : Bool
  bad1 : Bool
  deriving DecidableEq, Repr

/-- The SPDM responder (R428). -/
structure SpdmState where
  version : Nat
  algorithms : Bool
  sessions : List (Nat × Bool)
  reply : List Byte
  asked : Nat
  deriving DecidableEq, Repr, Inhabited

structure Package where
  mmuctx : Word
  yrbase : Word
  errlog : Word
  errwr : Word
  errrd : Word
  pkgid : Word
  dlbudget : Vector Word 256
  slots : Vector QSlot 64
  nests : List Nest
  nestNext : Nat
  /-- the record that the round-robin of each priority serves next (R307) -/
  rr : Vector Nat 16
  grainSeq : Nat
  childq : Vector Word 4
  childidx : Vector Word 4
  /-- the priorities, lowered to their caps, of the records in each spill queue, in order (R303, R310) -/
  spillPrio : Vector (List (BitVec 4)) 4
  /-- indices of the spill queues whose records a kill has freed (R315) -/
  spillGone : Vector (List W32) 4
  recid : W32
  moveid : W32
  instNext : Nat
  progNext : Nat
  killed : List (BitVec 16)
  kills : List Kill
  /-- contexts whose cores are being halted for a kill, with the cause of their grains (R315) -/
  ending : List (BitVec 16 × Cause)
  /-- function-level resets under way (R426) -/
  flrs : List (Fin 17)
  rounds : List AbortRound
  links : Vector LinkDir 224
  poison : List Nat
  fns : Vector HostFn 17
  hostReply : List Byte
  hostPoison : Bool
  uid0 : Word
  uid1 : Word
  fwver : BitVec 16
  memready : Bool
  /-- configuration in force since the last reset (R304, R430) -/
  liveq : Vector (BitVec 17) 4
  quarq : Vector (BitVec 17) 4
  livech : BitVec 256
  lchanged : Bool
  /-- UCIe links that came out of the last reset with a direction at 32 lanes (R398, Table 20-6) -/
  narrow : BitVec 96
  gen : W32
  failedch : BitVec 256
  heart : Heartwood
  temp : Vector (BitVec 16) 64
  volt : Vector (BitVec 16) 32
  proc : Vector (BitVec 16) 8
  plimit : BitVec 16
  pnow : BitVec 16
  clknow : BitVec 16
  /-- dies halted by THERMAL, rails that halted the cores by VOLTAGE (R432) -/
  hot : List (Fin 8)
  badRails : List (Fin 32)
  /-- milliseconds since the throttling condition was last present -/
  coolMs : Nat
  flash : Vector (List Byte) 2
  booted : Option (Fin 2)
  fwFailed : Bool
  spdm : SpdmState
  /-- events counted per unit for automatic retirement (R415) -/
  counts : List (UnitRef × Cause × Nat)
  /-- events of a unit and a cause that no error-log record tells yet (Table 19-9, COUNT) -/
  untold : List (UnitRef × Nat × Nat)
  /-- rows of a channel in which an uncorrectable error has been found; scratchpad words of a physical core found
  uncorrectable before the last reset (R415) -/
  badRows : List (Nat × Nat)
  eccLife : List (Nat × Nat)
  deriving DecidableEq, Repr

structure State where
  /-- turns named in advance; when empty, Config.arbiter names the next (log 2) -/
  agenda : List Turn
  /-- turns taken: the index of the model's free values (log 2) -/
  ticks : Nat
  /-- the agent whose instruction exec runs -/
  cur : CoreId
  curDie : DieId
  curSeq : Fin 16
  cores : Vector Core 256
  dies : Vector Runner 4
  /-- cycles of the crown dies -/
  cycles : Vector Nat 4
  /-- main memory by physical address, host memory by bus address -/
  mem : Mem
  hostMem : Mem
  pkg : Package
  deriving DecidableEq, Repr

/-- Why a step stops. No step of this model stops so: every fault of the part is an exception that a next state
takes. The constructor names what would stop a run for want of an agent; safe. -/
inductive Fault where
  /-- raised by nothing: kept so that the type says what it would mean; safe -/
  | noAgent
  deriving DecidableEq, Repr

/-- Why an instruction has no meaning. -/
inductive Refusal where
  /-- raised by an arm of exec that has no meaning yet; safe -/
  | notModelled (mnemonic : String)
  deriving DecidableEq, Repr

/-! ### After a cold reset (R425, R430): every core idle, the shipped configuration -/

def Mem.empty : Mem := []

/-- The format presets that FMT0-FMT7 hold after reset (R57, Table 02-4). -/
def resetFmt : Vector Word 8 :=
  #v[0x7A480, 0xFC580, 0x18260, 0x38360, 0x18240, 0x41, 0x7A480, 0x7A480]

/-- Seeding of the stochastic-rounding generators (R74). -/
def seedGen (seed : W32) (g : Nat) : W32 :=
  let s := seed + BitVec.ofNat 32 (g + 1) * 0x9E3779B9
  if s = 0 then 0xFFFFFFFF else s

def seedGens (seed : W32) : Vector W32 128 := Vector.ofFn fun g => seedGen seed g.val

/-- Core reset of the stem (R29); TRAPVEC and TRAPSCR 0 as a cold or warm reset leaves them. -/
def Stem.reset : Stem where
  x := Vector.replicate 31 0
  lc := Vector.replicate 4 0
  loops := []
  rets := []
  pc := 0
  status := 0x81
  trapcause := 0
  trappc := 0
  trapval := 0
  trapvec := 0
  trapscr := 0
  vfault := 0
  ctxid := 0
  seed := 0
  pwindow := 0
  gfmt := Vector.replicate 4 8
  fmt := resetFmt
  ratoms := []
  ratomNext := 0
  ratomFence := Vector.replicate 16 0
  stq := []
  ir := 0
  waitSince := none
  waita := none
  bars := []
  stale := []
  parity := []
  deferred := false

/-- Core reset of the vector engine (R34, R35). -/
def Vec.reset : Vec where
  v := Vector.replicate 31 0
  vm := Vector.replicate 8 0
  a := Vector.replicate 8 0
  wst := Vector.replicate 8 0
  wlen := Vector.replicate 8 0
  e := Vector.replicate 8 0
  shape := 0x0FE7
  gens := seedGens 0
  pend := []
  next := 0
  busy := []
  svc := []
  memNext := 0
  queue := []
  run := none
  ecc := []
  found := none
  held := none
  taken := false

def Slot.empty : Slot := ⟨0, 0, false⟩

/-- Core reset of the matrix engine (R36). -/
def Mat.reset : Mat where
  queue := []
  phase := .waiting
  rowMask := 0
  bounds := []
  seen := []
  kept := []
  replays := Vector.replicate 2 0
  lost := Vector.replicate 2 false
  barStruck := false
  pwait := none
  psig := none
  held := none
  taken := false

def Probe.empty : Probe := ⟨0, 0, .invalid, false⟩

/-- A core after a cold or warm reset: idle, its stores cleared (R425). -/
def Core.reset : Core where
  stem := Stem.reset
  vec := Vec.reset
  mat := Mat.reset
  slots := Vector.replicate 4 Slot.empty
  tiles := Vector.replicate 4 Mem.empty
  full := Vector.replicate 4 false
  moulds := Vector.replicate 2 Mem.empty
  scratch := Mem.empty
  imem := Mem.empty
  seg := Mem.empty
  eccHard := []
  eccSoft := []
  eccFix := []
  eccCount := 0
  eccWords := []
  imemBad := []
  segBad := []
  probes := Vector.replicate 256 Probe.empty
  victim := 0
  bankq := []
  posts := []
  postNum := 0
  marks := []
  cancels := []
  phase := .idle
  grain := none
  stopFor := none
  stext := none
  vtext := none
  lastCtx := none

def Tag.blank : Tag := ⟨0, 0, false, none⟩

/-- A sequencer after a die reset (R37, Table 07-2). -/
def Seqr.reset : Seqr where
  g := Vector.replicate 31 0
  lc := Vector.replicate 2 0
  loops := []
  rets := []
  pc := 0
  tag := Tag.blank
  wdog := 0x10000
  store := Mem.empty
  storeBad := []
  running := false
  prog := 0
  grain := none
  wait := none
  waitSince := none
  susp := none

def Runner.reset : Runner where
  seqs := Vector.replicate 16 Seqr.reset
  startq := []
  posted := []
  postedNext := 0
  boxes := []
  insts := []
  past := []
  overflow := []
  tlb := []
  walks := []
  watches := []
  fills := []
  hbmq := []
  ingress := []
  messages := []
  cycle := 0
  srcWins := []
  farWins := []
  lost := 0
  ywbase := 0
  ywbaseNext := 0

def LinkDir.reset (lanes : Nat) : LinkDir where
  next := 0
  buf := []
  waiting := []
  wire := []
  expected := 0
  owed := false
  naked := none
  back := []
  retrain := false
  failing := 0
  lanes := lanes
  sub := none

/-- Directions 2l (toward the crown die, or away from the lower-numbered end) and 2l + 1. -/
def resetLinks : Vector LinkDir 224 :=
  Vector.ofFn fun i => LinkDir.reset (if i.val < 192 then 64 else 8)

def HostFn.reset : HostFn where
  sbase := 0
  cbase := 0
  slog2n := 0
  clog2n := 0
  doorbell := 0
  lastc := 0
  lastd := 0
  cacknow := 0
  accepted := none
  heldc := []
  msix := 0
  vfcores := 0
  vfslots := 0
  vfcoresNext := 0
  vfslotsNext := 0

/-- As shipped: no retirement, CLASS 0x1FE8_4210 (R430). -/
def Heartwood.shipped : Heartwood where
  quads := Vector.replicate 4 0
  chans := 0
  lanes := []
  cls := 0x1FE84210
  events := []
  bad0 := false
  bad1 := false

def QSlot.reset : QSlot := ⟨0, false, false, 0, 0, 0, false, false, false, false⟩

/-- The package after a cold reset as shipped (20); the fields of log 10 at the values it names. -/
def Package.reset : Package where
  mmuctx := 0
  yrbase := 0
  errlog := 0
  errwr := 0
  errrd := 0
  pkgid := 0
  dlbudget := Vector.replicate 256 0x0000010004001000
  slots := Vector.replicate 64 QSlot.reset
  nests := []
  nestNext := 0
  rr := Vector.replicate 16 0
  grainSeq := 0
  childq := Vector.replicate 4 0
  childidx := Vector.replicate 4 0
  spillPrio := Vector.replicate 4 []
  spillGone := Vector.replicate 4 []
  recid := 0
  moveid := 0
  instNext := 0
  progNext := 0
  killed := []
  kills := []
  ending := []
  flrs := []
  rounds := []
  links := resetLinks
  poison := []
  fns := Vector.replicate 17 HostFn.reset
  hostReply := []
  hostPoison := false
  uid0 := 0
  uid1 := 0
  fwver := 0
  memready := false
  liveq := Vector.replicate 4 0x1FFFF
  quarq := Vector.replicate 4 0
  livech := BitVec.allOnes 256
  lchanged := false
  narrow := 0
  gen := 0
  failedch := 0
  heart := Heartwood.shipped
  temp := Vector.replicate 64 0
  volt := Vector.replicate 32 0
  proc := Vector.replicate 8 0
  plimit := 2600
  pnow := 0
  clknow := 1300
  hot := []
  badRails := []
  coolMs := 0
  flash := Vector.replicate 2 []
  booted := some 0
  fwFailed := false
  spdm := ⟨0, false, [], [], 0⟩
  counts := []
  untold := []
  badRows := []
  eccLife := []

/-- The machine right after a cold reset (R425): every on-chip store cleared, no work anywhere, the shipped
configuration. -/
def State.reset : State where
  agenda := []
  ticks := 0
  cur := 0
  curDie := 0
  curSeq := 0
  cores := Vector.replicate 256 Core.reset
  dies := Vector.replicate 4 Runner.reset
  cycles := Vector.replicate 4 0
  mem := Mem.empty
  hostMem := Mem.empty
  pkg := Package.reset

end Sys2Proof.Machine
end

