-- ==== Sys2Proof/Machine/Formats.lean ====
section
/-! DEFINITION. The format word of the narrow family (R55, R56) and the bank-group formats (R203). -/

namespace Sys2Proof.Machine

/-- A format word's fields (Table 02-2). -/
structure Fmt where
  kind : Nat
  width : Nat
  ebits : Nat
  cls : Nat
  sat : Bool
  bias : Int
  deriving DecidableEq, Repr

def fmtOf (w : Word) : Fmt where
  kind := (w.extractLsb' 0 2).toNat
  width := (w.extractLsb' 4 4).toNat
  ebits := (w.extractLsb' 8 4).toNat
  cls := (w.extractLsb' 13 2).toNat
  sat := w.getLsbD 15
  bias := (w.extractLsb' 16 8).toInt

/-- Mantissa bits M. -/
def Fmt.mbits (f : Fmt) : Nat := f.width - 1 - f.ebits

/-- The largest finite exponent field EMAX. -/
def Fmt.emax (f : Fmt) : Nat := if f.cls = 2 then 2 ^ f.ebits - 2 else 2 ^ f.ebits - 1

/-- Table 02-3. -/
def fmtOk (w : Word) : Bool :=
  let f := fmtOf w
  w.extractLsb' 24 40 == 0 && !w.getLsbD 12 && w.extractLsb' 2 2 == 0 &&
  if f.kind = 1 then f.width == 4 && f.ebits == 0 && w.extractLsb' 13 11 == 0
  else f.kind == 0 && decide (4 ≤ f.width) && decide (f.width ≤ 8) && decide (1 ≤ f.ebits) &&
    decide (f.ebits + 2 ≤ f.width) && decide (f.cls ≤ 2) && (f.cls != 2 || decide (2 ≤ f.ebits)) &&
    decide (-149 ≤ 1 - f.bias - f.mbits) && decide ((f.emax : Int) - f.bias ≤ 127)

/-- A value that GFMT0-GFMT3 may hold (Table 06-3): no reserved bit, TYPE 0 to 13. -/
def gfmtOk (w : Word) : Bool := w.extractLsb' 6 58 == 0 && decide ((w.extractLsb' 0 4).toNat < 14)

def gfmtType (w : Word) : Nat := (w.extractLsb' 0 4).toNat
def gfmtUsgn (w : Word) : Bool := w.getLsbD 4
def gfmtScaled (w : Word) : Bool := w.getLsbD 5

end Sys2Proof.Machine
end

