-- ==== Sys2Proof/Machine/Flags.lean ====
section
/-! DEFINITION. The fields of STATUS (Table 01-12), TRAPCAUSE and VFAULT (Tables 01-13, 01-14), and the
comparisons that branches and selections make (R95, R77). The part has no condition flags. -/

namespace Sys2Proof.Machine

def statusSup (s : Word) : Bool := s.getLsbD 0
def statusPsup (s : Word) : Bool := s.getLsbD 1
def statusSstep (s : Word) : Bool := s.getLsbD 4
def statusPchk (s : Word) : Bool := s.getLsbD 5
def statusShchk (s : Word) : Bool := s.getLsbD 6
def statusWdog (s : Word) : Bool := s.getLsbD 7
def statusPrio (s : Word) : BitVec 4 := s.extractLsb' 12 4

def bit (b : Bool) : Word := if b then 1 else 0

/-- STATUS with SUP and PSUP replaced. -/
def statusMode (s : Word) (sup psup : Bool) : Word := (s &&& ~~~(3 : Word)) ||| bit sup ||| (bit psup <<< 1)

/-- The fields SYSWR may change: WDOG, SHCHK, PCHK, SSTEP, PSUP, SUP (Table 01-12). -/
def statusWritable : Word := 0xF3

/-- STATUS at grain start (R29): PRIO and SUP from the nest, WDOG 1, the rest 0. -/
def statusStart (prio : BitVec 4) (sup : Bool) : Word := (prio.setWidth 64 <<< 12) ||| 0x80 ||| bit sup

def engineCode : Engine → Word
  | .stem => 0
  | .vector => 1
  | .matrix => 2

/-- TRAPCAUSE (Table 01-13). -/
def trapCauseWord (e : Engine) (c : Cause) : Word := (engineCode e <<< 6) ||| BitVec.ofNat 64 c.code

/-- VFAULT (Table 01-14). -/
def vfaultWord (word iter : Nat) (ent : BitVec 16) : Word :=
  (BitVec.ofNat 64 (word % 128) <<< 32) ||| (BitVec.ofNat 64 (iter % 65536) <<< 16) ||| ent.setWidth 64

/-! PWINDOW (Table 01-15). -/
def pwindowEn (p : Word) : Bool := p.getLsbD 0
def pwindowBase (p : Word) : Nat := (p.extractLsb' 11 10).toNat * 2048
def pwindowWritable : Word := 0x1FF801

/-! The conditions of the stem's and the sequencers' branches (R95, R231). -/
def condEq (a b : Word) : Bool := a == b
def condNe (a b : Word) : Bool := a != b
def condLt (a b : Word) : Bool := a.slt b
def condGe (a b : Word) : Bool := !a.slt b
def condLtu (a b : Word) : Bool := a.ult b
def condGeu (a b : Word) : Bool := !a.ult b

/-! VSHAPE (Table 01-17). -/
def shapeEw (v : W32) : Nat := (v.extractLsb' 14 2).toNat
def shapeCols (v : W32) : Nat := (v.extractLsb' 5 9).toNat + 1
def shapeRows (v : W32) : Nat := (v.extractLsb' 0 5).toNat + 1
/-- Element bytes of an EW code. -/
def ewBytes (ew : Nat) : Nat := if ew = 0 then 4 else if ew = 1 then 2 else 1

/-- The limits of R35. -/
def shapeOk (v : W32) : Bool :=
  shapeEw v < 3 && shapeRows v ≤ 32 && shapeCols v * ewBytes (shapeEw v) ≤ 512 &&
    shapeRows v * shapeCols v * ewBytes (shapeEw v) ≤ 4096

end Sys2Proof.Machine
end

