-- ==== Sys2Proof/Machine/Memory.lean ====
section
/-! DEFINITION. Memory as bytes at addresses (R12, R321), the parts of the state by number, the stem's registers
(R29), and a core's scratchpad with its check bits (R320-R324). -/

namespace Sys2Proof.Machine

/-! ### Memory: bytes at addresses (R12, R321) -/

/-- The byte at an address; an unlisted address reads zero (log 3). -/
def memGet : Mem → Nat → Byte
  | [], _ => 0
  | (k, b) :: m, a => if k = a then b else memGet m a

/-- The cells of a run of bytes from an address on, zero bytes left out. -/
def memCells : Nat → List Byte → Mem
  | _, [] => []
  | a, b :: bs => if b = 0 then memCells (a + 1) bs else (a, b) :: memCells (a + 1) bs

/-- Bytes written from an address on. -/
def memPut (m : Mem) (a : Nat) (bs : List Byte) : Mem :=
  m.filter (fun c => decide (c.1 < a)) ++ memCells a bs ++ m.filter (fun c => decide (a + bs.length ≤ c.1))

/-- n bytes from an address on. -/
def memBytes (m : Mem) (a n : Nat) : List Byte := (List.range n).map fun i => memGet m (a + i)

/-- n bytes of src at a copied over n bytes of dst at b. -/
def memBlit (dst : Mem) (b : Nat) (src : Mem) (a n : Nat) : Mem :=
  dst.filter (fun c => decide (c.1 < b)) ++
    ((src.filter fun c => decide (a ≤ c.1) && decide (c.1 < a + n)).map fun c => (c.1 - a + b, c.2)) ++
    dst.filter (fun c => decide (b + n ≤ c.1))

/-- n bytes from a on become zero. -/
def memClear (m : Mem) (a n : Nat) : Mem :=
  m.filter (fun c => decide (c.1 < a)) ++ m.filter (fun c => decide (a + n ≤ c.1))

/-- The canonical form: addresses strictly rising, no zero byte listed. -/
def Mem.wf : Mem → Bool
  | [] => true
  | (a, b) :: m => b != 0 && m.all (fun c => decide (a < c.1)) && Mem.wf m

/-- Little-endian value of bytes (R12). -/
def leNat : List Byte → Nat
  | [] => 0
  | b :: bs => b.toNat + 256 * leNat bs

/-- The n low bytes of a value, little-endian. -/
def leBytes : Nat → Nat → List Byte
  | 0, _ => []
  | n + 1, v => BitVec.ofNat 8 v :: leBytes n (v / 256)

def memNat (m : Mem) (a n : Nat) : Nat := leNat (memBytes m a n)
def memW32 (m : Mem) (a : Nat) : W32 := BitVec.ofNat 32 (memNat m a 4)
def memW64 (m : Mem) (a : Nat) : Word := BitVec.ofNat 64 (memNat m a 8)

/-! ### Cores -/

def State.core (s : State) (c : CoreId) : Core := s.cores.get c
def State.setCore (s : State) (c : CoreId) (k : Core) : State := { s with cores := s.cores.set c.val k c.isLt }
def State.modCore (s : State) (c : CoreId) (f : Core → Core) : State := s.setCore c (f (s.core c))
def State.runner (s : State) (d : DieId) : Runner := s.dies.get d
def State.setRunner (s : State) (d : DieId) (r : Runner) : State := { s with dies := s.dies.set d.val r d.isLt }
def State.modRunner (s : State) (d : DieId) (f : Runner → Runner) : State := s.setRunner d (f (s.runner d))
def State.modPkg (s : State) (f : Package → Package) : State := { s with pkg := f s.pkg }

/-- The crown die of a logical core (R4). -/
def dieOf (c : CoreId) : DieId := ⟨c.val / 64, by omega⟩

/-- Time on a crown die passes up to a cycle. -/
def State.passTo (s : State) (d : DieId) (t : Nat) : State :=
  { s with cycles := s.cycles.set d.val (max (s.cycles.get d) t) d.isLt }

/-- The last cycle in which a write in flight becomes visible. -/
def Vec.lastWrite (v : Vec) : Nat := v.pend.foldl (fun t p => max t p.time) 0

def dieNext (d : DieId) : DieId := ⟨(d.val + 1) % 4, by omega⟩
/-- The runner die of a side of a core's crown die (R119). -/
def sideDie (c : CoreId) (hi : Bool) : DieId := if hi then dieNext (dieOf c) else dieOf c

/-- The k-th value that a turn leaves free, and that of the present step (log 2). -/
def freeAt (tick k : Nat) : Word := Config.freeWord (2 ^ 96 * tick + k)
def State.free (s : State) (k : Nat) : Word := freeAt s.ticks k

def Core.setStem (c : Core) (t : Stem) : Core := { c with stem := t }
def Core.setVec (c : Core) (v : Vec) : Core := { c with vec := v }
def Core.setMat (c : Core) (m : Mat) : Core := { c with mat := m }

/-! ### Stem registers (R29): x0 reads zero and discards writes -/

def Core.getX (c : Core) (r : Reg) : Word := if r = 0 then 0 else c.stem.x.get r

/-- A write of a stem register; it replaces the register's parity (R412). -/
def Core.setX (c : Core) (r : Reg) (v : Word) : Core :=
  if r = 0 then c
  else c.setStem { c.stem with x := c.stem.x.set r.val v r.isLt, parity := c.stem.parity.filter (· ≠ r) }

/-! ### Scratchpad with its check bits (R320-R324) -/

def scratchSize : Nat := 2 ^ 21

/-- The bank of a byte address (R148). -/
def bankOf (a : Nat) : Nat := 32 * (a / 2 ^ 19 % 4) + a / 4 % 32

/-- A listed word lies, in part or whole, in n bytes from a on. -/
def wordHit (ws : List Nat) (a n : Nat) : Bool := ws.any fun w => decide (w < a + n) && decide (a < w + 4)
/-- A listed word lies only in part in n bytes from a on. -/
def wordPart (ws : List Nat) (a n : Nat) : Bool :=
  ws.any fun w => decide (w < a + n) && decide (a < w + 4) && !(decide (a ≤ w) && decide (w + 4 ≤ a + n))
def wordsOutside (ws : List Nat) (a n : Nat) : List Nat :=
  ws.filter fun w => !(decide (w < a + n) && decide (a < w + 4))

/-- A read of n bytes meets an uncorrectable word (R324). -/
def Core.hardAt (c : Core) (a n : Nat) : Bool := wordHit c.eccHard a n

/-- A read of n bytes finds the single-bit errors there: corrected, counted, to be written back (R323). -/
def Core.noteSoft (c : Core) (a n : Nat) : Core :=
  if wordHit c.eccSoft a n then
    let ws := c.eccSoft.filter fun w => decide (w < a + n) && decide (a < w + 4)
    { c with eccFix := ws.filter (fun w => !c.eccFix.contains w) ++ c.eccFix, eccCount := c.eccCount + ws.length }
  else c

def Core.read (c : Core) (a n : Nat) : Nat := memNat c.scratch a n

/-- Corrected errors of a crown die (R323): its count is what its cores' reads have found. -/
def State.corrected (s : State) (d : DieId) : Nat :=
  (((List.finRange 256).filter fun c => dieOf c == d).map fun c => (s.core c).eccCount).sum

/-- Bytes written to the scratchpad; the words written get fresh check bits. A word written in part is read first,
which finds its single-bit error (R323). -/
def Core.write (c : Core) (a : Nat) (bs : List Byte) : Core :=
  { c with
    eccCount := c.eccCount + (c.eccSoft.filter fun w => wordPart [w] a bs.length).length
    scratch := memPut c.scratch a bs
    eccHard := wordsOutside c.eccHard a bs.length
    eccSoft := wordsOutside c.eccSoft a bs.length
    eccFix := wordsOutside c.eccFix a bs.length }

/-- An uncorrectable word was found: it counts toward R415 once. -/
def Core.noteHard (c : Core) (a n : Nat) : Core :=
  { c with eccWords := (c.eccHard.filter fun w =>
      decide (w < a + n) && decide (a < w + 4) && !c.eccWords.contains w) ++ c.eccWords }

/-- A byte of n bytes from a lies in a record held in a valid shape slot (R106, R389). -/
def Core.inSlot (c : Core) (a n : Nat) : Bool :=
  c.slots.toList.any fun k => k.valid && decide (k.addr < a + n) && decide (a < k.addr + 128)

/-- The banks of n bytes from a. -/
def banksOf (a n : Nat) : List Nat := (List.range ((a % 4 + n + 3) / 4)).map fun i => bankOf (a + 4 * i)

/-- No request of a runner stands ahead in the queue of a bank of n bytes from a (R287). -/
def Core.banksFree (c : Core) (a n : Nat) : Bool :=
  c.bankq.all fun r => (banksOf r.addr r.bytes.length).all fun b => !(banksOf a n).contains b

/-! ### The stem's stores that have not performed (R104, R112, R321, R327) -/

def StEntry.isFence : StEntry → Bool
  | .store .. => false
  | .fence _ => true

/-- A FENCE whose mask has both classes. -/
def StEntry.fences (e : StEntry) (k cls : BitVec 4) : Bool :=
  match e with
  | .store .. => false
  | .fence m => m.getLsbD k.toNat && m.getLsbD cls.toNat

/-- A store of a byte among n bytes from a. -/
def StEntry.covers (e : StEntry) (a n : Nat) : Bool :=
  match e with
  | .store _ b bs _ => decide (b < a + n) && decide (a < b + bs.length)
  | .fence _ => false

/-- A store of a list, in program order, performs before an access of a class that follows the list: it has the class
(R104), or a FENCE after it covers both (R112). -/
def orderedBefore (cls : BitVec 4) : List StEntry → Bool
  | [] => false
  | .store k _ _ _ :: l => k == cls || l.any (fun e => e.fences k cls) || orderedBefore cls l
  | .fence _ :: l => orderedBefore cls l

/-- A store over the bytes below it. -/
def StEntry.over (m : Mem) : StEntry → Mem
  | .store _ a bs _ => memPut m a bs
  | .fence _ => m

/-- The scratchpad as the stem's own loads see it: its stores stand over the banks before they perform (R104, R321). -/
def Core.own (c : Core) : Mem := c.stem.stq.foldl StEntry.over c.scratch
def Core.readOwn (c : Core) (a n : Nat) : Nat := memNat c.own a n

/-- The bytes of an access that no store of the queue gives: the ones a load reads at the bank. -/
def Core.atBank (c : Core) (a n : Nat) : List Nat :=
  ((List.range n).map (a + ·)).filter fun x => !c.stem.stq.any fun e => e.covers x 1

def Core.bankWords (c : Core) (a n : Nat) : List Nat := ((c.atBank a n).map fun x => x / 4 * 4).dedup

/-- A load meets an uncorrectable word in what it reads at the bank (R104, R324). -/
def Core.loadBad (c : Core) (a n : Nat) : Bool := (c.bankWords a n).any fun w => c.hardAt w 4

/-- What a load reads at the bank finds the single-bit errors there (R323). -/
def Core.noteLoad (c : Core) (a n : Nat) : Core := (c.bankWords a n).foldl (fun k w => k.noteSoft w 4) c

/-! ### Remote atomics that have performed -/

def MsgPhase.performed : MsgPhase → Bool
  | .replying | .replied => true
  | _ => false

/-- Every earlier access of the stem has performed: what a release waits for (R330). -/
def Core.released (c : Core) : Bool := c.stem.stq.isEmpty && c.stem.ratoms.all fun r => r.phase.performed

end Sys2Proof.Machine
end

