-- ==== Sys2Proof/Machine/Report.lean ====
section
/-! DEFINITION. Where the part reports: the error log (R416), the heartwood table's event ring (R429), the counts of
automatic retirement (R415), and host completions (R423). -/

namespace Sys2Proof.Machine

/-! ### Numbers of units (R3, R4, R304) -/

/-- The positions of the set bits of a bit vector, lowest first. -/
def bitList (n : Nat) (b : BitVec n) : List Nat := (List.range n).filter fun i => b.getLsbD i

/-- The physical quads that the logical quads of a die are bound to: at most 16 live ones, ascending (R304). -/
def Package.quadMap (p : Package) (d : DieId) : List Nat := (bitList 17 (p.liveq.get d)).take 16

/-- The physical quad of a logical core, if the core exists in the present configuration. -/
def Package.physQuad (p : Package) (c : CoreId) : Option Nat := (p.quadMap (dieOf c))[c.val % 64 / 4]?

/-- A logical core exists (R304). -/
def Package.coreExists (p : Package) (c : CoreId) : Bool := (p.physQuad c).isSome

/-- A logical core exists and its quad is not quarantined (R309). -/
def Package.coreLive (p : Package) (c : CoreId) : Bool :=
  match p.physQuad c with
  | none => false
  | some q => !(p.quarq.get (dieOf c)).getLsbD q

/-- The physical core number (R3). -/
def Package.physCore (p : Package) (c : CoreId) : Nat :=
  68 * (dieOf c).val + 4 * ((p.physQuad c).getD (c.val % 64 / 4)) + c.val % 4

def Package.coreUnit (p : Package) (c : CoreId) : UnitRef := ⟨0, p.physCore c, dieOf c, true⟩

/-- A kill of a context is under way: its queues are read no further and its records get no core (R315). -/
def Package.dying (p : Package) (ctx : BitVec 16) : Bool := p.ending.any fun e => e.1 == ctx
/-- The runner dies of this package start no work of a context (R358 step 1). -/
def Package.draining (p : Package) (ctx : BitVec 16) : Bool := p.kills.any fun k => k.ctx == ctx && k.stage == .draining

/-- Live channels L (R5), capacity in bytes (R359), and the physical channel of an address (Place). -/
def Package.channels (p : Package) : List Nat := bitList 256 p.livech
def Package.capacity (p : Package) : Nat := p.channels.length * 2 ^ 31
def Package.chanOf (p : Package) (pa : Nat) : Nat := p.channels.getD (pa / 512 % max 1 p.channels.length) 0
/-- The runner die of a physical address. -/
def Package.dieOfPa (p : Package) (pa : Nat) : DieId := ⟨p.chanOf pa / 64 % 4, by omega⟩

/-- The granules of 512 bytes that n bytes from an address touch. -/
def granules (pa n : Nat) : List Nat := (List.range ((pa % 512 + n + 511) / 512)).map fun i => pa / 512 * 512 + 512 * i

/-- A byte of an access lies in a channel declared failed (R361). -/
def State.chanFailed (s : State) (pa n : Nat) : Bool :=
  (granules pa n).any fun g => s.pkg.failedch.getLsbD (s.pkg.chanOf g)

/-- A read of n bytes meets poison, or a channel declared failed (R361, R414). -/
def State.memBad (s : State) (pa n : Nat) : Bool :=
  s.pkg.poison.any (fun b => decide (b < pa + n) && decide (pa < b + 32)) || s.chanFailed pa n

/-- A write of n bytes covers part of a poisoned block, or a failed channel. -/
def State.memWriteBad (s : State) (pa n : Nat) : Bool :=
  s.pkg.poison.any (fun b => decide (b < pa + n) && decide (pa < b + 32) &&
      !(decide (pa ≤ b) && decide (b + 32 ≤ pa + n))) || s.chanFailed pa n

/-! ### Error log (Tables 19-8, 19-9) -/

structure ErrRec where
  unit : UnitRef
  link : Bool
  cause : Nat
  wherev : Word
  far : BitVec 16
  ctx : BitVec 16
  ret : Bool
  deriving DecidableEq, Repr

/-- The 64 bytes of a record stamped with a die's cycle; count: the events that it tells. -/
def ErrRec.bytes (r : ErrRec) (stamp count : Nat) : List Byte :=
  leBytes 8 stamp ++
  leBytes 8 (r.cause % 64 + 64 * (if r.link then 1 else 0) + 256 * (if r.unit.crown then 1 else 0) +
    512 * r.unit.die.val + 4096 * r.unit.kind.val + 65536 * (r.unit.unit % 65536) + 2 ^ 32 * (count % 65536)) ++
  leBytes 8 r.wherev.toNat ++
  leBytes 8 ((if r.ret then 1 else 0) + 65536 * r.ctx.toNat + 2 ^ 32 * r.far.toNat) ++ List.replicate 32 0

/-- The event that a record tells: its unit and its cause; a link event, by its kind, stands beyond the causes. -/
def ErrRec.key (r : ErrRec) : UnitRef × Nat := (r.unit, if r.link then 64 + r.wherev.toNat % 32 else r.cause)

/-- Events of that unit and cause that no record tells yet. -/
def Package.untoldOf (p : Package) (r : ErrRec) : Nat :=
  ((p.untold.find? fun x => (x.1, x.2.1) == r.key).map (·.2.2)).getD 0

/-- The place of the next record in the ring; none: the ring is full, disabled, or its memory takes no write (R361). -/
def State.errSlot (s : State) : Option Nat :=
  let log := (s.pkg.errlog.extractLsb' 0 5).toNat
  let a := s.pkg.errlog.toNat / 4096 % 2 ^ 36 * 4096 + 64 * (s.pkg.errwr.toNat % 2 ^ log)
  if log < 6 || 16 < log || 2 ^ log ≤ (s.pkg.errwr - s.pkg.errrd).toNat || s.memWriteBad a 64 then none else some a

/-- A record is written and counted in ERRWR, and its COUNT tells the events since the last one; or it is counted as
lost by the die. -/
def State.errLog (s : State) (d : DieId) (r : ErrRec) : State :=
  let rest := s.pkg.untold.filter fun x => (x.1, x.2.1) != r.key
  match s.errSlot with
  | none =>
    (s.modRunner d fun k => { k with lost := k.lost + 1 }).modPkg fun p =>
      { p with untold := (r.key.1, r.key.2, p.untoldOf r + 1) :: rest }
  | some a =>
    { s with
      mem := memPut s.mem a (r.bytes (s.runner d).cycle (s.pkg.untoldOf r + 1))
      pkg := { s.pkg with errwr := s.pkg.errwr + 1, untold := rest } }

/-! ### Heartwood events and counts -/

/-- The event ring holds 1,024 records; a full ring loses its oldest TESTBAR_MISMATCH record, or its oldest. -/
def heartPush (l : List HwEvent) (e : HwEvent) : List HwEvent :=
  if l.length < 1024 then l ++ [e]
  else match l.find? fun x => x.cause == Cause.testbarMismatch.code && x.event == 0 with
    | some x => l.erase x ++ [e]
    | none => l.drop 1 ++ [e]

def State.heartEvent (s : State) (e : HwEvent) : State :=
  s.modPkg fun p => { p with heart := { p.heart with events := heartPush p.heart.events e } }

/-- One more event of a cause at a unit (R415). -/
def countUp (l : List (UnitRef × Cause × Nat)) (u : UnitRef) (c : Cause) : List (UnitRef × Cause × Nat) :=
  match l.find? fun x => x.1 == u && x.2.1 == c with
  | some x => (u, c, x.2.2 + 1) :: l.erase x
  | none => (u, c, 1) :: l

def State.countEvent (s : State) (u : UnitRef) (c : Cause) : State :=
  s.modPkg fun p => { p with counts := countUp p.counts u c }

/-- The causes that Table 01-26 marks L. -/
def causeLogged : Cause → Bool
  | .testbarMismatch | .eccUncorrectable | .mouldParity | .replayExhausted | .ptPoison | .hbmPoison
  | .peerUnreachable | .linkTimeout | .vfIsolation | .deadlineMissed | .thermal | .voltage | .fwAuth
  | .internalCheck | .configDegraded => true
  | _ => false

/-- A cause marked L: the error log and the heartwood table, and one more event of the unit; the far package of a
Yunan cause. -/
def State.logFar (s : State) (d : DieId) (u : UnitRef) (c : Cause) (wherev : Word) (ctx far : BitVec 16) : State :=
  if causeLogged c then
    ((s.errLog d ⟨u, false, c.code, wherev, far, ctx, false⟩).heartEvent
      ⟨0, c.code, u, wherev, BitVec.ofNat 64 (s.runner d).cycle⟩).countEvent u c
  else s

def State.logCause (s : State) (d : DieId) (u : UnitRef) (c : Cause) (wherev : Word) (ctx : BitVec 16) : State :=
  s.logFar d u c wherev ctx 0

/-- A logged cause of a core, reported by the lower runner die of its crown die. -/
def State.logCore (s : State) (c : CoreId) (cause : Cause) (wherev : Word) : State :=
  s.logCause (dieOf c) (s.pkg.coreUnit c) cause wherev (s.core c).stem.ctxid

/-! ### Host completions (R423) -/

def HostFn.csize (f : HostFn) : Nat := 2 ^ f.clog2n

/-- A completion may be written: the queue pair is on and the host's reading is not overrun. -/
def HostFn.mayWrite (f : HostFn) : Bool :=
  f.slog2n ≠ 0 && (f.lastd + 1 - f.cacknow).toNat ≤ f.csize

/-- Held completions are written to the completion ring while the host's reading allows. -/
def flushCompletions : Nat → Mem → HostFn → Mem × HostFn
  | 0, m, f => (m, f)
  | n + 1, m, f =>
    match f.heldc with
    | [] => (m, f)
    | k :: rest =>
      if f.mayWrite then
        let seq := f.lastd + 1
        flushCompletions n
          (memPut m (f.cbase.toNat + 16 * (seq.toNat % f.csize))
            (leBytes 4 seq.toNat ++ leBytes 4 k.hseq.toNat ++ leBytes 4 k.status.toNat ++ leBytes 4 k.detail.toNat))
          { f with lastd := seq, heldc := rest, msix := f.msix + 1 }
      else (m, f)

def State.flushFn (s : State) (f : Fin 17) : State :=
  let r := flushCompletions (s.pkg.fns.get f).heldc.length s.hostMem (s.pkg.fns.get f)
  { s with hostMem := r.1, pkg := { s.pkg with fns := s.pkg.fns.set f.val r.2 f.isLt } }

def State.modFn (s : State) (f : Fin 17) (g : HostFn → HostFn) : State :=
  s.modPkg fun p => { p with fns := p.fns.set f.val (g (p.fns.get f)) f.isLt }

def State.completion (s : State) (f : Fin 17) (k : Completion) : State :=
  (s.modFn f fun h => { h with heldc := h.heldc ++ [k] }).flushFn f

/-- The function of a VF number. -/
def fnOf (vf : Nat) : Fin 17 := if h : vf < 17 then ⟨vf, h⟩ else 0

/-- An unsolicited event (HSEQ 0): status 0x100 + cause. -/
def State.hostEvent (s : State) (f : Fin 17) (c : Cause) (detail : Nat) : State :=
  s.completion f ⟨0, BitVec.ofNat 32 (0x100 + c.code), BitVec.ofNat 32 detail⟩

/-- CONFIG_DEGRADED is raised for a context: its log record and an unsolicited completion of its function. -/
def State.degraded (s : State) (u : UnitRef) (ctx : BitVec 16) (vf : Nat) : State :=
  (s.logCause u.die u .configDegraded 0 ctx).hostEvent (fnOf vf) .configDegraded ctx.toNat

/-- INTERNAL_CHECK in the error log with a context (R348). -/
def State.internalCheck (s : State) (d : DieId) (ctx : BitVec 16) : State :=
  s.logCause d ⟨7, 0, d, false⟩ .internalCheck 0 ctx

end Sys2Proof.Machine
end

