-- ==== Sys2Proof/Machine/Ops.lean ====
section
/-! DEFINITION. The named operations of the core: watches (R366), taking a trap and returning from one (R32, R129),
and how a stem instruction waits, traps or completes (R91, R98, R132). -/

namespace Sys2Proof.Machine

/-! ### Watches (R365, R366) -/

/-- A watch covers the 64-byte line of a target. -/
def Watch.onLine (w : Watch) (scratch : Bool) (core : CoreId) (a n : Nat) : Bool :=
  w.target.scratch == scratch && (!scratch || w.target.core == core) &&
    decide (w.target.addr / 64 * 64 < a + n) && decide (a < w.target.addr / 64 * 64 + 64)

/-- The word a watch names, as it stands at its home. -/
def State.watchWord (s : State) (w : Watch) : Word :=
  let n := if w.wide then 8 else 4
  BitVec.ofNat 64 (if w.target.scratch then memNat (s.core w.target.core).scratch w.target.addr n
    else memNat s.mem w.target.addr n)

/-- The word a watch names cannot be read. -/
def State.watchBad (s : State) (w : Watch) : Bool :=
  let n := if w.wide then 8 else 4
  if w.target.scratch then (s.core w.target.core).hardAt w.target.addr n else s.memBad w.target.addr n

/-- The home's reply to a watcher. In this package the stem gets it by WAITA_REPLY; a word that cannot be read sends
the request to the home again, where its fault is posted (R111, R324). To another package it is a message, poisoned
where the word cannot be read (R414). -/
def State.watchReply (s : State) (w : Watch) : State :=
  if w.pkg.toNat = s.pkg.pkgid.toNat then
    s.modCore w.core fun k => k.setStem { k.stem with
      waita := k.stem.waita.map fun q =>
        if s.watchBad w then { q with phase := .travelling } else { q with phase := .replying, seen := s.watchWord w } }
  else s.modRunner w.die fun r => { r with messages := r.messages ++
    [⟨s.pkg.pkgid.setWidth 12, w.pkg, w.die, w.epoch, 16, 1, w.ctx, w.ws, 0, s.watchWord w, s.watchBad w⟩] }

/-- Watches that a predicate selects reply and are removed, on one runner die. -/
def State.fireOn (s : State) (d : DieId) (f : Watch → Bool) : State :=
  let r := s.runner d
  if r.watches.any f then
    (r.watches.filter f).foldl State.watchReply
      (s.setRunner d { r with watches := r.watches.filter fun w => !f w })
  else s

/-- Watches of every runner die. -/
def State.fireAll (s : State) (f : Watch → Bool) : State := (((s.fireOn 0 f).fireOn 1 f).fireOn 2 f).fireOn 3 f

/-- A write to a scratchpad fires the watches of the lines it touches, at the runner die of the core's crown die. -/
def State.scratchWrote (s : State) (c : CoreId) (a n : Nat) : State :=
  s.fireOn (dieOf c) fun w => w.onLine true c a n

/-- A scratchpad write by one of the core's own engines. -/
def State.writeScratch (s : State) (c : CoreId) (a : Nat) (bs : List Byte) : State :=
  (s.modCore c fun k => k.write a bs).scratchWrote c a bs.length

/-! ### Traps (R32, R129) -/

/-- Trap entry: SUP to PSUP, SUP set, the trap registers written, PC := TRAPVEC. -/
def Core.trapEntry (c : Core) (e : Engine) (cause : Cause) (val : Word) (pc : BitVec 16) (loc : Option Word) : Core :=
  c.setStem { c.stem with
    status := statusMode c.stem.status true (statusSup c.stem.status)
    trapcause := trapCauseWord e cause
    trappc := pc.setWidth 64
    trapval := val
    vfault := loc.getD c.stem.vfault
    pc := c.stem.trapvec.setWidth 16
    waitSince := none }

/-- The watch of a WAITA stands at another package. -/
def State.watchAway (s : State) (q : Waita) : Bool :=
  q.phase == .atHome && q.target.any fun t => t.pkg.toNat != s.pkg.pkgid.toNat

/-- The watch of a WAITA in progress is cancelled (R111, R132); one at another package by a request that the core sends
there (R366). -/
def State.cancelWaita (s : State) (c : CoreId) : State :=
  match (s.core c).stem.waita with
  | none => s
  | some q =>
    let s := s.modCore c fun k => { k with
      stem := { k.stem with waita := none }
      cancels := if s.watchAway q then k.cancels ++ [q] else k.cancels }
    { s with dies := s.dies.map fun r =>
        { r with watches := r.watches.filter fun w => !(w.core == c && w.pkg.toNat == s.pkg.pkgid.toNat) } }

/-- ERET (R129, R292): PC and SUP as saved; the stopped engines restart, and a deferred fault may trap. -/
def Core.eretState (c : Core) : Core :=
  let vec := if c.vec.taken then { c.vec with taken := false } else c.vec
  let mat := if c.mat.taken then { c.mat with taken := false } else c.mat
  { c with
    vec := vec
    mat := mat
    stem := { c.stem with
      status := statusMode c.stem.status (statusPsup c.stem.status) (statusPsup c.stem.status)
      deferred := false } }

/-- A trap that the stem's own instruction takes: no effect of the instruction, TRAPPC its first word; engine faults
held at this boundary wait for the handler's ERET (R91, R291). -/
def State.stemTrap (s : State) (e : Engine) (cause : Cause) (val : Word) : State :=
  (s.cancelWaita s.cur).modCore s.cur fun c =>
    let c' := c.trapEntry e cause val c.stem.pc none
    if c.vec.held.isSome || c.mat.held.isSome then c'.setStem { c'.stem with deferred := true } else c'

/-! ### Completion of a stem instruction (R89, R98, R129) -/

def lcGet {n : Nat} (lc : Vector W32 n) (k : Nat) : W32 := lc.toArray.getD k 0

/-- The back-edge tests of one transfer (R98), innermost loop first. -/
def backEdge {n : Nat} (lc : Vector W32 n) : List Loop → Nat → List Loop × Vector W32 n × Nat
  | [], pc => ([], lc, pc)
  | l :: ls, pc =>
    if pc = l.fin then
      if (lcGet lc ls.length).toNat ≤ 1 then backEdge lc ls pc
      else (l :: ls, lc.setIfInBounds ls.length (lcGet lc ls.length - 1), l.start)
    else (l :: ls, lc, pc)

/-- The next PC is recorded after its back-edge tests. -/
def Core.goto (c : Core) (npc : Nat) : Core :=
  let r := backEdge c.stem.lc c.stem.loops npc
  c.setStem { c.stem with loops := r.1, lc := r.2.1, pc := BitVec.ofNat 16 r.2.2, waitSince := none, waita := none }

/-- An instruction of the current core completes with its next PC: past the end of instruction memory it raises
IMEM_RANGE, TRAPPC the instruction (R89); with SSTEP set as the instruction leaves it, SINGLE_STEP follows, TRAPPC the
next one (R31, R129; a SYSWR of SSTEP itself: log 12). -/
def State.complete (s : State) (npc : Nat) : State :=
  if 0x10000 ≤ npc then s.stemTrap .stem .imemRange 0
  else
    let s := s.modCore s.cur fun c => c.goto npc
    if statusSstep (s.core s.cur).stem.status then s.stemTrap .stem .singleStep 0 else s

/-- The stem goes on waiting: the cycle in which the wait began stands (R132). -/
def State.keepWaiting (s : State) : State :=
  s.modCore s.cur fun c => c.setStem { c.stem with
    waitSince := some (c.stem.waitSince.getD (BitVec.ofNat 64 (s.cycles.get (dieOf s.cur)))) }

/-- What a stem instruction comes to. -/
inductive Res where
  /-- its effect, and the next PC before back-edge tests -/
  | done (s : State) (npc : Nat)
  | trap (cause : Cause) (val : Word)
  /-- an uncorrectable check on the n scratchpad bytes from a: ECC_UNCORRECTABLE, TRAPVAL the address (R324) -/
  | ecc (a n : Nat)
  /-- an issue check of a matrix command, which names the matrix engine (R199) -/
  | mtrap (cause : Cause) (val : Word)
  /-- an interruptible wait (Table 03-6): not completed -/
  | wait (s : State)
  /-- the grain is over or the core halts: no next instruction -/
  | stop (s : State)

/-- A later instruction that names the destination of an outstanding remote atomic waits (R121). -/
def Stem.isPending (t : Stem) (r : Reg) : Bool := r != 0 && t.ratoms.any fun q => q.d == r

/-- A stem instruction of the current core that reads and writes the registers listed. -/
def stemRun (reads writes : List Reg) (s : State) (f : Core → Res) : Host.Outcome State Fault Refusal :=
  let c := s.core s.cur
  if reads.any c.stem.isPending || writes.any c.stem.isPending then .next s.keepWaiting
  else if reads.any c.stem.parity.contains then .next (s.stemTrap .stem .eccUncorrectable 0)
  else match f c with
    | .done t npc => .next (t.complete npc)
    | .trap cause val => .next (s.stemTrap .stem cause val)
    | .ecc a n =>
      .next (((s.modCore s.cur fun k => k.noteHard a n).logCore s.cur .eccUncorrectable (BitVec.ofNat 64 a)).stemTrap
        .stem .eccUncorrectable (BitVec.ofNat 64 a))
    | .mtrap cause val => .next (s.stemTrap .matrix cause val)
    | .wait t => .next t.keepWaiting
    | .stop t => .next t

/-- The first word of the current instruction as it was fetched, zero-extended: TRAPVAL of the decode causes (R27,
R52). -/
def Core.firstWord (c : Core) : Word := c.stem.ir.setWidth 64

/-- The address of the word after an instruction of n words. -/
def Core.after (c : Core) (n : Nat) : Nat := c.stem.pc.toNat + 4 * n

end Sys2Proof.Machine
end

