-- ==== Sys2Proof/Machine/Mmu.lean ====
section
/-! DEFINITION. Contexts and translation (R347-R353), accesses at their homes (R321, R359, R361, R414), and the
contexts' fault queues (R354-R357). -/

namespace Sys2Proof.Machine

/-- The kinds of access (R349, Table 14-6). -/
inductive Access where
  | read | write | combine | fetch
  deriving DecidableEq, Repr

def Access.code : Access → Nat
  | .read => 0 | .write => 1 | .combine => 2 | .fetch => 3

/-! ### Main memory at its controllers -/

/-- A write to main memory: whole poisoned blocks are replaced (R414), and the watches of its lines fire, on every
runner die that holds one of its granules (R366). -/
def State.writeMem (s : State) (pa : Nat) (bs : List Byte) : State :=
  ({ s with
    mem := memPut s.mem pa bs
    pkg := { s.pkg with poison := s.pkg.poison.filter fun b =>
      !(decide (pa ≤ b) && decide (b + 32 ≤ pa + bs.length)) } }).fireAll
        fun w => w.onLine false 0 pa bs.length

/-! ### Context table (R347, R348) -/

structure CtxEntry where
  pa : Nat
  root : Nat
  vabits : Nat
  vf : Nat
  fqbase : Nat
  fqlog : Nat
  fqrd : W32
  fqwr : W32
  fqsem : Nat
  deriving DecidableEq, Repr

def State.ctxPa (s : State) (ctx : BitVec 16) : Option Nat :=
  let base := s.pkg.mmuctx.toNat / 2 ^ 22 % 2 ^ 26 * 2 ^ 22
  let log := (s.pkg.mmuctx.extractLsb' 0 5).toNat
  if (log = 0 && base == 0) || 2 ^ log ≤ ctx.toNat then none else some (base + 64 * ctx.toNat)

/-- The entry of a context, if it is usable (R348). -/
def State.ctxEntry (s : State) (ctx : BitVec 16) : Option CtxEntry :=
  match s.ctxPa ctx with
  | none => none
  | some pa =>
    let w0 := memNat s.mem pa 8
    let w1 := memNat s.mem (pa + 8) 8
    let w2 := memNat s.mem (pa + 16) 8
    let vab := w0 / 16 % 64
    let log := w2 % 32
    if w0 % 2 = 1 && w0 / 2 % 8 == 0 && w0 / 2 ^ 10 % 4 == 0 && w0 / 2 ^ 48 == 0 && 32 ≤ vab && vab ≤ 48 &&
        w1 / 32 == 0 && w2 / 32 % 128 == 0 && 6 ≤ log && log ≤ 16 && memNat s.mem (pa + 40) 24 == 0 &&
        !s.memBad pa 64 then
      some { pa := pa, root := w0 / 4096 % 2 ^ 36 * 4096, vabits := vab, vf := w1 % 32,
             fqbase := w2 / 4096 * 4096, fqlog := log, fqrd := memW32 s.mem (pa + 28),
             fqwr := memW32 s.mem (pa + 24), fqsem := memNat s.mem (pa + 32) 8 }
    else none

/-! ### The walk (R349-R351) -/

inductive Walk where
  | leaf (e : TlbEntry) (seen : List WalkEntry)
  | bad (c : Cause)
  deriving DecidableEq, Repr

def pageSize (lvl : Nat) (g64 : Bool) : Nat :=
  if lvl = 0 then (if g64 then 65536 else 4096) else if lvl = 1 then 2 ^ 21 else 2 ^ 30

/-- FormatBad of a table entry (Table 14-3). -/
def tableBad (cap : Nat) (e : Nat) (lvl : Nat) : Bool :=
  lvl = 0 || e / 2 ^ 48 != 0 || e / 2 ^ 9 % 8 != 0 || e / 4 % 64 != 0 || (e / 256 % 2 == 1 && lvl != 1) ||
    decide (cap < e / 4096 % 2 ^ 36 * 4096 + (if e / 256 % 2 = 1 then 256 else 4096))

/-- FormatBad of a leaf (Table 14-4). -/
def leafBad (e : Nat) (lvl : Nat) (g64 : Bool) : Bool :=
  let tgt := e / 2 ^ 10 % 4
  lvl = 3 || e / 2 ^ 48 % 16 != 0 || e / 2 ^ 8 % 4 != 0 || e / 64 % 2 != 0 || e / 4 % 8 == 0 || decide (2 ≤ tgt) ||
    (e / 4096 % 2 ^ 36 * 4096) % pageSize lvl g64 != 0 || (tgt == 0 && e / 2 ^ 39 % 512 != 0) ||
    (tgt == 1 && (e / 2 ^ 29 % 2 ^ 19 != 0 || lvl == 2))

/-- The cached entry of a level that covers an address (R353). -/
def Runner.walkAt (r : Runner) (ctx : BitVec 16) (lvl va : Nat) : Option Nat :=
  (r.walks.find? fun w => w.ctx == ctx && w.lvl == lvl && decide (w.base ≤ va) && decide (va < w.base + w.size)).map (·.entry)

/-- Walk from a table at t over the levels left, a runner die's cached table entries first (R353); seen: the table
entries it has gone through. -/
def walk (s : State) (r : Runner) (ctx : BitVec 16) (va : Nat) : List Nat → Nat → Bool → List WalkEntry → Walk
  | [], _, _, _ => .bad .ptFormat
  | lvl :: rest, t, g64, seen =>
    let idx := if g64 then va / 2 ^ 16 % 32 else va / 2 ^ (12 + 9 * lvl) % 512
    let a := t + 8 * idx
    let cached := r.walkAt ctx lvl va
    if cached.isNone && s.memBad a 8 then .bad .ptPoison
    else
      let e := cached.getD (memNat s.mem a 8)
      if e % 2 = 0 then .bad .pageNotPresent
      else if e / 2 % 2 = 1 then
        if e / 128 % 2 = 1 then .bad .ptPoison
        else if leafBad e lvl g64 then .bad .ptFormat
        else
          let sz := pageSize lvl g64
          .leaf { ctx := ctx, base := va / sz * sz, size := sz, pkg := BitVec.ofNat 12 (e / 2 ^ 52),
                  scratch := e / 2 ^ 10 % 4 == 1, addr := e / 4096 % 2 ^ 36 * 4096, perms := BitVec.ofNat 4 (e / 4) } seen
      else if tableBad s.pkg.capacity e lvl then .bad .ptFormat
      else
        let sz := 2 ^ (12 + 9 * lvl)
        walk s r ctx va rest (e / 4096 % 2 ^ 36 * 4096) (e / 256 % 2 == 1)
          (if cached.isSome then seen else ⟨ctx, lvl, va / sz * sz, sz, e⟩ :: seen)

/-- The permission rules of R352; perms holds R, W, X, U from bit 0 up. -/
def permOk (perms : BitVec 4) (sup : Bool) (a : Access) : Bool :=
  (sup || perms.getLsbD 3) &&
    match a with
    | .read => perms.getLsbD 0
    | .write => perms.getLsbD 1
    | .combine => perms.getLsbD 0 && perms.getLsbD 1
    | .fetch => perms.getLsbD 2

/-- A logical core lies in the range of a function (R419); function 0 has every core. -/
def Package.vfHas (p : Package) (vf : Nat) (c : Nat) : Bool :=
  let w := (p.fns.get (fnOf vf)).vfcores.toNat
  vf = 0 || (decide (w % 65536 ≤ c) && decide (c ≤ w / 65536 % 65536))

/-- What a translation comes to: a target with the die's cache filled, a cause of Table 14-5, or a context without
a usable entry (R348). -/
inductive Tr where
  | ok (t : Target) (s : State)
  | bad (c : Cause)
  | noCtx

def TlbEntry.holds (e : TlbEntry) (ctx : BitVec 16) (va : Nat) : Bool :=
  e.ctx == ctx && decide (e.base ≤ va) && decide (va < e.base + e.size)

def TlbEntry.target (e : TlbEntry) (va : Nat) : Target :=
  let a := e.addr + (va - e.base)
  { pkg := e.pkg, scratch := e.scratch, core := ⟨a / 2 ^ 21 % 256, by omega⟩,
    addr := if e.scratch then a % 2 ^ 21 else a }

/-- A leaf enters the die's translation caches, and the table entries above it the walk cache (R353): 4,096 leaves in
the shared cache and 32 in those of the 64 copy engines and 16 sequencers. -/
def fillTlb (e : TlbEntry) (seen : List WalkEntry) (r : Runner) : Runner :=
  { r with tlb := (e :: r.tlb).take 6656, walks := seen ++ r.walks }

/-- Orders 5, 6 and 8 of Table 14-5 on a leaf found. -/
def leafAccess (s : State) (d : DieId) (tag : Tag) (va : Nat) (acc : Access) (e : TlbEntry)
    (fill : Runner → Runner) : Tr :=
  let t := e.target va
  if !permOk e.perms tag.sup acc then .bad .pagePermission
  else if t.scratch && t.pkg.toNat == s.pkg.pkgid.toNat &&
      (!s.pkg.vfHas tag.vf t.core.val || !s.pkg.coreExists t.core) then .bad .vfIsolation
  else if !t.scratch && t.pkg.toNat == s.pkg.pkgid.toNat && decide (s.pkg.capacity ≤ t.addr) then .bad .ptFormat
  else .ok t (s.modRunner d fill)

/-- What the caches and the walk give for one virtual address (R348, R349, R353), and what a use of it adds to the
caches. -/
inductive Lookup where
  | leaf (e : TlbEntry) (fill : Runner → Runner)
  | bad (c : Cause)
  | noCtx

/-- The first word of a context's entry, cached or at its home: root and VABITS; with what the cache lacks. -/
def State.ctxWord (s : State) (d : DieId) (ctx : BitVec 16) : Option (Nat × List WalkEntry) :=
  match (s.runner d).walkAt ctx 4 0 with
  | some w => some (w, [])
  | none => (s.ctxEntry ctx).map fun ce => (memNat s.mem ce.pa 8, [⟨ctx, 4, 0, 1, memNat s.mem ce.pa 8⟩])

/-- A walk that no cached leaf answers. -/
def State.walkFor (s : State) (d : DieId) (ctx : BitVec 16) (va : Nat) : Lookup :=
  match s.ctxWord d ctx with
  | none => .noCtx
  | some (w, seen) =>
    let root := w / 4096 % 2 ^ 36 * 4096
    if 2 ^ (w / 16 % 64) ≤ va then .bad .vaRange
    else if s.pkg.capacity < root + 4096 then .bad .ptFormat
    else match walk s (s.runner d) ctx va [3, 2, 1, 0] root false seen with
      | .bad c => .bad c
      | .leaf e seen => .leaf e (fillTlb e seen)

/-- Which of the cached leaves of a page the engine at work holds is free: each engine has a cache of its own, and may
go on with a leaf that another one has no longer (R353). -/
def State.lookup (s : State) (d : DieId) (ctx : BitVec 16) (va : Nat) : Lookup :=
  match (s.runner d).tlb.filter fun e => e.holds ctx va with
  | [] => s.walkFor d ctx va
  | [e] => .leaf e id
  | e :: l => .leaf (l.getD ((s.free (2 ^ 90 + va)).toNat % (l.length + 1)) e) id

/-- An engine whose own cache lacks a page's leaf, the shared cache having dropped it, walks for it: the new leaf stands
beside those that others hold (R353). -/
def State.rewalk (s : State) (d : DieId) (ctx : BitVec 16) (va : Nat) : State :=
  match s.walkFor d ctx va with
  | .leaf _ fill => s.modRunner d fill
  | _ => s

/-- Translation of one virtual address by a runner die (R348-R353). -/
def State.translate (s : State) (d : DieId) (tag : Tag) (va : Nat) (acc : Access) : Tr :=
  match s.lookup d tag.ctx va with
  | .noCtx => .noCtx
  | .bad c => .bad c
  | .leaf e fill => leafAccess s d tag va acc e fill

/-- A target in this package. -/
def State.isLocal (s : State) (t : Target) : Bool := t.pkg.toNat == s.pkg.pkgid.toNat

/-! ### Accesses at the home -/

/-- The causes of order 9: the data at the home cannot be read. -/
def State.homeReadBad (s : State) (t : Target) (n : Nat) : Option Cause :=
  if t.scratch then
    if scratchSize < t.addr + n then some .vfIsolation
    else if (s.core t.core).hardAt t.addr n then some .eccUncorrectable else none
  else if s.pkg.capacity < t.addr + n then some .ptFormat
  else if s.memBad t.addr n then some .hbmPoison else none

/-- A write of part of an uncorrectable word or of a poisoned block is not performed (R324, R414). -/
def State.homeWriteBad (s : State) (t : Target) (n : Nat) : Option Cause :=
  if t.scratch then if wordPart (s.core t.core).eccHard t.addr n then some .eccUncorrectable else none
  else if s.pkg.capacity < t.addr + n then some .ptFormat
  else if s.memWriteBad t.addr n then some .hbmPoison else none

def State.homeBytes (s : State) (t : Target) (n : Nat) : List Byte :=
  if t.scratch then memBytes (s.core t.core).scratch t.addr n else memBytes s.mem t.addr n

/-- A read of n bytes at a home of this package finds the single-bit errors there (R323). -/
def State.noteRead (s : State) (t : Target) (n : Nat) : State :=
  if t.scratch then s.modCore t.core fun k => k.noteSoft t.addr n else s

def State.homeWrite (s : State) (t : Target) (bs : List Byte) : State :=
  if t.scratch then s.writeScratch t.core t.addr bs else s.writeMem t.addr bs

/-- An access of n bytes split at 4 KiB page borders (R326): address and length of each part. -/
def spans (va n : Nat) : List (Nat × Nat) :=
  let k := 4096 - va % 4096
  if n ≤ k then [(va, n)] else [(va, k), (va + k, n - k)]

/-! ### Fault queues (R354-R357) -/

/-- The 64 bytes of a fault record (Table 14-6). -/
def FaultRec.bytes (r : FaultRec) : List Byte :=
  leBytes 8 (r.cause.code + 256 * (if r.ended then 1 else 0) + 1024 * r.access + 4096 * r.work + 65536 * r.ctx.toNat +
      2 ^ 32 * r.recid.toNat) ++
    leBytes 8 r.va.toNat ++ leBytes 8 (r.seq.toNat + 2 ^ 32 * r.moveid.toNat) ++ leBytes 8 r.pos.toNat ++
    leBytes 8 r.sub.toNat ++ leBytes 8 (4 * r.die.val + 65536 * r.origin.toNat) ++ List.replicate 16 0

/-- The place of the next record in a context's ring. -/
def CtxEntry.slot (e : CtxEntry) : Nat := e.fqbase + 64 * (e.fqwr.toNat % 2 ^ e.fqlog)

/-- The ring takes no record: it is full, or the memory of its next place takes no write (R361, log 83). -/
def State.fqFull (s : State) (e : CtxEntry) : Bool :=
  decide (2 ^ e.fqlog ≤ (e.fqwr - e.fqrd).toNat) || s.memWriteBad e.slot 64

/-- The record is written, FQWR counted up, FQSEM incremented (R354). -/
def State.writeFault (s : State) (e : CtxEntry) (r : FaultRec) : State :=
  let s := s.writeMem e.slot r.bytes
  let s := s.writeMem (e.pa + 24) (leBytes 4 (e.fqwr + 1).toNat)
  if e.fqsem = 0 || s.memBad e.fqsem 4 then s
  else s.writeMem e.fqsem (leBytes 4 (memW32 s.mem e.fqsem + 1).toNat)

/-- Work that meets a channel declared failed (R361): CONFIG_DEGRADED is raised for its context as well. A fill reads
2 KiB, other work at most a granule from the address recorded. -/
def State.metFailed (s : State) (d : DieId) (r : FaultRec) : State :=
  let failed (pa : Nat) : Bool := s.pkg.failedch.getLsbD (s.pkg.chanOf pa)
  if r.cause ≠ .hbmPoison then s
  else match s.lookup d r.ctx r.va.toNat, s.ctxEntry r.ctx with
    | .leaf e _, some ce =>
      let a := (e.target r.va.toNat).addr
      let pas := if r.work = 3 then [a, a + 512, a + 1024, a + 1536] else [a]
      match pas.find? failed with
      | some pa => s.degraded ⟨4, s.pkg.chanOf pa, s.pkg.dieOfPa pa, false⟩ r.ctx ce.vf
      | none => s
    | _, _ => s

/-- The far package of a Yunan cause (Table 19-9): the one that the address names. -/
def State.farPkg (s : State) (d : DieId) (r : FaultRec) : BitVec 16 :=
  if r.cause = .peerUnreachable ∨ r.cause = .linkTimeout then
    match s.lookup d r.ctx r.va.toNat with
    | .leaf e _ => if e.pkg.toNat = s.pkg.pkgid.toNat then 0 else e.pkg.setWidth 16
    | _ => 0
  else 0

/-- A record is posted: into its ring, or into the die's overflow store, or not at all, and the faulting work stalls
(R355). The answer holds the record's identifier. -/
def State.postFault (s : State) (d : DieId) (r : FaultRec) : Option (State × W32) :=
  let id := s.pkg.recid
  let r := { r with recid := id, die := d }
  let counted (t : State) : State := t.modPkg fun p => { p with recid := id + 1 }
  let logged (t : State) : State := (t.logFar d ⟨7, 0, d, false⟩ r.cause r.va r.ctx (s.farPkg d r)).metFailed d r
  match s.ctxEntry r.ctx with
  | none => some (counted (s.internalCheck d r.ctx), id)
  | some e =>
    if s.fqFull e || (s.runner d).overflow.any (fun x => x.ctx == r.ctx) then
      if (s.runner d).overflow.length < 256 then
        some (logged (counted (s.modRunner d fun k => { k with overflow := k.overflow ++ [r] })), id)
      else none
    else some (logged (counted (s.writeFault e r)), id)

/-- The core that posted or started the work, or 0xFFFF. -/
def Tag.origin (t : Tag) : BitVec 16 := match t.core with
  | some c => BitVec.ofNat 16 c.val
  | none => 0xFFFF

/-- Suspended works of a die (R357). -/
def Runner.suspended (r : Runner) : Nat :=
  (r.boxes.countP fun b => match b.state with
    | .suspended _ => true
    | _ => false) + (r.seqs.toList.countP fun q => q.susp.isSome) + (r.insts.countP fun i => i.susp.isSome) +
    (r.fills.countP fun f => f.susp.isSome) + r.posted.countP fun p => p.susp.isSome

/-- OVERFLOW_RECORD_POST (R355): the die's oldest record whose ring has room is posted. -/
def execOverflowRecordPost (d : DieId) (s : State) : Host.Outcome State Fault Refusal :=
  .next <|
    match (s.runner d).overflow.find? fun r => match s.ctxEntry r.ctx with
        | some e => !s.fqFull e
        | none => true with
    | none => s
    | some r =>
      let s := s.modRunner d fun k => { k with overflow := k.overflow.erase r }
      match s.ctxEntry r.ctx with
      | some e => s.writeFault e r
      | none => s.internalCheck d r.ctx

end Sys2Proof.Machine
end

