-- ==== Sys2Proof/Machine/Windows.lean ====
section
/-! DEFINITION. Requests to other packages of the pod: the route table (R407), the source ends of the sequence
windows (R408), and what a request carries (Table 19-2). -/

namespace Sys2Proof.Machine

/-- The direction of a link: up is away from the crown die, toward the higher runner die, or out of the package. -/
def linkIdx (l : LinkId) (up : Bool) : Fin 224 := ⟨2 * l.val + (if up then 1 else 0), by split <;> omega⟩

def Package.link (p : Package) (l : LinkId) (up : Bool) : LinkDir := p.links.get (linkIdx l up)
def State.setLink (s : State) (l : LinkId) (up : Bool) (x : LinkDir) : State :=
  s.modPkg fun p => { p with links := p.links.set (linkIdx l up).val x (linkIdx l up).isLt }

/-- The link number of a Yunan port. -/
def portLink (p : Nat) : LinkId := ⟨96 + p % 16, by omega⟩
def Package.portUp (p : Package) (n : Nat) : Bool :=
  (p.link (portLink n) true).lanes != 0 && (p.link (portLink n) false).lanes != 0

/-! ### Numbers of modules, live sides (R3, R404) -/

/-- Module m of a crown die, 0-15. -/
def crownLink (d : DieId) (m : Nat) : LinkId := ⟨16 * d.val + m % 16, by omega⟩
/-- Runner-to-runner module m from a die toward the next. -/
def ringLink (d : DieId) (m : Nat) : LinkId := ⟨64 + 8 * d.val + m % 8, by omega⟩
def diePrev (d : DieId) : DieId := ⟨(d.val + 3) % 4, by omega⟩

/-- A side, or a runner-to-runner link, has a live module in each direction. -/
def Package.sideUp (p : Package) (first : LinkId) : Bool :=
  let ls := (List.range 8).map fun k => (⟨(first.val + k) % 112, by omega⟩ : LinkId)
  ls.any (fun l => (p.link l true).lanes != 0) && ls.any (fun l => (p.link l false).lanes != 0)

def Package.dieReachable (p : Package) (d : DieId) : Bool := p.sideUp (crownLink d 0) || p.sideUp (crownLink d 8)

/-- Every runner-to-runner link from a die on to another, counting upward, is up. -/
def Package.ringUp (p : Package) (d goal : DieId) : Bool :=
  (List.range ((goal.val + 4 - d.val) % 4)).all fun k => p.sideUp (ringLink ⟨(d.val + k) % 4, by omega⟩ 0)

/-- Runner dies that can pass messages: one way round the ring is up (R404). -/
def Package.ringPath (p : Package) (d goal : DieId) : Bool := p.ringUp d goal || p.ringUp goal d

/-- A runner die reaches a crown die through one of its sides. -/
def Package.canReach (p : Package) (d crown : DieId) : Bool :=
  (p.sideUp (crownLink crown 0) && p.ringPath d crown) || (p.sideUp (crownLink crown 8) && p.ringPath d (dieNext crown))

/-! ### Transmitter (R396) -/

/-- The replay buffer's size, and the interval after which the oldest flit is sent again (R396, R405). -/
def bufSize (l : LinkId) : Nat := if l.val < 96 then 64 else 256
def resendAfter (l : LinkId) : Nat := if l.val < 96 then 256 else 4096

/-- Waiting packets leave in flits of their own while the replay buffer has room. -/
def LinkDir.pump (size now : Nat) : Nat → LinkDir → LinkDir
  | 0, x => x
  | n + 1, x =>
    match x.waiting with
    | [] => x
    | p :: rest =>
      if size ≤ x.buf.length || x.retrain || x.lanes = 0 then x
      else LinkDir.pump size now n { x with
        waiting := rest
        buf := x.buf ++ [⟨x.next, p, now⟩]
        wire := x.wire ++ [(x.next, p)]
        next := x.next + 1 }

/-- The cycle count of the die that transmits on a direction. -/
def State.linkNow (s : State) (l : LinkId) (up : Bool) : Nat :=
  if l.val < 64 then
    let d : DieId := ⟨l.val / 16 % 4, by omega⟩
    if up then s.cycles.get d else (s.runner (if l.val % 16 < 8 then d else dieNext d)).cycle
  else if l.val < 96 then
    let d : DieId := ⟨(l.val - 64) / 8 % 4, by omega⟩
    (s.runner (if up then d else dieNext d)).cycle
  else (s.runner ⟨(l.val - 96) / 4 % 4, by omega⟩).cycle

def State.sendOn (s : State) (l : LinkId) (up : Bool) (p : Packet) : State :=
  let x := s.pkg.link l up
  s.setLink l up ({ x with waiting := x.waiting ++ [p] }.pump (bufSize l) (s.linkNow l up) (x.waiting.length + 1))

/-! ### Routes to other packages (R404, R407) -/

/-- The ports that the route table lists for a package and that are up, their runner dies within reach of a die. -/
def State.liveRoutes (s : State) (d : DieId) (pkg : BitVec 12) : List Nat :=
  if s.pkg.yrbase.getLsbD 0 then
    let e := memNat s.mem (s.pkg.yrbase.toNat / 2 ^ 15 % 2 ^ 33 * 2 ^ 15 + 8 * pkg.toNat) 8
    ((List.range (min 4 (e / 2 ^ 16 % 8))).map fun k => e / 16 ^ k % 16).filter fun p =>
      s.pkg.portUp p && s.pkg.ringPath d ⟨p / 4 % 4, by omega⟩
  else []

/-- A message leaves by a port, in a flit of the port's own numbering (R405). -/
def State.yunanOut (s : State) (port : Nat) (m : FarMsg) : State := s.sendOn (portLink port) true ⟨0, 0, false, some m⟩

/-- A message of no window leaves by the first live route. -/
def State.yunanSend (s : State) (d : DieId) (m : FarMsg) : State :=
  match s.liveRoutes d m.dst with
  | [] => s
  | p :: _ => s.yunanOut p m

/-! ### Source windows (R408) -/

/-- What sending a request to another package comes to. -/
inductive Far where
  | sent (s : State)
  | full
  | bad (c : Cause)

def SrcWin.fresh (pkg : BitVec 12) : SrcWin := ⟨pkg, 0, 0, [], 0, [], none⟩

/-- A source end that takes a place. -/
def SrcWin.placed (w : SrcWin) : Bool := w.next != 0 || !w.out.isEmpty || w.closing.isSome

/-- Places taken, of the 1,024 on the die and the records of its region (R408). -/
def Runner.places (r : Runner) : Nat := (r.srcWins.countP SrcWin.placed) + r.farWins.countP fun w => !w.freed
def Runner.room (r : Runner) : Nat :=
  let log := (r.ywbase.extractLsb' 0 5).toNat
  1024 + if log = 0 then 0 else 2 ^ min log 16

/-- The least recently used idle source end: what is closed when no place is free. -/
def Runner.idlest (r : Runner) : Option SrcWin := r.srcWins.reverse.find? fun w => w.placed && w.out.isEmpty && w.closing.isNone

/-- The next WSEQ expected on the reverse window. -/
def Runner.eack (r : Runner) (pkg : BitVec 12) (d : DieId) : W32 :=
  ((r.farWins.find? fun w => w.pkg == pkg && w.sdie == d).map (·.expected)).getD 0

/-- The header of a request. -/
def reqMsg (q : FarReq) : FarMsg := ⟨q.src, q.dst, q.sdie, q.epoch, q.op, q.len, q.ctx, q.wseq, q.eack, q.data, false⟩

/-- A request takes the next WSEQ of its window, waits in the retry buffer, and leaves on the window's route: for an
idle window the first live one. A window that is full, is being closed or finds no place makes it wait. -/
def State.sendFar (s : State) (d : DieId) (pkg : BitVec 12) (o : Owner) (q : FarReq) : Far :=
  match s.liveRoutes d pkg with
  | [] => .bad .peerUnreachable
  | first :: rest =>
    let r := s.runner d
    let w := (r.srcWins.find? fun w => w.pkg == pkg).getD (SrcWin.fresh pkg)
    if 256 ≤ w.out.length || w.closing.isSome || (!w.placed && decide (r.room ≤ r.places)) then .full
    else
      let port := if w.out.isEmpty || !(first :: rest).contains w.route then first else w.route
      let q := { q with
        src := s.pkg.pkgid.setWidth 12, dst := pkg, sdie := d, epoch := w.epoch, wseq := w.next, eack := r.eack pkg d }
      let w' := { w with
        next := w.next + 1, out := w.out ++ [⟨w.next, o, q, r.cycle⟩], route := port,
        tried := if w.out.isEmpty then [] else w.tried }
      .sent ((s.setRunner d { r with srcWins := w' :: r.srcWins.filter fun x => x.pkg != pkg }).yunanOut port (reqMsg q))

/-- The physical target of a request as the header carries it (R350). -/
def Target.far (t : Target) : Nat := if t.scratch then t.core.val * 2 ^ 21 + t.addr else t.addr

/-- Data that follow the header, in units of 8 bytes: an atomic carries its operand and its comparand. -/
def farLen (op : Nat) : Nat := if op = 3 then 2 else if op = 0 ∨ op = 6 ∨ op = 8 then 0 else 1

/-- A request to another package: operation of Table 19-2, target, data. -/
def farReq (op : Nat) (tag : Tag) (t : Target) (bytes aop : Nat) (data cmp : Word) : FarReq where
  src := 0
  dst := t.pkg
  sdie := 0
  epoch := 0
  op := op
  len := farLen op
  ctx := tag.ctx
  wseq := 0
  eack := 0
  vf := tag.vf
  sup := tag.sup
  core := tag.core
  dclass := 0
  scratch := t.scratch
  target := t.far
  bytes := bytes
  aop := aop
  data := data
  cmp := cmp
  hdr := none

end Sys2Proof.Machine
end

