-- ==== Sys2Proof/Machine/ConfRecord.lean ====
section
/-! DEFINITION. The configuration in force: numbers of modules, live sides, the configuration class and the
configuration record (R404, R429-R431, Tables 20-6, 20-7). -/

namespace Sys2Proof.Machine

def allDies : List DieId := List.finRange 4
def allCores : List CoreId := List.finRange 256

/-- Logical quads of a die. -/
def Package.quadCount (p : Package) (d : DieId) : Nat := (p.quadMap d).length

/-- CLASS (Table 20-7). A direction that is down counts as one with fewer than 64 lanes; one narrowed since the last
reset does not show yet (R398). -/
def Package.confClass (p : Package) : W32 :=
  let down (l : Nat) : Bool :=
    let k : LinkId := ⟨l % 112, by omega⟩
    (p.link k true).lanes == 0 || (p.link k false).lanes == 0
  let ucie := p.narrow != 0 || (List.range 96).any down
  let side := allDies.any fun d => !p.sideUp (crownLink d 0) || !p.sideUp (crownLink d 8) || !p.sideUp (ringLink d 0)
  let port := (List.range 16).any fun n => (p.link (portLink n) true).lanes != 8 || (p.link (portLink n) false).lanes != 8
  let link := if port then 3 else if side then 2 else if ucie then 1 else 0
  BitVec.ofNat 32 (link * 2 ^ 29 + (p.channels.length - 1) * 2 ^ 21 +
    (allDies.map fun d => p.quadCount d * 32 ^ d.val).sum)

/-- The bits of a list of places. -/
def bitsOf (l : List Nat) : Nat := (l.map fun k => 2 ^ k).sum

/-- Logical quads of a die that may take quad grains. -/
def Package.quadGrains (p : Package) (d : DieId) : Nat :=
  bitsOf ((List.range 16).filter fun q => match (p.quadMap d)[q]? with
    | some x => !(p.quarq.get d).getLsbD x
    | none => false)

/-- ASCII "CZ-4864", zero-padded (Table 20-2). -/
def partNo : Word := 0x00343638342D5A43

/-- The configuration record (Table 20-6): its first 0x120 bytes; the rest of its 4 KiB is zero. -/
def Package.confRecord (p : Package) : List Byte :=
  leBytes 8 partNo.toNat ++
  leBytes 4 p.confClass.toNat ++ leBytes 4 p.gen.toNat ++
  leBytes 8 (p.channels.length + (if p.lchanged then 512 else 0)) ++
  allDies.flatMap (fun d => leBytes 8 ((p.liveq.get d).toNat + 2 ^ 32 * p.quadGrains d)) ++
  List.replicate 8 0 ++
  allDies.flatMap (fun d => (List.range 16).map fun q => BitVec.ofNat 8 ((p.quadMap d).getD q 0xFF)) ++
  leBytes 32 p.livech.toNat ++ List.replicate 96 0 ++
  allDies.flatMap (fun d => leBytes 2 (p.narrow.extractLsb' (16 * d.val) 16).toNat) ++
  allDies.map (fun d => BitVec.ofNat 8
    ((if p.sideUp (crownLink d 0) then 1 else 0) + (if p.sideUp (crownLink d 8) then 2 else 0))) ++
  List.replicate 4 0 ++
  (List.range 16).map fun n => BitVec.ofNat 8 (min (p.link (portLink n) true).lanes (p.link (portLink n) false).lanes)

/-- The record is written to main memory, and the class to the heartwood table. -/
def State.writeConf (s : State) : State :=
  { s with mem := memPut s.mem 0 s.pkg.confRecord,
           pkg := { s.pkg with heart := { s.pkg.heart with cls := s.pkg.confClass } } }

/-- GEN advances, and the record follows (R431). -/
def State.genChanged (s : State) : State := (s.modPkg fun p => { p with gen := p.gen + 1 }).writeConf

end Sys2Proof.Machine
end

