-- ==== Sys2Proof/Machine/Links.lean ====
section
/-! DEFINITION. The links inside the package: routes of remote atomics (R395), numbered flits with acknowledgement,
NAK and replay (R396, R397), retraining and handover (R398, R403-R405). -/

namespace Sys2Proof.Machine

/-- The module number within a side: the physical quad mod 8 (R395). -/
def Package.moduleOf (p : Package) (c : CoreId) : Nat := (p.physQuad c).getD 0 % 8

/-- The direction that carries a direction's traffic: itself while live, or the substitute that took over (R403). -/
def Package.carrier (p : Package) (up : Bool) : Nat → LinkId → Option LinkId
  | 0, _ => none
  | n + 1, l =>
    if (p.link l up).lanes ≠ 0 then some l
    else match (p.link l up).sub with
      | some k => p.carrier up n k
      | none => none

/-! ### Routes (R395, R404) -/

/-- A home of this package that a runner die reaches. -/
def State.reaches (s : State) (d : DieId) (t : Target) : Bool :=
  if t.scratch then s.pkg.canReach d (dieOf t.core) else s.pkg.ringPath d (s.pkg.dieOfPa t.addr)

/-- One hop on the ring toward a die: the shorter way, upward when both are two hops, or the other when a link of it is
down; a reply takes the way of its request back (R395). -/
def State.ringHop (s : State) (d goal : DieId) (m : Nat) (p : Packet) : Option State :=
  let upward := if p.back then decide (2 < (d.val + 4 - goal.val) % 4) else decide ((goal.val + 4 - d.val) % 4 ≤ 2)
  if s.pkg.ringUp d goal && (upward || !s.pkg.ringUp goal d) then
    (s.pkg.carrier true 8 (ringLink d m)).map fun l => s.sendOn l true p
  else if s.pkg.ringUp goal d then (s.pkg.carrier false 8 (ringLink (diePrev d) m)).map fun l => s.sendOn l false p
  else none

/-- From a runner die to a core of an attached crown die. -/
def State.downHop (s : State) (d : DieId) (c : CoreId) (p : Packet) : Option State :=
  let m := s.pkg.moduleOf c
  if d = dieOf c then (s.pkg.carrier false 8 (crownLink (dieOf c) m)).map fun l => s.sendOn l false p
  else if d = dieNext (dieOf c) then (s.pkg.carrier false 8 (crownLink (dieOf c) (8 + m))).map fun l => s.sendOn l false p
  else none

/-- From a core to a runner die of its crown die: the lower side, or the other when that is down. -/
def State.upHop (s : State) (c : CoreId) (hi : Bool) (p : Packet) : Option State :=
  let m := s.pkg.moduleOf c
  let lo := (s.pkg.carrier true 8 (crownLink (dieOf c) m)).map fun l => s.sendOn l true p
  let up := (s.pkg.carrier true 8 (crownLink (dieOf c) (8 + m))).map fun l => s.sendOn l true p
  if hi then up.or lo else lo.or up

/-- The attached runner die through which requests of a lower die reach a crown die. -/
def entryDie (lower crown : DieId) : DieId :=
  if lower = crown || lower = dieNext (dieNext (dieNext crown)) then crown else dieNext crown

def modRatom (f : Ratom → Ratom) (id : Nat) (l : List Ratom) : List Ratom :=
  l.map fun r => if r.id = id then f r else r

def Core.modRatoms (k : Core) (f : List Ratom → List Ratom) : Core :=
  k.setStem { k.stem with ratoms := f k.stem.ratoms }

/-- A change to the list of remote atomics that holds one: the core's own, or that of a grain saved from it (R122). -/
def State.modRatoms (s : State) (c : CoreId) (id : Nat) (f : List Ratom → List Ratom) : State :=
  if (s.core c).stem.ratoms.any (fun r => r.id == id) then s.modCore c fun k => k.modRatoms f
  else s.modPkg fun p => { p with nests := p.nests.map fun n => { n with saved := n.saved.map fun x =>
    if x.core = c then { x with state := x.state.modRatoms f } else x } }

def State.setRatom (s : State) (c : CoreId) (id : Nat) (f : Ratom → Ratom) : State :=
  s.modRatoms c id (modRatom f id)

def State.dropRatom (s : State) (c : CoreId) (id : Nat) : State :=
  s.modRatoms c id fun l => l.filter fun r => r.id ≠ id

/-- The remote atomics of a core and of the grains saved from it. -/
def State.ratomsOf (s : State) (c : CoreId) : List Ratom :=
  (s.core c).stem.ratoms ++
    s.pkg.nests.flatMap fun n => n.saved.flatMap fun x => if x.core = c then x.state.stem.ratoms else []

def State.ratom (s : State) (c : CoreId) (id : Nat) : Option Ratom :=
  (s.ratomsOf c).find? fun r => r.id = id

/-- The tag of work that acts for a core (R329, R347). -/
def State.coreTag (s : State) (c : CoreId) : Tag :=
  let k := s.core c
  { ctx := k.stem.ctxid, vf := (k.grain.map (·.vf)).getD 0, sup := statusSup k.stem.status, core := some c }

/-- A remote atomic meets a cause: its record is posted and it stays suspended (R121). Table 14-6 gives no WORK code
and no position for it: both are free values (log 24). -/
def State.ratomFault (s : State) (c : CoreId) (r : Ratom) (cause : Cause) : Option State :=
  (s.postFault (dieOf c) ⟨0, r.tag.ctx, (s.free 0).toNat % 16, Access.combine.code, false, cause,
    r.va, 0, 0, s.free 1, 0, BitVec.ofNat 16 c.val, dieOf c⟩).map fun x =>
    x.1.setRatom c r.id fun q => { q with phase := .suspended, susp := some x.2 }

/-- No route is left for a packet (R404): a request takes PEER_UNREACHABLE, and so does one whose reply cannot come
back; one of a core that is itself out of reach is dropped with its core. None: no record can be posted yet. -/
def State.lostPacket (s : State) (p : Packet) : Option State :=
  match s.ratom p.core p.id with
  | none => some s
  | some r =>
    if s.pkg.dieReachable (dieOf p.core) then s.ratomFault p.core r .peerUnreachable else some (s.dropRatom p.core r.id)

/-- A translated request at a runner die goes one hop further, or has reached its home. -/
def State.forward (s : State) (d : DieId) (p : Packet) (t : Target) : Option State :=
  let m := s.pkg.moduleOf p.core
  let here := s.setRatom p.core p.id fun q => { q with phase := .atHome }
  if !s.reaches d t then none
  else if t.scratch then
    let goal := entryDie (dieOf p.core) (dieOf t.core)
    if d = goal then
      (s.downHop d t.core p).or (s.ringHop d (if goal = dieOf t.core then dieNext goal else diePrev goal) m p)
    else (s.downHop d t.core p).or (s.ringHop d goal m p)
  else if d = s.pkg.dieOfPa t.addr then some here
  else s.ringHop d (s.pkg.dieOfPa t.addr) m p

/-- A dropped remote atomic is answered: the value that D takes is stated nowhere and free (R268, R348, log 24). -/
def State.ratomDropped (s : State) (c : CoreId) (r : Ratom) : State :=
  s.setRatom c r.id fun q => { q with phase := .replied, susp := none, old := s.free 3 }

/-- A request reaches its core's lower runner die, which translates it (R352) and passes it on, to another package
through a window; one of a killed context is answered as dropped (R358). None: it cannot be taken yet. -/
def State.ratomAtRunner (s : State) (d : DieId) (p : Packet) (r : Ratom) : Option State :=
  if s.pkg.draining r.tag.ctx then some (s.ratomDropped p.core r)
  else match s.translate d r.tag r.va.toNat .combine with
  | .noCtx => some ((s.internalCheck d r.tag.ctx).ratomDropped p.core r)
  | .bad c => s.ratomFault p.core r c
  | .ok t s =>
    let s := s.setRatom p.core p.id fun q => { q with target := some t, susp := none, phase := .travelling }
    if s.isLocal t then
      match s.forward d p t with
      | some s' => some s'
      | none => s.ratomFault p.core r .peerUnreachable
    else match s.sendFar d t.pkg (.ratom p.core p.id) (farReq 3 r.tag t (if r.wide then 8 else 4) r.op r.b r.c) with
      | .sent s' => some s'
      | .full => none
      | .bad c => s.ratomFault p.core r c

/-- A packet arrives at a runner die. -/
def State.atRunner (s : State) (d : DieId) (p : Packet) : Option State :=
  match s.ratom p.core p.id with
  | none => some s
  | some r =>
    let low := dieOf p.core
    let m := s.pkg.moduleOf p.core
    let next :=
      if p.back then
        if !s.pkg.canReach d low then none
        else if d = low then (s.downHop d p.core p).or (s.ringHop d (dieNext low) m p)
        else (if d = dieNext low && (s.pkg.carrier false 8 (crownLink low m)).isNone then s.downHop d p.core p
          else s.ringHop d low m p)
      else match r.target with
        | some t => s.forward d p t
        | none => s.ringHop d low m p
    if !p.back && r.target.isNone && d = low then s.ratomAtRunner d p r else next.or (s.lostPacket p)

/-- A packet that reaches a runner die waits there while it cannot be taken, behind those of its core that wait
already; the link has delivered it (R396). -/
def State.enterDie (s : State) (d : DieId) (p : Packet) : State :=
  let wait (t : State) : State := t.modRunner d fun r => { r with ingress := r.ingress ++ [p] }
  if (s.runner d).ingress.any fun q => q.core == p.core then wait s
  else match s.atRunner d p with
    | some t => t
    | none => wait s

/-- The oldest packet that waits at a runner die is tried again. -/
def State.ingressTurn (s : State) (d : DieId) : State :=
  match (s.runner d).ingress with
  | [] => s
  | p :: rest => ((s.modRunner d fun r => { r with ingress := rest }).atRunner d p).getD s

/-- A packet arrives at a crown die: a request at its home bank, or a reply at its core. -/
def State.atCrown (s : State) (p : Packet) : State :=
  s.setRatom p.core p.id fun q => { q with phase := if p.back then .replied else .atHome }

/-- The die where a direction ends, or none for a crown die. -/
def linkEnd (l : LinkId) (up : Bool) : Option DieId :=
  if l.val < 64 then
    let d : DieId := ⟨l.val / 16 % 4, by omega⟩
    if up then some (if l.val % 16 < 8 then d else dieNext d) else none
  else
    let d : DieId := ⟨(l.val - 64) / 8 % 4, by omega⟩
    some (if up then dieNext d else d)

/-- The contents of a flit are delivered; what leaves by a port is the fabric's (R405). -/
def State.arrive (s : State) (l : LinkId) (up : Bool) (p : Packet) : State :=
  if 96 ≤ l.val then s
  else match linkEnd l up with
    | some d => s.enterDie d p
    | none => s.atCrown p

/-- The reply of a performed remote atomic sets out from its home (R121, R395). -/
def State.ratomReply (s : State) (c : CoreId) (r : Ratom) (old : Word) : State :=
  let s := s.setRatom c r.id fun q => { q with phase := .replying, old := old }
  let p : Packet := ⟨c, r.id, true, none⟩
  match r.target with
  | some t =>
    if t.scratch && s.isLocal t then
      ((s.upHop t.core (entryDie (dieOf c) (dieOf t.core) != dieOf t.core) p).or (s.lostPacket p)).getD s
    else
      let d := if s.isLocal t then s.pkg.dieOfPa t.addr else dieOf c
      s.enterDie d p
  | none => s

/-! ### Flits (Table 19-1) -/

/-- CRC-64 of R401, bit by bit from the most significant. -/
def crc64 (bs : List Byte) : Word :=
  ~~~ (bs.foldl (fun c b => (List.range 8).foldl (fun (c : Word) k =>
    let top := c.getLsbD 63 != b.getLsbD (7 - k)
    (c <<< 1) ^^^ (if top then 0x42F0E1EBA9EA3693 else 0)) c) (BitVec.allOnes 64))

/-- The 256 bytes of a flit: KIND, FSEQ, ACK, its messages, its CRC. -/
def flitBytes (kind : BitVec 4) (fseq ack : BitVec 12) (payload : List Byte) : List Byte :=
  let l := leBytes 2 (kind ++ fseq).toNat ++ leBytes 2 ack.toNat ++ payload.take 244 ++ List.replicate (244 - payload.length) 0
  l ++ leBytes 8 (crc64 l).toNat

/-- A flit that its receiver takes (R401): a good CRC, a KIND of the table, the reserved bits zero. -/
def flitGood (bs : List Byte) : Bool :=
  bs.length == 256 && leBytes 8 (crc64 (bs.take 248)).toNat == bs.drop 248 && decide (leNat (bs.take 2) / 4096 ≤ 4) &&
    leNat ((bs.drop 2).take 2) / 4096 == 0

/-! ### Events of a direction (Table 18-1) -/

/-- FSEQ f lies below g, as cumulative acknowledgements count. -/
def fseqBelow (f g : BitVec 12) : Bool := (g - f) != 0 && decide ((g - f).toNat < 2048)

/-- The unit of a link in the error log (Table 19-9). -/
def linkUnit (l : LinkId) : UnitRef :=
  if l.val < 64 then ⟨1, l.val % 16, ⟨l.val / 16 % 4, by omega⟩, true⟩
  else if l.val < 96 then ⟨1, (l.val - 64) % 8, ⟨(l.val - 64) / 8 % 4, by omega⟩, false⟩
  else ⟨2, l.val - 96, ⟨(l.val - 96) / 4 % 4, by omega⟩, false⟩

/-- The runner die that reports a link's events. -/
def linkReporter (l : LinkId) : DieId :=
  if l.val < 64 then
    let d : DieId := ⟨l.val / 16 % 4, by omega⟩
    if l.val % 16 < 8 then d else dieNext d
  else if l.val < 96 then ⟨(l.val - 64) / 8 % 4, by omega⟩
  else ⟨(l.val - 96) / 4 % 4, by omega⟩

/-- A failed arrival of the expected flit: a NAK, and at the second one with no delivery between a retrain (R398). -/
def LinkDir.failed (x : LinkDir) : LinkDir :=
  if x.naked = some x.expected then { x with wire := [], back := x.back ++ [.nak x.expected], retrain := true }
  else { x with wire := x.wire.drop 1, back := x.back ++ [.nak x.expected], naked := some x.expected }

/-- A flit with a good CRC, but a reserved KIND or a reserved bit set (R401). -/
def State.malformedFlit (s : State) (l : LinkId) (up : Bool) : State :=
  let x := s.pkg.link l up
  if x.retrain || x.lanes = 0 || x.wire.isEmpty then s
  else (s.setLink l up x.failed).logCause (linkReporter l) (linkUnit l) .internalCheck 0 0xFFFF

/-- The direction that carries the acknowledgements of a direction is not retraining: itself in reverse, or its
substitute (R396, R398, R403). -/
def Package.backOpen (p : Package) (l : LinkId) (up : Bool) : Bool :=
  (p.carrier (!up) 8 l).any fun k => !(p.link k (!up)).retrain

/-- FLIT_RECEIVED: the flit under way the longest arrives, its CRC good or bad (R396-R398). With no data flit under way
a bad one is a flit of acknowledgements of the reverse direction: they are lost, and it is a failed arrival here. -/
def execFlitReceived (l : LinkId) (up bad : Bool) (s : State) : Host.Outcome State Fault Refusal :=
  .next <|
    let x := s.pkg.link l up
    if x.retrain || x.lanes = 0 then s
    else match x.wire with
    | [] =>
      let y := s.pkg.link l (!up)
      if bad && !y.back.isEmpty then (s.setLink l up x.failed).setLink l (!up) { y with back := y.back.drop 1 } else s
    | (f, p) :: rest =>
      if bad then s.setLink l up x.failed
      else if f = x.expected then
        (s.setLink l up { x with wire := rest, expected := x.expected + 1, owed := true, naked := none }).arrive l up p
      else if fseqBelow f x.expected then s.setLink l up { x with wire := rest, owed := true }
      else s.setLink l up { x with wire := rest }

/-- ACK_FLIT_SEND: an owed acknowledgement leaves on the reverse direction, cumulative. -/
def execAckFlitSend (l : LinkId) (up : Bool) (s : State) : Host.Outcome State Fault Refusal :=
  .next <|
    let x := s.pkg.link l up
    if x.owed && s.pkg.backOpen l up then s.setLink l up { x with owed := false, back := x.back ++ [.ack x.expected] } else s

/-- The transmitter frees every flit below f, and new flits leave. -/
def LinkDir.free (x : LinkDir) (f : BitVec 12) : LinkDir := { x with buf := x.buf.filter fun b => !fseqBelow b.seq f }

/-- The flits of the replay buffer are sent again, in order. -/
def LinkDir.resendAll (x : LinkDir) (now : Nat) : LinkDir :=
  { x with wire := x.wire ++ x.buf.map fun b => (b.seq, b.msg), buf := x.buf.map fun b => { b with sent := now } }

/-- ACK_RECEIVED. -/
def execAckReceived (l : LinkId) (up : Bool) (s : State) : Host.Outcome State Fault Refusal :=
  .next <|
    let x := s.pkg.link l up
    match x.back with
    | .ack f :: rest =>
      if !s.pkg.backOpen l up then s
      else
      let y := { x with back := rest }.free f
      s.setLink l up (y.pump (bufSize l) (s.linkNow l up) y.waiting.length)
    | _ => s

/-- NAK_RECEIVED: every flit below f is freed, and the rest are sent again in order before any new flit. -/
def execNakReceived (l : LinkId) (up : Bool) (s : State) : Host.Outcome State Fault Refusal :=
  .next <|
    let x := s.pkg.link l up
    match x.back with
    | .nak f :: rest =>
      if !s.pkg.backOpen l up then s
      else
      let y := { x with back := rest }.free f
      let y := if y.retrain then y else y.resendAll (s.linkNow l up)
      s.setLink l up (y.pump (bufSize l) (s.linkNow l up) y.waiting.length)
    | _ => s

/-- REPLAY_TIMEOUT: the oldest unacknowledged flit has waited its interval (R396, R405). -/
def execReplayTimeout (l : LinkId) (up : Bool) (s : State) : Host.Outcome State Fault Refusal :=
  .next <|
    let x := s.pkg.link l up
    let due (b : Flit) : Bool := decide (b.sent + resendAfter l ≤ s.linkNow l up)
    if x.buf.head?.any due && !x.retrain && x.lanes != 0 then s.setLink l up (x.resendAll (s.linkNow l up))
    else s

/-! ### Retraining and loss of a direction -/

/-- Lanes live after a lane test: all 64, the good half, or none (R398); on a Yunan port the greatest power of two
of the lanes that pass (R405). -/
def lanesAfter (l : LinkId) (failing : BitVec 64) : Nat :=
  if l.val < 96 then
    let lo := failing.extractLsb' 0 32 != 0
    let hi := failing.extractLsb' 32 32 != 0
    if lo && hi then 0 else if lo || hi then 32 else 64
  else
    let n := 8 - (bitList 8 (failing.setWidth 8)).length
    if n = 8 then 8 else if 4 ≤ n then 4 else if 2 ≤ n then 2 else n

/-- A link event (R416): kind, direction, live lanes. -/
def State.linkEvent (s : State) (l : LinkId) (up : Bool) (u : UnitRef) (kind lanes : Nat) (ret : Bool) : State :=
  let inbound := if l.val < 64 then up else !up
  let w := BitVec.ofNat 64 (kind + (if inbound then 16 else 0) + 256 * lanes)
  (s.errLog (linkReporter l) ⟨u, true, 0, w, 0, 0xFFFF, ret⟩).heartEvent
    ⟨1, 0, u, w, BitVec.ofNat 64 (s.runner (linkReporter l)).cycle⟩

/-- The lane's unit: its number above its module's, or above 0x80 plus the port. -/
def laneUnit (l : LinkId) (lane : Nat) : UnitRef :=
  let u := linkUnit l
  { u with kind := 3, unit := 256 * lane + (if l.val < 96 then u.unit else 0x80 + u.unit) }

/-- Failing lanes not yet retired are recorded and logged. -/
def State.retireLanes (s : State) (l : LinkId) (up : Bool) (lanes : Nat) : State :=
  ((bitList 64 (s.pkg.link l up).failing).filter fun n => !s.pkg.heart.lanes.contains (l, up, n)).foldl
    (fun t n => (t.modPkg fun p => { p with heart := { p.heart with lanes := (l, up, n) :: p.heart.lanes } }).linkEvent
      l up (laneUnit l n) 0 lanes true) s

/-- The modules of a link's side in the order in which they take over (R403). -/
def substitutes (l : LinkId) : List LinkId :=
  (List.range 7).map fun k => ⟨(l.val / 8 * 8 + (l.val + k + 1) % 8) % 112, by omega⟩

/-- A packet sets out again from the die that a dead direction leaves: by the other side, or the other way round the
ring (R404). -/
def State.reroute (s : State) (l : LinkId) (up : Bool) (p : Packet) : State :=
  let d : DieId := if l.val < 64 then linkReporter l else
    let a : DieId := ⟨(l.val - 64) / 8 % 4, by omega⟩
    if up then a else dieNext a
  let t :=
    if l.val < 64 && up then
      let c := if p.back then ((s.ratom p.core p.id).bind (·.target)).elim p.core (·.core) else p.core
      (s.upHop c false p).or (s.lostPacket p)
    else some (s.enterDie d p)
  t.getD s

/-- A direction goes down: its unacknowledged messages and its traffic pass to the next live module of the side, or
the side is down with it (R403, R404). -/
def State.dropDirection (s : State) (l : LinkId) (up : Bool) : State :=
  let x := s.pkg.link l up
  let msgs := (x.buf.filter fun b => !fseqBelow b.seq x.expected).map (·.msg) ++ x.waiting
  match (substitutes l).find? fun k => (s.pkg.link k up).lanes ≠ 0 with
  | some k =>
    let y := s.pkg.link k up
    (s.setLink l up { x with buf := [], wire := [], waiting := [], retrain := false, sub := some k }).setLink k up
      ({ y with waiting := msgs ++ y.waiting }.pump (bufSize k) (s.linkNow k up) (msgs.length + y.waiting.length))
  | none =>
    let kind := if l.val < 64 then 2 else 3
    let t := (s.setLink l up { x with buf := [], wire := [], waiting := [], retrain := false }).linkEvent l up (linkUnit l)
      kind 0 false
    msgs.foldl (fun t p => t.reroute l up p) (if l.val < 64 then t.genChanged else t)

end Sys2Proof.Machine
end

