-- ==== Sys2Proof/Machine/Operands.lean ====
section
/-! DEFINITION. Operand forms: scalar sources of the stem and the sequencers (R21, R89), the addresses of LD and ST
(R20, R90), and the sources of the vector engine (R134-R139). -/

namespace Sys2Proof.Machine

/-- The value of a scalar source (R21): a 32-bit literal is sign-extended. -/
def Core.src (c : Core) : Src → Word
  | .reg r => c.getX r
  | .lit32 v => v.signExtend 64
  | .lit64 v => v

def srcRegs : Src → List Reg
  | .reg r => [r]
  | _ => []

/-- Literal words of a list of sources. -/
def litWords (l : List Src) : Nat := (l.map fun x => x.words.length).sum

/-- The width in bits of an integer TYPE (R92). -/
def intWidth : Ty → Option Nat
  | .i8 => some 8
  | .i16 => some 16
  | .i32 => some 32
  | .i64 => some 64
  | _ => none

/-- SignExtend of the low n bits of a value to 64 bits (R92). -/
def sext64 (n : Nat) (v : Nat) : Word := (BitVec.ofNat n v).signExtend 64

/-- Bytes of a SIZE code (R20). -/
def sizeBytes (size : BitVec 2) : Nat := 2 ^ size.toNat

/-- Base plus scaled offset, 64 bits (R20, R102). -/
def effAddr (base : Word) (size : BitVec 2) (ofs : BitVec 10) : Word :=
  base + ofs.signExtend 64 * BitVec.ofNat 64 (sizeBytes size)

/-- A branch target: the address of the first word plus four times a signed word offset (R20). -/
def branchTarget (pc : Nat) (ofs : Int) : Int := pc + 4 * ofs

/-- The bits of the positions of slice k of an instruction whose widest element has wI bytes, in a register of
w-bit elements (R139): positions 512k/wI to 512(k+1)/wI - 1. -/
def sliceMask (k w wI : Nat) : VReg :=
  let n := 512 / wI * w
  (BitVec.ofNat 32768 (2 ^ n - 1)) <<< (k * n)

def VWrite.apply (p : VWrite) (old : VReg) : VReg := (old &&& ~~~p.mask) ||| (p.data &&& p.mask)

/-- A vector register as a read at cycle t sees it (R139, R140): the writes visible by then, in order of visibility. -/
def pendView (pend : List VWrite) (target : VTarget) (t : Nat) (old : VReg) : VReg :=
  (pend.filter fun p => p.target == target && decide (p.time ≤ t)).foldl (fun v p => p.apply v) old

def Vec.vAt (v : Vec) (r : Reg) (t : Nat) : VReg := pendView v.pend (.v r) t (v.v.get r)
def Vec.vmAt (v : Vec) (m : Fin 8) (t : Nat) : VReg := pendView v.pend (.vm m) t ((v.vm.get m).setWidth 32768)
def Vec.eAt (v : Vec) (n : Fin 8) (t : Nat) : W32 :=
  (pendView v.pend (.e n) t ((v.e.get n).setWidth 32768)).setWidth 32

end Sys2Proof.Machine
end

