-- ==== Sys2Proof/Machine/Ragged.lean ====
section
/-! DEFINITION. Shape records and their boundaries (R386, R387, R391). -/

namespace Sys2Proof.Machine

/-- A shape record as its reader sees it (Table 17-1): bnd holds the inline boundaries. -/
structure ShapeRec where
  ext : Bool
  causal : Bool
  strict : Bool
  rows : Nat
  seqs : Nat
  bnd : List Nat
  xtab : Nat
  deriving DecidableEq, Repr

def recWord (bits : BitVec 1024) (k : Nat) : Nat := (bits.extractLsb' (32 * k) 32).toNat

def sortedLe : List Nat → Bool
  | a :: b :: l => decide (a ≤ b) && sortedLe (b :: l)
  | _ => true

/-- The record of 128 bytes, when the inline part of Table 17-2 holds. -/
def shapeRec (bits : BitVec 1024) : Option ShapeRec :=
  let w0 := recWord bits 0
  let fl := w0 / 256 % 256
  let ext := fl / 4 % 2 == 1
  let r := recWord bits 1
  let n := recWord bits 2
  let ws := (List.range 29).map fun k => recWord bits (3 + k)
  let bnd := ws.take (if ext then 28 else n + 1)
  let last := recWord bits 31
  if decide (w0 % 256 ≤ 13) && fl / 8 == 0 && w0 / 65536 == 0 && decide (r ≤ 32768) && decide (n ≤ 65535) &&
      bnd.getD 0 1 == 0 && sortedLe bnd &&
      (if ext then decide (29 ≤ n) && decide (bnd.getLastD 0 ≤ r) && last % 4 == 0 && decide (last < 2 ^ 21) &&
          decide (last + 4 * (n - 27) ≤ 2 ^ 21)
        else decide (n ≤ 28) && bnd.getLastD 0 == r && (ws.drop (n + 1)).all (· == 0)) then
    some ⟨ext, fl / 2 % 2 == 1, fl % 2 == 1, r, n, bnd, if ext then last else 0⟩
  else none

/-- How many boundaries lie at or below a row, less one: the sequence of the row, if it is no pad row. -/
def seqOf (bnd : List Nat) (rows t : Nat) : Option Nat :=
  if t < rows then some ((bnd.filter fun b => decide (b ≤ t)).length - 1) else none

/-- The rows of sequence q: from b(q) up to b(q + 1). -/
def seqStart (bnd : List Nat) (q : Nat) : Nat := bnd.getD q 0
def seqEnd (bnd : List Nat) (q : Nat) : Nat := bnd.getD (q + 1) 0

/-- A vector instruction that must place a row can do so from the inline boundaries (R391). -/
def ShapeRec.placeable (r : ShapeRec) (t : Nat) : Bool := !r.ext || decide (t < r.bnd.getLastD 0)

/-- The whole table of a record, external part included, when it is in order (R387). -/
def ShapeRec.wholeTable (r : ShapeRec) (read : Nat → Nat) : Option (List Nat) :=
  if r.ext then
    let l := r.bnd ++ (List.range (r.seqs - 27)).map fun k => read (r.xtab + 4 * k)
    if sortedLe l && l.getLastD 0 == r.rows then some l else none
  else some r.bnd

end Sys2Proof.Machine
end

