-- ==== Sys2Proof/Machine/StemAlu.lean ====
section
/-! DEFINITION. The stem's integer instructions (R92-R94): the results of Table 03-2 at each width, then one meaning
for each mnemonic. The sequencers' ALU computes by the same results (R229). -/

namespace Sys2Proof.Machine

/-! ### Results (Table 03-2): n the width, x and y the operands, z the old destination -/

abbrev AluFn := (n : Nat) → BitVec n → BitVec n → BitVec n → BitVec n

/-- ADD. -/
def aluAdd : AluFn := fun _ x y _ => x + y
/-- SUB. -/
def aluSub : AluFn := fun _ x y _ => x - y
/-- MUL. -/
def aluMul : AluFn := fun _ x y _ => x * y
/-- MULH, signed. -/
def aluMulh : AluFn := fun n x y _ => ((x.signExtend (2 * n)) * (y.signExtend (2 * n))).extractLsb' n n
/-- AND. -/
def aluAnd : AluFn := fun _ x y _ => x &&& y
/-- OR. -/
def aluOr : AluFn := fun _ x y _ => x ||| y
/-- XOR. -/
def aluXor : AluFn := fun _ x y _ => x ^^^ y
/-- SHL. -/
def aluShl : AluFn := fun n x y _ => x <<< (y.toNat % n)
/-- SHR. -/
def aluShr : AluFn := fun n x y _ => x >>> (y.toNat % n)
/-- SRA. -/
def aluSra : AluFn := fun n x y _ => x.sshiftRight (y.toNat % n)
/-- MIN, signed. -/
def aluMin : AluFn := fun _ x y _ => if y.slt x then y else x
/-- MAX, signed. -/
def aluMax : AluFn := fun _ x y _ => if x.slt y then y else x
/-- SLT. -/
def aluSlt : AluFn := fun _ x y _ => if x.slt y then 1 else 0
/-- SLTU. -/
def aluSltu : AluFn := fun _ x y _ => if x.ult y then 1 else 0
/-- MULH, unsigned. -/
def aluMulhUnsigned : AluFn := fun n x y _ => ((x.setWidth (2 * n)) * (y.setWidth (2 * n))).extractLsb' n n
/-- MIN, unsigned. -/
def aluMinUnsigned : AluFn := fun _ x y _ => if y.ult x then y else x
/-- MAX, unsigned. -/
def aluMaxUnsigned : AluFn := fun _ x y _ => if x.ult y then y else x
/-- MADD: the old destination is a third source. -/
def aluMadd : AluFn := fun _ x y z => z + x * y
/-- DIV, REM: truncated toward zero; the most negative value by -1 gives itself, remainder 0 (R93). -/
def aluDiv : AluFn := fun _ x y _ => x.sdiv y
def aluRem : AluFn := fun _ x y _ => x.srem y
def aluDivUnsigned : AluFn := fun _ x y _ => x.udiv y
def aluRemUnsigned : AluFn := fun _ x y _ => x.umod y
/-- CLZ: n when the operand is zero. -/
def aluClz : AluFn := fun n x _ _ => BitVec.ofNat n (if x.toNat = 0 then n else n - 1 - x.toNat.log2)
/-- POPC. -/
def aluPopc : AluFn := fun n x _ _ => BitVec.ofNat n ((List.range n).countP fun i => x.getLsbD i)

/-- D := SignExtend(r[N-1:0]) (R92). -/
def aluValue (f : AluFn) (n : Nat) (a b d : Word) : Word :=
  (f n (a.setWidth n) (b.setWidth n) (d.setWidth n)).signExtend 64

/-- An ALU instruction of two sources; useD: the destination is read too. A TYPE that is no integer raises
FORMAT_INVALID. -/
def alu3 (useD : Bool) (f : AluFn) (d : Reg) (a b : Src) (ty : Ty) (s : State) : Host.Outcome State Fault Refusal :=
  stemRun (srcRegs a ++ srcRegs b ++ (if useD then [d] else [])) [d] s fun c =>
    match intWidth ty with
    | none => .trap .formatInvalid c.firstWord
    | some n =>
      .done (s.setCore s.cur (c.setX d (aluValue f n (c.src a) (c.src b) (c.getX d)))) (c.after (1 + litWords [a, b]))

/-- DIV and REM: a zero divisor raises DIV_ZERO with the dividend in TRAPVAL (R93, log 21). -/
def aluDivide (f : AluFn) (d : Reg) (a b : Src) (ty : Ty) (s : State) : Host.Outcome State Fault Refusal :=
  stemRun (srcRegs a ++ srcRegs b) [d] s fun c =>
    match intWidth ty with
    | none => .trap .formatInvalid c.firstWord
    | some n =>
      if ((c.src b).setWidth n).toNat = 0 then .trap .divZero (((c.src a).setWidth n).signExtend 64)
      else .done (s.setCore s.cur (c.setX d (aluValue f n (c.src a) (c.src b) 0))) (c.after (1 + litWords [a, b]))

/-- CLZ and POPC. -/
def alu2 (f : AluFn) (d : Reg) (a : Src) (ty : Ty) (s : State) : Host.Outcome State Fault Refusal :=
  stemRun (srcRegs a) [d] s fun c =>
    match intWidth ty with
    | none => .trap .formatInvalid c.firstWord
    | some n => .done (s.setCore s.cur (c.setX d (aluValue f n (c.src a) 0 0))) (c.after (1 + litWords [a]))

/-! ### Meanings -/

def execAdd (d : Reg) (a b : Src) (ty : Ty) (s : State) : Host.Outcome State Fault Refusal :=
  alu3 false aluAdd d a b ty s
def execSub (d : Reg) (a b : Src) (ty : Ty) (s : State) : Host.Outcome State Fault Refusal :=
  alu3 false aluSub d a b ty s
def execMul (d : Reg) (a b : Src) (ty : Ty) (s : State) : Host.Outcome State Fault Refusal :=
  alu3 false aluMul d a b ty s
def execMulh (d : Reg) (a b : Src) (ty : Ty) (s : State) : Host.Outcome State Fault Refusal :=
  alu3 false aluMulh d a b ty s
def execAnd (d : Reg) (a b : Src) (ty : Ty) (s : State) : Host.Outcome State Fault Refusal :=
  alu3 false aluAnd d a b ty s
def execOr (d : Reg) (a b : Src) (ty : Ty) (s : State) : Host.Outcome State Fault Refusal :=
  alu3 false aluOr d a b ty s
def execXor (d : Reg) (a b : Src) (ty : Ty) (s : State) : Host.Outcome State Fault Refusal :=
  alu3 false aluXor d a b ty s
def execShl (d : Reg) (a b : Src) (ty : Ty) (s : State) : Host.Outcome State Fault Refusal :=
  alu3 false aluShl d a b ty s
def execShr (d : Reg) (a b : Src) (ty : Ty) (s : State) : Host.Outcome State Fault Refusal :=
  alu3 false aluShr d a b ty s
def execSra (d : Reg) (a b : Src) (ty : Ty) (s : State) : Host.Outcome State Fault Refusal :=
  alu3 false aluSra d a b ty s
def execMin (d : Reg) (a b : Src) (ty : Ty) (s : State) : Host.Outcome State Fault Refusal :=
  alu3 false aluMin d a b ty s
def execMax (d : Reg) (a b : Src) (ty : Ty) (s : State) : Host.Outcome State Fault Refusal :=
  alu3 false aluMax d a b ty s
def execSlt (d : Reg) (a b : Src) (ty : Ty) (s : State) : Host.Outcome State Fault Refusal :=
  alu3 false aluSlt d a b ty s
def execSltu (d : Reg) (a b : Src) (ty : Ty) (s : State) : Host.Outcome State Fault Refusal :=
  alu3 false aluSltu d a b ty s
def execMulhUnsigned (d : Reg) (a b : Src) (ty : Ty) (s : State) : Host.Outcome State Fault Refusal :=
  alu3 false aluMulhUnsigned d a b ty s
def execMinUnsigned (d : Reg) (a b : Src) (ty : Ty) (s : State) : Host.Outcome State Fault Refusal :=
  alu3 false aluMinUnsigned d a b ty s
def execMaxUnsigned (d : Reg) (a b : Src) (ty : Ty) (s : State) : Host.Outcome State Fault Refusal :=
  alu3 false aluMaxUnsigned d a b ty s
def execMadd (d : Reg) (a b : Src) (ty : Ty) (s : State) : Host.Outcome State Fault Refusal :=
  alu3 true aluMadd d a b ty s
def execDiv (d : Reg) (a b : Src) (ty : Ty) (s : State) : Host.Outcome State Fault Refusal :=
  aluDivide aluDiv d a b ty s
def execRem (d : Reg) (a b : Src) (ty : Ty) (s : State) : Host.Outcome State Fault Refusal :=
  aluDivide aluRem d a b ty s
def execDivUnsigned (d : Reg) (a b : Src) (ty : Ty) (s : State) : Host.Outcome State Fault Refusal :=
  aluDivide aluDivUnsigned d a b ty s
def execRemUnsigned (d : Reg) (a b : Src) (ty : Ty) (s : State) : Host.Outcome State Fault Refusal :=
  aluDivide aluRemUnsigned d a b ty s
def execClz (d : Reg) (a : Src) (ty : Ty) (s : State) : Host.Outcome State Fault Refusal :=
  alu2 aluClz d a ty s
def execPopc (d : Reg) (a : Src) (ty : Ty) (s : State) : Host.Outcome State Fault Refusal :=
  alu2 aluPopc d a ty s

/-- LI (R94): SignExtend(IMM16), or SignExtend(literal). -/
def liValue : LiVal → Word
  | .imm i => i.signExtend 64
  | .lit v => v.signExtend 64

def execLi (d : Reg) (v : LiVal) (s : State) : Host.Outcome State Fault Refusal :=
  stemRun [] [d] s fun c => .done (s.setCore s.cur (c.setX d (liValue v))) (c.after (1 + v.words.length))

end Sys2Proof.Machine
end

