-- ==== Sys2Proof/Machine/StemMem.lean ====
section
/-! DEFINITION. The stem's scratchpad loads, stores and local atomics (R102-R108), with the check bits of R323 and
R324 and the shape-slot check of R106. -/

namespace Sys2Proof.Machine

/-- ScratchAddr (R90), then alignment: the address, or the cause with the address in TRAPVAL. -/
def withAddr (v : Word) (align : Nat) (bad : Cause) (k : Nat → Res) : Res :=
  if scratchSize ≤ v.toNat then .trap .scratchRange v
  else if v.toNat % align ≠ 0 then .trap bad v
  else k v.toNat

/-- An earlier stem access performs before one of a class issues (R104, R112, R327): a store of the class or of a
fenced one, or a remote atomic that a FENCE puts first. -/
def Core.mustWait (c : Core) (cls : BitVec 4) : Bool :=
  orderedBefore cls c.stem.stq || c.stem.ratoms.any fun r =>
    !r.phase.performed && decide (r.id < c.stem.ratomFence.toArray.getD cls.toNat 0)

/-- A load of n bytes (R102): D receives the value extended. It performs as it issues, and sees the stem's own stores
that have not performed (R104; log 81). -/
def loadRun (d : Reg) (a : Src) (cls : BitVec 4) (size : BitVec 2) (ofs : BitVec 10) (ext : Nat → Word) (s : State) :
    Host.Outcome State Fault Refusal :=
  stemRun (srcRegs a) [d] s fun c =>
    withAddr (effAddr (c.src a) size ofs) (sizeBytes size) .misaligned fun x =>
      if c.mustWait cls then .wait s
      else if c.loadBad x (sizeBytes size) then .ecc x (sizeBytes size)
      else .done (s.setCore s.cur ((c.noteLoad x (sizeBytes size)).setX d
          (ext (c.readOwn x (sizeBytes size))))) (c.after (1 + litWords [a]))

/-- LD, major 0x10: sign-extended. -/
def execLd (d : Reg) (a : Src) (cls : BitVec 4) (size : BitVec 2) (ofs : BitVec 10) (s : State) :
    Host.Outcome State Fault Refusal :=
  loadRun d a cls size ofs (sext64 (8 * sizeBytes size)) s

/-- LD, major 0x2A: zero-extended; SIZE 3 raises RESERVED_FIELD. -/
def execLdZeroExtending (d : Reg) (a : Src) (cls : BitVec 4) (size : BitVec 2) (ofs : BitVec 10) (s : State) :
    Host.Outcome State Fault Refusal :=
  if size = 3 then stemRun [] [] s fun c => .trap .reservedField c.firstWord
  else loadRun d a cls size ofs (BitVec.ofNat 64) s

/-- The checks every stem write of n bytes makes before it writes (R106, R324). -/
def storeChecks (c : Core) (x n : Nat) (k : Res) : Res :=
  if statusShchk c.stem.status && c.inSlot x n then .trap .shapeStale (BitVec.ofNat 64 x)
  else k

/-- A store joins the stem's stores that have not performed; the remote atomics that a FENCE puts before its class
perform first. -/
def Core.enqueueStore (c : Core) (cls : BitVec 4) (p : Nat) (bs : List Byte) : Core :=
  c.setStem { c.stem with stq := c.stem.stq ++ [.store cls p bs (c.stem.ratomFence.toArray.getD cls.toNat 0)] }

/-- ST (R102, R104): the checks are made as it issues, and the bank performs it later. A store of part of an
uncorrectable word reads it first, and fails (R324, log 23). -/
def execSt (x a : Src) (cls : BitVec 4) (size : BitVec 2) (ofs : BitVec 10) (s : State) :
    Host.Outcome State Fault Refusal :=
  stemRun (srcRegs x ++ srcRegs a) [] s fun c =>
    let n := sizeBytes size
    withAddr (effAddr (c.src a) size ofs) n .misaligned fun p =>
      storeChecks c p n <|
        if wordPart c.eccHard p n then .ecc p n
        else .done (s.setCore s.cur (c.enqueueStore cls p (leBytes n (c.src x).toNat))) (c.after (1 + litWords [x, a]))

/-! ### A store at its bank (R104, R112, R327) -/

/-- The i-th entry may perform: a store that no earlier one, no FENCE and no remote atomic holds back. -/
def Core.mayPerform (c : Core) (i : Nat) : Bool :=
  match c.stem.stq[i]? with
  | some (.store cls a bs rats) =>
    !orderedBefore cls (c.stem.stq.take i) && !(c.stem.stq.take i).any (fun e => e.covers a bs.length) &&
      c.stem.ratoms.all fun r => r.phase.performed || decide (rats ≤ r.id)
  | _ => false

/-- The queue without its i-th entry; a FENCE with no store before it holds back nothing. -/
def dropStore (i : Nat) (l : List StEntry) : List StEntry := (l.eraseIdx i).dropWhile StEntry.isFence

/-- A store of a core performs at its bank. Part of a word that has become uncorrectable since it issued is not
written, and is logged (R324, log 23). -/
def State.performStore (s : State) (c : CoreId) (i : Nat) : State :=
  let k := s.core c
  match k.stem.stq[i]? with
  | some (.store _ a bs _) =>
    if k.mayPerform i then
      let t := s.modCore c fun k => k.setStem { k.stem with stq := dropStore i k.stem.stq }
      if wordPart k.eccHard a bs.length then
        (t.modCore c fun k => k.noteHard a bs.length).logCore c .eccUncorrectable (BitVec.ofNat 64 a)
      else t.writeScratch c a bs
    else s
  | _ => s

/-! ### Atomics -/

/-- Table 03-4: n the width, x the old word, y the operand. -/
abbrev AmoFn := AluFn
def amoAdd : AmoFn := aluAdd
def amoAnd : AmoFn := aluAnd
def amoOr : AmoFn := aluOr
def amoXor : AmoFn := aluXor
def amoMin : AmoFn := aluMin
def amoMax : AmoFn := aluMax
def amoMinu : AmoFn := aluMinUnsigned
def amoMaxu : AmoFn := aluMaxUnsigned
def amoSwap : AmoFn := fun _ _ y _ => y
/-- CAS and the .cas of RATOM: z is the compare value. -/
def amoCas : AmoFn := fun _ x y z => if x = z then y else x

/-- The operation of a SUB code of RATOM (R121, R258). -/
def amoOf (op : Nat) : AmoFn :=
  match op with
  | 0 => amoAdd | 1 => amoAnd | 2 => amoOr | 3 => amoXor | 4 => amoMin | 5 => amoMax
  | 6 => amoMinu | 7 => amoMaxu | 8 => amoSwap | _ => amoCas

/-- The new value of a word of n bytes as a number. -/
def amoNew (f : AmoFn) (n : Nat) (old : Nat) (b z : Word) : Nat :=
  (f (8 * n) (BitVec.ofNat (8 * n) old) (b.setWidth (8 * n)) (z.setWidth (8 * n))).toNat

/-- AMO and CAS (R107, R108): one step at the bank, after every earlier stem store, in order with the requests queued
there (R287). With writes false nothing is stored (a CAS whose compare fails). The check of the read comes before
SHAPE_STALE (log 22). -/
def amoRun (useD : Bool) (f : AmoFn) (writes : Nat → Nat → Core → Bool) (d : Reg) (a b : Src) (ty : Ty) (s : State) :
    Host.Outcome State Fault Refusal :=
  stemRun (srcRegs a ++ srcRegs b ++ (if useD then [d] else [])) [d] s fun c =>
    match intWidth ty with
    | none => .trap .formatInvalid c.firstWord
    | some w =>
      let n := w / 8
      withAddr (c.src a) n .atomicMisaligned fun x =>
        if !c.stem.stq.isEmpty || !c.banksFree x n then .wait s
        else if c.hardAt x n then .ecc x n
        else
          let old := c.read x n
          let next := c.after (1 + litWords [a, b])
          if writes n old c then
            storeChecks c x n <|
              .done (((s.setCore s.cur (c.noteSoft x n)).writeScratch s.cur x (leBytes n (amoNew f n old (c.src b) (c.getX d)))).modCore s.cur
                fun k => k.setX d (sext64 (8 * n) old)) next
          else .done (s.setCore s.cur ((c.noteSoft x n).setX d (sext64 (8 * n) old))) next

def amoAlways : Nat → Nat → Core → Bool := fun _ _ _ => true

def execAmoAdd (d : Reg) (a b : Src) (ty : Ty) (s : State) : Host.Outcome State Fault Refusal :=
  amoRun false amoAdd amoAlways d a b ty s
def execAmoAnd (d : Reg) (a b : Src) (ty : Ty) (s : State) : Host.Outcome State Fault Refusal :=
  amoRun false amoAnd amoAlways d a b ty s
def execAmoOr (d : Reg) (a b : Src) (ty : Ty) (s : State) : Host.Outcome State Fault Refusal :=
  amoRun false amoOr amoAlways d a b ty s
def execAmoXor (d : Reg) (a b : Src) (ty : Ty) (s : State) : Host.Outcome State Fault Refusal :=
  amoRun false amoXor amoAlways d a b ty s
def execAmoMin (d : Reg) (a b : Src) (ty : Ty) (s : State) : Host.Outcome State Fault Refusal :=
  amoRun false amoMin amoAlways d a b ty s
def execAmoMax (d : Reg) (a b : Src) (ty : Ty) (s : State) : Host.Outcome State Fault Refusal :=
  amoRun false amoMax amoAlways d a b ty s
def execAmoMinu (d : Reg) (a b : Src) (ty : Ty) (s : State) : Host.Outcome State Fault Refusal :=
  amoRun false amoMinu amoAlways d a b ty s
def execAmoMaxu (d : Reg) (a b : Src) (ty : Ty) (s : State) : Host.Outcome State Fault Refusal :=
  amoRun false amoMaxu amoAlways d a b ty s
def execAmoSwap (d : Reg) (a b : Src) (ty : Ty) (s : State) : Host.Outcome State Fault Refusal :=
  amoRun false amoSwap amoAlways d a b ty s

/-- CAS writes only when the old word equals D[N-1:0] (R107). -/
def execCas (d : Reg) (a b : Src) (ty : Ty) (s : State) : Host.Outcome State Fault Refusal :=
  amoRun true amoCas (fun n old c => BitVec.ofNat (8 * n) old == (c.getX d).setWidth (8 * n)) d a b ty s

end Sys2Proof.Machine
end

