-- ==== Sys2Proof/Machine/StemSync.lean ====
section
/-! DEFINITION. The stem's synchronisation, vector coupling, runner posting, probe cache, shape slots and system
instructions (R109-R126, R129-R131). LAUNCH, GRAINEND, HALT and YIELD stand with the scheduler. -/

namespace Sys2Proof.Machine

/-! ### Engines at rest -/

/-- The control queue is empty and the vector engine is idle after its last VEND, with no fault to report (R118). -/
def Core.vecIdle (c : Core) : Bool :=
  c.vec.queue.isEmpty && c.vec.run.isNone && c.vec.svc.isEmpty && c.vec.ecc.isEmpty && c.vec.found.isNone &&
    c.vec.held.isNone

/-- The matrix queue is empty and every command is complete (R216). -/
def Core.matIdle (c : Core) : Bool := c.mat.queue.isEmpty && c.mat.held.isNone

/-- No earlier token or matrix command is incomplete (R130). -/
def Core.enginesIdle (c : Core) : Bool := c.vecIdle && c.matIdle

/-! ### Semaphores (R110) -/

/-- SEMWAIT: the test and the subtraction are one step at the bank, after every earlier stem store (R327). -/
def execSemwait (a b : Src) (_sc : Scope) (s : State) : Host.Outcome State Fault Refusal :=
  stemRun (srcRegs a ++ srcRegs b) [] s fun c =>
    let n := ((c.src b).setWidth 32).toNat
    withAddr (c.src a) 4 .semRange fun x =>
      if !c.stem.stq.isEmpty || (n ≠ 0 && !c.banksFree x 4) then .wait s
      else if c.hardAt x 4 then .ecc x 4
      else if c.read x 4 < n then .wait (s.setCore s.cur (c.noteSoft x 4))
      else .done ((s.setCore s.cur (c.noteSoft x 4)).writeScratch s.cur x (leBytes 4 (c.read x 4 - n)))
        (c.after (1 + litWords [a, b]))

/-- SEMPOST: a release, which waits until every earlier access has performed (R330); a sum of 2^32 or more raises
SEM_OVERFLOW and leaves the count. -/
def execSempost (a b : Src) (_sc : Scope) (s : State) : Host.Outcome State Fault Refusal :=
  stemRun (srcRegs a ++ srcRegs b) [] s fun c =>
    let n := ((c.src b).setWidth 32).toNat
    withAddr (c.src a) 4 .semRange fun x =>
      if !c.released || !c.banksFree x 4 then .wait s
      else if c.hardAt x 4 then .ecc x 4
      else if 2 ^ 32 ≤ c.read x 4 + n then .trap .semOverflow 0
      else .done ((s.setCore s.cur (c.noteSoft x 4)).writeScratch s.cur x (leBytes 4 (c.read x 4 + n)))
        (c.after (1 + litWords [a, b]))

/-! ### WAITA (R111, R365, R366) -/

def execWaita (d : Reg) (a b : Src) (ty : Ty) (_sc : Scope) (s : State) : Host.Outcome State Fault Refusal :=
  stemRun (srcRegs a ++ srcRegs b ++ [d]) [d] s fun c =>
    let n := if ty = .i64 then 8 else 4
    if ty ≠ .i32 && ty ≠ .i64 then .trap .formatInvalid c.firstWord
    else if (c.src a).toNat % n ≠ 0 then .trap .atomicMisaligned (c.src a)
    else match c.stem.waita with
      | none =>
        .wait (s.setCore s.cur (c.setStem { c.stem with waita := some {
          wide := ty = .i64
          va := c.src a
          expected := (c.getX d).setWidth (8 * n) |>.setWidth 64
          timeout := (c.src b).setWidth 32
          ctx := c.stem.ctxid
          sent := BitVec.ofNat 64 (s.cycles.get (dieOf s.cur))
          phase := .travelling
          target := none
          susp := none
          seen := 0 } }))
      | some q =>
        if q.phase = .replied then
          .done (s.setCore s.cur (c.setX d (sext64 (8 * n) q.seen.toNat))) (c.after (1 + litWords [a, b]))
        else .wait s

def State.setWaita (s : State) (c : CoreId) (f : Waita → Waita) : State :=
  s.modCore c fun k => k.setStem { k.stem with waita := k.stem.waita.map f }

/-- The runner die that holds the watches of a line (R365). -/
def State.watchDie (s : State) (t : Target) : DieId := if t.scratch then dieOf t.core else s.pkg.dieOfPa t.addr

def addWatch (w : Watch) (r : Runner) : Runner := { r with watches := w :: r.watches }

/-- A WAITA's translation or read meets a cause: its record is posted and the stem goes on waiting (R111). Table 14-6
gives no position for it: a free value (log 24). -/
def State.waitaStop (s : State) (c : CoreId) (q : Waita) (cause : Cause) : Option State :=
  (s.postFault (dieOf c) ⟨0, q.ctx, 4, Access.read.code, false, cause, q.va, 0, 0, s.free 1, 0, BitVec.ofNat 16 c.val,
    dieOf c⟩).map fun x => x.1.setWaita c fun w => { w with phase := .suspended, susp := some x.2 }

/-- Where no record can be stored, the request stays as it is (R355). -/
def State.waitaFault (s : State) (c : CoreId) (q : Waita) (cause : Cause) : State := (s.waitaStop c q cause).getD s

/-- The watch request at a home of this package: the word is read and the watch installed in one step. -/
def State.watchAt (s : State) (c : CoreId) (q : Waita) (t : Target) : State :=
  let n := if q.wide then 8 else 4
  match s.homeReadBad t n with
  | some cause => s.waitaFault c q cause
  | none =>
    let old := BitVec.ofNat 64 (leNat (s.homeBytes t n))
    let die := s.watchDie t
    if old ≠ q.expected || 2048 ≤ (s.runner die).watches.length then
      s.setWaita c fun w => { w with phase := .replying, seen := old }
    else ((s.noteRead t n).modRunner die (addWatch ⟨t, q.wide, q.expected, s.pkg.pkgid.setWidth 12, c, q.ctx, q.va, 0, 0, 0, 0⟩)).setWaita c
      fun w => { w with phase := .atHome, target := some t }

/-- An earlier remote atomic of the core performs before its WAITA reads: one on the same aligned word, or one that a
FENCE covering class 0 puts first (R112, R327). -/
def Core.watchWaits (c : Core) (q : Waita) : Bool :=
  c.stem.ratoms.any fun r => !r.phase.performed &&
    (decide (r.va.toNat / 8 = q.va.toNat / 8) || decide (r.id < c.stem.ratomFence.get 0))

/-- WATCH_INSTALL (R111): the request of a core reaches its runner die, is translated, and goes to the home. Without a
usable context entry it ends as a dropped one does, with a free value (R348, log 24). -/
def execWatchInstall (c : CoreId) (s : State) : Host.Outcome State Fault Refusal :=
  .next <|
    match (s.core c).stem.waita with
    | none => s
    | some q =>
      if q.phase ≠ .travelling || (s.core c).watchWaits q then s
      else
        let tag := s.coreTag c
        match s.translate (dieOf c) tag q.va.toNat .read with
        | .noCtx =>
          (s.internalCheck (dieOf c) q.ctx).setWaita c fun w => { w with phase := .replying, seen := s.free 3 }
        | .bad cause => s.waitaFault c q cause
        | .ok t s =>
          if s.isLocal t then s.watchAt c q t
          else match s.sendFar (dieOf c) t.pkg (.waita c q.sent) (farReq 5 tag t (if q.wide then 8 else 4) 0 q.expected 0) with
            | .sent s' => s'.setWaita c fun w => { w with phase := .atHome, target := some t }
            | .full => s
            | .bad cause => s.waitaFault c q cause

/-- A core sends the cancellation of a watch at another package, as soon as a window takes it (R132, R366). -/
def State.sendCancel (s : State) (c : CoreId) : State :=
  match (s.core c).cancels with
  | [] => s
  | q :: rest =>
    let t := s.modCore c fun k => { k with cancels := rest }
    match q.target with
    | none => t
    | some g =>
      match t.sendFar (dieOf c) g.pkg .nobody (farReq 6 (t.coreTag c) g (if q.wide then 8 else 4) 0 0 0) with
      | .sent u => u
      | .full => s
      | .bad _ => t

/-- WAITA_REPLY: the home's answer reaches the stem. -/
def execWaitaReply (c : CoreId) (s : State) : Host.Outcome State Fault Refusal :=
  .next <|
    match (s.core c).stem.waita with
    | some q => if q.phase = .replying then s.setWaita c fun w => { w with phase := .replied } else s
    | none => s

/-- WAITA_TIMEOUT: the stem cancels the watch, and the home replies with the word. A watch at another package is
cancelled there by a request of its own. Only a watch that stands at its home is cancelled so: a request still on its
way, or suspended under a record, has none (log 76). -/
def execWaitaTimeout (c : CoreId) (s : State) : Host.Outcome State Fault Refusal :=
  .next <|
    match (s.core c).stem.waita with
    | none => s
    | some q =>
      let now := BitVec.ofNat 64 (s.cycles.get (dieOf c))
      if q.phase = .atHome && q.timeout ≠ 0 && decide (q.timeout.toNat ≤ (now - q.sent).toNat) then
        let mine : Watch → Bool := fun w => w.core == c && w.pkg.toNat == s.pkg.pkgid.toNat
        if s.dies.toList.any (fun r => r.watches.any mine) then
          s.fireAll mine
        else match s.translate (dieOf c) (s.coreTag c) q.va.toNat .read with
          | .ok t s' =>
            if s'.isLocal t then s
            else match s'.sendFar (dieOf c) t.pkg (.waita c q.sent) (farReq 6 (s'.coreTag c) t (if q.wide then 8 else 4) 0 0 0) with
              | .sent s'' => s''
              | _ => s
          | _ => s
      else s

/-! ### FENCE, IFENCE, BAR (R112-R114) -/

/-- A marker of a FENCE among the posts: its mask, and the number of the first post after it; a later marker of the
same mask covers the earlier one. -/
def addMark (k : BitVec 16) (n : Nat) (l : List (BitVec 16 × Nat)) : List (BitVec 16 × Nat) :=
  (k, n) :: l.filter fun m => m.1 != k

/-- A FENCE among the stem's stores. At scope .c every earlier store is visible already (R330); with no store before
it, there is nothing to hold back. -/
def fenceStores (k : BitVec 16) (sc : Scope) (l : List StEntry) : List StEntry :=
  if sc = .core || l.isEmpty then l else l ++ [.fence k]

/-- The remote atomics that performs first, class by class: with class 0 in the mask, all those issued so far come
before later accesses of the mask's classes. -/
def fenceRatoms (k : BitVec 16) (next : Nat) (l : Vector Nat 16) : Vector Nat 16 :=
  if k.getLsbD 0 then Vector.ofFn fun i => if k.getLsbD i.val then next else l.get i else l

/-- A FENCE of a mask (R112). -/
def Core.fence (c : Core) (k : BitVec 16) (sc : Scope) : Core :=
  { c with
    marks := addMark k c.postNum c.marks
    stem := { c.stem with
      stq := fenceStores k sc c.stem.stq
      ratomFence := fenceRatoms k c.stem.ratomNext c.stem.ratomFence } }

def execFence (a : Src) (sc : Scope) (s : State) : Host.Outcome State Fault Refusal :=
  stemRun (srcRegs a) [] s fun c =>
    let k : BitVec 16 := (c.src a).setWidth 16
    .done (s.setCore s.cur (if k = 0 then c else c.fence k sc)) (c.after (1 + litWords [a]))

def execIfence (s : State) : Host.Outcome State Fault Refusal :=
  stemRun [] [] s fun c => .done (s.setCore s.cur (c.setStem { c.stem with stale := [] })) (c.after 1)

/-- Two cores lie in the same instance of a scope (Table 00-5). -/
def sameInst (sc : Scope) (a b : CoreId) : Bool :=
  match sc with
  | .core => a == b
  | .quad => a.val / 4 == b.val / 4
  | .die => a.val / 64 == b.val / 64
  | .package | .pod => true

/-- The participants of a BAR: the cores of the scope instance on which grains of the same nest are resident. -/
def State.barCores (s : State) (c : CoreId) (sc : Scope) : List CoreId :=
  match (s.core c).grain with
  | none => [c]
  | some g => allCores.filter fun k => sameInst sc c k && ((s.core k).grain.any fun h => h.nest == g.nest)

def State.nestOf (s : State) (c : CoreId) : Option Nest :=
  match (s.core c).grain with
  | none => none
  | some g => s.pkg.nests.find? fun n => n.id == g.nest

/-- CORESIDENCY of a nest record. -/
def Nest.coresident (n : Nest) : Bool := n.bits.getLsbD 29

/-- An arrival that has not been released: one that is counts for the barrier before (R114). -/
def Stem.arrived (t : Stem) (num : BitVec 2) (sc : Scope) : Bool :=
  t.bars.any fun b => b.num == num && b.scope == sc && !b.released

def Core.arrive (c : Core) (num : BitVec 2) (sc : Scope) : Core :=
  if c.stem.arrived num sc then c else c.setStem { c.stem with bars := ⟨num, sc, false⟩ :: c.stem.bars }

def Core.release (c : Core) (num : BitVec 2) (sc : Scope) : Core :=
  c.setStem { c.stem with bars := c.stem.bars.map fun b =>
    if b.num = num ∧ b.scope = sc then { b with released := true } else b }

def Core.leaveBar (c : Core) (num : BitVec 2) (sc : Scope) : Core :=
  c.setStem { c.stem with bars := c.stem.bars.filter fun b => !(b.num == num && b.scope == sc) }

def State.releaseBar (s : State) (num : BitVec 2) (sc : Scope) (l : List CoreId) : State :=
  l.foldl (fun t k => t.modCore k fun x => x.release num sc) s

def execBar (a : Src) (sc : Scope) (s : State) : Host.Outcome State Fault Refusal :=
  stemRun (srcRegs a) [] s fun c =>
    let num : BitVec 2 := (c.src a).setWidth 2
    let next := c.after (1 + litWords [a])
    if sc = .core then (if c.released then .done s next else .wait s)
    else if !(s.nestOf s.cur).any Nest.coresident then .trap .launchInvalid 0
    else if c.stem.bars.any (fun b => b.num == num && b.scope == sc && b.released) then
      .done (s.modCore s.cur fun k => k.leaveBar num sc) next
    else if !c.released then .wait s
    else
      let s1 := s.modCore s.cur fun k => k.arrive num sc
      let l := s1.barCores s.cur sc
      if l.all fun k => (s1.core k).stem.arrived num sc then
        .done ((s1.releaseBar num sc l).modCore s.cur fun k => k.leaveBar num sc) next
      else .wait s1

/-! ### Vector coupling (R115-R118) -/

/-- The low words of n registers from x[d] on. -/
def scalarRegs (d n : Nat) : List Reg := (List.range n).map fun k => ⟨(d + k) % 31, by omega⟩

def tokenBad (a b : Word) : Bool :=
  a.extractLsb' 32 32 != 0 || a.extractLsb' 0 2 != 0 || b.extractLsb' 41 3 != 0 || b.extractLsb' 48 16 != 0

def execToken (d : Fin 32) (n : Fin 5) (a b : Src) (s : State) : Host.Outcome State Fault Refusal :=
  let regs := scalarRegs d.val n.val
  stemRun (srcRegs a ++ srcRegs b ++ regs) [] s fun c =>
    let va := c.src a
    let vb := c.src b
    let grant : BitVec 4 := vb.extractLsb' 44 4
    if tokenBad va vb then .trap .tokenFormat 0
    else if (List.finRange 4).any fun t => grant.getLsbD t.val && !c.full.get t then .trap .tileProtocol 0
    else if !c.stem.stq.isEmpty || 64 ≤ c.vec.queue.length then .wait s
    else
      let tok : Token := {
        ent := va.extractLsb' 0 16
        trip := (va.extractLsb' 16 16).toNat
        rows := vb.extractLsb' 0 32
        tail := (vb.extractLsb' 32 9).toNat
        grant := grant
        scal := regs.map fun r => (c.getX r).setWidth 32
        slots := c.slots
        cycle := s.cycles.get (dieOf s.cur) }
      .done (s.setCore s.cur (c.setVec { c.vec with queue := c.vec.queue ++ [tok] })) (c.after (1 + litWords [a, b]))

def execTwait (t : Fin 4) (s : State) : Host.Outcome State Fault Refusal :=
  stemRun [] [] s fun c => if c.full.get t then .done s (c.after 1) else .wait s

/-- VSYNC: an engine with a write in flight is not yet idle, so time has passed to its last one (log 2). -/
def execVsync (s : State) : Host.Outcome State Fault Refusal :=
  stemRun [] [] s fun c =>
    if c.vecIdle then .done (s.passTo (dieOf s.cur) c.vec.lastWrite) (c.after 1) else .wait s

def execMsync (s : State) : Host.Outcome State Fault Refusal :=
  stemRun [] [] s fun c =>
    if c.mat.pwait.isSome || c.mat.psig.isSome then .mtrap .mcmdInvalid 0
    else if c.matIdle then .done s (c.after 1) else .wait s

/-! ### Runner posting (R119-R122) -/

/-- A post joins the core's queue, after every earlier stem store (R120); at most 32 stand in it. -/
def State.post (s : State) (c : Core) (hi isBox : Bool) (desc : BitVec 1024) (entry arg : Word) (npc : Nat) : Res :=
  if !c.stem.stq.isEmpty || 32 ≤ c.posts.length then .wait s
  else
    let p : Post := {
      num := c.postNum
      hi := hi
      isBox := isBox
      desc := desc
      entry := entry
      arg := arg
      ctx := c.stem.ctxid
      sup := statusSup c.stem.status
      vf := (c.grain.map (·.vf)).getD 0
      grain := c.grain.map fun g => (g.nest, g.num)
      marks := c.marks }
    .done (s.setCore s.cur { c with posts := c.posts ++ [p], postNum := c.postNum + 1 }) npc

def execXfer (a : Src) (hi : Bool) (s : State) : Host.Outcome State Fault Refusal :=
  stemRun (srcRegs a) [] s fun c =>
    withAddr (c.src a) 128 .misaligned fun x =>
      if !c.stem.stq.isEmpty then .wait s
      else if c.hardAt x 128 then .ecc x 128
      else s.post (c.noteSoft x 128) hi true (BitVec.ofNat 1024 (c.read x 128)) 0 0 (c.after (1 + litWords [a]))

def execRcall (a b : Src) (hi : Bool) (s : State) : Host.Outcome State Fault Refusal :=
  stemRun (srcRegs a ++ srcRegs b) [] s fun c =>
    if (c.src a).toNat % 4 ≠ 0 then .trap .imemRange (c.src a)
    else s.post c hi false 0 (c.src a) (c.src b) (c.after (1 + litWords [a, b]))

/-- RATOM: the request leaves for the core's lower runner die; with D not x0 the register is pending. -/
def ratomRun (op : Nat) (d : Reg) (a b : Src) (ty : Ty) (s : State) : Host.Outcome State Fault Refusal :=
  stemRun (srcRegs a ++ srcRegs b ++ (if op = 9 then [d] else [])) [d] s fun c =>
    let n := if ty = .i64 then 8 else 4
    if ty ≠ .i32 && ty ≠ .i64 then .trap .formatInvalid c.firstWord
    else if (c.src a).toNat % n ≠ 0 then .trap .atomicMisaligned (c.src a)
    else if !c.stem.stq.isEmpty || 8 ≤ c.stem.ratoms.length then .wait s
    else
      let r : Ratom := {
        id := c.stem.ratomNext
        op := op
        wide := ty = .i64
        va := c.src a
        b := c.src b
        c := c.getX d
        tag := s.coreTag s.cur
        d := d
        phase := .travelling
        target := none
        susp := none
        old := 0
        fence := c.stem.ratomFence.get 0 }
      let s1 := s.setCore s.cur (c.setStem { c.stem with ratoms := c.stem.ratoms ++ [r], ratomNext := r.id + 1 })
      match (s1.upHop s.cur false ⟨s.cur, r.id, false, none⟩).or (s1.ratomFault s.cur r .peerUnreachable) with
      | some s2 => .done s2 (c.after (1 + litWords [a, b]))
      | none => .wait s

def execRatomAdd (d : Reg) (a b : Src) (ty : Ty) (s : State) : Host.Outcome State Fault Refusal := ratomRun 0 d a b ty s
def execRatomAnd (d : Reg) (a b : Src) (ty : Ty) (s : State) : Host.Outcome State Fault Refusal := ratomRun 1 d a b ty s
def execRatomOr (d : Reg) (a b : Src) (ty : Ty) (s : State) : Host.Outcome State Fault Refusal := ratomRun 2 d a b ty s
def execRatomXor (d : Reg) (a b : Src) (ty : Ty) (s : State) : Host.Outcome State Fault Refusal := ratomRun 3 d a b ty s
def execRatomMin (d : Reg) (a b : Src) (ty : Ty) (s : State) : Host.Outcome State Fault Refusal := ratomRun 4 d a b ty s
def execRatomMax (d : Reg) (a b : Src) (ty : Ty) (s : State) : Host.Outcome State Fault Refusal := ratomRun 5 d a b ty s
def execRatomMinu (d : Reg) (a b : Src) (ty : Ty) (s : State) : Host.Outcome State Fault Refusal := ratomRun 6 d a b ty s
def execRatomMaxu (d : Reg) (a b : Src) (ty : Ty) (s : State) : Host.Outcome State Fault Refusal := ratomRun 7 d a b ty s
def execRatomSwap (d : Reg) (a b : Src) (ty : Ty) (s : State) : Host.Outcome State Fault Refusal := ratomRun 8 d a b ty s
def execRatomCas (d : Reg) (a b : Src) (ty : Ty) (s : State) : Host.Outcome State Fault Refusal := ratomRun 9 d a b ty s

/-- Two remote atomics may name one aligned word: the same word of one context, or the same place at a home. -/
def Ratom.sameWord (q r : Ratom) : Bool :=
  (q.va.toNat / 8 == r.va.toNat / 8) || match q.target, r.target with
    | some t, some u => t.pkg == u.pkg && t.scratch == u.scratch && t.core == u.core && t.addr / 8 == u.addr / 8
    | _, _ => false

/-- Every earlier remote atomic of the core that comes first has performed: one on the same aligned word (R327), or
one before a FENCE that covers class 0 (R112). -/
def ratomFirst (l : List Ratom) (r : Ratom) : Bool :=
  l.all fun q => q.phase.performed || decide (r.id ≤ q.id) || (decide (r.fence ≤ q.id) && !q.sameWord r)

/-- Bytes that a queued request covers. -/
def HomeReq.len (r : HomeReq) : Nat :=
  match r.op with
  | .read n => n
  | _ => r.bytes.length

/-- Two runs of bytes share a 64-byte line. -/
def sameLine (a n b m : Nat) : Bool := decide (a / 64 ≤ (b + m - 1) / 64) && decide (b / 64 ≤ (a + n - 1) / 64)

/-- No earlier request stands in the queue that serves a home (R287, R363). -/
def State.homeFree (s : State) (t : Target) (n : Nat) : Bool :=
  if t.scratch then (s.core t.core).banksFree t.addr n
  else allDies.all fun d => (s.runner d).hbmq.all fun q => !sameLine q.addr q.len t.addr n

/-- An atomic at a home of this package: the state after it and the old value, or the cause it meets. A result equal
to the old value writes nothing (R366). -/
def State.atomicAt (s : State) (t : Target) (n op : Nat) (b c : Word) : Except Cause (State × Word) :=
  match s.homeReadBad t n with
  | some cause => .error cause
  | none =>
    let old := leNat (s.homeBytes t n)
    let v := amoNew (amoOf op) n old b c
    let s := s.noteRead t n
    .ok (if v = old then s else s.homeWrite t (leBytes n v), BitVec.ofNat 64 old)

/-- RATOM_AT_HOME (R121, R336): the remote atomic performs at its home and replies. One of a killed context is dropped
and answered as dropped (R358): the value of D is stated nowhere and free. -/
def execRatomAtHome (c : CoreId) (i : Nat) (s : State) : Host.Outcome State Fault Refusal :=
  .next <|
    match (s.ratomsOf c)[i]? with
    | none => s
    | some r =>
      match r.target with
      | none => s
      | some t =>
        let n := if r.wide then 8 else 4
        if r.phase = .atHome && s.isLocal t && ratomFirst (s.ratomsOf c) r && s.homeFree t n then
          if s.pkg.killed.contains r.tag.ctx then s.ratomReply c r (s.free 3)
          else match s.atomicAt t n r.op r.b r.c with
          | .error cause => (s.ratomFault c r cause).getD s
          | .ok (s', old) => s'.ratomReply c r old
        else s

/-- D takes the old value of a remote atomic that has replied. -/
def Core.takeRatom (k : Core) (r : Ratom) : Core :=
  (k.modRatoms fun l => l.filter fun q => q.id ≠ r.id).setX r.d (sext64 (if r.wide then 64 else 32) r.old.toNat)

/-- RATOM_REPLY (R121, R122). -/
def execRatomReply (c : CoreId) (i : Nat) (s : State) : Host.Outcome State Fault Refusal :=
  .next <|
    match (s.core c).stem.ratoms[i]? with
    | some r => if r.phase = .replied then s.modCore c fun k => k.takeRatom r else s
    | none => s

/-! ### Probe cache (R123-R125, R364) -/

def Core.slotBase (c : Core) (k : Nat) : Nat := pwindowBase c.stem.pwindow + 2048 * k

def Core.probeHit (c : Core) (a : Word) : Option (Fin 256) :=
  (List.finRange 256).find? fun k =>
    let p := c.probes.get k
    p.state != .invalid && p.tag == a.extractLsb' 11 53 && p.ctx == c.stem.ctxid

/-- The first slot at or after the victim pointer, cyclically, that is neither pinned nor filling. -/
def Core.probeVictim (c : Core) : Option (Fin 256) :=
  ((List.finRange 256).map fun k => c.victim + k).find? fun k =>
    let p := c.probes.get k
    !p.pin && p.state != .filling

def Core.setProbe (c : Core) (k : Fin 256) (p : Probe) : Core := { c with probes := c.probes.set k.val p k.isLt }

def execProbe (d : Reg) (a : Src) (imm : BitVec 16) (s : State) : Host.Outcome State Fault Refusal :=
  stemRun (srcRegs a) [d] s fun c =>
    let v := c.src a
    let miss := branchTarget c.stem.pc.toNat imm.toInt
    let at_ (k : Fin 256) : Word := BitVec.ofNat 64 (c.slotBase k.val + v.toNat % 2048)
    let next := c.after (1 + litWords [a])
    if !pwindowEn c.stem.pwindow then .trap .probeFull 0
    else match c.probeHit v with
      | some k =>
        if (c.probes.get k).state = .valid then .done (s.setCore s.cur (c.setX d (at_ k))) next
        else if 0 ≤ miss ∧ miss ≤ 0xFFFC then .done (s.setCore s.cur (c.setX d (at_ k))) miss.toNat
        else .trap .imemRange (BitVec.ofInt 64 miss)
      | none =>
        match c.probeVictim with
        | none => .trap .probeFull 0
        | some k =>
          if 0 ≤ miss ∧ miss ≤ 0xFFFC then
            let c1 := { c.setProbe k ⟨v.extractLsb' 11 53, c.stem.ctxid, .filling, false⟩ with victim := k + 1 }
            let s1 := (s.setCore s.cur (c1.setX d (at_ k))).modRunner (dieOf s.cur) fun r =>
              { r with fills := r.fills ++ [⟨s.cur, k, v &&& ~~~0x7FF, s.coreTag s.cur, false, none⟩] }
            .done s1 miss.toNat
          else .trap .imemRange (BitVec.ofInt 64 miss)

/-- PWAIT, PIN and UNPIN name a slot by an address inside the window (R124), which stands at BASE whether or not EN is
set (log 77). -/
def slotRun (a : Src) (s : State) (f : Core → Fin 256 → Res) : Host.Outcome State Fault Refusal :=
  stemRun (srcRegs a) [] s fun c =>
    let v := (c.src a).toNat
    let base := pwindowBase c.stem.pwindow
    if scratchSize ≤ v || v < base || base + 0x80000 ≤ v then .trap .scratchRange (c.src a)
    else f c ⟨(v - base) / 2048 % 256, by omega⟩

def execPwait (a : Src) (s : State) : Host.Outcome State Fault Refusal :=
  slotRun a s fun c k => if (c.probes.get k).state = .valid then .done s (c.after (1 + litWords [a])) else .wait s

def execPin (a : Src) (s : State) : Host.Outcome State Fault Refusal :=
  slotRun a s fun c k =>
    .done (s.setCore s.cur (c.setProbe k { c.probes.get k with pin := true })) (c.after (1 + litWords [a]))

def execUnpin (a : Src) (s : State) : Host.Outcome State Fault Refusal :=
  slotRun a s fun c k =>
    .done (s.setCore s.cur (c.setProbe k { c.probes.get k with pin := false })) (c.after (1 + litWords [a]))

def Core.anyFilling (c : Core) : Bool := c.probes.toList.any fun p => p.state == .filling

def execCinv (a : Src) (s : State) : Host.Outcome State Fault Refusal :=
  stemRun (srcRegs a) [] s fun c =>
    match c.probeHit (c.src a) with
    | none => .done s (c.after (1 + litWords [a]))
    | some k =>
      if (c.probes.get k).state = .filling then .wait s
      else .done (s.setCore s.cur (c.setProbe k { c.probes.get k with state := .invalid, pin := false }))
        (c.after (1 + litWords [a]))

/-- Every slot invalid and unpinned. -/
def Core.clearProbes (c : Core) : Core :=
  { c with probes := c.probes.map fun p => { p with state := .invalid, pin := false } }

def execCinvAll (s : State) : Host.Outcome State Fault Refusal :=
  stemRun [] [] s fun c =>
    if c.anyFilling then .wait s else .done (s.setCore s.cur c.clearProbes) (c.after 1)

/-! ### Shape slots (R126, R390) -/

def execShld (sh : Fin 4) (a : Src) (s : State) : Host.Outcome State Fault Refusal :=
  stemRun (srcRegs a) [] s fun c =>
    withAddr (c.src a) 128 .misaligned fun x =>
      if !c.stem.stq.isEmpty then .wait s
      else if c.hardAt x 128 then .ecc x 128
      else
        let bits := BitVec.ofNat 1024 (c.read x 128)
        if (shapeRec bits).isSome then
          let c1 := c.noteSoft x 128
          .done (s.setCore s.cur { c1 with slots := c1.slots.set sh.val ⟨bits, x, true⟩ sh.isLt })
            (c.after (1 + litWords [a]))
        else .trap .raggedTable 0

def execShinv (sh : Fin 4) (s : State) : Host.Outcome State Fault Refusal :=
  stemRun [] [] s fun c =>
    .done (s.setCore s.cur { c with slots := c.slots.set sh.val { c.slots.get sh with valid := false } sh.isLt })
      (c.after 1)

/-! ### Traps and system instructions (R129-R131) -/

/-- TRAP: USER_TRAP at the TRAP itself, TRAPVAL its IMM16 (R52). -/
def execTrap (imm : BitVec 16) (s : State) : Host.Outcome State Fault Refusal :=
  stemRun [] [] s fun _ => .trap .userTrap (imm.setWidth 64)

/-- A stem system register (Table 01-11). -/
def State.readSys (s : State) (c : Core) (r : Nat) : Word :=
  match r with
  | 0 => c.stem.status
  | 1 => c.stem.trapcause
  | 2 => c.stem.trappc
  | 3 => c.stem.trapval
  | 4 => c.stem.trapvec
  | 5 => c.stem.trapscr
  | 6 => c.stem.vfault
  | 7 => c.stem.ctxid.setWidth 64
  | 8 => BitVec.ofNat 64 (s.cur.val + 65536 * s.pkg.physCore s.cur)
  | 9 => BitVec.ofNat 64 (s.cycles.get (dieOf s.cur))
  | 0xA => c.stem.seed
  | 0xB => c.stem.pwindow
  | _ => if r < 0x18 then c.stem.gfmt.toArray.getD (r - 0x10) 0 else c.stem.fmt.toArray.getD (r - 0x18) 0

/-- Registers without user access, and those a user may only read (R30). -/
def sysNoUser (r : Nat) : Bool := 1 ≤ r && r ≤ 6
def sysUserRo (r : Nat) : Bool := r == 0 || sysNoUser r
/-- Registers read-only to every mode. -/
def sysFixed (r : Nat) : Bool := r == 1 || (6 ≤ r && r ≤ 9)
/-- Registers whose write waits for earlier tokens and matrix commands (R130). -/
def sysOrdered (r : Nat) : Bool := 0xA ≤ r

def execSysrd (d : Reg) (r : BitVec 12) (s : State) : Host.Outcome State Fault Refusal :=
  stemRun [] [d] s fun c =>
    if sysNoUser r.toNat && !statusSup c.stem.status then .trap .privViolation c.firstWord
    else .done (s.setCore s.cur (c.setX d (s.readSys c r.toNat))) (c.after 1)

/-- The write of a system register, or the cause that refuses it. -/
def Core.writeSys (c : Core) (r : Nat) (v : Word) : Except (Cause × Word) Core :=
  match r with
  | 0 => .ok (c.setStem { c.stem with status := (c.stem.status &&& ~~~statusWritable) ||| (v &&& statusWritable) })
  | 2 => .ok (c.setStem { c.stem with trappc := v })
  | 3 => .ok (c.setStem { c.stem with trapval := v })
  | 4 => .ok (c.setStem { c.stem with trapvec := v &&& ~~~3 })
  | 5 => .ok (c.setStem { c.stem with trapscr := v })
  | 0xA =>
    let seed : W32 := v.setWidth 32
    .ok ((c.setStem { c.stem with seed := seed.setWidth 64 }).setVec { c.vec with gens := seedGens seed })
  | 0xB =>
    if pwindowEn v && decide (scratchSize < pwindowBase v + 0x80000) then
      .error (.scratchRange, BitVec.ofNat 64 (pwindowBase v))
    else .ok (c.clearProbes.setStem { c.stem with pwindow := v &&& pwindowWritable })
  | _ =>
    if r < 0x18 then
      if gfmtOk v then .ok (c.setStem { c.stem with gfmt := c.stem.gfmt.setIfInBounds (r - 0x10) v })
      else .error (.formatInvalid, 0)
    else if fmtOk v then .ok (c.setStem { c.stem with fmt := c.stem.fmt.setIfInBounds (r - 0x18) v })
    else .error (.formatInvalid, 0)

def execSyswr (a : Src) (r : BitVec 12) (s : State) : Host.Outcome State Fault Refusal :=
  stemRun (srcRegs a) [] s fun c =>
    if sysFixed r.toNat || (sysUserRo r.toNat && !statusSup c.stem.status) then .trap .privViolation c.firstWord
    else if sysOrdered r.toNat && !(c.enginesIdle && (r.toNat != 0xB || !c.anyFilling)) then .wait s
    else match c.writeSys r.toNat (c.src a) with
      | .ok k => .done (s.setCore s.cur k) (c.after (1 + litWords [a]))
      | .error (cause, v) => .trap cause v

def execRdcyc (d : Reg) (s : State) : Host.Outcome State Fault Refusal :=
  stemRun [] [d] s fun c =>
    .done (s.setCore s.cur (c.setX d (BitVec.ofNat 64 (s.cycles.get (dieOf s.cur))))) (c.after 1)

def execNop (s : State) : Host.Outcome State Fault Refusal :=
  stemRun [] [] s fun c => .done s (c.after 1)

/-- ERET (R129): privileged; a TRAPPC that is no jump target raises IMEM_RANGE and nothing is performed. -/
def execEret (s : State) : Host.Outcome State Fault Refusal :=
  stemRun [] [] s fun c =>
    let t := c.stem.trappc
    if !statusSup c.stem.status then .trap .privViolation c.firstWord
    else if decide (0xFFFC < t.toNat) || t.toNat % 4 != 0 then .trap .imemRange t
    else .done (s.setCore s.cur c.eretState) t.toNat

end Sys2Proof.Machine
end

