-- ==== Sys2Proof/Machine/Nest.lean ====
section
/-! DEFINITION. Nest records (Table 10-4), their checks (R303), and the completion word (R308). -/

namespace Sys2Proof.Machine

/-! ### Fields -/

def nestWord (b : BitVec 1024) (k : Nat) : Word := b.extractLsb' (64 * k) 64
def nestPrio (b : BitVec 1024) : BitVec 4 := b.extractLsb' 32 4
def nestReload (b : BitVec 1024) : Bool := b.getLsbD 30
def nestCores (b : BitVec 1024) : Bool := b.getLsbD 29
def nestWidth (b : BitVec 1024) : Bool := b.getLsbD 28
def nestOrder (b : BitVec 1024) (k : Nat) : Nat := (b.extractLsb' (20 + 2 * k) 2).toNat
def nestOrden (b : BitVec 1024) : Bool := b.getLsbD 19
def nestLevels (b : BitVec 1024) : Nat := (b.extractLsb' 16 3).toNat
def nestEntry (b : BitVec 1024) : BitVec 16 := b.extractLsb' 0 16
def nestArgs (b : BitVec 1024) : Word := nestWord b 1
def nestBound (b : BitVec 1024) (k : Nat) : Nat := (b.extractLsb' (128 + 32 * k) 32).toNat
def nestFirst (b : BitVec 1024) : Nat := (b.extractLsb' 256 16).toNat
def nestLast (b : BitVec 1024) : Nat := (b.extractLsb' 272 16).toNat
def nestStext (b : BitVec 1024) : Word := nestWord b 5
def nestVtext (b : BitVec 1024) : Word := nestWord b 6
def nestStlen (b : BitVec 1024) : Nat := (b.extractLsb' 448 17).toNat
def nestVtlen (b : BitVec 1024) : Nat := (b.extractLsb' 480 17).toNat
def nestWait (b : BitVec 1024) (k : Nat) : Nat := (b.extractLsb' (512 + 64 * k) 48).toNat
def nestTarget (b : BitVec 1024) (k : Nat) : Nat := (b.extractLsb' (560 + 64 * k) 16).toNat
def nestDoneVa (b : BitVec 1024) : Nat := (b.extractLsb' 768 48).toNat
def nestSavelim (b : BitVec 1024) : Nat := (b.extractLsb' 832 12).toNat
/-- KiB of scratchpad that a save holds: 0 in the record means all. -/
def nestSaveKib (b : BitVec 1024) : Nat := if nestSavelim b = 0 then 2048 else nestSavelim b
def nestKind (b : BitVec 1024) : Nat := (b.extractLsb' 960 4).toNat

/-- A reserved bit is set. -/
def nestReserved (b : BitVec 1024) : Bool :=
  b.extractLsb' 36 28 != 0 || b.getLsbD 31 || b.extractLsb' 288 32 != 0 || b.extractLsb' 465 15 != 0 ||
    b.extractLsb' 497 15 != 0 || b.extractLsb' 816 16 != 0 || b.extractLsb' 844 52 != 0 || nestWord b 14 != 0 ||
    b.extractLsb' 964 60 != 0

/-- The levels from the outermost to the innermost (R301). -/
def nestOrderList (b : BitVec 1024) : List Nat :=
  if nestOrden b then (List.range (nestLevels b)).map (nestOrder b) else List.range (nestLevels b)

/-- The grain count (R300). -/
def nestTotal (b : BitVec 1024) : Nat := ((List.range (nestLevels b)).map (nestBound b)).foldl (· * ·) 1

/-- Divides a grain number out over the bounds, innermost level first: level and index. -/
def splitGrain (b : BitVec 1024) : List Nat → Nat → List (Nat × Nat)
  | [], _ => []
  | l :: ls, g => (l, g % nestBound b l) :: splitGrain b ls (g / nestBound b l)

/-- The index of level k in grain g: the g-th point in lexicographic order, outermost level first (R301). -/
def nestIndex (b : BitVec 1024) (g k : Nat) : Nat :=
  (((splitGrain b (nestOrderList b).reverse g).find? fun x => x.1 == k).map (·.2)).getD 0

/-! ### Units: cores, or quads for WIDTH = 1 (R305) -/

def coreOfNat (n : Nat) : CoreId := ⟨n % 256, by omega⟩

/-- The live units of a record's range, in ascending order. -/
def Package.units (p : Package) (b : BitVec 1024) : List (List CoreId) :=
  let l := (List.range 256).filter fun c => decide (nestFirst b ≤ c) && decide (c ≤ nestLast b)
  if nestWidth b then
    ((l.filter fun c => c % 4 == 0).map fun c => [coreOfNat c, coreOfNat (c + 1), coreOfNat (c + 2), coreOfNat (c + 3)]).filter
      fun u => u.all p.coreLive
  else (l.map fun c => [coreOfNat c]).filter fun u => u.all p.coreLive

def isPerm (n : Nat) (l : List Nat) : Bool := (List.range n).all l.contains

/-- The checks of R303; an unused field is ORDER without ORDEN, a bound at or above LEVELS, the length of an image
that is none. -/
def Package.nestOk (p : Package) (b : BitVec 1024) : Bool :=
  let n := nestLevels b
  let fields := (List.range 4).map (nestOrder b)
  !nestReserved b && nestKind b == 0 && decide (1 ≤ n) && decide (n ≤ 4) &&
  ((List.range 4).all fun k => decide (k < n) || nestBound b k == 0) &&
  (if nestOrden b then isPerm n (fields.take n) && (fields.drop n).all (· == 0) else fields.all (· == 0)) &&
  (nestEntry b).toNat % 4 == 0 &&
  decide (nestStlen b ≤ 65536) && nestStlen b % 4 == 0 && decide (nestVtlen b ≤ 65536) && nestVtlen b % 4 == 0 &&
  (nestStext b != 0 || nestStlen b == 0) && (nestVtext b != 0 || nestVtlen b == 0) &&
  decide (nestSavelim b ≤ 2048) &&
  ((List.range 4).all fun k => nestWait b k % 4 == 0 && (nestWait b k == 0 || nestTarget b k != 0)) &&
  nestDoneVa b % 8 == 0 && decide (nestFirst b ≤ nestLast b) && decide (nestLast b ≤ 255) &&
  (!nestWidth b || (nestFirst b % 4 == 0 && nestLast b % 4 == 3)) &&
  !(p.units b).isEmpty && (!nestCores b || decide (nestTotal b ≤ (p.units b).length))

/-- The range lies within the cores of a function (R296, R310). -/
def Package.rangeInVf (p : Package) (vf : Nat) (b : BitVec 1024) : Bool :=
  p.vfHas vf (nestFirst b) && p.vfHas vf (nestLast b)

/-! ### Records held by the scheduler -/

/-- A record accepted: WAITING, with no grain dispatched. -/
def Nest.fresh (id : Nat) (b : BitVec 1024) (prio : BitVec 4) (ctx : BitVec 16) (vf : Nat) (sup child : Bool)
    (pool : Option DieId) (slot : Option (Fin 64)) (wdog : W32) (saveva : Word) : Nest where
  id := id
  bits := b
  ctx := ctx
  vf := vf
  sup := sup
  child := child
  pool := pool
  slot := slot
  wdog := wdog
  saveva := saveva
  prio := prio
  state := .waiting
  next := 0
  ptr := nestFirst b
  halted := false
  cause := none
  saved := []

def State.addNest (s : State) (n : Nat → Nest) : State :=
  s.modPkg fun p => { p with nests := p.nests ++ [n p.nestNext], nestNext := p.nestNext + 1 }

def State.modNest (s : State) (id : Nat) (f : Nest → Nest) : State :=
  s.modPkg fun p => { p with nests := p.nests.map fun n => if n.id = id then f n else n }

def State.nest (s : State) (id : Nat) : Option Nest := s.pkg.nests.find? fun n => n.id == id

def Nest.total (n : Nest) : Nat := nestTotal n.bits

/-- The cores that hold grains of a record. -/
def State.coresOf (s : State) (id : Nat) : List CoreId :=
  allCores.filter fun c => (s.core c).grain.any fun g => g.nest == id

/-- The first cause in time stands (R308). -/
def Nest.withCause (n : Nest) (c : Cause) : Nest := { n with cause := n.cause.or (some c) }

/-- No grain of the record runs from now on. -/
def Nest.noMore (n : Nest) : Nest := { n with next := max n.next n.total, saved := [] }

/-- RUNNING becomes DRAINING when the last grain is dispatched and none is saved (Table 10-5). -/
def Nest.settle (n : Nest) : Nest :=
  if n.state = .running && decide (n.total ≤ n.next) && n.saved.isEmpty then { n with state := .draining } else n

/-- A record's tag for its own reads and writes: package services act with supervisor rights. -/
def Nest.tag (n : Nest) : Tag := ⟨n.ctx, n.vf, true, none⟩

/-- Bytes that another package answers: it is outside the machine, and they are free values (log 20). -/
def State.farBytes (s : State) (va n : Nat) : List Byte := (List.range n).map fun i => (s.free (256 + va + i)).setWidth 8

/-- A read by package services: the state and the bytes, or the cause it meets. -/
def State.serviceRead (s : State) (tag : Tag) (va n : Nat) : Except Cause (State × List Byte) :=
  match s.translate 0 tag va .read with
  | .noCtx => .error .internalCheck
  | .bad c => .error c
  | .ok t s =>
    if s.isLocal t then
      match s.homeReadBad t n with
      | some c => .error c
      | none => .ok (s.noteRead t n, s.homeBytes t n)
    else if (s.liveRoutes 0 t.pkg).isEmpty then .error .peerUnreachable
    else .ok (s, s.farBytes va n)

/-- A write by package services. -/
def State.serviceWrite (s : State) (tag : Tag) (va : Nat) (bs : List Byte) : Except Cause State :=
  match s.translate 0 tag va .write with
  | .noCtx => .error .internalCheck
  | .bad c => .error c
  | .ok t s =>
    if s.isLocal t then
      match s.homeWriteBad t bs.length with
      | some c => .error c
      | none => .ok (s.homeWrite t bs)
    else if (s.liveRoutes 0 t.pkg).isEmpty then .error .peerUnreachable
    else .ok s

/-- Status of a completed record (R308): a cause takes precedence over HALT. -/
def Nest.status (n : Nest) : Nat :=
  match n.cause with
  | some c => 0x100 + c.code
  | none => if n.halted then 1 else 0

/-- An atomic add of 1 to a 32-bit word by package services (R308). -/
def State.serviceAdd (s : State) (tag : Tag) (va : Nat) : Except Cause State :=
  match s.translate 0 tag va .combine with
  | .noCtx => .error .internalCheck
  | .bad c => .error c
  | .ok t s =>
    if s.isLocal t then
      match s.homeReadBad t 4, s.homeWriteBad t 4 with
      | some c, _ | none, some c => .error c
      | none, none => .ok ((s.noteRead t 4).homeWrite t (leBytes 4 ((leNat (s.homeBytes t 4) + 1) % 2 ^ 32)))
    else if (s.liveRoutes 0 t.pkg).isEmpty then .error .peerUnreachable
    else .ok s

/-- The completion word: the status at DONE + 4, then 1 added at DONE. The access that met a cause is named; the other
one, if it came first, stands. -/
def State.completionWord (s : State) (n : Nest) : State × Option (Cause × Access) :=
  match s.serviceWrite n.tag (nestDoneVa n.bits + 4) (leBytes 4 n.status) with
  | .error c => (s, some (c, .write))
  | .ok t => match t.serviceAdd n.tag (nestDoneVa n.bits) with
    | .error c => (t, some (c, .combine))
    | .ok u => (u, none)

/-- The record is freed and its completion word written; a cause met there is posted with WORK 5, STATE 1 (R308). None:
the fault record can be stored nowhere yet, and the completion waits for room (R355). -/
def State.finishNest (s : State) (n : Nest) : Option State :=
  let s := s.modPkg fun p => { p with nests := p.nests.filter fun x => x.id != n.id }
  if nestDoneVa n.bits = 0 then some s
  else match s.completionWord n with
    | (t, none) => some t
    | (t, some (c, a)) =>
      (t.postFault 0 ⟨0, n.ctx, 5, a.code, true, c, BitVec.ofNat 64 (nestDoneVa n.bits), 0, 0, 0, 0, 0xFFFF, 0⟩).map (·.1)

/-- The record of a grain of a context that is saved from a core. -/
def State.savedOf (s : State) (c : CoreId) (ctx : BitVec 16) : Option (Nat × Saved) :=
  s.pkg.nests.findSome? fun n => if n.ctx = ctx then (n.saved.find? fun x => x.core == c).map fun x => (n.id, x) else none

/-- A saved part of a record leaves it. -/
def dropSaved (c : CoreId) (num : Nat) (n : Nest) : Nest :=
  { n with saved := n.saved.filter fun x => !(x.core == c && x.state.grain.any fun h => h.num == num) }

/-- NEST_DONE (R306, R308): the last grain has ended, or the record ended before its grains. A kill frees the records of
its context itself (R315). -/
def execNestDone (id : Nat) (s : State) : Host.Outcome State Fault Refusal :=
  .next <|
    match s.nest id with
    | none => s
    | some n =>
      if (s.coresOf id).isEmpty && n.saved.isEmpty && decide (n.total ≤ n.next) && n.state != .waiting &&
          !s.pkg.dying n.ctx then
        (s.finishNest n).getD s
      else s

/-- The counters of a record: whether every one has reached its target (R306). -/
def nestWaits (b : BitVec 1024) (tag : Tag) : List Nat → State → Except Cause (State × Bool)
  | [], s => .ok (s, true)
  | k :: ks, s =>
    if nestWait b k = 0 ∧ nestTarget b k = 0 then nestWaits b tag ks s
    else match s.serviceRead tag (nestWait b k) 4 with
      | .error c => .error c
      | .ok (s, bs) => if leNat bs < nestTarget b k then .ok (s, false) else nestWaits b tag ks s

/-- A cause that package services meet for a context is logged when Table 01-26 marks it so. -/
def State.serviceCause (s : State) (c : Cause) (ctx : BitVec 16) : State := s.logCause 0 ⟨7, 0, 0, false⟩ c 0 ctx

/-- NEST_READY (R306): WAITING to READY; a counter that cannot be read ends the record with no grain run. -/
def execNestReady (id : Nat) (s : State) : Host.Outcome State Fault Refusal :=
  .next <|
    match s.nest id with
    | none => s
    | some n =>
      if n.state = .waiting then
        match nestWaits n.bits n.tag [0, 1, 2, 3] s with
        | .error c => (s.serviceCause c n.ctx).modNest id fun n => { (n.withCause c).noMore with state := .done }
        | .ok (t, true) => t.modNest id fun n => { n with state := .ready }
        | .ok (t, false) => t
      else s

end Sys2Proof.Machine
end

