-- ==== Sys2Proof/Machine/Fp.lean ====
section
/-! DEFINITION. Numbers (R53-R73, R75-R79, R81, R85): floating values as exact dyadic numbers, one rounding onto a grid,
conversions, arithmetic, the special functions within their bounds, and the tree of reductions. -/

namespace Sys2Proof.Machine

/-! ### Values -/

/-- A floating value: a NaN with its mantissa placed in 23 bits (R73), an infinity, or (-1)^neg * mag * 2^exp. -/
inductive FVal where
  | nan (neg : Bool) (mant : Nat)
  | inf (neg : Bool)
  | fin (neg : Bool) (mag : Nat) (exp : Int)
  deriving DecidableEq, Repr, Inhabited

def FVal.isNan : FVal → Bool
  | .nan _ _ => true
  | _ => false

def FVal.isInf : FVal → Bool
  | .inf _ => true
  | _ => false

def FVal.isZero : FVal → Bool
  | .fin _ m _ => m == 0
  | _ => false

def FVal.neg : FVal → Bool
  | .nan n _ | .inf n | .fin n _ _ => n

def FVal.negate : FVal → FVal
  | .nan n m => .nan (!n) m
  | .inf n => .inf (!n)
  | .fin n m e => .fin (!n) m e

/-- The generated NaN (R53): positive, the top mantissa bit set. -/
def FVal.genNan : FVal := .nan false 0x400000

/-- A NaN operand quieted (R76). -/
def FVal.quiet : FVal → FVal
  | .nan n m => .nan n (m ||| 0x400000)
  | v => v

/-- A floating format: mantissa bits, exponent bits, bias. -/
structure FF where
  m : Nat
  e : Nat
  bias : Int
  deriving DecidableEq, Repr

def ff32 : FF := ⟨23, 8, 127⟩
def ffBf16 : FF := ⟨7, 8, 127⟩
def ffFp16 : FF := ⟨10, 5, 15⟩

/-- The exponent of the smallest subnormal. -/
def FF.gmin (f : FF) : Int := 1 - f.bias - f.m

/-- A finite code's value: its exponent field and mantissa (R53, R58). -/
def FF.value (f : FF) (neg : Bool) (field mant : Nat) : FVal :=
  if field = 0 then .fin neg mant f.gmin else .fin neg (2 ^ f.m + mant) (f.gmin + (field - 1))

/-- The value of an IEEE code (Table 02-1). -/
def FF.decode (f : FF) (c : Nat) : FVal :=
  let neg := c / 2 ^ (f.m + f.e) % 2 == 1
  let field := c / 2 ^ f.m % 2 ^ f.e
  let mant := c % 2 ^ f.m
  if field = 2 ^ f.e - 1 then
    if mant = 0 then .inf neg else .nan neg (mant * 2 ^ (23 - f.m))
  else f.value neg field mant

/-! ### Rounding (R67, R75) -/

/-- Whether the magnitude lo + r/d of a grid step goes to hi. -/
def roundUp (mode : Round) (neg : Bool) (draw : Nat) (q r d : Nat) : Bool :=
  if r = 0 then false
  else match mode with
    | .rne => decide (d < 2 * r) || (decide (2 * r = d) && q % 2 == 1)
    | .rz => false
    | .rdn => neg
    | .rup => !neg
    | .rsr => decide (2 ^ 32 ≤ r * 2 ^ 32 / d + draw)

/-- 2^k as a fraction: numerator and denominator. -/
def pow2n (k : Int) : Nat := 2 ^ k.toNat
def pow2d (k : Int) : Nat := 2 ^ (-k).toNat

/-- num/den * 2^e rounded to a multiple of 2^g: the multiple. -/
def roundAt (g : Int) (mode : Round) (neg : Bool) (draw num den : Nat) (e : Int) : Nat :=
  let n := num * pow2n (e - g)
  let d := den * pow2d (e - g)
  let q := n / d
  if roundUp mode neg draw q (n % d) d then q + 1 else q

/-- floor(log2(num/den)), num and den positive. -/
def flog2 (num den : Nat) : Int :=
  let l : Int := (num.log2 : Int) - den.log2
  if num * pow2d l < den * pow2n l then l - 1 else l

/-- num/den * 2^e rounded onto the grid of m mantissa bits whose smallest step is 2^gmin, the exponent range
unbounded above: the multiple and the exponent of its step. -/
def roundGrid (m : Nat) (gmin : Int) (mode : Round) (neg : Bool) (draw num den : Nat) (e : Int) : Nat × Int :=
  if num = 0 then (0, gmin)
  else
    let g := max (flog2 num den + e - m) gmin
    (roundAt g mode neg draw num den e, g)

/-- The magnitude code of q * 2^g on an unbounded grid: exponent field times 2^m plus mantissa. -/
def FF.magCode (f : FF) (q : Nat) (g : Int) : Nat :=
  if q = 0 then 0
  else if g = f.gmin ∧ q < 2 ^ f.m then q
  else ((g - f.gmin).toNat * 2 ^ f.m) + q

def signBit (neg : Bool) (w : Nat) : Nat := if neg then 2 ^ (w - 1) else 0

/-- Whether overflow gives the infinity (R71). -/
def overInf (mode : Round) (neg : Bool) : Bool :=
  match mode with
  | .rne | .rsr => true
  | .rz => false
  | .rdn => neg
  | .rup => !neg

/-- A rational magnitude rounded once to FP32, BF16 or FP16 (R71). -/
def FF.round (f : FF) (mode : Round) (neg : Bool) (draw num den : Nat) (e : Int) : Nat :=
  let r := roundGrid f.m f.gmin mode neg draw num den e
  let c := f.magCode r.1 r.2
  let top := (2 ^ f.e - 1) * 2 ^ f.m
  signBit neg (1 + f.e + f.m) +
    (if top ≤ c then (if overInf mode neg then top else top - 1) else c)

/-- A NaN in FP32, BF16 or FP16 (R71). -/
def FF.nan (f : FF) (neg : Bool) (mant : Nat) : Nat :=
  let t := mant / 2 ^ (23 - f.m)
  signBit neg (1 + f.e + f.m) + (2 ^ f.e - 1) * 2 ^ f.m + (if t = 0 then 2 ^ (f.m - 1) else t)

/-- A value in FP32, BF16 or FP16, rounded once. -/
def FF.encode (f : FF) (mode : Round) (draw : Nat) : FVal → Nat
  | .nan n m => f.nan n m
  | .inf n => signBit n (1 + f.e + f.m) + (2 ^ f.e - 1) * 2 ^ f.m
  | .fin n m e => f.round mode n draw m 1 e

/-! ### The narrow family (R58-R62, R66-R70) -/

def Fmt.ff (f : Fmt) : FF := ⟨f.mbits, f.ebits, f.bias⟩

/-- DecodeNarrow (R58). -/
def decodeNarrow (f : Fmt) (c : Nat) : FVal :=
  let m := f.mbits
  let neg := c / 2 ^ (f.width - 1) % 2 == 1
  let field := c / 2 ^ m % 2 ^ f.ebits
  let mant := c % 2 ^ m
  if f.cls = 1 && field == 2 ^ f.ebits - 1 && mant == 2 ^ m - 1 then .nan neg (mant * 2 ^ (23 - m))
  else if f.cls = 2 && field == 2 ^ f.ebits - 1 then
    if mant = 0 then .inf neg else .nan neg (mant * 2 ^ (23 - m))
  else f.ff.value neg field mant

/-- The magnitude code of the largest finite value. -/
def Fmt.maxCode (f : Fmt) : Nat :=
  if f.cls = 0 then 2 ^ (f.width - 1) - 1
  else if f.cls = 1 then 2 ^ (f.width - 1) - 2
  else (2 ^ f.ebits - 1) * 2 ^ f.mbits - 1

def Fmt.infCode (f : Fmt) : Nat := (2 ^ f.ebits - 1) * 2 ^ f.mbits

/-- NarrowNaN (R70). -/
def narrowNan (f : Fmt) (mant : Nat) : Nat :=
  if f.cls = 0 then f.maxCode
  else if f.cls = 1 then 2 ^ (f.width - 1) - 1
  else
    let t := mant / 2 ^ (23 - f.mbits)
    f.infCode + (if t = 0 then 2 ^ (f.mbits - 1) else t)

/-- A rational magnitude, to a narrow floating code (R66-R68). -/
def narrowRound (f : Fmt) (mode : Round) (neg : Bool) (draw num den : Nat) (e : Int) : Nat :=
  let r := roundGrid f.mbits f.ff.gmin mode neg draw num den e
  let c := f.ff.magCode r.1 r.2
  signBit neg f.width +
    (if f.maxCode < c then (if f.cls = 2 ∧ f.sat = false then f.infCode else f.maxCode) else c)

/-- A rational rounded once to an integer and saturated to a range (R72). -/
def toIntRange (lo hi : Int) (mode : Round) (neg : Bool) (draw num den : Nat) (e : Int) : Int :=
  let q : Int := roundAt 0 mode neg draw num den e
  max lo (min hi (if neg then -q else q))

/-- A floating value to an integer range (R72). -/
def floatToInt (lo hi : Int) (mode : Round) (draw : Nat) : FVal → Int
  | .nan _ _ => 0
  | .inf n => if n then lo else hi
  | .fin n m e => toIntRange lo hi mode n draw m 1 e

/-- ToNarrow (R66): value, scaling exponent, format, mode, random word; KIND 1 goes to INT4 by R72. -/
def toNarrow (f : Fmt) (k : Int) (mode : Round) (draw : Nat) (x : FVal) : Nat :=
  if f.kind = 1 then
    ((match x with
      | .fin n m e => floatToInt (-8) 7 mode draw (.fin n m (e + k))
      | v => floatToInt (-8) 7 mode draw v) % 16).toNat
  else match x with
    | .nan n m => signBit n f.width + narrowNan f m
    | .inf n => signBit n f.width + (if f.cls = 2 ∧ f.sat = false then f.infCode else f.maxCode)
    | .fin n m e => narrowRound f mode n draw m 1 (e + k)

/-! ### Elements of a type -/

/-- A value of a type: floating or integer. -/
inductive Num where
  | f (v : FVal)
  | i (v : Int)
  deriving DecidableEq, Repr, Inhabited

/-- Two's complement or plain value of the low n bits. -/
def intOf (unsigned : Bool) (n c : Nat) : Int :=
  let v := c % 2 ^ n
  if unsigned || decide (2 * v < 2 ^ n) then v else (v : Int) - 2 ^ n

/-- The value of an element code (R53, R54, R58); fmts are FMT0-FMT7. -/
def decodeElt (fmts : Nat → Fmt) (ty : Ty) (unsigned : Bool) (c : Nat) : Num :=
  match ty with
  | .fn n => if (fmts n.val).kind = 1 then .i (intOf false 4 c) else .f (decodeNarrow (fmts n.val) c)
  | .f32 => .f (ff32.decode c)
  | .bf16 => .f (ffBf16.decode c)
  | .f16 => .f (ffFp16.decode c)
  | .i8 => .i (intOf unsigned 8 c)
  | .i16 => .i (intOf unsigned 16 c)
  | .i32 => .i (intOf unsigned 32 c)
  | .i64 => .i (intOf unsigned 64 c)

def FVal.ofInt (v : Int) : FVal := .fin (decide (v < 0)) v.natAbs 0

def Num.toF : Num → FVal
  | .f v => v
  | .i v => FVal.ofInt v

/-- The least and greatest values of an integer type. -/
def intRange (unsigned : Bool) (n : Nat) : Int × Int :=
  if unsigned then (0, 2 ^ n - 1) else (-(2 ^ (n - 1)), 2 ^ (n - 1) - 1)

/-- A value converted to the code of a type, scaled by 2^k (R66, R71, R72). -/
def encodeElt (fmts : Nat → Fmt) (ty : Ty) (unsigned : Bool) (k : Int) (mode : Round) (draw : Nat) (x : Num) : Nat :=
  let toI (n : Nat) : Nat :=
    let r := intRange unsigned n
    let v : Int := match x with
      | .f v => floatToInt r.1 r.2 mode draw v
      | .i v => max r.1 (min r.2 v)
    (v % 2 ^ n).toNat
  match ty with
  | .fn n => match x with
    | .i v => if (fmts n.val).kind = 1 then (max (-8) (min 7 v) % 16).toNat
        else toNarrow (fmts n.val) k mode draw (FVal.ofInt v)
    | .f v => toNarrow (fmts n.val) k mode draw v
  | .f32 => ff32.encode mode draw x.toF
  | .bf16 => ffBf16.encode mode draw x.toF
  | .f16 => ffFp16.encode mode draw x.toF
  | .i8 => toI 8
  | .i16 => toI 16
  | .i32 => toI 32
  | .i64 => toI 64

/-- The floating format of a TYPE; FP32 for every other. -/
def ffOf : Ty → FF
  | .bf16 => ffBf16
  | .f16 => ffFp16
  | _ => ff32

/-! ### Exact arithmetic (R76, R78) -/

/-- The first NaN of a list of operands, quieted. -/
def firstNan (l : List FVal) : Option FVal := (l.find? FVal.isNan).map FVal.quiet

def FVal.toInt (v : FVal) (at_ : Int) : Int :=
  match v with
  | .fin n m e => (if n then -1 else 1) * (m * pow2n (e - at_) : Nat)
  | _ => 0

def FVal.exp : FVal → Int
  | .fin _ _ e => e
  | _ => 0

/-- The exact sum of two finite values; an exact zero of unlike signs is +0, or -0 when rounding down. -/
def addFin (mode : Round) (a b : FVal) : FVal :=
  let e := min a.exp b.exp
  let v := a.toInt e + b.toInt e
  if v = 0 then .fin (if a.neg = b.neg then a.neg else mode == .rdn) 0 0 else .fin (decide (v < 0)) v.natAbs e

/-- The exact sum (R76): infinities of unlike signs give the generated NaN. -/
def FVal.add (mode : Round) (a b : FVal) : FVal :=
  match a, b with
  | .inf n, .inf m => if n = m then .inf n else FVal.genNan
  | .inf n, _ => .inf n
  | _, .inf n => .inf n
  | a, b => addFin mode a b

/-- The exact product: zero times infinity gives the generated NaN. -/
def FVal.mul (a b : FVal) : FVal :=
  let n := a.neg != b.neg
  match a, b with
  | .fin _ m e, .fin _ m' e' => .fin n (m * m') (e + e')
  | a, b => if a.isZero || b.isZero then FVal.genNan else .inf n

def fAdd (mode : Round) (a b : FVal) : FVal := (firstNan [a, b]).getD (a.add mode b)
def fSub (mode : Round) (a b : FVal) : FVal := (firstNan [a, b]).getD (a.add mode b.negate)
def fMul (a b : FVal) : FVal := (firstNan [a, b]).getD (a.mul b)
/-- a * b + c, formed exactly. -/
def fFma (mode : Round) (a b c : FVal) : FVal :=
  (firstNan [a, b, c]).getD (let p := a.mul b; if p.isNan then p else p.add mode c)

/-- a < b of values that are no NaN; -0 is not below +0. -/
def FVal.lt (a b : FVal) : Bool :=
  match a, b with
  | .inf n, .inf m => n && !m
  | .inf n, _ => n
  | _, .inf n => !n
  | a, b => let e := min a.exp b.exp; decide (a.toInt e < b.toInt e)

/-- a < b with -0 below +0 (R77). -/
def FVal.ltz (a b : FVal) : Bool := a.lt b || (!b.lt a && a.neg && !b.neg)

def fMin (a b : FVal) : FVal := (firstNan [a, b]).getD (if b.ltz a then b else a)
def fMax (a b : FVal) : FVal := (firstNan [a, b]).getD (if a.ltz b then b else a)

/-- A float operation on codes of a floating type, rounded once (R71). -/
def fOp2 (ty : Ty) (mode : Round) (draw : Nat) (op : FVal → FVal → FVal) (a b : Nat) : Nat :=
  let f := ffOf ty
  f.encode mode draw (op (f.decode a) (f.decode b))

/-! ### Special functions (R78, R79) -/

/-- The magnitude of a positive FP32 code, in steps of 2^-149. -/
def code32 (c : Nat) : Nat := if c < 2 ^ 23 then c else (2 ^ 23 + c % 2 ^ 23) * 2 ^ (c / 2 ^ 23 - 1)

/-- An enclosure of a positive real: low * 2^e up to high * 2^e. -/
structure Encl where
  low : Nat
  high : Nat
  e : Int
  deriving DecidableEq, Repr

/-- ulp in units of 2^-149 (R79), with E of the lower end: no more than the ulp of the exact value. -/
def ulpSteps (z : Encl) : Nat :=
  let ex := (z.low.log2 : Int) + z.e
  2 ^ (max ex (-126) + 126).toNat

/-- A finite code lies within n ulps of every value of an enclosure. -/
def Encl.near (z : Encl) (n c : Nat) : Bool :=
  let s := -149 - z.e
  let v := code32 c * pow2n s
  let lo := z.low * pow2d s
  let hi := z.high * pow2d s
  let tol := n * ulpSteps z * pow2n s
  decide (c < 0x7F800000) && decide (hi ≤ v + tol) && decide (v ≤ lo + tol)

/-- The computed magnitude: the code that Config.specialPick chooses among those within n ulps of the exact value
(log 8). -/
def Encl.pick (z : Encl) (fn n x : Nat) : Nat :=
  let c := ff32.round .rne false 0 z.low 1 z.e
  let k := Config.specialPick fn (BitVec.ofNat 32 x) % (4 * n + 3)
  let d := c + k - (2 * n + 1)
  if z.near n d then d else c

/-- A result magnitude below 2^-126 is flushed to zero (R78). -/
def flush32 (neg : Bool) (c : Nat) : Nat := signBit neg 32 + (if c < 2 ^ 23 then 0 else c)

/-- An input that is subnormal as FP32 counts as zero of its sign. -/
def flushIn : FVal → FVal
  | .fin n m e => if (m.log2 : Int) + e < -126 then .fin n 0 0 else .fin n m e
  | v => v

def nan32 : FVal → Nat := fun v => ff32.encode .rne 0 v.quiet
def inf32 (neg : Bool) : Nat := signBit neg 32 + 0x7F800000
def gen32 : Nat := 0x7FC00000

/-- A power of two: its mantissa is one bit. -/
def isPow2 (m : Nat) : Bool := m != 0 && m == 2 ^ m.log2

/-- VRCP on FP32. -/
def spRcp (x : Nat) (v : FVal) : Nat :=
  match v with
  | .nan _ _ => nan32 v
  | .inf n => signBit n 32
  | .fin n m e =>
    if m = 0 then inf32 n
    else if isPow2 m then flush32 n (ff32.round .rne false 0 1 m (-e))
    else
      let q := 2 ^ 200 / m
      flush32 n (Encl.pick ⟨q, q + 1, -200 - e⟩ 0 1 (x % 2 ^ 31))

/-- VRSQ. -/
def spRsq (x : Nat) (v : FVal) : Nat :=
  match v with
  | .nan _ _ => nan32 v
  | .inf n => if n then gen32 else 0
  | .fin n m e =>
    if m = 0 then inf32 n
    else if n then gen32
    else
      let m' := if e % 2 = 0 then m else 2 * m
      let e' := if e % 2 = 0 then e else e - 1
      if isPow2 m' && m'.log2 % 2 == 0 then flush32 false (ff32.round .rne false 0 1 (2 ^ (m'.log2 / 2)) (-(e' / 2)))
      else
        let q := Nat.sqrt (2 ^ 300 / m')
        flush32 false (Encl.pick ⟨q, q + 2, -150 - e' / 2⟩ 1 1 x)

/-- 2^(F / 2^n) with 128 fraction bits, from the bits of F, most significant first: c is the root for the next bit. -/
def exp2Bits : Nat → Nat → Nat → Nat → Nat
  | 0, _, _, acc => acc
  | n + 1, F, c, acc =>
    let c' := Nat.sqrt (c * 2 ^ 128)
    exp2Bits n (F % 2 ^ n) c' (if F / 2 ^ n % 2 = 1 then acc * c' / 2 ^ 128 else acc)

/-- An enclosure of 2^x for x = (-1)^neg * m * 2^e, |x| below 2^8. -/
def exp2Encl (neg : Bool) (m : Nat) (e : Int) : Encl :=
  let fx : Int := (if neg then -1 else 1) * (m * pow2n (e + 100) / pow2d (e + 100) : Nat)
  let i := fx / 2 ^ 100
  let F := (fx % 2 ^ 100).toNat
  let v := exp2Bits 100 F (2 ^ 129) (2 ^ 128)
  ⟨v - 2 ^ 40, v + 2 ^ 40, i - 128⟩

/-- VEXP2. -/
def spExp2 (x : Nat) (v : FVal) : Nat :=
  match v with
  | .nan _ _ => nan32 v
  | .inf n => if n then 0 else inf32 false
  | .fin n m e =>
    if m = 0 then 0x3F800000
    else
      let whole : Int := (m * pow2n e / pow2d e : Nat)
      let isInt := m * pow2n e % pow2d e == 0
      if !n && decide (128 ≤ whole) then inf32 false
      else if n && decide (256 ≤ whole) then 0
      else if isInt && decide (-126 ≤ (if n then -whole else whole)) then
        ff32.round .rne false 0 1 1 (if n then -whole else whole)
      else flush32 false ((exp2Encl n m e).pick 2 2 x)

/-- Binary digits of log2(y / 2^P), y / 2^P in [1, 2), by squaring. -/
def log2Digits (P : Nat) : Nat → Nat → Nat → Nat
  | 0, _, acc => acc
  | n + 1, y, acc =>
    let z := y * y / 2 ^ P
    if 2 ^ (P + 1) ≤ z then log2Digits P n (z / 2) (2 * acc + 1) else log2Digits P n z (2 * acc)

/-- VLOG2. -/
def spLog2 (x : Nat) (v : FVal) : Nat :=
  match v with
  | .nan _ _ => nan32 v
  | .inf n => if n then gen32 else inf32 false
  | .fin n m e =>
    if m = 0 then inf32 true
    else if n then gen32
    else
      let ex : Int := (m.log2 : Int) + e
      if isPow2 m then ff32.encode .rne 0 (FVal.ofInt ex)
      else
        let frac := log2Digits 300 96 (m * 2 ^ 300 / 2 ^ m.log2) 0
        let t : Int := ex * 2 ^ 96 + frac
        if 0 ≤ t then flush32 false (Encl.pick ⟨t.toNat - 1, t.toNat + 2, -96⟩ 3 2 x)
        else flush32 true (Encl.pick ⟨(-t).toNat - 2, (-t).toNat + 1, -96⟩ 3 2 x)

/-- Sum of y^k / k! with 160 fraction bits, from term k on. -/
def expSeries (y : Nat) : Nat → Nat → Nat → Nat
  | 0, _, _ => 0
  | n + 1, k, term => term + expSeries y n (k + 1) (term * y / (k * 2 ^ 160))

def squareN : Nat → Nat → Nat
  | 0, y => y
  | n + 1, y => squareN n (y * y / 2 ^ 160)

/-- An enclosure of tanh of a positive value m * 2^e. -/
def tanhEncl (m : Nat) (e : Int) : Encl :=
  let ex : Int := (m.log2 : Int) + e
  if 4 ≤ ex then ⟨2 ^ 60 - 2 ^ 20, 2 ^ 60, -60⟩
  else if ex < -14 then
    -- x - x^3/3 and x - x^3/3 + 2x^5/15, in units of 2^(5e - 8)
    let s := 2 * (-e).toNat
    let u := m * 2 ^ (2 * s + 8)
    let c3 := m ^ 3 * 2 ^ (s + 8)
    let c5 := m ^ 5 * 2 ^ 8
    ⟨u - (c3 / 3 + 1), u - c3 / 3 + c5 * 2 / 15 + 1, 5 * e - 8⟩
  else
    let y := m * pow2n (e + 1 + 154) / pow2d (e + 1 + 154)
    let E := squareN 6 (expSeries y 48 1 (2 ^ 160))
    let v := (E - 2 ^ 160) * 2 ^ 120 / (E + 2 ^ 160)
    ⟨v - 2 ^ 20, v + 2 ^ 20, -120⟩

/-- VTANH. -/
def spTanh (x : Nat) (v : FVal) : Nat :=
  match v with
  | .nan _ _ => nan32 v
  | .inf n => signBit n 32 + 0x3F800000
  | .fin n m e => if m = 0 then signBit n 32 else flush32 n ((tanhEncl m e).pick 4 3 (x % 2 ^ 31))

/-- A special function on a code of FP32, BF16 or FP16: widened exactly, evaluated in FP32, a 16-bit result rounded
once to nearest even (R79) and never subnormal (R78): one that would be is zero of its sign (log 8). -/
def special (ty : Ty) (fn : Nat → FVal → Nat) (c : Nat) : Nat :=
  let f := ffOf ty
  let v := flushIn (f.decode c)
  let x := ff32.encode .rne 0 v
  let r := fn x v
  if ty = .f32 then r
  else
    let h := f.encode .rne 0 (ff32.decode r)
    if h / 2 ^ f.m % 2 ^ f.e = 0 then signBit (h / 2 ^ (f.m + f.e) % 2 == 1) (1 + f.e + f.m) else h

/-! ### Trees (R85) -/

/-- One level of the tree. -/
def treePairs {α : Type} (op : α → α → α) : List α → List α
  | a :: b :: l => op a b :: treePairs op l
  | l => l

def treeLevels {α : Type} (op : α → α → α) : Nat → List α → List α
  | 0, l => l
  | n + 1, l => match l with
    | _ :: _ :: _ => treeLevels op n (treePairs op l)
    | l => l

/-- Tree(x, n), or the identity when nothing takes part. -/
def tree {α : Type} (op : α → α → α) (ident : α) (l : List α) : α := (treeLevels op l.length l).headD ident

end Sys2Proof.Machine
end

