-- ==== Sys2Proof/Machine/VecCore.lean ====
section
/-! DEFINITION. How a vector instruction issues (R134-R142): the shape in force, sources read slice by slice, results
written in flight, the pending check, and faults. -/

namespace Sys2Proof.Machine

/-! ### Writes in flight (R139, R140) -/

def Vec.land (v : Vec) (p : VWrite) : Vec :=
  match p.target with
  | .v r => { v with v := v.v.set r.val (p.apply (v.v.get r)) r.isLt }
  | .vm m => { v with vm := v.vm.set m.val ((p.apply ((v.vm.get m).setWidth 32768)).setWidth 4096) m.isLt }
  | .e n => { v with e := v.e.set n.val ((p.apply ((v.e.get n).setWidth 32768)).setWidth 32) n.isLt }

/-- The writes visible by cycle t land, in order of visibility. -/
def Vec.retire (v : Vec) (t : Nat) : Vec :=
  { (v.pend.filter fun p => decide (p.time ≤ t)).foldl Vec.land v with
    pend := v.pend.filter fun p => decide (t < p.time) }

/-- A write joins those in flight, after every one visible no later. -/
def pendInsert (p : VWrite) (l : List VWrite) : List VWrite :=
  l.filter (fun q => decide (q.time ≤ p.time)) ++ p :: l.filter fun q => decide (p.time < q.time)

/-! ### What an instruction sees at its first issue cycle -/

structure VX where
  c : Core
  v : Vec
  run : Run
  s : Nat

def VX.rows (x : VX) : Nat := shapeRows x.v.shape
def VX.cols (x : VX) : Nat := shapeCols x.v.shape
def VX.ew (x : VX) : Nat := shapeEw x.v.shape
/-- The position count E (R134). -/
def VX.count (x : VX) : Nat := x.rows * x.cols
/-- The issue cycles of a shaped instruction whose widest element has wI bytes (R138). -/
def VX.cyc (x : VX) (wI : Nat) : Nat := max 1 ((x.count * wI + 511) / 512)
/-- The format entries FMT0-FMT7 as ordered by R130. -/
def VX.fmts (x : VX) (n : Nat) : Fmt := fmtOf (x.c.stem.fmt.toArray.getD n 0)

/-- Bits read of a register, slice by slice (wI bytes the widest element), or all at the first issue cycle (wI 0). -/
def VX.slices (x : VX) (w wI : Nat) (f : Nat → VReg) : VReg :=
  if wI = 0 then f x.s
  else (List.range (x.cyc wI)).foldl (fun acc k => acc ||| (f (x.s + k) &&& sliceMask k w wI)) 0

/-- A vector register of w-bit elements as the instruction reads it. -/
def VX.reg (x : VX) (r : Reg) (w wI : Nat) : Nat :=
  if x.v.pend.any fun p => p.target == .v r then (x.slices w wI fun t => x.v.vAt r t).toNat
  else (x.v.v.get r).toNat

/-- A mask register as the instruction reads it. -/
def VX.mask (x : VX) (m : Fin 8) (wI : Nat) : Nat :=
  if x.v.pend.any fun p => p.target == .vm m then (x.slices 1 wI fun t => x.v.vmAt m t).toNat
  else (x.v.vm.get m).toNat

/-- Element p of width w of a register's bits (R134). -/
def elt (v w p : Nat) : Nat := (v >>> (w * p)) % 2 ^ w

/-- The elements of a source v/#: a literal is the same at every position (R137). -/
def VX.src (x : VX) (a : VSrc) (w wI : Nat) : Nat → Nat :=
  match a with
  | .reg r => elt (x.reg r w wI) w
  | .lit l => fun _ => l.toNat % 2 ^ w

/-- A scalar source e/# (R137). -/
def VX.scal (x : VX) : ESrc → W32
  | .reg n => x.v.eAt n x.s
  | .lit l => l

/-- The effective mask (R136) as bits: vm0 and, unless MSEL is 0, vm[MSEL]. -/
def VX.eff (x : VX) (m : Fin 8) (wI : Nat) : Nat :=
  if m = 0 then (x.v.vm.get 0).toNat else (x.v.vm.get 0).toNat &&& x.mask m wI

/-- The positions below E of a mask, ascending. -/
def VX.positions (x : VX) (bits : Nat) : List Nat :=
  if bits = 0 then [] else (List.range x.count).filter fun p => bits.testBit p

def VX.enabled (x : VX) (m : Fin 8) (wI : Nat) : List Nat := x.positions (x.eff m wI)

/-! ### Types (R135) -/

/-- The EW that a TYPE needs, and its element bytes. -/
def tyEw : Ty → Option (Nat × Nat)
  | .fn _ | .i8 => some (2, 1)
  | .bf16 | .f16 | .i16 => some (1, 2)
  | .f32 | .i32 => some (0, 4)
  | .i64 => none

/-- A vector fault: cause and TRAPVAL. -/
abbrev VRes (α : Type) := Except (Cause × Word) α

/-- The element bytes of a TYPE under the shape in force, or FORMAT_INVALID. -/
def VX.need (x : VX) (ty : Ty) : VRes Nat :=
  match tyEw ty with
  | some (ew, n) => if ew = x.ew then .ok n else .error (.formatInvalid, 0)
  | none => .error (.formatInvalid, 0)

def demand (b : Bool) (c : Cause) (val : Word) : VRes Unit := if b then .ok () else .error (c, val)

/-! ### Results -/

/-- The register writes of a list of positions and values of w bits (R139): slice by slice L cycles after they are
read, or, when whole, all at once after the last issue cycle. -/
def vwrite (time : Nat) (target : VTarget) (w : Nat) (vals : List (Nat × Nat)) : VWrite :=
  { time := time
    target := target
    mask := BitVec.ofNat 32768 (vals.foldl (fun m q => m ||| ((2 ^ w - 1) <<< (w * q.1))) 0)
    data := BitVec.ofNat 32768 (vals.foldl (fun m q => m ||| ((q.2 % 2 ^ w) <<< (w * q.1))) 0)
    load := none }

def VX.sliceWrites (x : VX) (target : VTarget) (w wI lat : Nat) (vals : List (Nat × Nat)) : List VWrite :=
  (List.range (x.cyc wI)).filterMap fun k =>
    match vals.filter fun q => q.1 * wI / 512 == k with
    | [] => none
    | l => some (vwrite (x.s + k + lat) target w l)

def VX.wholeWrites (x : VX) (target : VTarget) (w wI lat : Nat) (vals : List (Nat × Nat)) : List VWrite :=
  match vals with
  | [] => []
  | l => [vwrite (x.s + x.cyc wI - 1 + lat) target w l]

/-- A scalar write L cycles after the first issue cycle. -/
def VX.scalWrite (x : VX) (d : Fin 8) (lat : Nat) (val : Nat) : List VWrite := [vwrite (x.s + lat) (.e d) 32 [(0, val)]]

/-! ### The pending check (R141) -/

/-- What an instruction reads: the bits of a register of w-bit elements, slice by slice, or (wI 0) at the first issue
cycle. -/
structure VRead where
  target : VTarget
  bits : VReg
  w : Nat
  wI : Nat

def lowBits (n : Nat) : VReg := BitVec.ofNat 32768 (2 ^ n - 1)

/-- The bits of n elements of w bits from element a on. -/
def eltBits (w a n : Nat) : VReg := lowBits (w * n) <<< (w * a)

def VX.rdReg (x : VX) (r : Reg) (w wI : Nat) : List VRead := [⟨.v r, lowBits (w * x.count), w, wI⟩]
def VX.rdSrc (x : VX) (a : VSrc) (w wI : Nat) : List VRead :=
  match a with
  | .reg r => x.rdReg r w wI
  | .lit _ => []
/-- vm0 is written at once, so it is never pending. -/
def VX.rdMask (x : VX) (m : Fin 8) (wI : Nat) : List VRead :=
  if m = 0 then [] else [⟨.vm m, lowBits x.count, 1, wI⟩]
def rdScal : ESrc → List VRead
  | .reg n => [⟨.e n, lowBits 32, 32, 0⟩]
  | .lit _ => []

def VX.isPending (x : VX) (r : VRead) : Bool :=
  x.v.pend.any fun p => p.target == r.target &&
    (if r.wI = 0 then decide (x.s < p.time) && (p.mask &&& r.bits) != 0
      else (List.range (x.cyc r.wI)).any fun k =>
        decide (x.s + k < p.time) && (p.mask &&& r.bits &&& sliceMask k r.w r.wI) != 0)

/-- With PCHK sampled at the token's start, a read of a pending element raises PENDING_READ (R141, R280). -/
def VX.pendingHit (x : VX) (reads : List VRead) : Bool := x.run.pchk && reads.any x.isPending

/-! ### Issue -/

/-- What an instruction does: issue cycles, what it read, writes in flight, and its effects at its issue; late: a
fault that it finds some cycles after its first, and then it has no effect (R192). -/
structure VEff where
  n : Nat
  reads : List VRead
  writes : List VWrite
  late : Option (Cause × Word × Nat) := none
  vec : Vec → Vec := id
  run : Run → Run := id
  state : State → State := id

/-- The engine has found a fault at word w of the running token, some cycles after the next issue cycle: nothing
issues until it is reported (R142, R290). A logged cause is logged, with the address of an uncorrectable word (R51,
R416). -/
def State.vecFaultAt (s : State) (w : Nat) (cause : Cause) (val : Word) (late : Nat := 0) : State :=
  (s.modCore s.cur fun k =>
    match k.vec.run with
    | none => k
    | some r => k.setVec { k.vec with
        found := some ⟨cause, val, vfaultWord w r.iter r.tok.ent, k.vec.next + late⟩ }).logCore
    s.cur cause (if cause = .eccUncorrectable then val else 0)

/-- A fault of the instruction now at issue. -/
def State.vecFault (s : State) (cause : Cause) (val : Word) (late : Nat := 0) : State :=
  s.vecFaultAt (((s.core s.cur).vec.run.map (·.pos)).getD 0) cause val late

/-- The state after an instruction of w words has issued. -/
def VX.issue (x : VX) (words : Nat) (e : VEff) (s : State) : State :=
  e.state ((s.modCore s.cur fun k => k.setVec (e.vec { x.v with
    pend := e.writes.foldl (fun l p => pendInsert p l) x.v.pend
    next := x.s + e.n
    run := some (e.run { x.run with pos := x.run.pos + words }) })).passTo (dieOf s.cur) x.s)

/-- A vector instruction of w words of the current core: with no token running, nothing issues. -/
def vecRun (words : Nat) (s : State) (f : VX → VRes VEff) : Host.Outcome State Fault Refusal :=
  let c := s.core s.cur
  match c.vec.run with
  | none => .next s
  | some run =>
    let x : VX := ⟨c, c.vec.retire c.vec.next, run, c.vec.next⟩
    match f x with
    | .error (cause, val) => .next (s.vecFault cause val)
    | .ok e =>
      if x.pendingHit e.reads then .next (s.vecFault .pendingRead 0)
      else match e.late with
        | some (cause, val, k) => .next (s.vecFault cause val k)
        | none => .next (x.issue words e s)

/-- Words of an instruction with vector and scalar sources. -/
def vWords (l : List VSrc) : Nat := 1 + (l.map fun a => a.words.length).sum
def eWords (l : List ESrc) : Nat := 1 + (l.map fun a => a.words.length).sum

/-! ### Stochastic rounding (R74, R75) -/

def genStep (s : W32) : W32 := if s.getLsbD 0 then (s >>> 1) ^^^ 0x80200003 else s >>> 1
def genSteps : Nat → W32 → W32
  | 0, s => s
  | n + 1, s => genSteps n (genStep s)
def genDraw (s : W32) : W32 := genSteps 32 s

/-- The draws of n positions in order, and the generators after them. -/
def drawAll : Nat → Nat → List W32 → List W32 × List W32
  | 0, _, gs => ([], gs)
  | fuel + 1, n, gs =>
    if n = 0 then ([], gs)
    else
      let k := min n gs.length
      let now := (gs.take k).map genDraw
      let rest := drawAll fuel (n - k) (now ++ gs.drop k)
      (now ++ rest.1, rest.2)

/-- The draw of each position, and the generators after the instruction; modes other than .rsr draw nothing. -/
def VX.draws (x : VX) (mode : Round) : (Nat → Nat) × (Vec → Vec) :=
  if mode = .rsr then
    let r := drawAll 32 x.count x.v.gens.toList
    let a := r.1.toArray
    (fun p => (a.getD p 0).toNat, fun v => { v with gens := Vector.ofFn fun i : Fin 128 => r.2.toArray.getD i.val 0 })
  else (fun _ => 0, id)

/-! ### Row masks (R115, R136) -/

/-- vm0 of a token under a shape: element (r, c) with rows[r] = 1 and tail = 0 or c < tail. -/
def tokenMask (rows : W32) (tail : Nat) (shape : W32) : Mask :=
  let cols := shapeCols shape
  let row : Nat := 2 ^ (if tail = 0 then cols else min tail cols) - 1
  BitVec.ofNat 4096 ((List.range (shapeRows shape)).foldl (fun m r =>
    if rows.getLsbD r then m ||| (row <<< (r * cols)) else m) 0)

def Vec.setMask0 (v : Vec) (t : Token) : Vec := { v with vm := v.vm.set 0 (tokenMask t.rows t.tail v.shape) }

/-! ### Shape slots of the token (R177, R391) -/

/-- The record of the token's copy of a slot, or RAGGED_TABLE. -/
def VX.record (x : VX) (k : Nat) : VRes ShapeRec :=
  let slot := x.run.tok.slots.toArray.getD k Slot.empty
  match (if slot.valid then shapeRec slot.bits else none) with
  | some r => .ok r
  | none => .error (.raggedTable, 0)

end Sys2Proof.Machine
end

