-- ==== Sys2Proof/Machine/Perco.lean ====
section
/-! DEFINITION. The move sequencers (R37, R222-R232, R270): registers, how a program's instruction completes, waits,
faults and ends, program start, and the scalar, branch, loop and system instructions. -/

namespace Sys2Proof.Machine

/-! ### Registers (R37) -/

def State.seqr (s : State) (d : DieId) (n : Fin 16) : Seqr := (s.runner d).seqs.get n

def State.modSeq (s : State) (d : DieId) (n : Fin 16) (f : Seqr → Seqr) : State :=
  s.modRunner d fun r => { r with seqs := r.seqs.set n.val (f (r.seqs.get n)) n.isLt }

/-- g0 reads zero and discards writes. -/
def Seqr.getG (q : Seqr) (r : Reg) : Word := if r = 0 then 0 else q.g.get r
def Seqr.setG (q : Seqr) (r : Reg) (v : Word) : Seqr := if r = 0 then q else { q with g := q.g.set r.val v r.isLt }

/-- A scalar source (R21). -/
def Seqr.src (q : Seqr) : Src → Word
  | .reg r => q.getG r
  | .lit32 v => v.signExtend 64
  | .lit64 v => v

/-- The address of the word after an instruction of n words. -/
def Seqr.after (q : Seqr) (n : Nat) : Word := q.pc + BitVec.ofNat 64 (4 * n)

/-- The current sequencer. -/
def State.curSeqr (s : State) : Seqr := s.seqr s.curDie s.curSeq
def State.modCurSeq (s : State) (f : Seqr → Seqr) : State := s.modSeq s.curDie s.curSeq f

/-! ### Completion (R98, R232) -/

/-- A taken branch or J pops every loop whose START to END does not hold its target, innermost first. -/
def popOutside : List Loop → Nat → List Loop
  | [], _ => []
  | l :: ls, t => if l.start ≤ t ∧ t ≤ l.fin then l :: ls else popOutside ls t

/-- The next PC of a program, after the pops of a taken branch or J and the back-edge tests. -/
def Seqr.advance (q : Seqr) (jump : Bool) (npc : Word) : Seqr :=
  let r := backEdge q.lc (if jump then popOutside q.loops npc.toNat else q.loops) npc.toNat
  { q with loops := r.1, lc := r.2.1, pc := BitVec.ofNat 64 r.2.2, wait := none, waitSince := none }

/-! ### Faults, waits and the end of a program (R224, R227, R348, R357) -/

/-- The program ends and its sequencer is idle; its boxes run on. -/
def Seqr.ended (q : Seqr) : Seqr := { q with running := false, wait := none, waitSince := none, susp := none }

def State.endProg (s : State) (d : DieId) (n : Fin 16) : State := s.modSeq d n Seqr.ended

/-- The access code of a record: of a cause that concerns no access it is stated nowhere, a free value (log 24). -/
def State.accessCode (s : State) : Option Access → Nat
  | some a => a.code
  | none => (s.free 2).toNat % 4

/-- A program fault: no effect of the instruction, a record with the PC, the program suspended there, or at `cont` for
USER_TRAP. With no usable context entry the program ends (R348); where no record can be stored, or 512 works of the
die are suspended, the answer is none, and the program stalls at the instruction (R355, R357). -/
def State.progStop (s : State) (d : DieId) (n : Fin 16) (cause : Cause) (acc : Option Access) (va sub : Word)
    (cont : Seqr → Seqr) : Option State :=
  let q := s.seqr d n
  if (s.ctxEntry q.tag.ctx).isNone then some ((s.internalCheck d q.tag.ctx).endProg d n)
  else if 512 ≤ (s.runner d).suspended then none
  else (s.postFault d ⟨0, q.tag.ctx, 1, s.accessCode acc, false, cause, va, 0, 0, q.pc, sub, q.tag.origin, d⟩).map fun x =>
    x.1.modSeq d n fun q => { cont q with susp := some x.2, waitSince := none }

def State.progFault (s : State) (d : DieId) (n : Fin 16) (cause : Cause) (acc : Option Access) (va sub : Word)
    (cont : Seqr → Seqr) : State :=
  (s.progStop d n cause acc va sub cont).getD s

/-- PUBLISH_STATE is posted with STATE 1: the program has ended (Table 14-6, log 85). None: no record can be stored. -/
def State.progUnfit (s : State) (d : DieId) (n : Fin 16) (va : Word) : Option State :=
  let q := s.seqr d n
  if (s.ctxEntry q.tag.ctx).isNone then some ((s.internalCheck d q.tag.ctx).endProg d n)
  else (s.postFault d ⟨0, q.tag.ctx, 1, Access.combine.code, true, .publishState, va, 0, 0, q.pc, 0, q.tag.origin, d⟩).map
    fun x => x.1.endProg d n

/-- What a sequencer instruction comes to. -/
inductive PRes where
  /-- its effect, and the next PC -/
  | done (s : State) (npc : Word)
  /-- a taken branch or J -/
  | jump (s : State) (target : Word)
  | fault (cause : Cause) (acc : Option Access) (va : Word)
  /-- USER_TRAP with its IMM16: the program stands after the instruction -/
  | trap (imm : Word)
  /-- a request whose context has no usable entry: not performed, and the program ends (R348) -/
  | refused
  /-- an uncorrectable word of the runner store: the program ends with INTERNAL_CHECK (R412) -/
  | storeError
  | wait (s : State)
  | ended (s : State)

/-- A wait goes on: the die's cycle in which it began stands (R227). -/
def State.progWait (s : State) (d : DieId) (n : Fin 16) : State :=
  s.modSeq d n fun q => { q with waitSince := some (q.waitSince.getD (s.runner d).cycle) }

/-- An instruction of the current sequencer; priv: only a supervisor program may run it (R49). -/
def percoRun (priv : Bool) (s : State) (f : Seqr → PRes) : Host.Outcome State Fault Refusal :=
  let q := s.curSeqr
  .next <|
    if priv && !q.tag.sup then s.progFault s.curDie s.curSeq .privViolation none 0 0 id
    else match f q with
      | .done t npc => t.modCurSeq fun q => q.advance false npc
      | .jump t npc => t.modCurSeq fun q => q.advance true npc
      | .fault cause acc va => s.progFault s.curDie s.curSeq cause acc va 0 id
      | .trap imm => s.progFault s.curDie s.curSeq .userTrap none 0 imm fun q => q.advance false (q.after 1)
      | .refused => (s.internalCheck s.curDie q.tag.ctx).endProg s.curDie s.curSeq
      | .storeError => (s.logCause s.curDie ⟨6, s.curSeq.val, s.curDie, false⟩ .internalCheck 0 q.tag.ctx).endProg
          s.curDie s.curSeq
      | .wait t => t.progWait s.curDie s.curSeq
      | .ended t => t.endProg s.curDie s.curSeq

/-- An instruction whose only effect is a write of its destination. -/
def percoSet (d : Reg) (words : Nat) (s : State) (v : Seqr → Word) : Host.Outcome State Fault Refusal :=
  percoRun false s fun q => .done (s.modCurSeq fun q => q.setG d (v q)) (q.after words)

/-! ### Program start (R222, R223) -/

/-- A sequencer as a start leaves it (Table 07-1); WDOG keeps its value. -/
def Seqr.started (q : Seqr) (st : Start) (prog : Nat) : Seqr :=
  let g0 : Vector Word 31 := Vector.replicate 31 0
  { Seqr.reset with
    g := (g0.set 1 st.arg).set 2 st.g2
    pc := st.entry
    tag := { st.tag with sup := st.services }
    wdog := q.wdog
    running := true
    prog := prog
    grain := st.grain }

/-- The lowest-numbered idle sequencer of a class. -/
def Runner.idleSeq (r : Runner) (services : Bool) : Option (Fin 16) :=
  (List.finRange 16).find? fun n => (services == decide (14 ≤ n.val)) && !(r.seqs.get n).running

/-- SEQUENCER_START: the head of the start queue goes to an idle sequencer of its class. A start of a killed context
is discarded (R358), one without a usable context is refused (R348), one whose entry is not word-aligned ends in a
record. -/
def execSequencerStart (d : DieId) (s : State) : Host.Outcome State Fault Refusal :=
  .next <|
    match (s.runner d).startq with
    | [] => s
    | st :: rest =>
      match (s.runner d).idleSeq st.services with
      | none => s
      | some n =>
        let t := s.modRunner d fun r => { r with startq := rest }
        if s.pkg.draining st.tag.ctx then t
        else if (s.ctxEntry st.tag.ctx).isNone then t.internalCheck d st.tag.ctx
        else if st.entry.toNat % 4 ≠ 0 then
          match t.postFault d ⟨0, st.tag.ctx, 1, Access.fetch.code, true, .imemRange, st.entry, 0, 0, st.entry, 0,
              st.tag.origin, d⟩ with
          | some (t, _) => t
          | none => s
        else (t.modSeq d n fun q => q.started st s.pkg.progNext).modPkg fun p => { p with progNext := p.progNext + 1 }

/-- PERCO_WATCHDOG: a wait longer than WDOG × 1,024 cycles of the die suspends the program at the waiting instruction;
what it waits for stands (R227). -/
def execPercoWatchdog (d : DieId) (n : Fin 16) (s : State) : Host.Outcome State Fault Refusal :=
  .next <|
    let q := s.seqr d n
    match q.waitSince with
    | none => s
    | some t =>
      let w := (q.wdog.extractLsb' 0 32).toNat
      if q.running && q.susp.isNone && w != 0 && decide (1024 * w < (s.runner d).cycle - t) then
        s.progFault d n .watchdog none 0 0 id
      else s

/-! ### ALU and LI (R229) -/

/-- A TYPE that is no integer is refused at decode (R24). -/
def percoAlu (f : AluFn) (d : Reg) (a b : Src) (ty : Ty) (s : State) : Host.Outcome State Fault Refusal :=
  percoRun false s fun q =>
    match intWidth ty with
    | none => .fault .formatInvalid none 0
    | some n =>
      .done (s.modCurSeq fun q => q.setG d (aluValue f n (q.src a) (q.src b) 0)) (q.after (1 + litWords [a, b]))

def execPercoAdd (d : Reg) (a b : Src) (ty : Ty) (s : State) : Host.Outcome State Fault Refusal :=
  percoAlu aluAdd d a b ty s
def execPercoSub (d : Reg) (a b : Src) (ty : Ty) (s : State) : Host.Outcome State Fault Refusal :=
  percoAlu aluSub d a b ty s
def execPercoMul (d : Reg) (a b : Src) (ty : Ty) (s : State) : Host.Outcome State Fault Refusal :=
  percoAlu aluMul d a b ty s
def execPercoAnd (d : Reg) (a b : Src) (ty : Ty) (s : State) : Host.Outcome State Fault Refusal :=
  percoAlu aluAnd d a b ty s
def execPercoOr (d : Reg) (a b : Src) (ty : Ty) (s : State) : Host.Outcome State Fault Refusal :=
  percoAlu aluOr d a b ty s
def execPercoXor (d : Reg) (a b : Src) (ty : Ty) (s : State) : Host.Outcome State Fault Refusal :=
  percoAlu aluXor d a b ty s
def execPercoShl (d : Reg) (a b : Src) (ty : Ty) (s : State) : Host.Outcome State Fault Refusal :=
  percoAlu aluShl d a b ty s
def execPercoShr (d : Reg) (a b : Src) (ty : Ty) (s : State) : Host.Outcome State Fault Refusal :=
  percoAlu aluShr d a b ty s
def execPercoMin (d : Reg) (a b : Src) (ty : Ty) (s : State) : Host.Outcome State Fault Refusal :=
  percoAlu aluMin d a b ty s
def execPercoMax (d : Reg) (a b : Src) (ty : Ty) (s : State) : Host.Outcome State Fault Refusal :=
  percoAlu aluMax d a b ty s
def execPercoMinUnsigned (d : Reg) (a b : Src) (ty : Ty) (s : State) : Host.Outcome State Fault Refusal :=
  percoAlu aluMinUnsigned d a b ty s
def execPercoMaxUnsigned (d : Reg) (a b : Src) (ty : Ty) (s : State) : Host.Outcome State Fault Refusal :=
  percoAlu aluMaxUnsigned d a b ty s

def execPercoLi (d : Reg) (v : LiVal) (s : State) : Host.Outcome State Fault Refusal :=
  percoSet d (1 + v.words.length) s fun _ => liValue v

/-! ### Runner store (R225, R230) -/

def rstoreSize : Nat := 2 ^ 14

/-- The address of LD and ST: modulo 16,384, low bits below the access size cleared. -/
def rstoreAddr (base : Word) (size : BitVec 2) (ofs : BitVec 10) : Nat :=
  (effAddr base size ofs).toNat % rstoreSize / sizeBytes size * sizeBytes size

/-- An 8-byte word with an uncorrectable error lies in part in n bytes from a on; or only in part (R412). -/
def storeHit (bad : List Nat) (a n : Nat) : Bool := bad.any fun w => decide (w < a + n) && decide (a < w + 8)
def storePart (bad : List Nat) (a n : Nat) : Bool :=
  bad.any fun w => decide (w < a + n) && decide (a < w + 8) && !(decide (a ≤ w) && decide (w + 8 ≤ a + n))

/-- Bytes written to the runner store; a word written whole has fresh check bits. -/
def Seqr.writeStore (q : Seqr) (a : Nat) (bs : List Byte) : Seqr :=
  { q with
    store := memPut q.store a bs
    storeBad := q.storeBad.filter fun w => !(decide (a ≤ w) && decide (w + 8 ≤ a + bs.length)) }

def execPercoLd (d : Reg) (a : Src) (size : BitVec 2) (ofs : BitVec 10) (s : State) :
    Host.Outcome State Fault Refusal :=
  percoRun false s fun q =>
    let n := sizeBytes size
    let x := rstoreAddr (q.src a) size ofs
    if storeHit q.storeBad x n then .storeError
    else .done (s.modCurSeq fun q => q.setG d (sext64 (8 * n) (memNat q.store x n))) (q.after (1 + litWords [a]))

def execPercoSt (x a : Src) (size : BitVec 2) (ofs : BitVec 10) (s : State) : Host.Outcome State Fault Refusal :=
  percoRun false s fun q =>
    let n := sizeBytes size
    let p := rstoreAddr (q.src a) size ofs
    if storePart q.storeBad p n then .storeError
    else .done (s.modCurSeq fun q => q.writeStore p (leBytes n (q.src x).toNat)) (q.after (1 + litWords [x, a]))

/-! ### Branches, calls, loops (R231, R232) -/

def percoTarget (q : Seqr) (ofs : Int) : Word := BitVec.ofInt 64 (branchTarget q.pc.toNat ofs)

def percoBranch (cond : Word → Word → Bool) (x y : Src) (ofs : BitVec 16) (s : State) :
    Host.Outcome State Fault Refusal :=
  percoRun false s fun q =>
    if cond (q.src x) (q.src y) then .jump s (percoTarget q ofs.toInt) else .done s (q.after (1 + litWords [x, y]))

def execPercoBeq (x y : Src) (ofs : BitVec 16) (s : State) : Host.Outcome State Fault Refusal :=
  percoBranch condEq x y ofs s
def execPercoBne (x y : Src) (ofs : BitVec 16) (s : State) : Host.Outcome State Fault Refusal :=
  percoBranch condNe x y ofs s
def execPercoBlt (x y : Src) (ofs : BitVec 16) (s : State) : Host.Outcome State Fault Refusal :=
  percoBranch condLt x y ofs s
def execPercoBge (x y : Src) (ofs : BitVec 16) (s : State) : Host.Outcome State Fault Refusal :=
  percoBranch condGe x y ofs s

def execPercoJ (ofs : BitVec 26) (s : State) : Host.Outcome State Fault Refusal :=
  percoRun false s fun q => .jump s (percoTarget q ofs.toInt)

def execPercoCall (ofs : BitVec 26) (s : State) : Host.Outcome State Fault Refusal :=
  percoRun false s fun q =>
    if 8 ≤ q.rets.length then .fault .callDepth none 0
    else .done (s.modCurSeq fun q => { q with rets := q.after 1 :: q.rets }) (percoTarget q ofs.toInt)

def execPercoRet (s : State) : Host.Outcome State Fault Refusal :=
  percoRun false s fun q =>
    match q.rets with
    | [] => .fault .callDepth none 0
    | a :: rest => .done (s.modCurSeq fun q => { q with rets := rest }) a

/-- LOOP: as R97 with two loops and no limit on the end address. -/
def execPercoLoop (a : Src) (imm : BitVec 16) (s : State) : Host.Outcome State Fault Refusal :=
  percoRun false s fun q =>
    let n : W32 := (q.src a).setWidth 32
    let start := q.pc.toNat + 4 * (1 + litWords [a])
    let fin := branchTarget q.pc.toNat imm.toInt
    if fin ≤ start then .fault .reservedField none 0
    else if n = 0 then .done s (BitVec.ofInt 64 fin)
    else if 2 ≤ q.loops.length then .fault .loopDepth none 0
    else .done (s.modCurSeq fun q => { q with
        lc := q.lc.setIfInBounds q.loops.length n
        loops := ⟨start % 2 ^ 64, fin.toNat % 2 ^ 64⟩ :: q.loops }) (BitVec.ofNat 64 start)

/-! ### System instructions (R226, R270) -/

def execPercoTrap (imm : BitVec 16) (s : State) : Host.Outcome State Fault Refusal :=
  percoRun false s fun _ => .trap (imm.setWidth 64)

def execPercoHalt (s : State) : Host.Outcome State Fault Refusal := percoRun false s fun _ => .ended s

def execPercoNop (s : State) : Host.Outcome State Fault Refusal := percoRun false s fun q => .done s (q.after 1)

/-- Every write of a box has performed: it is complete (R242). -/
def Box.written (b : Box) : Bool := b.part == .credit || b.part == .credited

/-- Boxes of a program not yet completed or dropped. -/
def Runner.outbox (r : Runner) (d : DieId) (prog : Nat) : Nat :=
  r.boxes.countP fun b => b.agent == .prog d prog && !b.written

/-- A sequencer system register (Tables 07-2, 07-3). -/
def State.percoSys (s : State) (q : Seqr) (r : Nat) : Word :=
  match r with
  | 0 => BitVec.ofNat 64 (2 ^ 20 * s.curSeq.val + 2 ^ 16 * s.curDie.val) ||| bit q.tag.sup
  | 1 => BitVec.ofNat 64 (s.runner s.curDie).cycle
  | 2 => q.tag.ctx.setWidth 64
  | 3 => BitVec.ofNat 64 ((s.runner s.curDie).outbox s.curDie q.prog % 2 ^ 16)
  | _ => q.wdog

def execPercoSysrd (d : Reg) (r : BitVec 12) (s : State) : Host.Outcome State Fault Refusal :=
  percoRun false s fun q =>
    if 4 < r.toNat then .fault .reservedField none 0
    else .done (s.modCurSeq fun x => x.setG d (s.percoSys q r.toNat)) (q.after 1)

/-- SYSWR: only WDOG may be written, its reserved bits staying zero. -/
def execPercoSyswr (a : Src) (r : BitVec 12) (s : State) : Host.Outcome State Fault Refusal :=
  if 4 < r.toNat then percoRun false s fun _ => .fault .reservedField none 0
  else percoRun true s fun q =>
    if r.toNat = 4 then
      .done (s.modCurSeq fun q => { q with wdog := (q.src a) &&& 0xFFFFFFFF }) (q.after (1 + litWords [a]))
    else .fault .privViolation none 0

/-! ### Unassigned encodings (R27, R28, R50) -/

/-- The engine that a stem decode fault names: the matrix engine for its majors 0x30 to 0x3A (R199), else the stem. -/
def decodeEngine (w : W32) : Engine :=
  let m := (w.extractLsb' 26 6).toNat
  if 0x30 ≤ m ∧ m ≤ 0x3A then .matrix else .stem

/-- UNASSIGNED_ENCODING: ILLEGAL_OPCODE with no effect: a precise stem trap, a vector fault, or a program fault. -/
def execUnassignedEncoding (st : Strm) (w : W32) (s : State) : Host.Outcome State Fault Refusal :=
  match st with
  | .stem => .next (s.stemTrap (decodeEngine w) .illegalOpcode (w.setWidth 64))
  | .vector => .next (s.vecFault .illegalOpcode (w.setWidth 64))
  | .perco => .next (s.progFault s.curDie s.curSeq .illegalOpcode none 0 0 id)

end Sys2Proof.Machine
end

