-- ==== Sys2Proof/Machine/VecArith.lean ====
section
/-! DEFINITION. The element arithmetic of the vector engine (R159-R169): floating and integer lanes, special functions,
compares, selects, masks, conversions, quantisation and scaled accumulation. -/

namespace Sys2Proof.Machine

/-! ### Lanes -/

/-- The result of an instruction that writes f p at each enabled position p of a register of n-byte elements. -/
def VX.lanes (x : VX) (d : Reg) (n lat : Nat) (m : Fin 8) (reads : List VRead) (f : Nat → Nat) : VEff :=
  { n := x.cyc n
    reads := reads ++ x.rdMask m n
    writes := x.sliceWrites (.v d) (8 * n) n lat ((x.enabled m n).map fun p => (p, f p)) }

/-- One source, one result, of the same type. -/
def lane1 (d : Reg) (a : VSrc) (m : Fin 8) (ty : Ty) (lat : Nat) (f : Nat → Nat) (s : State) :
    Host.Outcome State Fault Refusal :=
  vecRun (vWords [a]) s fun x => do
    let n ← x.need ty
    let xa := x.src a (8 * n) n
    return x.lanes d n lat m (x.rdSrc a (8 * n) n) fun p => f (xa p)

/-- Two sources, one result, of the same type; f has the operands' codes. -/
def lane2 (d : Reg) (a b : VSrc) (m : Fin 8) (ty : Ty) (lat : Nat) (f : Nat → Nat → Nat) (s : State) :
    Host.Outcome State Fault Refusal :=
  vecRun (vWords [a, b]) s fun x => do
    let n ← x.need ty
    let xa := x.src a (8 * n) n
    let xb := x.src b (8 * n) n
    return x.lanes d n lat m (x.rdSrc a (8 * n) n ++ x.rdSrc b (8 * n) n) fun p => f (xa p) (xb p)

/-- Two sources and the destination as a third. -/
def lane3 (d : Reg) (a b : VSrc) (m : Fin 8) (ty : Ty) (lat : Nat) (f : Nat → Nat → Nat → Nat) (s : State) :
    Host.Outcome State Fault Refusal :=
  vecRun (vWords [a, b]) s fun x => do
    let n ← x.need ty
    let xa := x.src a (8 * n) n
    let xb := x.src b (8 * n) n
    let xd := x.src (.reg d) (8 * n) n
    return x.lanes d n lat m (x.rdSrc a (8 * n) n ++ x.rdSrc b (8 * n) n ++ x.rdReg d (8 * n) n) fun p =>
      f (xa p) (xb p) (xd p)

/-! ### Floating lanes (R159): one rounding in the mode of SUB, drawing under .rsr -/

/-- A floating operation of two sources; op has the mode. -/
def floatLane (d : Reg) (a b : VSrc) (m : Fin 8) (ty : Ty) (mode : Round) (op : Round → FVal → FVal → FVal) (s : State) :
    Host.Outcome State Fault Refusal :=
  vecRun (vWords [a, b]) s fun x => do
    let n ← x.need ty
    let xa := x.src a (8 * n) n
    let xb := x.src b (8 * n) n
    let dr := x.draws mode
    return { x.lanes d n 4 m (x.rdSrc a (8 * n) n ++ x.rdSrc b (8 * n) n)
        (fun p => fOp2 ty mode (dr.1 p) (op mode) (xa p) (xb p)) with vec := dr.2 }

def execVadd (d : Reg) (a b : VSrc) (m : Fin 8) (ty : Ty) (r : Round) (s : State) : Host.Outcome State Fault Refusal :=
  floatLane d a b m ty r fAdd s
def execVsub (d : Reg) (a b : VSrc) (m : Fin 8) (ty : Ty) (r : Round) (s : State) : Host.Outcome State Fault Refusal :=
  floatLane d a b m ty r fSub s
def execVmul (d : Reg) (a b : VSrc) (m : Fin 8) (ty : Ty) (r : Round) (s : State) : Host.Outcome State Fault Refusal :=
  floatLane d a b m ty r (fun _ => fMul) s

/-- VFMA: a × b + d, formed exactly. -/
def execVfma (d : Reg) (a b : VSrc) (m : Fin 8) (ty : Ty) (r : Round) (s : State) : Host.Outcome State Fault Refusal :=
  vecRun (vWords [a, b]) s fun x => do
    let n ← x.need ty
    let xa := x.src a (8 * n) n
    let xb := x.src b (8 * n) n
    let xd := x.src (.reg d) (8 * n) n
    let dr := x.draws r
    let f := ffOf ty
    return { x.lanes d n 5 m (x.rdSrc a (8 * n) n ++ x.rdSrc b (8 * n) n ++ x.rdReg d (8 * n) n)
        (fun p => f.encode r (dr.1 p) (fFma r (f.decode (xa p)) (f.decode (xb p)) (f.decode (xd p)))) with vec := dr.2 }

def execVmin (d : Reg) (a b : VSrc) (m : Fin 8) (ty : Ty) (s : State) : Host.Outcome State Fault Refusal :=
  lane2 d a b m ty 4 (fOp2 ty .rne 0 fMin) s
def execVmax (d : Reg) (a b : VSrc) (m : Fin 8) (ty : Ty) (s : State) : Host.Outcome State Fault Refusal :=
  lane2 d a b m ty 4 (fOp2 ty .rne 0 fMax) s

/-! Special functions (R160). -/
def execVexp2 (d : Reg) (a : VSrc) (m : Fin 8) (ty : Ty) (s : State) : Host.Outcome State Fault Refusal :=
  lane1 d a m ty 12 (special ty spExp2) s
def execVlog2 (d : Reg) (a : VSrc) (m : Fin 8) (ty : Ty) (s : State) : Host.Outcome State Fault Refusal :=
  lane1 d a m ty 12 (special ty spLog2) s
def execVrcp (d : Reg) (a : VSrc) (m : Fin 8) (ty : Ty) (s : State) : Host.Outcome State Fault Refusal :=
  lane1 d a m ty 10 (special ty spRcp) s
def execVrsq (d : Reg) (a : VSrc) (m : Fin 8) (ty : Ty) (s : State) : Host.Outcome State Fault Refusal :=
  lane1 d a m ty 10 (special ty spRsq) s
def execVtanh (d : Reg) (a : VSrc) (m : Fin 8) (ty : Ty) (s : State) : Host.Outcome State Fault Refusal :=
  lane1 d a m ty 16 (special ty spTanh) s

/-- A value rounded to an integral value of its type (R166); a zero keeps the sign of the input. -/
def roundInt (f : FF) (mode : Round) (v : FVal) : Nat :=
  match v with
  | .fin n m e => f.encode .rne 0 (.fin n (roundAt 0 mode n 0 m 1 e) 0)
  | v => f.encode .rne 0 v.quiet

def execVrnd (d : Reg) (a : VSrc) (m : Fin 8) (ty : Ty) (r : Round) (s : State) : Host.Outcome State Fault Refusal :=
  lane1 d a m ty 3 (fun c => roundInt (ffOf ty) r ((ffOf ty).decode c)) s

/-! ### Integer lanes (R161) -/

/-- An exact integer to w bits: modulo 2^w, or clamped to the range. -/
def intResult (sat u : Bool) (w : Nat) (v : Int) : Nat :=
  let r := intRange u w
  ((if sat then max r.1 (min r.2 v) else v) % 2 ^ w).toNat

/-- An integer operation of two sources on w-bit codes. -/
def intLane (d : Reg) (a b : VSrc) (m : Fin 8) (ty : Ty) (lat : Nat) (f : Nat → Nat → Nat → Nat) (s : State) :
    Host.Outcome State Fault Refusal :=
  lane2 d a b m ty lat (f ty.bits) s

def execViadd (d : Reg) (a b : VSrc) (m : Fin 8) (ty : Ty) (u sat : Bool) (s : State) : Host.Outcome State Fault Refusal :=
  intLane d a b m ty 2 (fun w x y => intResult sat u w (intOf u w x + intOf u w y)) s
def execVisub (d : Reg) (a b : VSrc) (m : Fin 8) (ty : Ty) (u sat : Bool) (s : State) : Host.Outcome State Fault Refusal :=
  intLane d a b m ty 2 (fun w x y => intResult sat u w (intOf u w x - intOf u w y)) s
def execVimul (d : Reg) (a b : VSrc) (m : Fin 8) (ty : Ty) (h u : Bool) (s : State) : Host.Outcome State Fault Refusal :=
  intLane d a b m ty 4 (fun w x y =>
    let p := intOf u w x * intOf u w y
    ((if h then p / 2 ^ w else p) % 2 ^ w).toNat) s
def execVimad (d : Reg) (a b : VSrc) (m : Fin 8) (ty : Ty) (u sat : Bool) (s : State) : Host.Outcome State Fault Refusal :=
  lane3 d a b m ty 4 (fun x y z =>
    let w := ty.bits
    intResult sat u w (intOf u w z + intOf u w x * intOf u w y)) s
def execVand (d : Reg) (a b : VSrc) (m : Fin 8) (ty : Ty) (s : State) : Host.Outcome State Fault Refusal :=
  intLane d a b m ty 2 (fun _ x y => x &&& y) s
def execVor (d : Reg) (a b : VSrc) (m : Fin 8) (ty : Ty) (s : State) : Host.Outcome State Fault Refusal :=
  intLane d a b m ty 2 (fun _ x y => x ||| y) s
def execVxor (d : Reg) (a b : VSrc) (m : Fin 8) (ty : Ty) (s : State) : Host.Outcome State Fault Refusal :=
  intLane d a b m ty 2 (fun _ x y => x ^^^ y) s
def execVshl (d : Reg) (a b : VSrc) (m : Fin 8) (ty : Ty) (s : State) : Host.Outcome State Fault Refusal :=
  intLane d a b m ty 2 (fun w x y => (x <<< (y % w)) % 2 ^ w) s
def execVshr (d : Reg) (a b : VSrc) (m : Fin 8) (ty : Ty) (s : State) : Host.Outcome State Fault Refusal :=
  intLane d a b m ty 2 (fun w x y => x >>> (y % w)) s
def execVsra (d : Reg) (a b : VSrc) (m : Fin 8) (ty : Ty) (s : State) : Host.Outcome State Fault Refusal :=
  intLane d a b m ty 2 (fun w x y => ((intOf false w x / 2 ^ (y % w)) % 2 ^ w).toNat) s
def execVimin (d : Reg) (a b : VSrc) (m : Fin 8) (ty : Ty) (u : Bool) (s : State) : Host.Outcome State Fault Refusal :=
  intLane d a b m ty 2 (fun w x y => if intOf u w y < intOf u w x then y else x) s
def execVimax (d : Reg) (a b : VSrc) (m : Fin 8) (ty : Ty) (u : Bool) (s : State) : Host.Outcome State Fault Refusal :=
  intLane d a b m ty 2 (fun w x y => if intOf u w x < intOf u w y then y else x) s

/-! ### Compares and selects (R162, R163) -/

/-- A condition code on two floating values. -/
def condF (c : Fin 8) (a b : FVal) : Bool :=
  if a.isNan || b.isNan then c == 1 || c == 6
  else
    match c with
    | 0 => !a.lt b && !b.lt a
    | 1 => a.lt b || b.lt a
    | 2 => a.lt b
    | 3 => !b.lt a
    | 4 => b.lt a
    | 5 => !a.lt b
    | 6 => false
    | 7 => true

/-- A condition code on two integers; 6 and 7 raise FORMAT_INVALID before. -/
def condI (c : Fin 8) (a b : Int) : Bool :=
  match c with
  | 0 => decide (a = b)
  | 1 => decide (a ≠ b)
  | 2 => decide (a < b)
  | 3 => decide (a ≤ b)
  | 4 => decide (b < a)
  | 5 => decide (b ≤ a)
  | _ => false

/-- VCMP writes every bit of vmD: bits without an enabled position become 0. The bits above E become visible with the
last slice. -/
def execVcmp (d : Fin 8) (a b : VSrc) (m : Fin 8) (ty : Ty) (u : Bool) (c : Fin 8) (s : State) :
    Host.Outcome State Fault Refusal :=
  vecRun (vWords [a, b]) s fun x => do
    let n ← x.need ty
    demand (if ty.isInt then decide (c.val < 6) else !u) .formatInvalid 0
    let w := 8 * n
    let xa := x.src a w n
    let xb := x.src b w n
    let on := x.eff m n
    let hold (p : Nat) : Bool :=
      on.testBit p &&
        (if ty.isInt then condI c (intOf u w (xa p)) (intOf u w (xb p))
          else condF c ((ffOf ty).decode (xa p)) ((ffOf ty).decode (xb p)))
    let bits := (x.positions on).foldl (fun acc p => if hold p then acc ||| (1 <<< p) else acc) 0
    let k := x.cyc n
    return {
      n := k
      reads := x.rdSrc a w n ++ x.rdSrc b w n ++ x.rdMask m n
      writes := (List.range k).map fun i =>
        { time := x.s + i + 3
          target := .vm d
          mask := if i + 1 = k then ~~~(lowBits (i * (512 / n))) &&& lowBits 4096 else sliceMask i 1 n
          data := BitVec.ofNat 32768 bits } }

def execVsel (d : Reg) (a b : VSrc) (m : Fin 8) (ty : Ty) (s : State) : Host.Outcome State Fault Refusal :=
  vecRun (vWords [a, b]) s fun x => do
    let n ← x.need ty
    let xa := x.src a (8 * n) n
    let xb := x.src b (8 * n) n
    let sel := x.mask m n
    return { x.lanes d n 2 0 (x.rdSrc a (8 * n) n ++ x.rdSrc b (8 * n) n) (fun p => if sel.testBit p then xa p else xb p) with
      reads := x.rdSrc a (8 * n) n ++ x.rdSrc b (8 * n) n ++ x.rdMask m n }

/-! ### Masks (R164) -/

/-- An instruction with one issue cycle that reads whole masks and writes one. -/
def maskRun (d : Fin 8) (reads : List (Fin 8)) (f : (Fin 8 → Mask) → Mask) (s : State) :
    Host.Outcome State Fault Refusal :=
  vecRun 1 s fun x =>
    .ok {
      n := 1
      reads := reads.map fun m => ⟨.vm m, lowBits 4096, 1, 0⟩
      writes := [{
        time := x.s + 1
        target := .vm d
        mask := lowBits 4096
        data := (f fun m => (x.v.vmAt m x.s).setWidth 4096).setWidth 32768 }] }

def execVmopAnd (d a b : Fin 8) (s : State) : Host.Outcome State Fault Refusal := maskRun d [a, b] (fun v => v a &&& v b) s
def execVmopOr (d a b : Fin 8) (s : State) : Host.Outcome State Fault Refusal := maskRun d [a, b] (fun v => v a ||| v b) s
def execVmopXor (d a b : Fin 8) (s : State) : Host.Outcome State Fault Refusal := maskRun d [a, b] (fun v => v a ^^^ v b) s
def execVmopAndn (d a b : Fin 8) (s : State) : Host.Outcome State Fault Refusal :=
  maskRun d [a, b] (fun v => v a &&& ~~~(v b)) s
def execVmopNot (d a : Fin 8) (s : State) : Host.Outcome State Fault Refusal := maskRun d [a] (fun v => ~~~(v a)) s
def execVmopOnes (d : Fin 8) (s : State) : Host.Outcome State Fault Refusal :=
  maskRun d [] (fun _ => BitVec.allOnes 4096) s
def execVmopZeros (d : Fin 8) (s : State) : Host.Outcome State Fault Refusal := maskRun d [] (fun _ => 0) s
def execVmopCopy (d a : Fin 8) (s : State) : Host.Outcome State Fault Refusal := maskRun d [a] (fun v => v a) s

/-- VMPOP: a number from the positions below E that a mask sets. -/
def mpopRun (d a : Fin 8) (f : List Nat → Nat) (s : State) : Host.Outcome State Fault Refusal :=
  vecRun 1 s fun x =>
    .ok {
      n := 1
      reads := [⟨.vm a, lowBits x.count, 1, 0⟩]
      writes := x.scalWrite d 3 (f (x.positions (x.v.vmAt a x.s).toNat)) }

def execVmpop (d a : Fin 8) (s : State) : Host.Outcome State Fault Refusal := mpopRun d a List.length s
def execVmpopFirst (d a : Fin 8) (s : State) : Host.Outcome State Fault Refusal :=
  mpopRun d a (fun l => l.headD 0xFFFFFFFF) s

/-! ### Conversions (R165-R168) -/

/-- VCVT: the wider width times E must fit a register; the unsigned bits need an integer type on their side. -/
def execVcvt (d a : Reg) (sty : Ty) (su : Bool) (m : Fin 8) (ty : Ty) (du : Bool) (r : Round) (s : State) :
    Host.Outcome State Fault Refusal :=
  vecRun 1 s fun x => do
    demand ((!su || sty.isInt) && (!du || ty.isInt) && sty != .i64 && ty != .i64) .formatInvalid 0
    let ns := sty.bits / 8
    let nd := ty.bits / 8
    let n := max ns nd
    demand (decide (x.count * n ≤ 4096)) .vshapeInvalid 0
    let xa := x.src (.reg a) sty.bits n
    let dr := x.draws r
    return {
      n := x.cyc n
      reads := x.rdReg a sty.bits n ++ x.rdMask m n
      writes := x.sliceWrites (.v d) ty.bits n 4 ((x.enabled m n).map fun p =>
        (p, encodeElt x.fmts ty du 0 r (dr.1 p) (decodeElt x.fmts sty su (xa p))))
      vec := dr.2 }

/-- floor(log2) of a finite magnitude. -/
def FVal.log2 : FVal → Int
  | .fin _ m e => (m.log2 : Int) + e
  | _ => 0

/-- The larger of two finite magnitudes. -/
def absLt (a b : FVal) : Bool :=
  match a, b with
  | .fin _ m e, .fin _ m' e' => (FVal.fin false m e).lt (.fin false m' e')
  | _, _ => false

/-- The scale code of a block by R65, before any clamping: none for a block with a NaN. -/
def blockScale (f : Fmt) (l : List FVal) : Option Int :=
  if l.any FVal.isNan then none
  else
    let big := (l.filter fun v => !v.isInf).foldl (fun b v => if absLt b v then v else b) (.fin false 0 0)
    if big.isZero then some 127 else some (big.log2 - ((f.emax : Int) - f.bias) + 127)

/-- The scale byte that VQUANT writes for a block, and the scaling exponent of its elements (R167). -/
def quantScale (f : Fmt) (l : List FVal) : Nat × Int :=
  match blockScale f l with
  | none => (0xFF, 0)
  | some c =>
    let c := max 0 (min 254 c)
    (c.toNat, 127 - c)

def fnNum : Ty → Nat
  | .fn n => n.val
  | _ => 0

def execVquant (d a sc : Reg) (m : Fin 8) (ty : Ty) (r : Round) (s : State) : Host.Outcome State Fault Refusal :=
  vecRun 1 s fun x => do
    let f := x.fmts (fnNum ty)
    demand (f.kind != 1) .formatInvalid 0
    demand (decide (x.count * 4 ≤ 4096)) .vshapeInvalid 0
    let xa := x.src (.reg a) 32 4
    let dr := x.draws r
    let on := x.enabled m 4
    let blocks := ((List.range ((x.count + 127) / 128)).map fun j =>
      (j, on.filter fun p => p / 128 == j)).filter fun b => !b.2.isEmpty
    let scaled := blocks.map fun b => (b.1, b.2, quantScale f (b.2.map fun p => ff32.decode (xa p)))
    return {
      n := x.cyc 4
      reads := x.rdReg a 32 4 ++ x.rdMask m 4
      writes :=
        x.wholeWrites (.v d) 8 4 8 (scaled.flatMap fun b =>
          b.2.1.map fun p => (p, toNarrow f b.2.2.2 r (dr.1 p) (ff32.decode (xa p)))) ++
        x.wholeWrites (.v sc) 8 4 8 (scaled.map fun b => (b.1, b.2.2.1))
      vec := dr.2 }

/-- A value times a power of two. -/
def FVal.scale (k : Int) : FVal → FVal
  | .fin n m e => .fin n m (e + k)
  | v => v

/-- VDEQ (R168): a NaN code under a finite scale is quieted and keeps its payload (R76, log 52). -/
def execVdeq (d a sc : Reg) (m : Fin 8) (ty : Ty) (s : State) : Host.Outcome State Fault Refusal :=
  vecRun 1 s fun x => do
    let f := x.fmts (fnNum ty)
    demand (x.ew == 0 && f.kind != 1) .formatInvalid 0
    let xa := x.src (.reg a) 8 4
    let xs := x.src (.reg sc) 8 0
    return { x.lanes d 4 4 m (x.rdReg a 8 4 ++ [⟨.v sc, lowBits (8 * ((x.count + 127) / 128)), 8, 0⟩]) fun p =>
      let e := xs (p / 128)
      if e = 0xFF then 0x7FC00000
      else ff32.encode .rne 0 ((decodeNarrow f (xa p)).quiet.scale ((e : Int) - 127)) with }

/-- VSACC (R169): the row scale is byte r, the column scale byte 32 + c, both read at the first issue cycle. -/
def execVsacc (d a sc : Reg) (m : Fin 8) (s : State) : Host.Outcome State Fault Refusal :=
  vecRun 1 s fun x => do
    let n ← x.need .f32
    let xa := x.src (.reg a) 32 n
    let xd := x.src (.reg d) 32 n
    let xs := x.src (.reg sc) 8 0
    let reads := x.rdReg a 32 n ++ x.rdReg d 32 n ++ [⟨.v sc, eltBits 8 0 x.rows ||| eltBits 8 32 x.cols, 8, 0⟩]
    return x.lanes d n 6 m reads fun p =>
      let ea := xs (p / x.cols)
      let eb := xs (32 + p % x.cols)
      let va := ff32.decode (xa p)
      let vd := ff32.decode (xd p)
      if ea = 0xFF || eb = 0xFF || va.isNan || vd.isNan then 0x7FC00000
      else ff32.encode .rne 0 (vd.add .rne (va.scale ((ea : Int) - 127 + (eb - 127))))

end Sys2Proof.Machine
end

