-- ==== Sys2Proof/Machine/VecMem.lean ====
section
/-! DEFINITION. The vector engine's memory instructions (R147-R154) and its tile reads (R155, R156). A memory
instruction forms its addresses and makes its checks as it issues; each of its words is served by its bank in the
service cycle of R148. -/

namespace Sys2Proof.Machine

/-! ### Addresses (R147) -/

/-- Wrap. Out of range, TRAPVAL holds the pointer plus the offset, not wrapped (log 78). -/
def Vec.wrap (v : Vec) (n : Fin 8) (o : Int) : VRes Nat :=
  let a : Int := (v.a.get n).toNat
  let st : Int := (v.wst.get n).toNat
  let ln : Int := (v.wlen.get n).toNat
  if ln = 0 then
    if 0 ≤ a + o ∧ a + o < 2 ^ 21 then .ok (a + o).toNat else .error (.scratchRange, BitVec.ofInt 64 (a + o))
  else if 2 ^ 21 < st + ln ∨ a < st ∨ st + ln ≤ a then .error (.scratchRange, BitVec.ofInt 64 (a + o))
  else .ok (st + (a - st + o) % ln).toNat

def Vec.setA (v : Vec) (n : Fin 8) (a : Nat) : Vec := { v with a := v.a.set n.val (BitVec.ofNat 21 a) n.isLt }

/-- The places of positions with their offsets, and the pointer after a post-increment: ranges first, then alignment,
in each the lowest position (R142). -/
def VX.resolve (x : VX) (n : Fin 8) (align : Nat) (l : List (Nat × Int × Option Bool)) (inc : Option Int) :
    VRes (List VPlace × Option Nat) := do
  let places ← l.mapM fun q => (x.v.wrap n q.2.1).map fun a => (⟨q.1, a, q.2.2⟩ : VPlace)
  let next ← match inc with
    | none => .ok none
    | some i => (x.v.wrap n i).map some
  match places.find? fun q => q.addr % align != 0 with
  | some q => .error (.misaligned, BitVec.ofNat 64 q.addr)
  | none => .ok (places, next)

/-! ### Bank service (R148) -/

/-- The first cycle in which a bank is free. -/
def busyOf (busy : List (Nat × Nat)) (b : Nat) : Nat := ((busy.find? fun q => q.1 == b).map (·.2)).getD 0

/-- Words served in ascending order, with the cycles each takes: the service cycle of each, and the banks after. -/
def serve (first : Nat) : List (Nat × Nat) → List (Nat × Nat) → List (Nat × Nat) × List (Nat × Nat)
  | busy, [] => ([], busy)
  | busy, (w, k) :: ws =>
    let b := bankOf w
    let t := max first (busyOf busy b)
    let r := serve first ((b, t + k) :: busy.filter fun q => q.1 != b) ws
    ((w, t + k - 1) :: r.1, r.2)

/-- Distinct numbers, ascending. -/
def ascending (l : List Nat) : List Nat := (l.mergeSort (· ≤ ·)).dedup

def lastOf (first : Nat) (l : List (Nat × Nat)) : Nat := l.foldl (fun t q => max t q.2) first

def VX.loc (x : VX) : Word := vfaultWord x.run.pos x.run.iter x.run.tok.ent

/-- A word joins those to be served, after every one of no later cycle. -/
def svcInsert (q : Svc) (l : List Svc) : List Svc :=
  l.filter (fun p => decide (p.time ≤ q.time)) ++ q :: l.filter fun p => decide (q.time < p.time)

/-- The words of a memory instruction with their service cycles are put to the banks, which are busy so long; the
pointer takes its post-increment. -/
def VX.toBanks (x : VX) (n : Fin 8) (next : Option Nat) (op : Nat → SvcOp) (words : List (Nat × Nat))
    (busy : List (Nat × Nat)) (v : Vec) : Vec :=
  let v := { v with
    busy := busy
    svc := words.foldl (fun l q => svcInsert
      { time := q.2, word := q.1, id := v.memNext, op := op q.1, loc := x.loc
        ptr := next.map fun a => (n, v.a.get n, BitVec.ofNat 21 a), told := false } l) v.svc
    memNext := v.memNext + 1 }
  match next with
  | some a => v.setA n a
  | none => v

/-! ### Loads -/

/-- The code at a place. -/
def placeVal (m : Mem) (wb : Nat) (q : VPlace) : Nat :=
  match q.nib with
  | none => memNat m q.addr wb
  | some hi => if hi then (memGet m q.addr).toNat / 16 else (memGet m q.addr).toNat % 16

/-- The places that lie in a word. -/
def placesIn (l : List VPlace) (w : Nat) : List VPlace := l.filter fun q => q.addr / 4 * 4 == w

/-- A load of its places into D, visible 12 cycles after the last service cycle; its words fill the write in flight as
they are served. -/
def VX.load (x : VX) (d : Reg) (wb wI : Nat) (n : Fin 8) (reads : List VRead) (l : List VPlace) (next : Option Nat) :
    VEff :=
  let cyc := x.cyc wI
  let words := ascending (l.map fun q => q.addr / 4 * 4)
  let r := serve (x.s + cyc) x.v.busy (words.map fun w => (w, 1))
  let last := lastOf (x.s + cyc - 1) r.1
  { n := cyc
    reads := reads
    writes := match l with
      | [] => []
      | _ :: _ => [{ vwrite (last + 12) (.v d) (8 * wb) (l.map fun q => (q.p, 0)) with load := some x.v.memNext }]
    vec := x.toBanks n next (fun w => .load wb (placesIn l w)) r.1 (r.2.filter fun q => decide (x.s + cyc < q.2)) }

/-! ### Stores -/

/-- The bits of the word at w that a place's code takes, and the code there. -/
def placeBits (wb w : Nat) (q : VPlace) (code : Nat) : Nat × Nat :=
  let sh := 8 * (q.addr - w)
  match q.nib with
  | none => ((2 ^ (8 * wb) - 1) <<< sh, (code % 2 ^ (8 * wb)) <<< sh)
  | some hi => let sh := if hi then sh + 4 else sh; (15 <<< sh, (code % 16) <<< sh)

/-- A word as its places leave it: the bits written and their values, the highest position last. -/
def wordOf (wb : Nat) (data : Nat → Nat) (l : List VPlace) (w : Nat) : Nat × Nat :=
  (placesIn l w).foldl (fun acc q =>
    let b := placeBits wb w q (data q.p)
    (acc.1 ||| b.1, (acc.2 &&& (2 ^ 32 - 1 - b.1)) ||| b.2)) (0, 0)

def wholeWord : Nat := 2 ^ 32 - 1

/-- One word of a store: whole, or read, merged and written; a part of an uncorrectable word is not written. -/
def storeWord (c : CoreId) (s : State) (q : Nat × Nat × Nat) : State :=
  if q.2.1 = wholeWord then s.writeScratch c q.1 (leBytes 4 q.2.2)
  else if (s.core c).hardAt q.1 4 then s
  else
    let s := s.modCore c fun k => k.noteSoft q.1 4
    s.writeScratch c q.1 (leBytes 4 (((s.core c).read q.1 4 &&& (wholeWord - q.2.1)) ||| q.2.2))

/-- A store of its places, with the check of SHCHK (R150). -/
def VX.store (x : VX) (wb wI : Nat) (n : Fin 8) (reads : List VRead) (data : Nat → Nat) (l : List VPlace)
    (next : Option Nat) : VRes VEff :=
  match (if statusShchk x.c.stem.status then l.find? fun q => x.c.inSlot q.addr wb else none) with
  | some q => .error (.shapeStale, BitVec.ofNat 64 q.addr)
  | none =>
    let cyc := x.cyc wI
    let words := (ascending (l.map fun q => q.addr / 4 * 4)).map fun w => (w, wordOf wb data l w)
    let r := serve (x.s + cyc) x.v.busy (words.map fun q => (q.1, if q.2.1 = wholeWord then 1 else 2))
    .ok {
      n := cyc
      reads := reads
      writes := []
      vec := x.toBanks n next (fun w => .store (wordOf wb data l w).1 (wordOf wb data l w).2) r.1
        (r.2.filter fun q => decide (x.s + cyc < q.2)) }

/-! ### Service of a word (R148, R154) -/

/-- The bank reads the word: for a load, and to merge a partial-word store. -/
def SvcOp.reads : SvcOp → Bool
  | .load _ _ => true
  | .store m _ => m != wholeWord

/-- The elements of a served word join a load's write in flight. -/
def VWrite.fill (p : VWrite) (m : Mem) (wb : Nat) (l : List VPlace) : VWrite :=
  { p with data := (vwrite p.time p.target (8 * wb) (l.map fun q => (q.p, placeVal m wb q))).apply p.data }

/-- A word of a load fills the load's write. -/
def Vec.fill (v : Vec) (id : Nat) (m : Mem) (wb : Nat) (l : List VPlace) : Vec :=
  { v with pend := v.pend.map fun p => if p.load = some id then p.fill m wb l else p }

/-- The first uncorrectable word of a memory instruction: the fault stands with the cycle of its detection, a load
writes nothing (R154), and the pointer takes back its post-increment (R147), unless a later instruction has moved it
again (log 5). -/
def Vec.svcFault (v : Vec) (q : Svc) : Vec :=
  { v with
    ecc := v.ecc ++ [⟨.eccUncorrectable, BitVec.ofNat 64 q.word, q.loc, q.time⟩]
    pend := v.pend.filter fun p => p.load != some q.id
    svc := v.svc.map fun p => if p.id = q.id then { p with told := true } else p
    a := match q.ptr with
      | some (n, old, new) => if v.a.get n = new then v.a.set n.val old n.isLt else v.a
      | none => v.a }

/-- The word to be served first is served in its cycle. -/
def State.serveWord (s : State) (c : CoreId) : State :=
  match (s.core c).vec.svc with
  | [] => s
  | q :: rest =>
    let t := (s.modCore c fun k => k.setVec { k.vec with svc := rest }).passTo (dieOf c) q.time
    if q.op.reads && (s.core c).hardAt q.word 4 then
      if q.told then t else t.modCore c fun k => k.setVec (k.vec.svcFault q)
    else match q.op with
      | .load wb l => t.modCore c fun k => (k.noteSoft q.word 4).setVec (k.vec.fill q.id k.scratch wb l)
      | .store m v => storeWord c t (q.word, m, v)

/-- Every word put to the banks is served, with nothing in between. -/
def State.serveAll (s : State) (c : CoreId) : Nat → State
  | 0 => s
  | n + 1 => (s.serveWord c).serveAll c n

/-! ### Row forms (R149-R152) -/

/-- A TYPE whose memory form is packed nibbles (R150). -/
def VX.packed (x : VX) (ty : Ty) : Bool :=
  match ty with
  | .fn k => (x.fmts k.val).width == 4
  | _ => false

def VX.rowBytes (x : VX) (pk : Bool) (wb : Nat) : Nat := if pk then (x.cols + 1) / 2 else x.cols * wb

/-- The offset of column c in its row, and its nibble. -/
def colOffset (pk : Bool) (wb c : Nat) : Int × Option Bool :=
  if pk then ((c / 2 : Nat), some (c % 2 == 1)) else ((c * wb : Nat), none)

/-- Positions with the offsets of a row stride. -/
def VX.strided (x : VX) (pk : Bool) (wb : Nat) (stride : Int) (l : List Nat) : List (Nat × Int × Option Bool) :=
  l.map fun p =>
    let o := colOffset pk wb (p % x.cols)
    (p, (p / x.cols : Nat) * stride + o.1, o.2)

/-- The increment that SUB[1:0] selects. -/
def VX.postInc (x : VX) (sel : Fin 4) (pk : Bool) (wb : Nat) (stride : Int) : Option Int :=
  match sel with
  | 0 => none
  | 1 => some (x.rows * stride)
  | 2 => some stride
  | 3 => some ((x.rows * x.rowBytes pk wb : Nat) : Int)

/-- RaggedCheck (R151): the positions left enabled. -/
def VX.raggedCheck (x : VX) (n : Fin 8) (slot : Nat) (row0 : Nat) (rb : Nat) (l : List Nat) : VRes (List Nat) := do
  let r ← x.record slot
  demand (r.placeable row0) .raggedTable 0
  let limit := match seqOf r.bnd r.rows row0 with
    | none => 0
    | some q => seqEnd r.bnd q - row0
  match l.find? fun p => decide (limit ≤ p / x.cols) with
  | none => .ok l
  | some p =>
    if r.strict then
      let o : Int := (p / x.cols * rb : Nat)
      match x.v.wrap n o with
      | .ok a => .error (.raggedCross, BitVec.ofNat 64 a)
      | .error e => .error (.raggedCross, e.2)
    else .ok (l.filter fun p => decide (p / x.cols < limit))

def execVld (d : Reg) (a : Fin 8) (b : ESrc) (m : Fin 8) (ty : Ty) (p : Fin 4) (s : State) :
    Host.Outcome State Fault Refusal :=
  vecRun (eWords [b]) s fun x => do
    let wb ← x.need ty
    let pk := x.packed ty
    let stride := (x.scal b).toInt
    let r ← x.resolve a wb (x.strided pk wb stride (x.enabled m wb)) (x.postInc p pk wb stride)
    return x.load d wb wb a (x.rdMask m wb ++ rdScal b) r.1 r.2

def execVst (v : VSrc) (a : Fin 8) (b : ESrc) (m : Fin 8) (ty : Ty) (p : Fin 4) (s : State) :
    Host.Outcome State Fault Refusal :=
  vecRun (eWords [b] + v.words.length) s fun x => do
    let wb ← x.need ty
    let pk := x.packed ty
    let stride := (x.scal b).toInt
    let r ← x.resolve a wb (x.strided pk wb stride (x.enabled m wb)) (x.postInc p pk wb stride)
    x.store wb wb a (x.rdSrc v (8 * wb) wb ++ x.rdMask m wb ++ rdScal b) (x.src v (8 * wb) wb) r.1 r.2

def execVldRagged (d : Reg) (a : Fin 8) (b : ESrc) (m : Fin 8) (ty : Ty) (pf : Bool) (k : Fin 4) (s : State) :
    Host.Outcome State Fault Refusal :=
  vecRun (eWords [b]) s fun x => do
    let wb ← x.need ty
    let pk := x.packed ty
    let rb := x.rowBytes pk wb
    let l ← x.raggedCheck a k.val (x.scal b).toNat rb (x.enabled m wb)
    let r ← x.resolve a wb (x.strided pk wb rb l) (x.postInc (if pf then 3 else 0) pk wb rb)
    return x.load d wb wb a (x.rdMask m wb ++ rdScal b) r.1 r.2

def execVstRagged (v : VSrc) (a : Fin 8) (b : ESrc) (m : Fin 8) (ty : Ty) (pf : Bool) (k : Fin 4) (s : State) :
    Host.Outcome State Fault Refusal :=
  vecRun (eWords [b] + v.words.length) s fun x => do
    let wb ← x.need ty
    let pk := x.packed ty
    let rb := x.rowBytes pk wb
    let l ← x.raggedCheck a k.val (x.scal b).toNat rb (x.enabled m wb)
    let r ← x.resolve a wb (x.strided pk wb rb l) (x.postInc (if pf then 3 else 0) pk wb rb)
    x.store wb wb a (x.rdSrc v (8 * wb) wb ++ x.rdMask m wb ++ rdScal b) (x.src v (8 * wb) wb) r.1 r.2

/-- VLDB (R152): one row of memory to every row; a column is read where some position of it is enabled. -/
def rowLoad (d : Reg) (a : Fin 8) (m : Fin 8) (ty : Ty) (pf : Bool) (s : State) : Host.Outcome State Fault Refusal :=
  vecRun 1 s fun x => do
    let wb ← x.need ty
    let pk := x.packed ty
    let r ← x.resolve a wb (x.strided pk wb 0 (x.enabled m wb)) (if pf then some (x.rowBytes pk wb : Int) else none)
    return x.load d wb wb a (x.rdMask m wb) r.1 r.2

def execVldb (d : Reg) (a : Fin 8) (m : Fin 8) (ty : Ty) (s : State) : Host.Outcome State Fault Refusal :=
  rowLoad d a m ty false s
def execVldbPf (d : Reg) (a : Fin 8) (m : Fin 8) (ty : Ty) (s : State) : Host.Outcome State Fault Refusal :=
  rowLoad d a m ty true s

/-! ### Gather and scatter (R153) -/

/-- The places of an indexed access: signed 32-bit byte offsets, or element offsets with .sc. A literal index counts as
a 32-bit element like any other (log 79). -/
def VX.indexed (x : VX) (a : Fin 8) (b : VSrc) (m : Fin 8) (ty : Ty) (sc : Bool) : VRes (Nat × List VPlace) := do
  let wb ← x.need ty
  demand (!x.packed ty) .formatInvalid 0
  demand (decide (x.count ≤ 1024)) .vshapeInvalid 0
  let wI := max wb 4
  let idx := x.src b 32 wI
  let r ← x.resolve a wb ((x.enabled m wI).map fun p =>
    (p, intOf false 32 (idx p) * (if sc then (wb : Int) else 1), none)) none
  return (wb, r.1)

def execVgath (d : Reg) (a : Fin 8) (b : VSrc) (m : Fin 8) (ty : Ty) (sc : Bool) (s : State) :
    Host.Outcome State Fault Refusal :=
  vecRun (vWords [b]) s fun x => do
    let r ← x.indexed a b m ty sc
    return x.load d r.1 (max r.1 4) a (x.rdSrc b 32 (max r.1 4) ++ x.rdMask m (max r.1 4)) r.2 none

def execVscat (v : VSrc) (a : Fin 8) (b : VSrc) (m : Fin 8) (ty : Ty) (sc : Bool) (s : State) :
    Host.Outcome State Fault Refusal :=
  vecRun (vWords [v, b]) s fun x => do
    let r ← x.indexed a b m ty sc
    let wI := max r.1 4
    x.store r.1 wI a (x.rdSrc v (8 * r.1) wI ++ x.rdSrc b 32 wI ++ x.rdMask m wI) (x.src v (8 * r.1) wI) r.2 none

/-! ### Tiles (R155, R156, R282) -/

def execVtrd (d : Reg) (t : Fin 4) (b : ESrc) (m : Fin 8) (ty : Ty) (s : State) : Host.Outcome State Fault Refusal :=
  vecRun (eWords [b]) s fun x => do
    let n ← x.need ty
    let o := x.scal b
    let r0 := (o.extractLsb' 0 7).toNat
    let c0 := (o.extractLsb' 16 7).toNat
    demand (o &&& ~~~0x7F007F == 0 && decide (r0 + x.rows ≤ 128) && decide (c0 + x.cols ≤ 128)) .vshapeInvalid 0
    demand (x.run.grant.getLsbD t.val && x.c.full.get t) .tileProtocol 0
    let tile := x.c.tiles.get t
    return x.lanes d n 6 m (rdScal b) fun p => memNat tile (4 * (128 * (r0 + p / x.cols) + c0 + p % x.cols)) 4

def execVtrel (t : Fin 4) (s : State) : Host.Outcome State Fault Refusal :=
  vecRun 1 s fun x => do
    demand (x.run.grant.getLsbD t.val) .tileProtocol 0
    return {
      n := 1
      reads := []
      writes := []
      run := fun r => { r with grant := r.grant &&& ~~~(1#4 <<< t.val) }
      state := fun s => s.modCore s.cur fun k => { k with full := k.full.set t.val false t.isLt } }

end Sys2Proof.Machine
end

