-- ==== Sys2Proof/Machine/VecMove.lean ====
section
/-! DEFINITION. Shape, pointers, moves, broadcasts and segment control of the vector engine (R145-R147, R157, R158,
R170-R173). -/

namespace Sys2Proof.Machine

/-! ### Shape and pointers -/

/-- VSHAPE (R145): a value outside R35 raises VSHAPE_INVALID; vm0 is rebuilt under the new shape (R136). -/
def execVshape (a : ESrc) (s : State) : Host.Outcome State Fault Refusal :=
  vecRun (eWords [a]) s fun x => do
    let v := x.scal a
    demand (v.extractLsb' 16 16 == 0 && shapeOk v) .vshapeInvalid 0
    return {
      n := 1
      reads := rdScal a
      writes := []
      vec := fun k => { k with shape := v }.setMask0 x.run.tok }

/-- An instruction with one issue cycle that sets eD one cycle later. -/
def scalRun (d : Fin 8) (srcs : List ESrc) (f : VX → Nat) (s : State) : Host.Outcome State Fault Refusal :=
  vecRun (eWords srcs) s fun x =>
    .ok { n := 1, reads := srcs.flatMap rdScal, writes := x.scalWrite d 1 (f x) }

def execVshapeRd (d : Fin 8) (s : State) : Host.Outcome State Fault Refusal := scalRun d [] (fun x => x.v.shape.toNat) s

/-- VASET of a pointer, a window start or a window length (R146): range first, then alignment. There is no address;
TRAPVAL holds the value refused (log 78). -/
def asetRun (a : ESrc) (limit : Nat) (aligned : Bool) (f : Nat → Vec → Vec) (s : State) :
    Host.Outcome State Fault Refusal :=
  vecRun (eWords [a]) s fun x => do
    let v := (x.scal a).toNat
    demand (decide (v < limit)) .scratchRange (BitVec.ofNat 64 v)
    demand (!aligned || v % 4 == 0) .misaligned (BitVec.ofNat 64 v)
    return { n := 1, reads := rdScal a, writes := [], vec := f v }

def execVaset (n : Fin 8) (a : ESrc) (s : State) : Host.Outcome State Fault Refusal :=
  asetRun a (2 ^ 21) false (fun v k => k.setA n v) s
def execVasetWst (n : Fin 8) (a : ESrc) (s : State) : Host.Outcome State Fault Refusal :=
  asetRun a (2 ^ 21) true (fun v k => { k with wst := k.wst.set n.val (BitVec.ofNat 21 v) n.isLt }) s
def execVasetWlen (n : Fin 8) (a : ESrc) (s : State) : Host.Outcome State Fault Refusal :=
  asetRun a (2 ^ 21 + 1) true (fun v k => { k with wlen := k.wlen.set n.val (BitVec.ofNat 22 v) n.isLt }) s

def execVasetRd (d a : Fin 8) (s : State) : Host.Outcome State Fault Refusal :=
  scalRun d [] (fun x => (x.v.a.get a).toNat) s

/-- VAADD (R147). -/
def execVaadd (n : Fin 8) (a : ESrc) (s : State) : Host.Outcome State Fault Refusal :=
  vecRun (eWords [a]) s fun x => do
    let v ← x.v.wrap n (x.scal a).toInt
    return { n := 1, reads := rdScal a, writes := [], vec := fun k => k.setA n v }

/-! ### Moves and broadcasts (R157, R158) -/

def execVmov (d : Reg) (a : VSrc) (m : Fin 8) (ty : Ty) (s : State) : Host.Outcome State Fault Refusal :=
  lane1 d a m ty 2 id s

/-- VMOV .ins: one element, whatever the masks, visible at s + 2 wherever it stands (log 79). -/
def execVmovIns (d : Reg) (a b : ESrc) (ty : Ty) (s : State) : Host.Outcome State Fault Refusal :=
  vecRun (eWords [a, b]) s fun x => do
    let n ← x.need ty
    return {
      n := 1
      reads := rdScal a ++ rdScal b
      writes := [vwrite (x.s + 2) (.v d) (8 * n) [((x.scal b).toNat % (4096 / n), (x.scal a).toNat)]] }

/-- VMOV .ext: one element to a scalar, zero-extended. -/
def execVmovExt (d : Fin 8) (a : Reg) (b : ESrc) (ty : Ty) (s : State) : Host.Outcome State Fault Refusal :=
  vecRun (eWords [b]) s fun x => do
    let n ← x.need ty
    let i := (x.scal b).toNat % (4096 / n)
    return {
      n := 1
      reads := rdScal b ++ [⟨.v a, eltBits (8 * n) i 1, 8 * n, 0⟩]
      writes := x.scalWrite d 2 (elt (x.reg a (8 * n) 0) (8 * n) i) }

def execVsplat (d : Reg) (a : ESrc) (m : Fin 8) (ty : Ty) (s : State) : Host.Outcome State Fault Refusal :=
  vecRun (eWords [a]) s fun x => do
    let n ← x.need ty
    return x.lanes d n 2 m (rdScal a) fun _ => (x.scal a).toNat % 2 ^ (8 * n)

def execVsplatRow (d a : Reg) (m : Fin 8) (ty : Ty) (s : State) : Host.Outcome State Fault Refusal :=
  vecRun 1 s fun x => do
    let n ← x.need ty
    let xa := x.src (.reg a) (8 * n) n
    return x.lanes d n 2 m [⟨.v a, eltBits (8 * n) 0 x.cols, 8 * n, n⟩] fun p => xa (p % x.cols)

def execVsplatCol (d a : Reg) (m : Fin 8) (ty : Ty) (s : State) : Host.Outcome State Fault Refusal :=
  vecRun 1 s fun x => do
    let n ← x.need ty
    let xa := x.src (.reg a) (8 * n) n
    let bits := (List.range x.rows).foldl (fun acc r => acc ||| eltBits (8 * n) (r * x.cols) 1) 0
    return x.lanes d n 2 m [⟨.v a, bits, 8 * n, n⟩] fun p => xa (p / x.cols * x.cols)

/-! ### Segment control (R170-R173) -/

/-- VEND: the next iteration begins on the following cycle; after the last one the engine is free for the next token,
which issues two cycles after (R138). -/
def Vec.endIteration (t : Nat) (k : Vec) : Vec :=
  match k.run with
  | none => k
  | some r =>
    if r.eop || decide (r.tok.trip ≤ r.iter + 1) then { k with run := none, next := t + 2 }
    else { k with run := some { r with pos := 0, iter := r.iter + 1 }, next := t + 1 }

def execVend (s : State) : Host.Outcome State Fault Refusal :=
  vecRun 1 s fun x => .ok { n := 1, reads := [], writes := [], vec := Vec.endIteration x.s }

def execVnop (s : State) : Host.Outcome State Fault Refusal :=
  vecRun 1 s fun _ => .ok { n := 1, reads := [], writes := [] }

/-- A field of the running token (R171). -/
def tokenField (r : Run) (f : Fin 6) : Nat :=
  match f with
  | 0 => r.iter
  | 1 => r.tok.trip
  | 2 => r.tok.ent.toNat
  | 3 => r.tok.rows.toNat
  | 4 => r.tok.tail
  | 5 => r.grant.toNat

def execVtokr (d : Fin 8) (f : Fin 6) (s : State) : Host.Outcome State Fault Refusal :=
  scalRun d [] (fun x => tokenField x.run f) s

def execVeop (a : Fin 8) (s : State) : Host.Outcome State Fault Refusal :=
  vecRun 1 s fun x =>
    let none_ := (x.positions (x.v.vmAt a x.s).toNat).isEmpty
    .ok {
      n := 1
      reads := [⟨.vm a, lowBits x.count, 1, 0⟩]
      writes := []
      run := fun r => if none_ then { r with eop := true } else r }

def execVlit (d : Fin 8) (a : ESrc) (s : State) : Host.Outcome State Fault Refusal :=
  scalRun d [a] (fun x => (x.scal a).toNat) s

/-- eD plus or minus a scalar, modulo 2^32. -/
def litRun (d : Fin 8) (a : ESrc) (f : W32 → W32 → W32) (s : State) : Host.Outcome State Fault Refusal :=
  vecRun (eWords [a]) s fun x =>
    .ok { n := 1, reads := rdScal (.reg d) ++ rdScal a, writes := x.scalWrite d 1 (f (x.v.eAt d x.s) (x.scal a)).toNat }

def execVlitAdd (d : Fin 8) (a : ESrc) (s : State) : Host.Outcome State Fault Refusal := litRun d a (· + ·) s
def execVlitSub (d : Fin 8) (a : ESrc) (s : State) : Host.Outcome State Fault Refusal := litRun d a (· - ·) s

end Sys2Proof.Machine
end

