-- ==== Sys2Proof/Machine/VecRed.lean ====
section
/-! DEFINITION. Reductions, searches, scans, normalisation, softmax, transforms and the digest check (R174-R192). -/

namespace Sys2Proof.Machine

/-! ### Groups (R176-R178) -/

/-- A group: its positions in axis order, and its result position. -/
abbrev VGroup := List Nat × Nat

/-- The fields of a segment word (R177). -/
def segSlot (w : W32) : Nat := (w.extractLsb' 30 2).toNat
def segCol0 (w : W32) : Nat := (w.extractLsb' 15 15).toNat
def segRow0 (w : W32) : Nat := (w.extractLsb' 0 15).toNat

/-- The groups of direction .sr: one per column and covered sequence (R178). -/
def groupsSr (bnd : List Nat) (total rows cols row0 : Nat) : List VGroup :=
  let own := (List.range rows).map fun r => (r, seqOf bnd total (row0 + r))
  match seqOf bnd total row0, seqOf bnd total (min (row0 + rows) total - 1) with
  | some qa, some qb =>
    (List.range (min (qb - qa + 1) rows)).flatMap fun j =>
      let members := (own.filter fun o => o.2 == some (qa + j)).map (·.1)
      (List.range cols).map fun c => (members.map fun r => r * cols + c, j * cols + c)
  | _, _ => []

/-- The groups of direction .sk: the columns of a row's own sequence, up to the row when causal. -/
def groupsSk (bnd : List Nat) (total rows cols row0 col0 : Nat) (causal : Bool) : List VGroup :=
  let own := (List.range cols).map fun c => (c, seqOf bnd total (col0 + c))
  (List.range rows).map fun r =>
    let q := seqOf bnd total (row0 + r)
    ((own.filter fun o => q.isSome && o.2 == q && (!causal || decide (col0 + o.1 ≤ row0 + r))).map fun o => r * cols + o.1,
      r * cols)

/-- The groups of an instruction, or RAGGED_TABLE where the segment word's record cannot place a row (R391). -/
def VX.groups (x : VX) (g : Dir) (seg : W32) : VRes (List VGroup) :=
  let rows := x.rows
  let cols := x.cols
  match g with
  | .row => .ok ((List.range rows).map fun r => ((List.range cols).map fun c => r * cols + c, r * cols))
  | .col => .ok ((List.range cols).map fun c => ((List.range rows).map fun r => r * cols + c, c))
  | .sr => do
    let r ← x.record (segSlot seg)
    demand ((List.range rows).all fun i => r.placeable (segRow0 seg + i)) .raggedTable 0
    return groupsSr r.bnd r.rows rows cols (segRow0 seg)
  | .sk => do
    let r ← x.record (segSlot seg)
    demand (((List.range rows).all fun i => r.placeable (segRow0 seg + i)) &&
      (List.range cols).all fun i => r.placeable (segCol0 seg + i)) .raggedTable 0
    return groupsSk r.bnd r.rows rows cols (segRow0 seg) (segCol0 seg) r.causal

/-- L, two cycles more in the segmented directions (Table 05-6). -/
def segLat (g : Dir) (lat : Nat) : Nat := if g.segmented then lat + 2 else lat
def segReads (g : Dir) (b : ESrc) : List VRead := if g.segmented then rdScal b else []

/-! ### The operations of reductions and scans (R180) -/

inductive RedOp where
  | add | max | min
  deriving DecidableEq, Repr

/-- Op on codes. -/
def redFn (op : RedOp) (ty : Ty) (a b : Nat) : Nat :=
  let w := ty.bits
  if ty.isInt then
    match op with
    | .add => (a + b) % 2 ^ w
    | .max => if intOf false w a < intOf false w b then b else a
    | .min => if intOf false w b < intOf false w a then b else a
  else
    match op with
    | .add => fOp2 ty .rne 0 (fAdd .rne) a b
    | .max => fOp2 ty .rne 0 fMax a b
    | .min => fOp2 ty .rne 0 fMin a b

/-- The identity for no participant. -/
def redIdent (op : RedOp) (ty : Ty) : Nat :=
  let w := ty.bits
  match op with
  | .add => 0
  | .max => if ty.isInt then 2 ^ (w - 1) else (ffOf ty).encode .rne 0 (.inf true)
  | .min => if ty.isInt then 2 ^ (w - 1) - 1 else (ffOf ty).encode .rne 0 (.inf false)

/-- VRED: the result position is written where vm0 is 1, whatever MSEL selects (R179). -/
def redRun (op : RedOp) (d a : Reg) (b : ESrc) (m : Fin 8) (ty : Ty) (g : Dir) (s : State) :
    Host.Outcome State Fault Refusal :=
  vecRun (eWords [b]) s fun x => do
    let n ← x.need ty
    let gs ← x.groups g (x.scal b)
    let xa := x.src (.reg a) (8 * n) n
    let on := x.eff m n
    let vm0 := x.eff 0 n
    return {
      n := x.cyc n
      reads := x.rdReg a (8 * n) n ++ x.rdMask m n ++ segReads g b
      writes := x.wholeWrites (.v d) (8 * n) n (segLat g 8) ((gs.filter fun q => vm0.testBit q.2).map fun q =>
        (q.2, tree (redFn op ty) (redIdent op ty) ((q.1.filter fun p => on.testBit p).map xa))) }

def execVredAdd (d a : Reg) (b : ESrc) (m : Fin 8) (ty : Ty) (g : Dir) (s : State) : Host.Outcome State Fault Refusal :=
  redRun .add d a b m ty g s
def execVredMax (d a : Reg) (b : ESrc) (m : Fin 8) (ty : Ty) (g : Dir) (s : State) : Host.Outcome State Fault Refusal :=
  redRun .max d a b m ty g s
def execVredMin (d a : Reg) (b : ESrc) (m : Fin 8) (ty : Ty) (g : Dir) (s : State) : Host.Outcome State Fault Refusal :=
  redRun .min d a b m ty g s

/-! ### VRIDX (R181) -/

/-- x comes before y in the search: strictly greater for .max, strictly less for .min, with -0 below +0. -/
def idxBetter (isMax : Bool) (ty : Ty) (x y : Nat) : Bool :=
  if ty.isInt then
    if isMax then decide (intOf false 32 y < intOf false 32 x) else decide (intOf false 32 x < intOf false 32 y)
  else if isMax then (ff32.decode y).ltz (ff32.decode x) else (ff32.decode x).ltz (ff32.decode y)

/-- The participant chosen and its value: the first NaN, quieted, or the first of the best. -/
def idxPick (isMax : Bool) (ty : Ty) (l : List (Nat × Nat)) : Option (Nat × Nat) :=
  match (if ty.isInt then none else l.find? fun q => (ff32.decode q.2).isNan) with
  | some q => some (q.1, ff32.encode .rne 0 (ff32.decode q.2).quiet)
  | none => l.foldl (fun b q => match b with
    | none => some q
    | some c => if idxBetter isMax ty q.2 c.2 then some q else some c) none

/-- The index a position counts as. -/
def idxOf (cols : Nat) (g : Dir) (seg : W32) (p : Nat) : Nat :=
  match g with
  | .row => p % cols
  | .col => p / cols
  | .sr => segRow0 seg + p / cols
  | .sk => segCol0 seg + p % cols

def idxRun (isMax : Bool) (d a : Reg) (b : ESrc) (m : Fin 8) (ty : Ty) (g : Dir) (s : State) :
    Host.Outcome State Fault Refusal :=
  vecRun (eWords [b]) s fun x => do
    let n ← x.need ty
    demand (n == 4) .formatInvalid 0
    let seg := x.scal b
    let gs ← x.groups g seg
    let xa := x.src (.reg a) 32 4
    let on := x.eff m 4
    let vm0 := x.eff 0 4
    let found := (gs.filter fun q => vm0.testBit q.2).map fun q =>
      (q.2, idxPick isMax ty ((q.1.filter fun p => on.testBit p).map fun p => (p, xa p)))
    let ident := redIdent (if isMax then .max else .min) ty
    return {
      n := x.cyc 4
      reads := x.rdReg a 32 4 ++ x.rdMask m 4 ++ segReads g b
      writes :=
        x.wholeWrites (.v d) 32 4 (segLat g 8) (found.map fun q => (q.1, match q.2 with
          | some r => idxOf x.cols g seg r.1
          | none => 0xFFFFFFFF)) ++
        x.wholeWrites (.v (d + 1)) 32 4 (segLat g 8) (found.map fun q => (q.1, match q.2 with
          | some r => r.2
          | none => ident)) }

def execVridxMax (d a : Reg) (b : ESrc) (m : Fin 8) (ty : Ty) (g : Dir) (s : State) : Host.Outcome State Fault Refusal :=
  idxRun true d a b m ty g s
def execVridxMin (d a : Reg) (b : ESrc) (m : Fin 8) (ty : Ty) (g : Dir) (s : State) : Host.Outcome State Fault Refusal :=
  idxRun false d a b m ty g s

/-! ### Rewriting the members of groups: scans, normalisation, softmax (R182-R186) -/

/-- An instruction that writes, for the participants of each group with at least one, the codes that f gives from
theirs; extra adds writes of a group from its members and result position. -/
def groupRun (lat : Nat) (d a : Reg) (b : ESrc) (m : Fin 8) (ty : Ty) (g : Dir) (e7 : Bool)
    (f : W32 → List Nat → List Nat) (extra : VX → VGroup → List (Nat × Nat)) (s : State) :
    Host.Outcome State Fault Refusal :=
  vecRun (eWords [b]) s fun x => do
    let n ← x.need ty
    let gs ← x.groups g (x.scal b)
    let xa := x.src (.reg a) (8 * n) n
    let on := x.eff m n
    let k := x.v.eAt 7 x.s
    return {
      n := x.cyc n
      reads := x.rdReg a (8 * n) n ++ x.rdMask m n ++ segReads g b ++ (if e7 then rdScal (.reg 7) else [])
      writes := x.wholeWrites (.v d) (8 * n) n (segLat g lat) (gs.flatMap fun q =>
        let ps := q.1.filter fun p => on.testBit p
        ps.zip (f k (ps.map xa)) ++ (extra x q).filter fun r => on.testBit r.1) }

def noExtra : VX → VGroup → List (Nat × Nat) := fun _ _ => []

/-- Participant i receives Tree(x_0 .. x_i) (R86). -/
def scanList (op : RedOp) (ty : Ty) (l : List Nat) : List Nat :=
  (List.range l.length).map fun i => tree (redFn op ty) 0 (l.take (i + 1))

def execVscanAdd (d a : Reg) (b : ESrc) (m : Fin 8) (ty : Ty) (g : Dir) (s : State) : Host.Outcome State Fault Refusal :=
  groupRun 10 d a b m ty g false (fun _ => scanList .add ty) noExtra s
def execVscanMax (d a : Reg) (b : ESrc) (m : Fin 8) (ty : Ty) (g : Dir) (s : State) : Host.Outcome State Fault Refusal :=
  groupRun 10 d a b m ty g false (fun _ => scanList .max ty) noExtra s
def execVscanMin (d a : Reg) (b : ESrc) (m : Fin 8) (ty : Ty) (g : Dir) (s : State) : Host.Outcome State Fault Refusal :=
  groupRun 10 d a b m ty g false (fun _ => scanList .min ty) noExtra s

/-! FP32 steps on codes: each rounds once, to nearest even (R183). -/
def add32 (a b : Nat) : Nat := fOp2 .f32 .rne 0 (fAdd .rne) a b
def sub32 (a b : Nat) : Nat := fOp2 .f32 .rne 0 (fSub .rne) a b
def mul32 (a b : Nat) : Nat := fOp2 .f32 .rne 0 fMul a b
def max32 (a b : Nat) : Nat := fOp2 .f32 .rne 0 fMax a b
/-- A value divided by a count. -/
def div32 (a n : Nat) : Nat :=
  match ff32.decode a with
  | .fin neg m e => ff32.round .rne neg 0 m n e
  | v => ff32.encode .rne 0 v.quiet

/-- A code of a floating type as FP32, and an FP32 result in the type. -/
def widen (ty : Ty) (c : Nat) : Nat := if ty = .f32 then c else ff32.encode .rne 0 ((ffOf ty).decode c)
def narrow (ty : Ty) (c : Nat) : Nat := if ty = .f32 then c else (ffOf ty).encode .rne 0 (ff32.decode c)

/-- VNORM on one group (R184). -/
def normList (ms : Bool) (ty : Ty) (eps : W32) (l : List Nat) : List Nat :=
  let x := l.map (widen ty)
  let mean := div32 (tree add32 0 x) l.length
  let dev := if ms then x.map fun v => sub32 v mean else x
  let var := div32 (tree add32 0 (dev.map fun v => mul32 v v)) l.length
  let scale := special .f32 spRsq (add32 var eps.toNat)
  dev.map fun v => narrow ty (mul32 v scale)

def execVnormMs (d a : Reg) (b : ESrc) (m : Fin 8) (ty : Ty) (g : Dir) (s : State) : Host.Outcome State Fault Refusal :=
  groupRun 24 d a b m ty g true (normList true ty) noExtra s
def execVnormRms (d a : Reg) (b : ESrc) (m : Fin 8) (ty : Ty) (g : Dir) (s : State) : Host.Outcome State Fault Refusal :=
  groupRun 24 d a b m ty g true (normList false ty) noExtra s

/-- VSMAX on one group (R185). -/
def smaxList (ty : Ty) (k : W32) (l : List Nat) : List Nat :=
  let x := l.map (widen ty)
  let mx := tree max32 0 x
  if mx = 0xFF800000 then l.map fun _ => 0
  else
    let u := x.map fun v => special .f32 spExp2 (mul32 (sub32 v mx) k.toNat)
    let r := special .f32 spRcp (tree add32 0 u)
    u.map fun v => narrow ty (mul32 v r)

/-- In direction .sk the enabled positions of the row outside its group are written +0 (R186). -/
def smaxExtra (g : Dir) (x : VX) (q : VGroup) : List (Nat × Nat) :=
  if g = .sk then
    (((List.range x.cols).map fun c => q.2 + c).filter fun p => !q.1.contains p).map fun p => (p, 0)
  else []

def execVsmax (d a : Reg) (b : ESrc) (m : Fin 8) (ty : Ty) (g : Dir) (s : State) : Host.Outcome State Fault Refusal :=
  groupRun 28 d a b m ty g true (smaxList ty) (smaxExtra g) s

/-! ### Transforms (R187-R190) -/

/-- An instruction that writes, at each enabled position, a code taken from the whole of vA. -/
def VX.movesWhole (x : VX) (d a : Reg) (n lat : Nat) (m : Fin 8) (reads : List VRead) (f : (Nat → Nat) → Nat → Nat) :
    VEff :=
  let xa := x.src (.reg a) (8 * n) n
  { n := x.cyc n
    reads := x.rdReg a (8 * n) n ++ x.rdMask m n ++ reads
    writes := x.wholeWrites (.v d) (8 * n) n lat ((x.enabled m n).map fun p => (p, f xa p)) }

/-- The parity of the set bits of i and j. -/
def hadNeg (i j : Nat) : Bool := ((List.range 7).countP fun b => i.testBit b && j.testBit b) % 2 == 1

/-- One output of the Hadamard transform of a block (R187): the NaN first in order, then the rules of R81, the exact
sum scaled and rounded once. -/
def hadOut (f : FF) (scale : Int) (i : Nat) (x : List FVal) : Nat :=
  match firstNan x with
  | some v => f.encode .rne 0 v
  | none =>
    let terms := (x.zip (List.range x.length)).map fun q => if hadNeg i q.2 then q.1.negate else q.1
    match terms with
    | [] => 0
    | t :: ts =>
      let sum := ts.foldl (fun acc v => if acc.isNan then acc else acc.add .rne v) t
      f.encode .rne 0 (sum.scale scale)

def execVhad (d a : Reg) (m : Fin 8) (ty : Ty) (nrm : Bool) (k : Fin 8) (s : State) : Host.Outcome State Fault Refusal :=
  vecRun 1 s fun x => do
    let n ← x.need ty
    let blk := 2 ^ k.val
    demand (x.cols % blk == 0) .vshapeInvalid 0
    return x.movesWhole d a n 6 m [] fun xa p =>
      let base := p / blk * blk
      hadOut (ffOf ty) (if nrm then -((k.val / 2 : Nat) : Int) else 0) (p % blk)
        ((List.range blk).map fun j => (ffOf ty).decode (xa (base + j)))

/-- The index elements of VPERM, read at the first issue cycle: one per column, or one per row. -/
def idxReads (b : VSrc) (count : Nat) : List VRead :=
  match b with
  | .reg r => [⟨.v r, eltBits 16 0 count, 16, 0⟩]
  | .lit _ => []

def execVperm (d a : Reg) (b : VSrc) (m : Fin 8) (ty : Ty) (s : State) : Host.Outcome State Fault Refusal :=
  vecRun (vWords [b]) s fun x => do
    let n ← x.need ty
    let idx := x.src b 16 0
    return x.movesWhole d a n 4 m (idxReads b x.cols) fun xa p =>
      xa (p / x.cols * x.cols + idx (p % x.cols) % x.cols)

def execVpermRows (d a : Reg) (b : VSrc) (m : Fin 8) (ty : Ty) (s : State) : Host.Outcome State Fault Refusal :=
  vecRun (vWords [b]) s fun x => do
    let n ← x.need ty
    let idx := x.src b 16 0
    return x.movesWhole d a n 4 m (idxReads b x.rows) fun xa p =>
      xa (idx (p / x.cols) % x.rows * x.cols + p % x.cols)

def execVxpose (d a : Reg) (m : Fin 8) (ty : Ty) (s : State) : Host.Outcome State Fault Refusal :=
  vecRun 1 s fun x => do
    let n ← x.need ty
    demand (x.rows == x.cols) .vshapeInvalid 0
    return x.movesWhole d a n 4 m [] fun xa p => xa (p % x.cols * x.cols + p / x.cols)

/-- VSLIDE: from x and an amount, the source position of p, or none for zero bits. -/
def slideRun (d a : Reg) (b : ESrc) (m : Fin 8) (ty : Ty) (f : VX → Int → Nat → Option Nat) (s : State) :
    Host.Outcome State Fault Refusal :=
  vecRun (eWords [b]) s fun x => do
    let n ← x.need ty
    let k := (x.scal b).toInt
    return x.movesWhole d a n 3 m (rdScal b) fun xa p =>
      match f x k p with
      | some q => xa q
      | none => 0

/-- i when 0 ≤ i < n. -/
def within (i : Int) (n : Nat) : Option Nat := if 0 ≤ i ∧ i < n then some i.toNat else none

def execVslide (d a : Reg) (b : ESrc) (m : Fin 8) (ty : Ty) (s : State) : Host.Outcome State Fault Refusal :=
  slideRun d a b m ty (fun x k p => (within ((p % x.cols : Nat) - k) x.cols).map fun c => p / x.cols * x.cols + c) s
def execVslideRot (d a : Reg) (b : ESrc) (m : Fin 8) (ty : Ty) (s : State) : Host.Outcome State Fault Refusal :=
  slideRun d a b m ty (fun x k p => some (p / x.cols * x.cols + (((p % x.cols : Nat) - k) % (x.cols : Int)).toNat)) s
def execVslideFlat (d a : Reg) (b : ESrc) (m : Fin 8) (ty : Ty) (s : State) : Host.Outcome State Fault Refusal :=
  slideRun d a b m ty (fun x k p => within ((p : Int) - k) x.count) s

/-! ### The digest check (R191, R192) -/

/-- One bit, and one byte, of CRC-32C in reflected form. -/
def crcBit (c : W32) : W32 := if c.getLsbD 0 then (c >>> 1) ^^^ 0x82F63B78 else c >>> 1
def crcByte (c : W32) (b : Nat) : W32 :=
  crcBit (crcBit (crcBit (crcBit (crcBit (crcBit (crcBit (crcBit (c ^^^ BitVec.ofNat 32 b))))))))
def crc32c (l : List Nat) : W32 := l.foldl crcByte 0xFFFFFFFF ^^^ 0xFFFFFFFF

/-- The digest of the first E × (element bytes of EW) bytes of a register, as the instruction reads it. -/
def VX.digest (x : VX) (a : Reg) : W32 :=
  let n := ewBytes x.ew
  let v := x.reg a (8 * n) n
  crc32c ((List.range (x.count * n)).map fun i => (v >>> (8 * i)) % 256)

/-- VCHK: the register is read over n cycles, and the mismatch is found in the cycle after them (R192). -/
def execVchk (a : Reg) (b : ESrc) (s : State) : Host.Outcome State Fault Refusal :=
  vecRun (eWords [b]) s fun x =>
    let n := ewBytes x.ew
    .ok {
      n := x.cyc n + 1
      reads := x.rdReg a (8 * n) n ++ rdScal b
      writes := []
      late := if x.digest a = x.scal b then none else some (.testbarMismatch, (x.digest a).setWidth 64, x.cyc n) }

def execVchkRd (d : Fin 8) (a : Reg) (s : State) : Host.Outcome State Fault Refusal :=
  vecRun 1 s fun x =>
    let n := ewBytes x.ew
    .ok {
      n := x.cyc n + 1
      reads := x.rdReg a (8 * n) n
      writes := x.scalWrite d (x.cyc n + 1) (x.digest a).toNat }

end Sys2Proof.Machine
end

