-- ==== Sys2Proof/Machine/Box.lean ====
section
/-! DEFINITION. Boxes of the copy engines: the descriptor (R233-R237), the acceptance checks (R238, R239, R249-R252),
acceptance of posts (R119, R120, R243), and when a box may start (R112, R243). -/

namespace Sys2Proof.Machine

/-! ### Descriptor fields (Tables 07-5, 07-6) -/

abbrev Desc := BitVec 1024

def bxSrc (b : Desc) : Word := b.extractLsb' 0 64
def bxDst (b : Desc) : Word := b.extractLsb' 64 64
def bxExt (b : Desc) (k : Nat) : Nat := (b.extractLsb' (128 + 96 * k) 32).toNat
def bxSstr (b : Desc) (k : Nat) : Int := (b.extractLsb' (160 + 96 * k) 32).toInt
def bxDstr (b : Desc) (k : Nat) : Int := (b.extractLsb' (192 + 96 * k) 32).toInt
def bxCredit (b : Desc) : Nat := (b.extractLsb' 608 32).toNat
def bxSem (b : Desc) : Word := b.extractLsb' 640 64
def bxAux0 (b : Desc) : Word := b.extractLsb' 704 64
def bxAux1 (b : Desc) : Word := b.extractLsb' 768 64
def bxCtl (b : Desc) : Word := b.extractLsb' 832 64
def bxKind (b : Desc) : Nat := (b.extractLsb' 832 4).toNat
def bxSelt (b : Desc) : Nat := (b.extractLsb' 836 4).toNat
def bxDelt (b : Desc) : Nat := (b.extractLsb' 840 4).toNat
def bxSspace (b : Desc) : Nat := (b.extractLsb' 844 3).toNat
def bxDspace (b : Desc) : Nat := (b.extractLsb' 848 3).toNat
def bxSemspace (b : Desc) : Nat := (b.extractLsb' 852 3).toNat
def bxNdim (b : Desc) : Nat := (b.extractLsb' 856 3).toNat
def bxRedop (b : Desc) : Nat := (b.extractLsb' 860 2).toNat
def bxClass (b : Desc) : Nat := (b.extractLsb' 864 4).toNat
def bxDead (b : Desc) : Nat := (b.extractLsb' 868 2).toNat
def bxPack (b : Desc) : Bool := b.getLsbD 875
def bxScope (b : Desc) : Nat := (b.extractLsb' 876 3).toNat
def bxSfmt (b : Desc) : Word := (b.extractLsb' 896 24).setWidth 64
def bxDfmt (b : Desc) : Word := (b.extractLsb' 920 24).setWidth 64
def bxScore (b : Desc) : Nat := (b.extractLsb' 944 8).toNat
def bxDcore (b : Desc) : Nat := (b.extractLsb' 952 8).toNat
def bxRow0 (b : Desc) : Nat := (b.extractLsb' 1001 15).toNat
def bxSemcore (b : Desc) : Nat := (b.extractLsb' 1016 8).toNat

/-- A reserved field is not zero. -/
def bxReserved (b : Desc) : Bool :=
  b.extractLsb' 879 17 != 0 || b.extractLsb' 870 5 != 0 || b.extractLsb' 862 2 != 0 || b.getLsbD 859 ||
    b.getLsbD 855 || b.getLsbD 851 || b.getLsbD 847 || b.extractLsb' 960 41 != 0

/-- Dimensions used. -/
def bxDims (b : Desc) : List Nat := List.range (bxNdim b)

/-- Elements of a box. -/
def bxCount (b : Desc) : Nat := ((bxDims b).map (bxExt b)).foldl (· * ·) 1

/-- Width in bits of an element type (Table 07-7). -/
def boxBits (code : Nat) (fmt : Word) : Nat :=
  match code with
  | 1 | 11 => 8
  | 2 | 9 | 10 | 12 => 16
  | 3 | 8 | 13 => 32
  | 4 | 14 => 64
  | _ => if (fmtOf fmt).kind = 1 then 4 else (fmtOf fmt).width

/-- Bytes of an element: narrow codes of more than 4 bits take one each (R54). -/
def eltBytes (w : Nat) : Nat := if w ≤ 8 then 1 else w / 8

def bxSw (b : Desc) : Nat := boxBits (bxSelt b) (bxSfmt b)
def bxDw (b : Desc) : Nat := boxBits (bxDelt b) (bxDfmt b)

/-! ### Affine addresses (R237, R246) -/

/-- Source strides; XPOSE exchanges the first two. -/
def bxSourceStride (b : Desc) (k : Nat) : Int :=
  if bxKind b = 4 ∧ k < 2 then bxSstr b (1 - k) else bxSstr b k

/-- A side of a box: its base, strides, width in bits, space and core; listed: its rows come from the index list. -/
structure Side where
  base : Word
  stride : Nat → Int
  width : Nat
  space : Nat
  core : Nat
  listed : Bool

def bxSource (b : Desc) : Side := ⟨bxSrc b, bxSourceStride b, bxSw b, bxSspace b, bxScore b, bxKind b == 2⟩

/-- A destination: base, space, core. -/
structure Dest where
  base : Word
  space : Nat
  core : Nat
  deriving DecidableEq, Repr

/-- The destinations of a box: its own, or the entries of its list (R250). -/
def destOf (e : Word × Word) : Dest := ⟨e.1, (e.2.extractLsb' 0 3).toNat, (e.2.extractLsb' 8 8).toNat⟩

def bxDests (b : Desc) (list : List (Word × Word)) : List Dest :=
  if bxKind b = 7 then list.map destOf else [⟨bxDst b, bxDspace b, bxDcore b⟩]

def bxDestSide (b : Desc) (d : Dest) : Side := ⟨d.base, bxDstr b, bxDw b, d.space, d.core, bxKind b == 3⟩

/-- What dimension k, at index i, adds to an address; a 4-bit side packs dimension 0. -/
def Side.term (x : Side) (k : Nat) (i : Int) : Int :=
  if k = 0 ∧ x.width = 4 then i / 2 else i * x.stride k

/-- Bounds of a space (Table 07-8). -/
def spaceLimit (space : Nat) : Option Nat :=
  match space with
  | 1 => some scratchSize
  | 2 | 3 => some 0x10000
  | 4 => some rstoreSize
  | _ => none

/-- Least and greatest byte of the elements of some dimensions, from the extremes of the affine addresses. -/
def Side.extremes (x : Side) (b : Desc) (base : Int) (dims : List Nat) : Int × Int :=
  let r := dims.foldl (fun (p : Int × Int) k =>
    let t := x.term k (bxExt b k - 1)
    (p.1 + min 0 t, p.2 + max 0 t)) (base, base)
  (r.1, r.2 + eltBytes x.width - 1)

def inSpace (space : Nat) (lo hi : Int) : Bool :=
  match spaceLimit space with
  | some n => decide (0 ≤ lo) && decide (hi < n)
  | none => true

/-- A side whose rows are affine lies in its space and is naturally aligned (R238, R326); the rows of a listed side are
looked at as they are read, the steps inside a row here. -/
def Side.ok (x : Side) (b : Desc) : Bool :=
  let n := eltBytes x.width
  let e := x.extremes b x.base.toNat (bxDims b)
  let steps (k : Nat) : Bool := n == 1 || decide (bxExt b k ≤ 1) || x.stride k % n == 0
  (spaceLimit x.space).isNone ||
    if x.listed then (bxDims b).all fun k => k == 1 || steps k
    else inSpace x.space e.1 e.2 && x.base.toNat % n == 0 && (bxDims b).all steps

/-- A structure of n bytes at an address of a space. -/
def structIn (space : Nat) (a : Word) (n : Nat) : Bool := inSpace space a.toNat (a.toNat + n - 1)

/-! ### Acceptance checks (Table 07-9) -/

/-- The route of a box: which spaces it may name. -/
inductive BoxRoute where
  | seq (n : Fin 16)
  | xfer (c : CoreId)
  | walker
  deriving DecidableEq, Repr

def BoxRoute.isSeq : BoxRoute → Bool
  | .seq _ => true
  | _ => false

def BoxRoute.seqn : BoxRoute → Option (Fin 16)
  | .seq n => some n
  | _ => none

def sourceSpaceOk (r : BoxRoute) (sp : Nat) : Bool := sp == 0 || sp == 1 || (r.isSeq && sp == 4)
def destSpaceOk (r : BoxRoute) (sp : Nat) : Bool := decide (sp < 4) || (r.isSeq && sp == 4)
def coreLocal (sp : Nat) : Bool := sp == 1 || sp == 2 || sp == 3

def eltReserved (c : Nat) : Bool := c == 6 || c == 7 || c == 15
def isNarrow (c : Nat) : Bool := c == 0 || c == 5

/-- The first BOX_INVALID row: fields. -/
def bxFieldsOk (r : BoxRoute) (b : Desc) : Bool :=
  let k := bxKind b
  let pack := bxPack b
  decide (1 ≤ k) && decide (k ≤ 9) && decide (1 ≤ bxNdim b) && decide (bxNdim b ≤ 5) && !bxReserved b &&
  ((List.range 5).all fun i => decide (i < bxNdim b) || (bxExt b i == 0 && bxSstr b i == 0 && bxDstr b i == 0)) &&
  !eltReserved (bxSelt b) && !eltReserved (bxDelt b) && bxSelt b != 5 && (bxDelt b != 5 || k == 5) &&
  decide (1 ≤ bxScope b) && decide (bxScope b ≤ 5) && decide (bxSemspace b ≤ 1) &&
  sourceSpaceOk r (bxSspace b) && destSpaceOk r (bxDspace b) &&
  (bxScore b == 0 || bxSspace b == 1) && (bxDcore b == 0 || coreLocal (bxDspace b)) &&
  (bxSemcore b == 0 || bxSemspace b == 1) &&
  (bxSfmt b == 0 || (isNarrow (bxSelt b) && k != 9)) && (bxDfmt b == 0 || isNarrow (bxDelt b)) &&
  (bxRedop b == 0 || k == 8) && bxRedop b != 3 && (!pack || k == 1 || k == 2) && (bxRow0 b == 0 || pack) &&
  (bxAux0 b == 0 || k == 2 || k == 3 || k == 6 || k == 7 || pack) &&
  (bxAux1 b == 0 || k == 6 || k == 7 || k == 9 || pack || bxDelt b == 5) &&
  (k != 7 || (bxDst b == 0 && bxDspace b == 0 && bxDcore b == 0)) &&
  (k != 6 || (bxDims b).all fun i => bxSstr b i == 0)

/-- FORMAT_INVALID: a format word in use breaks R56. -/
def bxFormatsOk (b : Desc) : Bool :=
  (bxSelt b != 0 || bxKind b == 9 || fmtOk (bxSfmt b)) && (!isNarrow (bxDelt b) || fmtOk (bxDfmt b))

def convSource (c : Nat) : Bool := c == 0 || (decide (8 ≤ c) && decide (c ≤ 14))

/-- The type combination of the kind (Table 07-10). -/
def bxTypesOk (b : Desc) : Bool :=
  let eq := bxSw b == bxDw b
  match bxKind b with
  | 4 => eq && decide (8 ≤ bxSw b)
  | 5 => convSource (bxSelt b) && (bxDelt b == 5 || convSource (bxDelt b))
  | 6 => bxSelt b == 1 && bxDw b == 8
  | 8 => bxSelt b == bxDelt b && (bxSelt b == 8 || bxSelt b == 9 || bxSelt b == 13)
  | 9 => bxSelt b == 0 && bxSspace b == 0 && bxSrc b == 0 && (bxDims b).all fun k => bxSstr b k == 0
  | _ => eq

/-- Scaled conversion (R247). -/
def bxScaledOk (b : Desc) : Bool :=
  bxDelt b != 5 || ((bxSelt b == 8 || bxSelt b == 9 || bxSelt b == 10) && (fmtOf (bxDfmt b)).kind == 0 &&
    bxExt b 0 % 128 == 0 && decide (bxNdim b ≤ 2) && (bxNdim b == 1 || decide (bxExt b 1 ≤ 128)))

/-- Runs of 4-bit elements (R237). -/
def bxPackedRuns (b : Desc) : Bool :=
  (bxKind b == 9 || bxSw b != 4 || (bxSourceStride b 0 == 1 && bxExt b 0 % 2 == 0)) &&
    (bxDw b != 4 || (bxDstr b 0 == 1 && bxExt b 0 % 2 == 0))

/-- A destination in IMEM or SEGSTORE (R252). -/
def bxOverlayOk (b : Desc) (d : Dest) : Bool :=
  (d.space != 2 && d.space != 3) || ((bxKind b == 1 || bxKind b == 7) && bxDelt b == 3 && d.base.toNat % 4 == 0 &&
    (bxDims b).all fun k => bxDstr b k % 4 == 0)

def listSpace (r : BoxRoute) : Nat := if r.isSeq then 4 else 1
def mcastCount (b : Desc) : Nat := (bxAux1 b).toNat % 128

/-- An entry of an MCAST list: bits that must be zero, its space, its core. -/
def mcastEntryOk (r : BoxRoute) (e : Word × Word) : Bool :=
  let d := destOf e
  e.2 &&& ~~~0xFF07 == 0 && destSpaceOk r d.space && (d.core == 0 || coreLocal d.space)

/-- The later BOX_INVALID row: types, ranges, structures. -/
def bxShapeOk (r : BoxRoute) (b : Desc) (dests : List (Word × Word)) : Bool :=
  let k := bxKind b
  let ds := bxDests b dests
  bxTypesOk b && bxScaledOk b && bxPackedRuns b &&
  (!(k == 2 || k == 3 || k == 4 || bxPack b) || decide (2 ≤ bxNdim b)) && (!bxPack b || decide (bxExt b 1 ≤ 128)) &&
  (k != 6 || ((bxAux0 b).toNat % 128 == 0 && (bxAux1 b).toNat / 2 ^ 32 == 0 && structIn (bxSspace b) (bxAux0 b) 128)) &&
  (k != 7 || ((bxAux1 b).toNat / 128 == 0 && decide (1 ≤ mcastCount b) && decide (mcastCount b ≤ 64) &&
    structIn (listSpace r) (bxAux0 b) (16 * mcastCount b) && dests.all (mcastEntryOk r))) &&
  ds.all (bxOverlayOk b) &&
  (!(k == 2 || k == 3) || structIn (bxSspace b) (bxAux0 b) (4 * bxExt b 1)) &&
  (!bxPack b || (bxDspace b != 2 && bxDspace b != 3 && structIn (bxDspace b) (bxAux1 b) 128 && structIn (bxDspace b) (bxAux0 b) 16)) &&
  (bxDelt b != 5 || structIn (bxDspace b) (bxAux1 b) (bxExt b 0)) &&
  (bxCount b == 0 || ((k == 9 || (if k = 6 then structIn (bxSspace b) (bxSrc b) (bxAux1 b).toNat else (bxSource b).ok b)) &&
    ds.all fun d => (bxDestSide b d).ok b))

/-- The cores a box names exist and belong to its function. -/
def State.bxCoresOk (s : State) (vf : Nat) (b : Desc) (dests : List (Word × Word)) : Bool :=
  let ok (c : Nat) : Bool := s.pkg.vfHas vf c && s.pkg.coreExists (coreOfNat c)
  (bxSspace b != 1 || ok (bxScore b)) && (bxSemspace b != 1 || ok (bxSemcore b)) &&
    (bxDests b dests).all fun d => !coreLocal d.space || ok d.core

/-- A source range that meets the destination range of a RED; equal entries of an MCAST list. -/
def bxOverlap (b : Desc) (dests : List (Word × Word)) : Bool :=
  let x := bxSource b
  let y := bxDestSide b ⟨bxDst b, bxDspace b, bxDcore b⟩
  let ex := x.extremes b x.base.toNat (bxDims b)
  let ey := y.extremes b y.base.toNat (bxDims b)
  (bxKind b == 8 && bxCount b != 0 && x.space == y.space && (x.space == 0 || x.space == 4 || x.core == y.core) &&
    decide (ex.1 ≤ ey.2) && decide (ey.1 ≤ ex.2)) || !decide dests.Nodup

/-- The bytes of a list in the runner store or a scratchpad; none: an uncorrectable word among them (R324, R412). -/
def State.localList (s : State) (d : DieId) (r : BoxRoute) (a n : Nat) : Option (List Byte) :=
  match r with
  | .seq q => let x := s.seqr d q; if storeHit x.storeBad a n then none else some (memBytes x.store a n)
  | .xfer c => if (s.core c).hardAt a n then none else some (memBytes (s.core c).scratch a n)
  | .walker => some []

def pairsOf : Nat → List Byte → List (Word × Word)
  | 0, _ => []
  | n + 1, l => (BitVec.ofNat 64 (leNat (l.take 8)), BitVec.ofNat 64 (leNat ((l.drop 8).take 8))) :: pairsOf n (l.drop 16)

/-- The acceptance checks of a box: its destination list, or the first cause. -/
def State.boxCheck (s : State) (d : DieId) (r : BoxRoute) (vf : Nat) (b : Desc) : Except Cause (List (Word × Word)) :=
  if !bxFieldsOk r b then .error .boxInvalid
  else if !bxFormatsOk b then .error .formatInvalid
  else if !bxShapeOk r b [] then .error .boxInvalid
  else
    let n := mcastCount b
    match (if bxKind b = 7 && bxCount b != 0 then s.localList d r (bxAux0 b).toNat (16 * n) else some []) with
    | none => .error .eccUncorrectable
    | some bs =>
      let dests := if bs.isEmpty then [] else pairsOf n bs
      if !bxShapeOk r b dests then .error .boxInvalid
      else if !s.bxCoresOk vf b dests then .error .vfIsolation
      else if bxOverlap b dests then .error .destOverlap
      else .ok dests

/-! ### Boxes of a die (R243) -/

def Runner.queued (r : Runner) : Nat := r.boxes.countP fun b => b.state == .queued

def Runner.box (r : Runner) (mid : W32) : Option Box := r.boxes.find? fun b => b.mid == mid
def State.modBox (s : State) (d : DieId) (mid : W32) (f : Box → Box) : State :=
  s.modRunner d fun r => { r with boxes := r.boxes.map fun b => if b.mid = mid then f b else b }

/-- A box as it is accepted. -/
def Box.fresh (mid : W32) (num : Nat) (b : Desc) (tag : Tag) (agent : Agent) (seqn : Option (Fin 16))
    (marks : List (BitVec 16 × Nat)) (dests : List (Word × Word)) : Box where
  mid := mid
  num := num
  desc := b
  tag := tag
  agent := agent
  seqn := seqn
  marks := marks
  dests := dests
  state := .queued
  part := .elements
  checked := false
  elem := 0
  lpos := 0
  bit := 0
  nbit := 0
  scaling := false
  idx := none
  outs := 0
  got := []
  rva := 0
  blk := []
  packRows := 0
  lens := []
  hdr := none
  seq := 0
  inst := none
  oldSeq := false
  exempt := false

/-- A box joins its die's queue under the next move identifier. -/
def State.addBox (s : State) (d : DieId) (mk : W32 → Box) : State :=
  (s.modRunner d fun r => { r with boxes := r.boxes ++ [mk s.pkg.moveid] }).modPkg fun p => { p with moveid := p.moveid + 1 }

/-! ### Places of bytes, for the order of R243 -/

/-- Where bytes lie: main memory of a package, the scratchpad, instruction memory or segment store of a core, the store
of a sequencer. -/
inductive Place where
  | mem (pkg : BitVec 12)
  | scratch (pkg : BitVec 12) (c : Nat)
  | imem (c : Nat)
  | seg (c : Nat)
  | rstore (n : Option (Fin 16))
  deriving DecidableEq, Repr

/-- The bytes from lo to hi of a space, as places; none where they cannot be told: not translated, or more than 256
pages. -/
def State.places (s : State) (d : DieId) (x : Box) (space core : Nat) (lo hi : Int) : Option (List (Place × Int × Int)) :=
  match space with
  | 0 =>
    if lo < 0 || decide (2 ^ 20 ≤ hi - lo) then none
    else
      let pages := (List.range ((hi.toNat / 4096) + 1 - lo.toNat / 4096)).map fun i => (lo.toNat / 4096 + i) * 4096
      pages.foldl (fun acc p =>
        match acc, s.lookup d x.tag.ctx p with
        | some l, .leaf e _ =>
          let t := e.target p
          let k := if t.scratch then Place.scratch t.pkg t.core.val else Place.mem t.pkg
          some ((k, (t.addr : Int) + (max lo p - p), (t.addr : Int) + (min hi (p + 4095) - p)) :: l)
        | _, _ => none) (some [])
  | 1 => some [(.scratch (s.pkg.pkgid.setWidth 12) core, lo, hi)]
  | 2 => some [(.imem core, lo, hi)]
  | 3 => some [(.seg core, lo, hi)]
  | _ => some [(.rstore x.seqn, lo, hi)]

def joinPlaces : List (Option (List (Place × Int × Int))) → Option (List (Place × Int × Int))
  | [] => some []
  | none :: _ => none
  | some l :: r => (joinPlaces r).map (l ++ ·)

/-- The places of a side: rows of a list may lie anywhere in a core-local space. -/
def State.sidePlaces (s : State) (d : DieId) (x : Box) (y : Side) : Option (List (Place × Int × Int)) :=
  if y.listed then
    match spaceLimit y.space with
    | some n => s.places d x y.space y.core 0 (n - 1)
    | none => none
  else
    let e := y.extremes x.desc y.base.toNat (bxDims x.desc)
    s.places d x y.space y.core e.1 e.2

/-- The bytes a box writes; a collective box with a header writes where the header says. -/
def State.boxWrites (s : State) (d : DieId) (x : Box) : Option (List (Place × Int × Int)) :=
  let b := x.desc
  if bxCount b = 0 then some []
  else if x.hdr.isSome then none
  else joinPlaces (((bxDests b x.dests).map fun y => s.sidePlaces d x (bxDestSide b y)) ++
    (if bxPack b then [s.places d x (bxDspace b) (bxDcore b) (bxAux0 b).toNat ((bxAux0 b).toNat + 15)] else []) ++
    (if bxDelt b = 5 then
      [s.places d x (bxDspace b) (bxDcore b) (bxAux1 b).toNat ((bxAux1 b).toNat + bxExt b 0 - 1)] else []))

/-- The bytes a box reads. -/
def State.boxReads (s : State) (d : DieId) (x : Box) : Option (List (Place × Int × Int)) :=
  let b := x.desc
  let at_ (a : Word) (n : Nat) : Option (List (Place × Int × Int)) :=
    s.places d x (bxSspace b) (bxScore b) a.toNat (a.toNat + n - 1)
  if bxCount b = 0 then some []
  else joinPlaces ((if bxKind b = 9 then [] else if bxKind b = 6 then [at_ (bxSrc b) (bxAux1 b).toNat, at_ (bxAux0 b) 128]
      else [s.sidePlaces d x (bxSource b)]) ++
    (if bxKind b = 2 ∨ bxKind b = 3 then [at_ (bxAux0 b) (4 * bxExt b 1)] else []) ++
    (if bxPack b then [s.places d x (bxDspace b) (bxDcore b) (bxAux1 b).toNat ((bxAux1 b).toNat + 127)] else []))

def placesMeet (l m : List (Place × Int × Int)) : Bool :=
  l.any fun x => m.any fun y => x.1 == y.1 && decide (x.2.1 ≤ y.2.2) && decide (y.2.1 ≤ x.2.2)

/-- A later box may read or write a byte that an earlier one has still to write. -/
def State.boxesMeet (s : State) (d : DieId) (x : Box) (e : DieId) (y : Box) : Bool :=
  !x.written && match s.boxWrites d x, s.boxWrites e y, s.boxReads e y with
    | some w, some w', some r' => placesMeet w w' || placesMeet w r'
    | _, _, _ => true

/-! ### When a box may start (R112, R243) -/

/-- The boxes of every die with the die, those of a die in order of acceptance. -/
def State.allBoxes (s : State) : List (DieId × Box) := allDies.flatMap fun d => (s.runner d).boxes.map fun b => (d, b)

/-- An agent whose boxes are in order: a sequencer program, or one core's XFERs. -/
def Agent.ordered : Agent → Bool
  | .prog _ _ | .core _ => true
  | .inst _ | .services => false

/-- An earlier box of the same agent: by its number. -/
def Box.before (x b : Box) : Bool := x.agent == b.agent && b.agent.ordered && decide (x.num < b.num)

/-- A marker of a FENCE ahead of a box holds it back: an earlier box of the core in the mask, or an earlier post of
one, is not complete. -/
def State.fenced (s : State) (b : Box) : Bool :=
  b.marks.any fun m => m.1.getLsbD (bxClass b.desc) &&
    ((s.allBoxes.any fun x => x.2.agent == b.agent && decide (x.2.num < m.2) && m.1.getLsbD (bxClass x.2.desc) &&
      !x.2.written) ||
    (match b.agent with
      | .core c => (s.core c).posts.any fun p => p.isBox && decide (p.num < m.2) && m.1.getLsbD (bxClass p.desc)
      | _ => false))

/-- An earlier post of the core not yet accepted may be a box of the class with bytes in common: it is waited for. -/
def State.earlierPost (s : State) (b : Box) : Bool :=
  match b.agent with
  | .core c => (s.core c).posts.any fun p => p.isBox && decide (p.num < b.num) && bxClass p.desc == bxClass b.desc
  | _ => false

def State.boxMayStart (s : State) (d : DieId) (b : Box) : Bool :=
  !s.fenced b && !s.earlierPost b &&
    !(s.allBoxes.any fun x => x.2.before b && bxClass x.2.desc == bxClass b.desc && s.boxesMeet x.1 x.2 d b)

/-! ### Acceptance of posts (R120, R222, R238, R404) -/

/-- The runner die that takes a core's posts of a side: the other side's when the side is down. -/
def State.postDie (s : State) (c : CoreId) (hi : Bool) : Option DieId :=
  let up (h : Bool) : Bool := s.pkg.sideUp (crownLink (dieOf c) (if h then 8 else 0))
  if up hi then some (sideDie c hi) else if up (!hi) then some (sideDie c (!hi)) else none

def Post.tag (p : Post) (c : CoreId) : Tag := ⟨p.ctx, p.vf, p.sup, some c⟩

def dropPost (num : Nat) (k : Core) : Core := { k with posts := k.posts.filter fun p => p.num != num }

/-- A refused XFER box: its cause is posted with STATE 1, and it has ended; a record that can be stored nowhere keeps
the post waiting. -/
def State.refusePost (s : State) (d : DieId) (c : CoreId) (p : Post) (cause : Cause) : State :=
  match s.postFault d ⟨0, p.ctx, 0, s.accessCode none, true, cause, 0, s.pkg.moveid, 0, 0, 0, BitVec.ofNat 16 c.val, d⟩ with
  | some (t, _) => (t.modPkg fun q => { q with moveid := q.moveid + 1 }).modCore c (dropPost p.num)
  | none => s

/-- A post is taken by a runner die. -/
def State.takePost (s : State) (d : DieId) (c : CoreId) (p : Post) : State :=
  let gone := s.modCore c (dropPost p.num)
  if s.pkg.draining p.ctx then gone
  else if p.isBox then
    if 256 ≤ (s.runner d).queued then s
    else if (s.ctxEntry p.ctx).isNone then gone.internalCheck d p.ctx
    else match s.boxCheck d (.xfer c) p.vf p.desc with
      | .error cause => s.refusePost d c p cause
      | .ok dests => gone.addBox d fun mid => Box.fresh mid p.num p.desc (p.tag c) (.core c) none p.marks dests
  else if 64 ≤ (s.runner d).startq.length then s
  else gone.modRunner d fun r =>
    { r with startq := r.startq ++ [⟨p.entry, p.arg, BitVec.ofNat 64 c.val, p.tag c, false, p.grain⟩] }

/-- A post of a core that no runner die can take: PEER_UNREACHABLE, the work ended (R404). -/
def State.losePost (s : State) (c : CoreId) (p : Post) : State :=
  if p.isBox then s.refusePost (dieOf c) c p .peerUnreachable
  else match s.postFault (dieOf c) ⟨0, p.ctx, 1, s.accessCode none, true, .peerUnreachable, p.entry, 0, 0, p.entry, 0,
      BitVec.ofNat 16 c.val, dieOf c⟩ with
    | some (t, _) => t.modCore c (dropPost p.num)
    | none => s

/-- POST_ACCEPT: the oldest post of a side; one of a core that neither side reaches is answered so. -/
def execPostAccept (c : CoreId) (hi : Bool) (s : State) : Host.Outcome State Fault Refusal :=
  .next <|
    match (s.core c).posts.find? fun p => p.hi == hi, s.postDie c hi with
    | some p, some d => s.takePost d c p
    | some p, none => s.losePost c p
    | none, _ => s

end Sys2Proof.Machine
end

