-- ==== Sys2Proof/Machine/Collect.lean ====
section
/-! DEFINITION. Collective records and instances (R260-R264, R375): the record's fields, the instances of a die's walker,
their states and history, and the dual-backed buffer header. -/

namespace Sys2Proof.Machine

abbrev Rec := BitVec 2048

def rcMyrank (b : Rec) : Nat := (b.extractLsb' 48 16).toNat
def rcRanks (b : Rec) : Nat := (b.extractLsb' 32 16).toNat
def rcSeq (b : Rec) : W32 := b.extractLsb' 0 32
def rcNlev (b : Rec) : Nat := (b.extractLsb' 64 3).toNat
def rcRanktab (b : Rec) : Word := b.extractLsb' 128 64
def rcDbuf (b : Rec) : Word := b.extractLsb' 192 64
def rcBound (b : Rec) (l : Nat) : Nat := (b.extractLsb' (256 + 128 * l) 32).toNat
def rcPcoef (b : Rec) (l : Nat) : Int := (b.extractLsb' (288 + 128 * l) 32).toInt
def rcSofs (b : Rec) (l : Nat) : Int := (b.extractLsb' (320 + 128 * l) 32).toInt
def rcDofs (b : Rec) (l : Nat) : Int := (b.extractLsb' (352 + 128 * l) 32).toInt
def rcTemplate (b : Rec) : Desc := b.extractLsb' 1024 1024

def rcLevels (b : Rec) : List Nat := List.range (rcNlev b)

/-- Iteration points. -/
def rcTotal (b : Rec) : Nat := ((rcLevels b).map (rcBound b)).foldl (· * ·) 1

/-- Index of level l at a point: level 0 is outermost. -/
def rcIndex (b : Rec) (point l : Nat) : Nat :=
  let inner := (((List.range (rcNlev b)).drop (l + 1)).map (rcBound b)).foldl (· * ·) 1
  point / inner % rcBound b l

def rcSum (b : Rec) (point : Nat) (f : Nat → Int) : Int := ((rcLevels b).map fun l => f l * rcIndex b point l).sum

/-- The peer of a point. -/
def rcPeer (b : Rec) (point : Nat) : Nat := (((rcMyrank b : Int) + rcSum b point (rcPcoef b)) % rcRanks b).toNat

/-- The rules of R260 on the record itself. -/
def rcOk (b : Rec) : Bool :=
  let t := rcTemplate b
  b.extractLsb' 67 61 == 0 && decide (1 ≤ rcNlev b) && decide (rcNlev b ≤ 6) && decide (1 ≤ rcRanks b) &&
  decide (rcMyrank b < rcRanks b) &&
  ((List.range 6).all fun l => decide (l < rcNlev b) ||
    (rcBound b l == 0 && rcPcoef b l == 0 && rcSofs b l == 0 && rcDofs b l == 0)) &&
  (bxKind t == 1 || bxKind t == 5 || bxKind t == 8) && bxDspace t == 0 && bxSemspace t == 0 &&
  decide (bxSspace t ≤ 1)

/-! ### Dual-backed buffer headers (R264) -/

structure Header where
  base0 : Word
  base1 : Word
  pseq : W32
  dual : Bool
  sel : Bool
  /-- a reserved bit is set -/
  dirty : Bool
  deriving DecidableEq, Repr

def headerOf (bs : List Byte) : Header :=
  let v := BitVec.ofNat 512 (leNat bs)
  { base0 := v.extractLsb' 0 64, base1 := v.extractLsb' 64 64, pseq := v.extractLsb' 160 32, dual := v.getLsbD 129,
    sel := v.getLsbD 128, dirty := v.extractLsb' 130 30 != 0 || v.extractLsb' 192 320 != 0 }

def Header.shadow (h : Header) : Word := if h.sel then h.base0 else h.base1
def Header.shown (h : Header) : Word := if h.sel then h.base1 else h.base0

/-- The word at offset 0x10. -/
def headWord (pseq : W32) (sel : Bool) : Nat := pseq.toNat * 2 ^ 32 + 2 + (if sel then 1 else 0)

/-- What a step at a header's home finds or does. -/
inductive HeadStep where
  | bad (c : Cause)
  /-- DUAL = 0 or a reserved bit set -/
  | unfit
  | at_ (h : Header)

/-- The header at a target of this package. -/
def State.header (s : State) (t : Target) : HeadStep :=
  match s.homeReadBad t 64 with
  | some c => .bad c
  | none =>
    let h := headerOf (s.homeBytes t 64)
    if !h.dual || h.dirty then .unfit else .at_ h

/-- The header word is written (R337). -/
def State.setHead (s : State) (t : Target) (pseq : W32) (sel : Bool) : State :=
  s.homeWrite { t with addr := t.addr + 0x10 } (leBytes 8 (headWord pseq sel))

/-! ### Instances of a die (R261, R262, R375) -/

def Runner.inst (r : Runner) (id : Nat) : Option Inst := r.insts.find? fun i => i.id == id
def Runner.instOf (r : Runner) (ctx : BitVec 16) (seq : W32) : Option Inst :=
  r.insts.find? fun i => i.tag.ctx == ctx && i.seq == seq

def State.modInst (s : State) (d : DieId) (id : Nat) (f : Inst → Inst) : State :=
  s.modRunner d fun r => { r with insts := r.insts.map fun i => if i.id = id then f i else i }

/-- The walker keeps the states of the last 64 instances, those it holds among them (R262). -/
def trimPast (r : Runner) : Runner := { r with past := r.past.take (64 - r.insts.length) }

/-- The state of an instance that the walker does not hold goes into its history. -/
def remember (p : InstPast) (r : Runner) : Runner :=
  trimPast { r with past := p :: r.past.filter fun x => !(x.ctx == p.ctx && x.seq == p.seq) }

/-- An instance leaves the walker in state 3 or 5. -/
def State.endInst (s : State) (d : DieId) (i : Inst) (state : Nat) : State :=
  (s.modRunner d fun r => { r with insts := r.insts.filter fun x => x.id != i.id }).modRunner d
    (remember ⟨i.tag.ctx, i.seq, state, i.emitted⟩)

/-- A running instance whose boxes have all been emitted and completed is complete. -/
def State.settleInst (s : State) (d : DieId) (id : Nat) : State :=
  match (s.runner d).inst id with
  | none => s
  | some i =>
    if i.state = 1 && decide (rcTotal i.bits ≤ i.point) && !(s.runner d).boxes.any fun b => b.inst == some id && !b.written then
      s.endInst d i 5
    else s

/-- SEQST's word (R262). -/
def Runner.instState (r : Runner) (ctx : BitVec 16) (seq : W32) : Word :=
  match r.instOf ctx seq with
  | some i => BitVec.ofNat 64 (i.state + 2 ^ 32 * (i.emitted % 2 ^ 32))
  | none =>
    match r.past.find? fun p => p.ctx == ctx && p.seq == seq with
    | some p => BitVec.ofNat 64 (p.state + 2 ^ 32 * (p.emitted % 2 ^ 32))
    | none => 0

/-! ### The end of a box -/

/-- A box is no more: complete with its credit, or dropped. -/
def State.removeBox (s : State) (d : DieId) (mid : W32) : State :=
  let inst := ((s.runner d).box mid).bind (·.inst)
  let s := s.modRunner d fun r => { r with boxes := r.boxes.filter fun b => b.mid != mid }
  match inst with
  | some id => s.settleInst d id
  | none => s

/-- Requests of a box to other packages: their answers concern nobody from now on. -/
def disownOut (mid : W32) (o : FarOut) : FarOut := if o.owner == .box mid then { o with owner := .nobody } else o

def disown (mid : W32) (r : Runner) : Runner :=
  if r.srcWins.any (fun w => w.out.any (fun o => o.owner == .box mid)) then
    { r with srcWins := r.srcWins.map fun w => { w with out := w.out.map (disownOut mid) } }
  else r

/-- The requests of a box at the homes are withdrawn. -/
def State.withdraw (s : State) (d : DieId) (mid : W32) : State :=
  let mine (r : HomeReq) : Bool := r.die == d && r.mid == mid
  { s with
    cores := s.cores.map fun k => if k.bankq.any mine then { k with bankq := k.bankq.filter fun r => !mine r } else k
    dies := (s.dies.map fun k => if k.hbmq.any mine then { k with hbmq := k.hbmq.filter fun r => !mine r } else k).set d.val
      (disown mid { s.runner d with hbmq := (s.runner d).hbmq.filter fun r => !mine r }) d.isLt }

end Sys2Proof.Machine
end

