-- ==== Sys2Proof/Machine/BoxRun.lean ====
section
/-! DEFINITION. How a copy engine runs a box: start checks (R238, R251, R253), elements (R241-R254, R261, R369), the
service of its requests at the homes (R205, R240, R249, R287, R363), completion and credit (R242), suspension (R241,
R355-R357). -/

namespace Sys2Proof.Machine

/-! ### Where the bytes of an access lie (R236) -/

inductive Spot where
  | home (t : Target)
  | far (t : Target)
  | imem (c : CoreId) (a : Nat)
  | seg (c : CoreId) (a : Nat)
  | rstore (n : Fin 16) (a : Nat)
  deriving DecidableEq, Repr

/-- Pieces of an access: where, how many bytes, at which virtual address. -/
abbrev Spots := List (Spot × Nat × Nat)

inductive Located where
  | at_ (s : State) (l : Spots)
  | bad (c : Cause) (va : Nat)
  | noCtx

/-- Pieces of at most 8 bytes. -/
def eights (va n : Nat) : List (Nat × Nat) :=
  (List.range ((n + 7) / 8)).map fun i => (va + 8 * i, min 8 (n - 8 * i))

/-- The pages of an access; a misaligned element is read byte by byte (R325). -/
def readSpans (acc : Access) (va n : Nat) : List (Nat × Nat) :=
  if acc = .read && (n == 2 || n == 4 || n == 8) && va % n != 0 then (List.range n).map fun i => (va + i, 1) else spans va n

/-- The pages of a virtual access, translated in order. -/
def locateVa (d : DieId) (tag : Tag) (acc : Access) : List (Nat × Nat) → State → Spots → Located
  | [], s, l => .at_ s l
  | (va, n) :: r, s, l =>
    match s.translate d tag va acc with
    | .noCtx => .noCtx
    | .bad c => .bad c va
    | .ok t s' =>
      if s'.isLocal t then
        if s'.reaches d t then locateVa d tag acc r s' (l ++ [(.home t, n, va)]) else .bad .peerUnreachable va
      else locateVa d tag acc r s' (l ++ (eights va n).map fun p =>
        (.far { t with addr := t.addr + (p.1 - va) }, p.2, p.1))

/-- n bytes at an address of a space, for a box. -/
def State.locate (s : State) (d : DieId) (x : Box) (space core : Nat) (a : Int) (n : Nat) (acc : Access) : Located :=
  let c := coreOfNat core
  match space with
  | 0 => locateVa d x.tag acc (readSpans acc (a % 2 ^ 64).toNat n) s []
  | 4 => .at_ s [(.rstore (x.seqn.getD 0) a.toNat, n, 0)]
  | _ =>
    if !s.pkg.canReach d (dieOf c) then .bad .peerUnreachable 0
    else match space with
      | 1 => .at_ s [(.home ⟨s.pkg.pkgid.setWidth 12, true, c, a.toNat⟩, n, 0)]
      | 2 => .at_ s [(.imem c a.toNat, n, 0)]
      | _ => .at_ s [(.seg c a.toNat, n, 0)]

/-! ### Suspension (R241, R355-R357) -/

/-- A box as it waits for RESUME: nothing of the element at hand stands anywhere. -/
def Box.suspendedAs (b : Box) (id : W32) : Box :=
  { b with
    state := .suspended id, outs := 0, got := [], blk := [], scaling := false
    part := match b.part with
      | .block _ => .elements
      | .credited => .credit
      | p => p }

/-- A box ends as after RESUME .drop. -/
def State.dropBox (s : State) (d : DieId) (mid : W32) : State := (s.withdraw d mid).removeBox d mid

/-- The SUB of a box's record. -/
def Box.sub (b : Box) : Word :=
  if bxKind b.desc = 6 then BitVec.ofNat 64 b.bit else if bxKind b.desc = 7 then BitVec.ofNat 64 b.lpos else 0

/-- A record of a box; its identifier. -/
def State.boxRecord (s : State) (d : DieId) (b : Box) (ended : Bool) (cause : Cause) (acc : Option Access) (va : Nat) :
    Option (State × W32) :=
  s.postFault d ⟨0, b.tag.ctx, 0, s.accessCode acc, ended, cause, BitVec.ofNat 64 va, b.mid,
    if b.inst.isSome then b.seq else 0, BitVec.ofNat 64 b.elem, b.sub, b.tag.origin, d⟩

/-- A box meets a cause at its element: a record, and it is suspended. None: no record can be stored. -/
def State.boxStop (s : State) (d : DieId) (b : Box) (cause : Cause) (acc : Option Access) (va : Nat) : Option State :=
  if (s.ctxEntry b.tag.ctx).isNone then some ((s.internalCheck d b.tag.ctx).dropBox d b.mid)
  else if 512 ≤ (s.runner d).suspended then none
  else (s.boxRecord d b false cause acc va).map fun x => (x.1.withdraw d b.mid).modBox d b.mid fun z => z.suspendedAs x.2

/-- The box stalls on its engine while no record can be stored (R355). -/
def State.boxFault (s : State) (d : DieId) (b : Box) (cause : Cause) (acc : Option Access) (va : Nat) : State :=
  (s.boxStop d b cause acc va).getD s

/-- A collective box whose header is no dual-backed one: PUBLISH_STATE is posted with STATE 1 and the box has ended
(Table 14-6, log 85). -/
def State.boxEnded (s : State) (d : DieId) (b : Box) (va : Nat) : Option State :=
  if (s.ctxEntry b.tag.ctx).isNone then some ((s.internalCheck d b.tag.ctx).dropBox d b.mid)
  else (s.boxRecord d b true .publishState (some .read) va).map fun x => x.1.dropBox d b.mid

def State.boxUnfit (s : State) (d : DieId) (b : Box) (va : Nat) : State := (s.boxEnded d b va).getD s

/-- The request concerned is not performed, and the box ends (R348). -/
def State.boxRefused (s : State) (d : DieId) (b : Box) : State := (s.internalCheck d b.tag.ctx).dropBox d b.mid

/-! ### Reading -/

inductive Fetched where
  | bytes (s : State) (l : List Byte)
  /-- another package has been asked, or a home cannot be asked yet -/
  | later (s : State)
  | bad (c : Cause) (va : Nat)
  | noCtx

/-- The deadline class of a box: class 3 of a user context runs as class 2. -/
def Box.dclass (b : Box) : Nat := if bxDead b.desc = 3 ∧ !b.tag.sup then 2 else bxDead b.desc

/-- The budget of a class, in controller cycles. -/
def budget (r : Word) (k : Nat) : Nat := (r.extractLsb' (16 * (k - 1)) 16).toNat

/-- A request joins the queue of its home; none: a bank's queue of 8 is full. -/
def State.enqueue (s : State) (d : DieId) (b : Box) (t : Target) (op : HomeOp) (bs : List Byte) : Option State :=
  let r : HomeReq := ⟨d, b.mid, b.tag, op, t.addr, bs, b.dclass, none, false⟩
  if t.scratch then
    if 8 ≤ ((s.core t.core).bankq.countP fun q => bankOf q.addr == bankOf t.addr) then none
    else some (s.modCore t.core fun k => { k with bankq := k.bankq ++ [r] })
  else
    let h := s.pkg.dieOfPa t.addr
    let dl := if r.dclass = 0 then none
      else some ((s.runner h).cycle + budget (s.pkg.dlbudget.toArray.getD (s.pkg.chanOf t.addr) 0) r.dclass)
    some (s.modRunner h fun k => { k with hbmq := k.hbmq ++ [{ r with deadline := dl }] })

/-- The bytes of the pieces, those already answered first. A piece of main memory is asked for at its controller's queue
(R363), one of another package through its window; a scratchpad is read once no earlier request stands at its banks
(R287), one piece at a time. In an indivisible step the pieces of this package are read together. -/
def fetchSpots (d : DieId) (x : Box) (whole : Bool) : Spots → List Byte → State → List Byte → Fetched
  | [], _, s, acc => .bytes s acc
  | (sp, n, va) :: r, got, s, acc =>
    if n ≤ got.length then fetchSpots d x whole r (got.drop n) s (acc ++ got.take n)
    else match sp with
      | .home t =>
        if t.scratch || whole then
          if !s.homeFree t n then .later s
          else match s.homeReadBad t n with
            | some c => .bad c va
            | none =>
              let s' := s.noteRead t n
              let acc' := acc ++ s.homeBytes t n
              if whole || r.isEmpty then fetchSpots d x whole r [] s' acc'
              else .later (s'.modBox d x.mid fun b => { b with got := acc' })
        else match s.enqueue d x t (.read n) [] with
          | some s' => .later (s'.modBox d x.mid fun b => { b with got := acc, rva := va, outs := 1 })
          | none => .later s
      | .far t =>
        match s.sendFar d t.pkg (.box x.mid) { farReq 0 x.tag t n 0 0 0 with dclass := x.dclass } with
        | .sent s' => .later (s'.modBox d x.mid fun b => { b with got := acc, rva := va, outs := 1 })
        | .full => .later s
        | .bad c => .bad c va
      | .rstore q a =>
        if storeHit (s.seqr d q).storeBad a n then .bad .eccUncorrectable va
        else fetchSpots d x whole r [] s (acc ++ memBytes (s.seqr d q).store a n)
      | .imem _ _ | .seg _ _ => fetchSpots d x whole r [] s acc

/-- A list of accesses: space, core, address, length. -/
abbrev Reads := List (Nat × Nat × Int × Nat)

def locateAll (d : DieId) (x : Box) (acc : Access) : Reads → State → Spots → Located
  | [], s, l => .at_ s l
  | (space, core, a, n) :: r, s, l =>
    match s.locate d x space core a n acc with
    | .at_ s' m => locateAll d x acc r s' (l ++ m)
    | .bad c va => .bad c va
    | .noCtx => .noCtx

def State.fetch (s : State) (d : DieId) (x : Box) (reads : Reads) : Fetched :=
  match locateAll d x .read reads s [] with
  | .at_ s' l => fetchSpots d x false l x.got s' []
  | .bad c va => .bad c va
  | .noCtx => .noCtx

/-- What follows a read of a box. -/
def State.fetchThen (s : State) (d : DieId) (x : Box) (reads : Reads) (k : State → List Byte → State) : State :=
  match s.fetch d x reads with
  | .bytes s' bs => k s' bs
  | .later s' => s'
  | .bad c va => s.boxFault d x c (some .read) va
  | .noCtx => s.boxRefused d x

/-! ### The next element (R241) -/

/-- Where a box stands when an element's writes, or another part's, have performed. -/
def Box.advanced (b : Box) : Box :=
  let b := { b with got := [] }
  match b.part with
  | .mask => { b with part := .credit }
  | .credit | .credited => b
  | _ =>
    if b.scaling then { b with scaling := false }
    else if bxKind b.desc = 7 ∧ b.lpos + 1 < b.dests.length then { b with lpos := b.lpos + 1 }
    else
      let e := b.elem + 1
      { b with
        elem := e, lpos := 0, bit := b.nbit, blk := if bxDelt b.desc = 5 ∧ e % 128 ≠ 0 then b.blk else []
        idx := if e % bxExt b.desc 0 = 0 then none else b.idx
        part := if bxCount b.desc ≤ e then (if bxPack b.desc then .mask else .credit)
          else if e % 128 = 0 then .elements else b.part }

/-- Index of dimension k of element e; dimension 0 is innermost. -/
def bxIndex (b : Desc) (e k : Nat) : Nat :=
  if k < bxNdim b then e / (((List.range k).map (bxExt b)).foldl (· * ·) 1) % bxExt b k else 0

/-- The index vector of an element, the list entry standing for dimension 1 of a listed side. -/
def Side.index (x : Side) (b : Desc) (e : Nat) (idx : Int) (k : Nat) : Int :=
  if k = 1 ∧ x.listed then idx else bxIndex b e k

/-- An element's byte address on a side. -/
def Side.addr (x : Side) (b : Desc) (e : Nat) (idx : Int) : Int :=
  (x.base.toNat : Int) + ((bxDims b).map fun k => x.term k (x.index b e idx k)).sum

/-- The virtual address of the access that a box's request under way makes, or 0. -/
def Box.accessVa (x : Box) (acc : Access) : Nat :=
  let b := x.desc
  let va (space : Nat) (a : Int) : Nat := if space = 0 then (a % 2 ^ 64).toNat else 0
  if x.part = .credited then (if bxSemspace b = 0 then (bxSem b).toNat else 0)
  else match acc, x.hdr with
    | .read, _ => if bxKind b = 9 then 0 else va (bxSspace b) ((bxSource b).addr b x.elem (x.idx.getD 0))
    | _, some h => h.toNat
    | _, none =>
      if x.part = .mask then va (bxDspace b) (bxAux0 b).toNat
      else if x.scaling then va (bxDspace b) (bxAux1 b).toNat
      else match (bxDests b x.dests)[x.lpos]? with
        | some y => va y.space ((bxDestSide b y).addr b x.elem (x.idx.getD 0))
        | none => 0

/-- One request of a box is answered; with the last of them its box goes on, or is complete after its credit. -/
def State.answered (s : State) (d : DieId) (mid : W32) : State :=
  match (s.runner d).box mid with
  | none => s
  | some b =>
    if 1 < b.outs then s.modBox d mid fun b => { b with outs := b.outs - 1 }
    else if b.part = .credited then s.removeBox d mid
    else s.modBox d mid fun b => { b with outs := 0 }.advanced

/-! ### Performing at a home (R205, R240, R249) -/

/-- A type of a box for the conversions: a narrow code is function 0 of its own format word. -/
def boxTy (code : Nat) : Ty := if isNarrow code then .fn 0 else (Ty.ofCode (BitVec.ofNat 4 code)).getD .i8

/-- An element's bits from one type to another, to nearest even, scaled by 2^k (R247). Above the largest finite value
of an IEEE format with SAT = 0 it becomes what ToNarrow gives, the infinity, also under a scale (R65, R66; log 80). -/
def convElt (st : Nat) (sfmt : Word) (dt : Nat) (dfmt : Word) (u : Bool) (k : Int) (v : Nat) : Nat :=
  encodeElt (fun _ => fmtOf dfmt) (boxTy dt) u k .rne 0 (decodeElt (fun _ => fmtOf sfmt) (boxTy st) false v)

/-- What a tagged write becomes at a bank (R205): the bits as they are, the value in the group's type with its width,
or a refusal. -/
inductive Banked where
  | same
  | conv (width value : Nat)
  | refused

def bankValue (c : Core) (a : Nat) (tag : BitVec 4) (fmt : Word) (v : Nat) : Banked :=
  let g := c.stem.gfmt.toArray.getD (a / 2 ^ 19 % 4) 0
  let gt := gfmtType g
  let gf := if gt < 8 then c.stem.fmt.toArray.getD gt 0 else 0
  let code := tag.toNat
  let equal := if isNarrow code then decide (gt < 8) && gf.extractLsb' 0 24 == fmt.extractLsb' 0 24 else code == gt
  if (1 ≤ code && code ≤ 4) || equal then .same
  else if gfmtScaled g then .refused
  else
    let dt := if gt < 8 then 0 else gt
    .conv (boxBits dt gf) (convElt code fmt dt gf (gfmtUsgn g) 0 v)

/-- A nibble of a byte replaced. -/
def putNibble (old : Nat) (hi : Bool) (v : Nat) : Nat :=
  if hi then old % 16 + 16 * (v % 16) else old / 16 * 16 + v % 16

/-- A plain write at a home. -/
def State.plainWrite (s : State) (t : Target) (bs : List Byte) : Except Cause State :=
  match s.homeWriteBad t bs.length with
  | some c => .error c
  | none => .ok (s.homeWrite t bs)

def State.nibbleWrite (s : State) (t : Target) (hi : Bool) (v : Nat) : Except Cause State :=
  match s.homeReadBad t 1 with
  | some c => .error c
  | none => s.plainWrite t (leBytes 1 (putNibble (leNat (s.homeBytes t 1)) hi v))

/-- A tagged write: a conversion is a read-modify-write of its words (R205, R324). Where the group's width differs from a
packed run's, the byte that takes the value is stated nowhere, and it takes a free value. -/
def State.taggedWrite (s : State) (t : Target) (tag : BitVec 4) (fmt : Word) (nib : Option Bool) (bs : List Byte) :
    Except Cause State :=
  let v := leNat bs
  let asIs : Except Cause State := match nib with
    | some hi => s.nibbleWrite t hi v
    | none => s.plainWrite t bs
  if !t.scratch then asIs
  else match bankValue (s.core t.core) t.addr tag fmt v with
    | .same => asIs
    | .refused => .error .formatInvalid
    | .conv w x =>
      let at_ : Target := { t with addr := t.addr / 4 * 4 }
      match s.homeReadBad at_ (t.addr % 4 + bs.length) with
      | some c => .error c
      | none =>
      let s := s.noteRead at_ (t.addr % 4 + bs.length)
      match nib with
      | some hi => if w = 4 then s.nibbleWrite t hi x else s.plainWrite t (leBytes 1 (s.free 4).toNat)
      | none => s.plainWrite t (if w = 4 then leBytes 1 (s.free 4).toNat else leBytes (eltBytes w) x)

/-- The operation of a REDOP code. -/
def redOpOf (op : Nat) : RedOp := if op = 0 then .add else if op = 1 then .max else .min

/-- A combine: v := Op(resident, arriving) in one step (R249, R87). -/
def State.combineAt (s : State) (t : Target) (op : Nat) (ty : Ty) (bs : List Byte) : Except Cause State :=
  match s.homeReadBad t bs.length with
  | some c => .error c
  | none => (s.noteRead t bs.length).plainWrite t (leBytes bs.length (redFn (redOpOf op) ty (leNat (s.homeBytes t bs.length)) (leNat bs)))

/-- A semaphore add (R242, R255): a sum of 2^32 or more leaves the count. -/
def State.semAddAt (s : State) (t : Target) (n : Nat) : Except Cause State :=
  match s.homeReadBad t 4 with
  | some c => .error c
  | none =>
    let v := leNat (s.homeBytes t 4) + n
    if 2 ^ 32 ≤ v then .error .semOverflow else (s.noteRead t 4).plainWrite t (leBytes 4 v)

/-- A request of a box performs at its home. -/
def State.perform (s : State) (t : Target) (op : HomeOp) (bs : List Byte) : Except Cause State :=
  match op with
  | .write tag fmt _ => s.taggedWrite t tag fmt none bs
  | .nibble tag fmt hi => s.taggedWrite t tag fmt (some hi) bs
  | .combine op ty => s.combineAt t op ty bs
  | .credit => s.semAddAt t (leNat bs)
  | .read _ => .ok s

/-- The access that a request makes. -/
def HomeOp.access : HomeOp → Access
  | .write .. | .nibble .. => .write
  | .combine .. | .credit => .combine
  | .read _ => .read

/-- A core's scratchpad as a record holds it. -/
def Core.onImage (k : Core) (m : Mem) : Core := { k with scratch := m, eccHard := [], eccSoft := [], eccFix := [] }

/-- A request of a context with a grain saved from the core acts on the scratchpad of its record (R345), and on the
core's own while that is still the context's. -/
def State.performSaved (s : State) (r : HomeReq) (t : Target) : Except Cause State :=
  match (if t.scratch then s.savedOf t.core r.tag.ctx else none) with
  | none => s.perform t r.op r.bytes
  | some (id, x) =>
    match (s.modCore t.core fun k => k.onImage x.image).perform t r.op r.bytes with
    | .error c => .error c
    | .ok u =>
      let m := (u.core t.core).scratch
      let y : Saved := { x with image := m, late := x.late ++ [(t.addr, memBytes m t.addr (min 8 (scratchSize - t.addr)))] }
      let s1 := s.modNest id fun n => { n with saved := n.saved.map fun z => if z.core = t.core then y else z }
      if (s.core t.core).lastCtx = some r.tag.ctx then s1.perform t r.op r.bytes else .ok s1

/-- A queued request of a box meets a cause: none while no record can be stored. -/
def State.blame (s : State) (r : HomeReq) (c : Cause) : Option State :=
  match (s.runner r.die).box r.mid with
  | some b => s.boxStop r.die b c (some r.op.access) (match r.op with
    | .read _ => b.rva
    | _ => b.accessVa r.op.access)
  | none => some s

/-- A request taken from a queue: one of a killed context is dropped (R358); a cause suspends its box. None: the cause
can be recorded nowhere yet, and the request stays where it stands (R355). -/
def State.serve (s : State) (r : HomeReq) (t : Target) : Option State :=
  if s.pkg.killed.contains r.tag.ctx then some (s.answered r.die r.mid)
  else match r.op with
    | .read n =>
      match s.homeReadBad t n with
      | some c => s.blame r c
      | none => some ((s.noteRead t n).modBox r.die r.mid fun b =>
          { b with got := b.got ++ s.homeBytes t n, outs := b.outs - 1 })
    | _ =>
      match s.performSaved r t with
      | .ok s' => some (s'.answered r.die r.mid)
      | .error c => s.blame r c

/-! ### The queues of the homes (R285, R287, R362, R363) -/

/-- The first request of a list at a bank, with every bank it needs clear of earlier ones. -/
def headAt (b : Nat) : List HomeReq → List HomeReq → Option HomeReq
  | _, [] => none
  | before, r :: rest =>
    let banks (q : HomeReq) : List Nat := banksOf q.addr q.bytes.length
    if bankOf r.addr = b then
      if before.any fun q => (banks q).any (banks r).contains then none else some r
    else headAt b (r :: before) rest

/-- BANK_SIDE_SERVICE: the oldest request at a bank is served (R287). -/
def execBankSideService (c : CoreId) (b : Fin 128) (s : State) : Host.Outcome State Fault Refusal :=
  .next <|
    match headAt b.val [] (s.core c).bankq with
    | none => s
    | some r => ((s.modCore c fun k => { k with bankq := k.bankq.erase r }).serve r
        ⟨s.pkg.pkgid.setWidth 12, true, c, r.addr⟩).getD s

/-- The stack, and so the controller, of a request. -/
def State.stackOf (s : State) (r : HomeReq) : Nat := s.pkg.chanOf r.addr / 32

def onLine (q r : HomeReq) : Bool := sameLine q.addr q.len r.addr r.len

/-- Urgent in a cycle: 64 cycles before the deadline, whether or not DEADLINE_URGENT has marked it. -/
def HomeReq.presses (r : HomeReq) (now : Nat) : Bool := r.urgent || r.deadline.any fun t => decide (t ≤ now + 64)

/-- Request i may be served next: no earlier one on its line, and no urgent one ahead of it that could be (R363). -/
def State.servable (s : State) (now : Nat) (l : List HomeReq) (i : Nat) : Bool :=
  match l[i]? with
  | none => false
  | some r =>
    let free (j : Nat) (q : HomeReq) : Bool := !(l.take j).any fun p => onLine p q
    free i r && (List.range l.length).all fun j => match l[j]? with
      | some q => j == i || !q.presses now || s.stackOf q != s.stackOf r || !free j q ||
          (r.presses now && decide (r.deadline.getD 0 ≤ q.deadline.getD 0))
      | none => true

/-- HBM_REQUEST: a controller serves a request of its queue; late service is logged with the channel and the class. -/
def execHbmRequest (d : DieId) (i : Nat) (s : State) : Host.Outcome State Fault Refusal :=
  .next <|
    let l := (s.runner d).hbmq
    match l[i]? with
    | none => s
    | some r =>
      if !s.servable (s.runner d).cycle l i then s
      else
        let s1 := s.modRunner d fun k => { k with hbmq := k.hbmq.eraseIdx i }
        let s2 := if r.deadline.any fun t => decide (t < (s.runner d).cycle) then
            s1.logCause d ⟨4, s.pkg.chanOf r.addr, d, false⟩ .deadlineMissed (BitVec.ofNat 64 r.dclass) r.tag.ctx
          else s1
        (s2.serve r ⟨s.pkg.pkgid.setWidth 12, false, 0, r.addr⟩).getD s

/-- DEADLINE_URGENT: 64 controller cycles before its deadline. -/
def execDeadlineUrgent (d : DieId) (i : Nat) (s : State) : Host.Outcome State Fault Refusal :=
  .next <|
    match (s.runner d).hbmq[i]? with
    | none => s
    | some r =>
      if r.deadline.any fun t => decide (t ≤ (s.runner d).cycle + 64) then
        s.modRunner d fun k => { k with hbmq := k.hbmq.set i { r with urgent := true } }
      else s

/-- ECC_WRITEBACK (R323): the corrected word is written, unless a write performed first. -/
def execEccWriteback (c : CoreId) (wd : Nat) (s : State) : Host.Outcome State Fault Refusal :=
  .next <|
    if (s.core c).eccFix.contains wd then
      s.modCore c fun k => { k with eccFix := k.eccFix.filter (· ≠ wd), eccSoft := k.eccSoft.filter (· ≠ wd) }
    else s

/-! ### Writing -/

/-- A write of a piece: the operation and its bytes. -/
abbrev Writes := List (HomeOp × Spot × List Byte)

/-- Words copied over code: fetch may still see the old ones until an IFENCE (R113, R252). -/
def Core.overlay (k : Core) (a : Nat) (bs : List Byte) : Core :=
  { k with
    imem := memPut k.imem a bs
    imemBad := wordsOutside k.imemBad a bs.length
    stem := { k.stem with stale := (a / 4 * 4, memW32 k.imem (a / 4 * 4)) :: k.stem.stale } }

/-- The pieces of a write that no other access may split: one for an aligned element, bytes otherwise (R325). -/
def atoms (t : Target) (n : Nat) : List (Nat × Nat) :=
  if t.addr % n = 0 ∨ n ≤ 1 then [(0, n)] else (List.range n).map fun i => (i, 1)

def splitWrite (w : HomeOp × Spot × List Byte) : Writes :=
  match w with
  | (.write tag fmt wd, .home t, bs) =>
    (atoms t bs.length).map fun p => (.write tag fmt wd, .home { t with addr := t.addr + p.1 }, (bs.drop p.1).take p.2)
  | w => [w]

/-- The request that carries a piece to another package. -/
def farWrite (x : Box) (t : Target) (op : HomeOp) (bs : List Byte) : FarReq :=
  let v := BitVec.ofNat 64 (leNat bs)
  let q := match op with
    | .write tag fmt _ => farReq 1 x.tag t bs.length tag.toNat v fmt
    | .nibble tag fmt hi => farReq 1 x.tag t 1 (tag.toNat + (if hi then 48 else 16)) v fmt
    | .combine o ty => farReq 2 x.tag t bs.length (o + 16 * ty.code.toNat) v 0
    | .credit => farReq 4 x.tag t 4 0 v 0
    | .read n => farReq 0 x.tag t n 0 0 0
  { q with dclass := x.dclass }

/-- The pieces set out in order: those that lie in a core's own stores or the runner store perform at once, and in an
indivisible step those of a home of this package too; the count is of the requests under way. -/
def sendWrites (d : DieId) (x : Box) (whole : Bool) : Writes → State → Nat → Except (Option Cause) (State × Nat)
  | [], s, n => .ok (s, n)
  | (op, sp, bs) :: r, s, n =>
    match sp with
    | .home t =>
      if whole then
        if !s.homeFree t bs.length then .error none
        else match s.perform t op bs with
          | .ok s' => sendWrites d x whole r s' n
          | .error c => .error (some c)
      else match s.enqueue d x t op bs with
        | some s' => sendWrites d x whole r s' (n + 1)
        | none => .error none
    | .far t =>
      match s.sendFar d t.pkg (.box x.mid) (farWrite x t op bs) with
      | .sent s' => sendWrites d x whole r s' (n + 1)
      | .full => .error none
      | .bad c => .error (some c)
    | .imem c a => sendWrites d x whole r (s.modCore c fun k => k.overlay a bs) n
    | .seg c a => sendWrites d x whole r (s.modCore c fun k =>
        { k with seg := memPut k.seg a bs, segBad := wordsOutside k.segBad a bs.length }) n
    | .rstore q a =>
      let old := memNat (s.seqr d q).store a bs.length
      let new := match op with
        | .nibble _ _ hi => leBytes 1 (putNibble old hi (leNat bs))
        | .combine o ty => leBytes bs.length (redFn (redOpOf o) ty old (leNat bs))
        | _ => bs
      if storePart (s.seqr d q).storeBad a bs.length then .error (some .eccUncorrectable)
      else sendWrites d x whole r (s.modSeq d q fun k => k.writeStore a new) n

/-- A cause that some piece would meet at its home, found before any piece is written. -/
def State.writesBad (s : State) : Writes → Option Cause
  | [] => none
  | (op, .home t, bs) :: r =>
    match s.perform t op bs with
    | .error c => some c
    | .ok _ => s.writesBad r
  | _ :: r => s.writesBad r

/-- The pieces of an access of several pages take their shares of the bytes in order. -/
def shares (op : HomeOp) : Spots → List Byte → Writes
  | [], _ => []
  | (sp, n, _) :: r, bs => (op, sp, bs.take n) :: shares op r (bs.drop n)

/-- A combine over several pieces is formed whole: its reads and writes at the homes of this package are this one step
(R286). -/
def State.combineWide (s : State) (d : DieId) (x : Box) (l : Spots) (op : Nat) (ty : Ty) (bs : List Byte) : State :=
  match fetchSpots d x true l x.got s [] with
  | .later s' => s'
  | .bad c va => s.boxFault d x c (some .combine) va
  | .noCtx => s.boxRefused d x
  | .bytes s' old =>
    let new := leBytes bs.length (redFn (redOpOf op) ty (leNat old) (leNat bs))
    let ws := shares (.write 1 0 0) l new
    match s'.writesBad ws with
    | some c => s.boxFault d x c (some .combine) 0
    | none =>
      match sendWrites d x true ws s' 0 with
      | .ok (t, n) => if n = 0 then t.modBox d x.mid Box.advanced else t.modBox d x.mid fun b => { b with outs := n }
      | .error (some c) => s.boxFault d x c (some .combine) 0
      | .error none => s

/-- The places of an access of another length. -/
def respan : Spots → Nat → Spots
  | [], _ => []
  | [(sp, _, va)], n => [(sp, n, va)]
  | (sp, k, va) :: r, n => (sp, min k n, va) :: respan r (n - k)

/-- A misaligned element that goes to a scratchpad is converted whole (R205), before its bytes part (R325). -/
def State.shaped (s : State) (op : HomeOp) (l : Spots) (bs : List Byte) : Except Cause (HomeOp × Spots × List Byte) :=
  match op, l with
  | .write tag fmt _, (.home t, _, _) :: rest =>
    if t.scratch && (t.addr % max 1 bs.length != 0 || !rest.isEmpty) then
      match bankValue (s.core t.core) t.addr tag fmt (leNat bs) with
      | .same => .ok (.write 1 0 8, l, bs)
      | .refused => .error .formatInvalid
      | .conv w v =>
        let new := if w = 4 then leBytes 1 (s.free 4).toNat else leBytes (eltBytes w) v
        .ok (.write 1 0 8, respan l new.length, new)
    else .ok (op, l, bs)
  | _, _ => .ok (op, l, bs)

/-- A write of a box to one destination: translated first, then set out whole. -/
def State.putAt (s : State) (d : DieId) (x : Box) (space core : Nat) (a : Int) (op : HomeOp) (bs : List Byte)
    (mark : Box → Box) : State :=
  match s.locate d x space core a bs.length op.access with
  | .noCtx => s.boxRefused d x
  | .bad c va => s.boxFault d x c (some op.access) va
  | .at_ s' l =>
    match op, l with
    | .combine o ty, _ :: _ :: _ => s'.combineWide d x l o ty bs
    | _, _ =>
      let va := ((l.head?).map (·.2.2)).getD 0
      match s'.shaped op l bs with
      | .error c => s.boxFault d x c (some op.access) va
      | .ok (op', l', bs') =>
      let ws := (shares op' l' bs').flatMap splitWrite
      match s'.writesBad ws with
      | some c => s.boxFault d x c (some op.access) va
      | none =>
        match sendWrites d x false ws s' 0 with
        | .error (some c) => s.boxFault d x c (some op.access) va
        | .error none => s
        | .ok (t, 0) => t.modBox d x.mid fun b => (mark b).advanced
        | .ok (t, n) => t.modBox d x.mid fun b => { mark b with outs := n }

/-! ### Elements (R237, R244-R254) -/

/-- The nibble of an element of a packed run. -/
def Side.nibble (x : Side) (b : Desc) (e : Nat) : Option Bool :=
  if x.width = 4 then some (bxIndex b e 0 % 2 == 1) else none

/-- The bits of an element from the bytes read at its address. -/
def Side.value (x : Side) (b : Desc) (e : Nat) (bs : List Byte) : Nat :=
  match x.nibble b e with
  | some hi => if hi then leNat bs / 16 % 16 else leNat bs % 16
  | none => leNat bs

/-- The row of a listed side lies in its space, aligned (R245, R326). -/
def Side.rowOk (x : Side) (b : Desc) (e : Nat) (idx : Int) : Bool :=
  let a := x.addr b (e - bxIndex b e 0) idx
  let ex := x.extremes b a [0]
  inSpace x.space ex.1 ex.2 && ((spaceLimit x.space).isNone || a % eltBytes x.width == 0)

/-- The sides of a box whose rows come from its list. -/
def Box.rowsOk (x : Box) (idx : Int) : Bool :=
  let b := x.desc
  (bxKind b != 2 || (bxSource b).rowOk b x.elem idx) &&
    (bxKind b != 3 || (bxDestSide b ⟨bxDst b, bxDspace b, bxDcore b⟩).rowOk b x.elem idx)

/-- The tag and width of a destination write (R240). -/
def boxOp (x : Box) (hi : Option Bool) : HomeOp :=
  let b := x.desc
  if bxKind b = 8 then .combine (bxRedop b) (boxTy (bxDelt b))
  else
    let tag := BitVec.ofNat 4 (bxDelt b)
    match hi with
    | some h => .nibble tag (bxDfmt b) h
    | none => .write tag (bxDfmt b) (bxDw b)

/-- A write of a collective box that its header's number drops: one older than the header is reported, once per box
(R369, R370). -/
def State.dropWrite (s : State) (d : DieId) (x : Box) (hdr : Word) (old : Bool) (acc : Access) (mark : Box → Box) : State :=
  let go (t : State) : State := t.modBox d x.mid fun b => (mark b).advanced
  if !old || x.oldSeq then go s
  else match s.boxRecord d x true .collectiveSeq (some acc) hdr.toNat with
    | some (t, _) => (go t).modBox d x.mid fun b => { b with oldSeq := true }
    | none => s

/-- What a collective box writes beside its elements, a scale byte or the validity mask, is checked against its header's
number too (R369). -/
def State.checkSeq (s : State) (d : DieId) (x : Box) (mark : Box → Box) (write : State → State) : State :=
  match x.hdr with
  | none => write s
  | some h =>
    s.fetchThen d x [(0, 0, (h.toNat : Int), 64)] fun s' bs =>
      let hd := headerOf bs
      let dist := (x.seq - hd.pseq).toNat
      if !hd.dual || hd.dirty then s.boxUnfit d x h.toNat
      else if dist = 0 ∨ 2 ^ 31 ≤ dist then s'.dropWrite d x h (2 ^ 31 ≤ dist) .write mark
      else write s'

/-- A write of a collective box with a header (R261, R369): at the header's home one step reads the header, drops the
write of a sealed, published or newer instance, or performs it in the shadow half. A header of another package is
asked through its window. -/
def State.putShadow (s : State) (d : DieId) (x : Box) (hdr : Word) (offset : Word) (op : HomeOp) (bs : List Byte) : State :=
  match s.translate d x.tag (hdr.toNat) .read with
  | .noCtx => s.boxRefused d x
  | .bad c => s.boxFault d x c (some .read) hdr.toNat
  | .ok t s1 =>
    if s1.isLocal t then
      match s1.header t with
      | .bad c => s.boxFault d x c (some .read) hdr.toNat
      | .unfit => s.boxUnfit d x hdr.toNat
      | .at_ h =>
        let dist := (x.seq - h.pseq).toNat
        if dist = 0 ∨ 2 ^ 31 ≤ dist then s1.dropWrite d x hdr (2 ^ 31 ≤ dist) op.access id
        else
          match s1.locate d x 0 0 ((h.shadow + offset).toNat) bs.length op.access with
          | .noCtx => s.boxRefused d x
          | .bad c va => s.boxFault d x c (some op.access) va
          | .at_ s2 l =>
            let homes := l.all fun p => match p.1 with
              | .home t => s2.homeFree t p.2.1
              | _ => true
            if !homes then s1
            else match op, l with
              | .combine o ty, _ :: _ :: _ => s2.combineWide d x l o ty bs
              | _, _ =>
                match s2.shaped op l bs with
                | .error c => s.boxFault d x c (some op.access) 0
                | .ok (op', l', bs') =>
                match sendWrites d x true (shares op' l' bs') s2 0 with
                | .error (some c) => s.boxFault d x c (some op.access) 0
                | .error none => s
                | .ok (s3, 0) => s3.modBox d x.mid Box.advanced
                | .ok (s3, n) => s3.modBox d x.mid fun b => { b with outs := n }
    else match s1.sendFar d t.pkg (.box x.mid) { farWrite x t op bs with hdr := some (x.seq, offset) } with
      | .sent s2 => s2.modBox d x.mid fun b => { b with outs := 1 }
      | .full => s
      | .bad c => s.boxFault d x c (some .read) hdr.toNat

/-- The element's value goes to its destination: the one at the list position, for a MCAST. -/
def State.putElem (s : State) (d : DieId) (x : Box) (v : Nat) (nbit : Nat) : State :=
  let b := x.desc
  match (bxDests b x.dests)[x.lpos]? with
  | none => s
  | some y =>
    let side := bxDestSide b y
    let hi := side.nibble b x.elem
    let bs := leBytes (eltBytes side.width) v
    match x.hdr with
    | some h => s.putShadow d x h (BitVec.ofInt 64 (side.addr b x.elem 0)) (boxOp x hi) bs
    | none => s.putAt d x y.space y.core (side.addr b x.elem (x.idx.getD 0)) (boxOp x hi) bs fun z => { z with nbit := nbit }

/-- Row i1 of a packing copy is valid (R251). -/
def Box.rowValid (x : Box) : Bool := decide (bxRow0 x.desc + bxIndex x.desc x.elem 1 < x.packRows)

/-- Canonical codes of a length table (R253): the first code of length l. -/
def codeStart (lens : List Nat) : Nat → Nat
  | 0 => 0
  | 1 => 0
  | l + 2 => (codeStart lens (l + 1) + lens.count (l + 1)) * 2

/-- The symbols of a length, ascending. -/
def symbolsOf (lens : List Nat) (l : Nat) : List Nat := (List.range lens.length).filter fun s => lens.getD s 0 == l

inductive Sym where
  | sym (v bits : Nat)
  | more
  | corrupt

/-- One symbol from the bits of a stream at an offset (R254): l the length tried last, n how many are left. -/
def decodeSym (lens : List Nat) (bitAt : Nat → Option Bool) (bit : Nat) : Nat → Nat → Nat → Sym
  | 0, _, _ => .corrupt
  | n + 1, l, v =>
    match bitAt (bit + l) with
    | none => .more
    | some b =>
      let v := 2 * v + (if b then 1 else 0)
      let st := codeStart lens (l + 1)
      if st ≤ v ∧ v < st + lens.count (l + 1) then .sym ((symbolsOf lens (l + 1)).getD (v - st) 0) (l + 1)
      else decodeSym lens bitAt bit n (l + 1) v

/-- The bytes of the stream are read one after another, as far as the symbol needs. -/
def inflate (d : DieId) (x : Box) : Nat → Nat → State → State
  | 0, _, s => s
  | fuel + 1, n, s =>
    let b := x.desc
    let first := x.bit / 8
    let len := (bxAux1 b).toNat % 2 ^ 32
    let reads : Reads := (List.range n).map fun i =>
      (bxSspace b, bxScore b, (((bxSrc b).toNat + first + i : Nat) : Int), 1)
    match s.fetch d x reads with
    | .later s' => s'
    | .bad c va => s.boxFault d x c (some .read) va
    | .noCtx => s.boxRefused d x
    | .bytes s' bs =>
      let bitAt (i : Nat) : Option Bool := (bs[i / 8 - first]?).map fun y => y.getLsbD (7 - i % 8)
      match decodeSym x.lens bitAt x.bit 15 0 0 with
      | .sym v k => s'.putElem d x v (x.bit + k)
      | .corrupt => s.boxFault d x .streamCorrupt none 0
      | .more => if len ≤ first + n then s.boxFault d x .streamCorrupt none 0 else inflate d x fuel (n + 1) s

/-- The scale byte of a block whose elements have been read (R247), then its elements with the scaling exponent. -/
def State.putScale (s : State) (d : DieId) (x : Box) : State :=
  let b := x.desc
  let i0 := bxIndex b x.elem 0
  let a : Int := (bxAux1 b).toNat + 128 * (i0 / 128) + bxIndex b x.elem 1
  let n := eltBytes (bxSource b).width
  let vals := (List.range 128).map fun u => (ffOf (boxTy (bxSelt b))).decode (leNat ((x.blk.drop (n * u)).take n))
  let put (code : Nat) (k : Int) : State :=
    let mark (z : Box) : Box := { z with part := .block k, scaling := true, blk := x.blk }
    s.checkSeq d x mark fun t => t.putAt d x (bxDspace b) (bxDcore b) a (.write 1 0 8) (leBytes 1 code) mark
  match blockScale (fmtOf (bxDfmt b)) vals with
  | some c => if c < 0 ∨ 254 < c then s.boxFault d x .convRange none 0 else put c.toNat (127 - c)
  | none => put 0xFF 0

/-- A block of a scaled conversion (R247): it is read whole, and its scale byte is written first. -/
def State.scaleBlock (s : State) (d : DieId) (x : Box) : State :=
  let b := x.desc
  let side := bxSource b
  let e0 := x.elem - bxIndex b x.elem 0 % 128
  let reads : Reads := (List.range 128).map fun u => (side.space, side.core, side.addr b (e0 + u) 0, eltBytes side.width)
  if !x.blk.isEmpty then s.putScale d x
  else s.fetchThen d x reads fun s' bs =>
    (s'.modBox d x.mid fun z => { z with blk := bs, got := [] }).putScale d { x with blk := bs, got := [] }

/-- The addresses of the element at hand are translated, its source before its destination, before it is read (R241,
R343); a collective box's destination is found at its header. -/
def State.elemReady (s : State) (d : DieId) (x : Box) : Except State State :=
  let b := x.desc
  let side := bxSource b
  let look (s : State) (acc : Access) (sp core : Nat) (a : Int) (n : Nat) : Except State State :=
    match s.locate d x sp core a n acc with
    | .at_ s' _ => .ok s'
    | .bad c va => .error (s.boxFault d x c (some acc) va)
    | .noCtx => .error (s.boxRefused d x)
  match (if bxKind b = 9 ∨ bxKind b = 6 then .ok s
      else look s .read side.space side.core (side.addr b x.elem (x.idx.getD 0)) (eltBytes side.width)) with
  | .error t => .error t
  | .ok s1 =>
    match x.hdr, (bxDests b x.dests)[x.lpos]? with
    | none, some y =>
      let ds := bxDestSide b y
      look s1 (boxOp x none).access y.space y.core (ds.addr b x.elem (x.idx.getD 0)) (eltBytes ds.width)
    | _, _ => .ok s1

/-- The element at hand of a box whose list entry, if it has one, is known. -/
def State.elementAt (s : State) (d : DieId) (x : Box) : State :=
  let b := x.desc
  let side := bxSource b
  if bxKind b = 9 then s.putElem d x ((bxAux1 b).toNat % 2 ^ bxDw b) 0
  else if bxKind b = 6 then
    if 8 * ((bxAux1 b).toNat % 2 ^ 32) ≤ x.bit then s.boxFault d x .streamCorrupt none 0 else inflate d x 4 1 s
  else if bxPack b && !x.rowValid then s.putElem d x 0 0
  else if bxDelt b = 5 ∧ x.part = .elements then s.scaleBlock d x
  else
    let n := eltBytes side.width
    let put (s' : State) (x : Box) (bs : List Byte) : State :=
      let v := side.value b x.elem bs
      let k : Int := match x.part with
        | .block k => k
        | _ => 0
      s'.putElem d x (if bxKind b = 5 then convElt (bxSelt b) (bxSfmt b) (bxDelt b) (bxDfmt b) false k v else v) 0
    if !x.blk.isEmpty then put s x (if bxDelt b = 5 then (x.blk.drop (n * (bxIndex b x.elem 0 % 128))).take n else x.blk)
    else s.fetchThen d x [(side.space, side.core, side.addr b x.elem (x.idx.getD 0), n)] fun s' bs =>
      if bxKind b = 7 then
        put (s'.modBox d x.mid fun z => { z with blk := bs, got := [] }) { x with blk := bs, got := [] } bs
      else put s' x bs

def State.element (s : State) (d : DieId) (x : Box) : State :=
  match s.elemReady d x with
  | .error t => t
  | .ok s' => s'.elementAt d x

/-- The list entry of a row is read at the row's first element (R245). -/
def State.listEntry (s : State) (d : DieId) (x : Box) : State :=
  let b := x.desc
  let a : Int := (bxAux0 b).toNat + 4 * bxIndex b x.elem 1
  s.fetchThen d x [(bxSspace b, bxScore b, a, 4)] fun s' bs =>
    let i := (BitVec.ofNat 32 (leNat bs)).toInt
    if x.rowsOk i then
      let s' := s'.modBox d x.mid fun z => { z with idx := some i, got := [] }
      s'.element d { x with idx := some i, got := [] }
    else s.boxFault d x .boxInvalid none 0

/-- The validity mask of a packing copy, before the credit (R251). -/
def State.writeMask (s : State) (d : DieId) (x : Box) : State :=
  let b := x.desc
  let m := ((List.range (bxExt b 1)).map fun i => if bxRow0 b + i < x.packRows then 2 ^ i else 0).sum
  s.checkSeq d x id fun t => t.putAt d x (bxDspace b) (bxDcore b) (bxAux0 b).toNat (.write 1 0 8) (leBytes 16 m) id

/-- BOX_ELEMENT: a copy engine takes the next step of a box that has no request under way. -/
def execBoxElement (d : DieId) (mid : W32) (s : State) : Host.Outcome State Fault Refusal :=
  .next <|
    match (s.runner d).box mid with
    | none => s
    | some x =>
      if x.state ≠ .running || !x.checked || x.outs ≠ 0 then s
      else match x.part with
        | .credit | .credited => s
        | .mask => s.writeMask d x
        | _ =>
          if (bxKind x.desc = 2 ∨ bxKind x.desc = 3) ∧ x.idx.isNone then s.listEntry d x else s.element d x

/-! ### Start (R238, R239, R243, R251, R253) -/

/-- The code lengths of an INFL table, if its code is not over-full and not empty. -/
def codeTable (bs : List Byte) : Option (List Nat) :=
  let lens := bs.flatMap fun y => [y.toNat % 16, y.toNat / 16]
  let kraft : Nat := ((lens.filter (· ≠ 0)).map fun l => 2 ^ (15 - l)).sum
  if lens.all (· == 0) || decide (2 ^ 15 < kraft) then none else some lens

def State.startedBox (s : State) (d : DieId) (mid : W32) (f : Box → Box) : State :=
  s.modBox d mid fun b => f { b with state := .running, checked := true, got := [] }

/-- The external table of a record: in the scratchpad that holds the record (R386); for a record that stands in main
memory, at that address of its own space (log 86). -/
def State.tableSpots (s : State) (d : DieId) (x : Box) (home : Spots) (a n : Nat) : Located :=
  match home with
  | (.home t, _, _) :: _ =>
    if t.scratch then .at_ s [(.home { t with addr := a }, n, 0)]
    else s.locate d x (bxDspace x.desc) (bxDcore x.desc) a n .read
  | (.far t, _, _) :: _ =>
    if t.scratch then .at_ s ((eights a n).map fun p => (.far { t with addr := p.1 }, p.2, 0))
    else s.locate d x (bxDspace x.desc) (bxDcore x.desc) a n .read
  | _ => s.locate d x (bxDspace x.desc) (bxDcore x.desc) a n .read

/-- What follows a read of pieces already located. -/
def State.spotsThen (s : State) (d : DieId) (x : Box) (l : Located) (k : State → List Byte → State) : State :=
  match l with
  | .bad c va => s.boxFault d x c (some .read) va
  | .noCtx => s.boxRefused d x
  | .at_ s' l => match fetchSpots d x false l x.got s' [] with
    | .bytes s'' bs => k s'' bs
    | .later s'' => s''
    | .bad c va => s.boxFault d x c (some .read) va
    | .noCtx => s.boxRefused d x

/-- The record of a packing copy, external boundaries included (R391). -/
def State.checkPack (s : State) (d : DieId) (x : Box) : State :=
  let b := x.desc
  let loc := s.locate d x (bxDspace b) (bxDcore b) (bxAux1 b).toNat 128 .read
  s.spotsThen d x loc fun s' bs =>
    match shapeRec (BitVec.ofNat 1024 (leNat bs)) with
    | none => s.boxFault d x .raggedTable none 0
    | some r =>
      if r.ext then
        let both := match loc with
          | .at_ s1 l => match s1.tableSpots d x l r.xtab (4 * (r.seqs - 27)) with
            | .at_ s2 m => .at_ s2 (l ++ m)
            | z => z
          | z => z
        s'.spotsThen d x both fun s2 all =>
          match r.wholeTable fun a => leNat ((all.drop (128 + (a - r.xtab))).take 4) with
          | some _ => s2.startedBox d x.mid fun z => { z with packRows := r.rows }
          | none => s.boxFault d x .raggedTable none 0
      else s'.startedBox d x.mid fun z => { z with packRows := r.rows }

def State.checkTable (s : State) (d : DieId) (x : Box) : State :=
  let b := x.desc
  s.fetchThen d x [(bxSspace b, bxScore b, (bxAux0 b).toNat, 128)] fun s' bs =>
    match codeTable bs with
    | none => s.boxFault d x .codeTable none 0
    | some lens => s'.startedBox d x.mid fun z => { z with lens := lens }

/-- Copy engines of a die in use (R357). -/
def Runner.engines (r : Runner) : Nat := (r.boxes.countP fun b => b.state == .running) + r.fills.countP fun f => f.run

/-- BOX_START: an engine takes a box and makes its start checks; an empty box has none. -/
def execBoxStart (d : DieId) (mid : W32) (s : State) : Host.Outcome State Fault Refusal :=
  .next <|
    match (s.runner d).box mid with
    | none => s
    | some x =>
      let fresh := x.state == .queued && decide ((s.runner d).engines < 64) && s.boxMayStart d x
      let again := x.state == .running && !x.checked && x.outs == 0
      if !(fresh || again) then s
      else
        let s1 := s.modBox d mid fun b => { b with state := .running }
        let x1 := { x with state := .running }
        if x.checked then s1
        else if bxCount x.desc = 0 then s1.startedBox d mid fun z => { z with part := .credit }
        else if bxPack x.desc then s1.checkPack d x1
        else if bxKind x.desc = 6 then s1.checkTable d x1
        else s1.startedBox d mid id

/-! ### Completion (R242) -/

/-- The credit of a complete box sets out: one add at the semaphore's home. -/
def State.sendCredit (s : State) (d : DieId) (x : Box) : State :=
  let b := x.desc
  let sem := bxSem b
  let va := if bxSemspace b = 0 then sem.toNat else 0
  if sem.toNat % 4 ≠ 0 || (bxSemspace b == 1 && decide (scratchSize < sem.toNat + 4)) then
    s.boxFault d x .semRange (some .combine) va
  else match s.locate d x (bxSemspace b) (bxSemcore b) sem.toNat 4 .combine with
    | .noCtx => s.boxRefused d x
    | .bad c v => s.boxFault d x c (some .combine) v
    | .at_ s' l =>
      match sendWrites d x false (shares .credit l (leBytes 4 (bxCredit b))) s' 0 with
      | .ok (t, n) => t.modBox d x.mid fun z => { z with part := .credited, outs := n }
      | .error (some c) => s.boxFault d x c (some .combine) va
      | .error none => s

/-- BOX_COMPLETE: every write has performed, so the release at SCOPE is made; the credit follows, or the box ends. -/
def execBoxComplete (d : DieId) (mid : W32) (s : State) : Host.Outcome State Fault Refusal :=
  .next <|
    match (s.runner d).box mid with
    | none => s
    | some x =>
      if x.state ≠ .running || x.part ≠ .credit || x.outs ≠ 0 then s
      else if bxCredit x.desc = 0 then s.removeBox d mid
      else match x.inst with
        | some id => (s.sendCredit d x).settleInst d id
        | none => s.sendCredit d x

/-! ### Probe fills (R364) -/

def State.modFill (s : State) (d : DieId) (i : Nat) (f : Fill → Option Fill) : State :=
  s.modRunner d fun r => { r with fills := (r.fills.zipIdx.filterMap fun x => if x.2 = i then f x.1 else some x.1) }

/-- The byte offset of the first word of a block that a read finds bad. -/
def State.firstBad (s : State) (t : Target) : Nat :=
  ((List.range 512).find? fun k => (s.homeReadBad { t with addr := t.addr + 4 * k } 4).isSome).getD 0 * 4

def State.fillFault (s : State) (d : DieId) (i : Nat) (f : Fill) (cause : Cause) (pos : Nat) : State :=
  if 512 ≤ (s.runner d).suspended then s
  else match s.postFault d ⟨0, f.tag.ctx, 3, Access.read.code, false, cause, f.va, 0, 0, BitVec.ofNat 64 pos, 0,
      f.tag.origin, d⟩ with
    | some (t, id) => t.modFill d i fun f => some { f with susp := some id, run := false }
    | none => s

/-- A slot's words, written raw; a slot that is not filling any more takes nothing. -/
def State.fillSlot (s : State) (f : Fill) (bs : List Byte) : State :=
  let k := s.core f.core
  if (k.probes.get f.slot).state = .filling then
    (s.writeScratch f.core (k.slotBase f.slot.val) bs).modCore f.core fun k =>
      k.setProbe f.slot { k.probes.get f.slot with state := .valid }
  else s

/-- RESUME .drop of a fill, and the end of one without a context: the slot is valid with every word uncorrectable. -/
def State.dropFill (s : State) (d : DieId) (i : Nat) (f : Fill) : State :=
  let k := s.core f.core
  let t := s.modFill d i fun _ => none
  if (k.probes.get f.slot).state = .filling then
    t.modCore f.core fun k =>
      let k' := k.setProbe f.slot { k.probes.get f.slot with state := .valid }
      { k' with eccHard := ((List.range 512).map fun i => k.slotBase f.slot.val + 4 * i) ++
          wordsOutside k'.eccHard (k.slotBase f.slot.val) 2048 }
  else t

/-- A fill of this package: its block is read once no earlier request stands ahead on its lines, and written once none
stands at the slot's banks (R287, R363). -/
def State.fillHere (s : State) (d : DieId) (i : Nat) (f : Fill) (t : Target) : State :=
  if !s.reaches d t then s.fillFault d i f .peerUnreachable 0
  else if !s.homeFree t 2048 || !(s.core f.core).banksFree ((s.core f.core).slotBase f.slot.val) 2048 then s
  else match s.homeReadBad t 2048 with
    | some c => s.fillFault d i f c (s.firstBad t)
    | none => ((s.noteRead t 2048).modFill d i fun _ => none).fillSlot f (s.homeBytes t 2048)

/-- PROBE_FILL_COMPLETE: on a copy engine the block is read and written whole, and the slot is valid; a fill of a killed
context is abandoned (R358). -/
def execProbeFillComplete (d : DieId) (i : Nat) (s : State) : Host.Outcome State Fault Refusal :=
  .next <|
    match (s.runner d).fills[i]? with
    | none => s
    | some f =>
      if f.susp.isSome || (!f.run && decide (64 ≤ (s.runner d).engines)) then s
      else if s.pkg.draining f.tag.ctx then s.modFill d i fun _ => none
      else
        let s := s.modFill d i fun f => some { f with run := true }
        match s.translate d f.tag f.va.toNat .read with
        | .noCtx => (s.internalCheck d f.tag.ctx).dropFill d i f
        | .bad c => s.fillFault d i f c 0
        | .ok t s1 =>
          if s1.isLocal t then s1.fillHere d i f t
          else if (s1.liveRoutes d t.pkg).isEmpty then s.fillFault d i f .peerUnreachable 0
          else (s1.modFill d i fun _ => none).fillSlot f (s1.farBytes f.va.toNat 2048)

end Sys2Proof.Machine
end

