-- ==== Sys2Proof/Machine/HostQueue.lean ====
section
/-! DEFINITION. The submission ring of a function (R421-R424): which entry is read and accepted, which is refused at
once, and how an accepted one is answered. -/

namespace Sys2Proof.Machine

/-- OP of an entry, and its words. -/
def subOp (ws : List Word) : Nat := ((ws.headD 0).extractLsb' 32 8).toNat
def subWord (ws : List Word) (k : Nat) : Word := ws.getD k 0

/-- Table 20-4: the operation exists and this function may submit it. -/
def opAllowed (f : Fin 17) (op : Nat) : Bool :=
  op == 1 || op == 2 || op == 4 || (f == 0 && (op == 3 || (decide (5 ≤ op) && decide (op ≤ 8))))

/-- The cause with which an entry is refused when it is accepted (R422, R427). -/
def Package.refusal (p : Package) (f : Fin 17) (ws : List Word) : Option Cause :=
  if p.fwFailed && subOp ws != 7 && subOp ws != 8 then some .fwAuth
  else if (ws.headD 0).extractLsb' 40 24 != 0 || !opAllowed f (subOp ws) then some .queueInvalid
  else none

/-- A doorbell above LASTC, compared modulo 2^32. -/
def doorbellAbove (v lastc : W32) : Bool := decide (0 < (v - lastc).toNat) && decide ((v - lastc).toNat < 2 ^ 31)

/-- An entry of the submission ring. -/
def State.subEntry (s : State) (h : HostFn) (n : W32) : List Word :=
  (List.range 8).map fun k => memW64 s.hostMem (h.sbase.toNat + 64 * (n.toNat % 2 ^ h.slog2n) + 8 * k)

/-- The completion of the entry that a function has accepted. -/
def State.answerSub (s : State) (f : Fin 17) (status detail : Nat) : State :=
  match (s.pkg.fns.get f).accepted with
  | none => s
  | some ws => (s.modFn f fun h => { h with accepted := none }).completion f
      ⟨(ws.headD 0).setWidth 32, BitVec.ofNat 32 status, BitVec.ofNat 32 detail⟩

/-- Entries are read and accepted one after another while the doorbell is ahead, no completion is held and no
operation is under way; a torn or stale entry waits for the next doorbell. -/
def takeSubs (f : Fin 17) : Nat → State → State
  | 0, s => s
  | n + 1, s =>
    let h := s.pkg.fns.get f
    if h.accepted.isSome || h.slog2n = 0 || !h.heldc.isEmpty || !doorbellAbove h.doorbell h.lastc ||
        (s.pkg.fwFailed && f != 0) then s
    else
      let ws := s.subEntry h (h.lastc + 1)
      if (ws.headD 0).setWidth 32 ≠ h.lastc + 1 then s.modFn f fun h => { h with doorbell := h.lastc }
      else
        let t := s.modFn f fun h => { h with lastc := h.lastc + 1, accepted := some ws }
        match t.pkg.refusal f ws with
        | some c => takeSubs f n (t.answerSub f (0x100 + c.code) (t.free 4).toNat)
        | none => t

def State.pumpSubs (s : State) (f : Fin 17) : State :=
  takeSubs f ((s.pkg.fns.get f).doorbell - (s.pkg.fns.get f).lastc).toNat s

/-- The accepted entry is answered, and the next one may be read. -/
def State.answerHost (s : State) (f : Fin 17) (status detail : Nat) : State := (s.answerSub f status detail).pumpSubs f

end Sys2Proof.Machine
end

