-- ==== Sys2Proof/Machine/Sched.lean ====
section
/-! DEFINITION. The scheduler: queues and slots (R295-R298), placement and dispatch (R304-R307), grain start (R302),
grain end (R308), quarantine (R309), launch (R310), pre-emption requests (R307, R311). -/

namespace Sys2Proof.Machine

/-! ### Slots (R297, R298) -/

def State.modSlot (s : State) (k : Fin 64) (f : QSlot → QSlot) : State :=
  s.modPkg fun p => { p with slots := p.slots.set k.val (f (p.slots.get k)) k.isLt }

/-- Fields of a queue descriptor (Table 10-1). -/
def descWord (b : BitVec 512) (k : Nat) : Word := b.extractLsb' (64 * k) 64
def descVf (b : BitVec 512) : Nat := (b.extractLsb' 112 5).toNat
def descCtx (b : BitVec 512) : BitVec 16 := b.extractLsb' 96 16
def descQid (b : BitVec 512) : BitVec 16 := b.extractLsb' 80 16
def descCap (b : BitVec 512) : BitVec 4 := b.extractLsb' 72 4
def descLog (b : BitVec 512) : Nat := (b.extractLsb' 64 5).toNat
def descWdog (b : BitVec 512) : W32 := b.extractLsb' 256 32
def descSave (b : BitVec 512) : Word := descWord b 5

/-- The function that a slot is assigned to (VFSLOTS, R419); the physical function when none has it. -/
def Package.slotFn (p : Package) (k : Fin 64) : Fin 17 :=
  ((List.finRange 17).find? fun f => f != 0 && (p.fns.get f).vfslots.getLsbD k.val).getD 0

/-- The queue's service ends with QUEUE_INVALID, DETAIL the QID (R296). -/
def State.queueInvalid (s : State) (k : Fin 64) (f : Fin 17) : State :=
  (s.modSlot k fun q => { q with dead := true }).hostEvent f .queueInvalid (s.pkg.slots.get k).lastqid.toNat

/-- A descriptor that the scheduler accepts: reserved bits zero, LOG2N 1 to 16, RING and SAVEVA aligned, a usable
context (R295, R296, R348). -/
def State.descOk (s : State) (b : BitVec 512) : Bool :=
  b.extractLsb' 117 11 == 0 && b.extractLsb' 76 4 == 0 && b.extractLsb' 69 3 == 0 && b.extractLsb' 160 32 == 0 &&
    b.extractLsb' 224 32 == 0 && b.extractLsb' 288 32 == 0 && b.extractLsb' 384 128 == 0 &&
    decide (1 ≤ descLog b) && decide (descLog b ≤ 16) && b.extractLsb' 0 7 == 0 && (descSave b).toNat % 4096 == 0 &&
    decide (descVf b ≤ 16) && (s.ctxEntry (descCtx b)).isSome

/-- MAPPED := 1 (R298): the descriptor at SLOTQ is read and LASTQID set; indices are looked at after that. A descriptor
that cannot be read names no queue: LASTQID stays with the queue mapped before. -/
def State.mapSlot (s : State) (k : Fin 64) : State :=
  let pa := (s.pkg.slots.get k).slotq.toNat
  if s.memBad pa 64 then (s.modSlot k fun q => { q with mapped := true, desc := 0 }).queueInvalid k (s.pkg.slotFn k)
  else
    let b := BitVec.ofNat 512 (memNat s.mem pa 64)
    let s := s.modSlot k fun q =>
      { q with mapped := true, lastv := true, lastqid := descQid b, phys := pa, desc := b, dead := false, look := true }
    if pa % 64 = 0 && s.descOk b then s else s.queueInvalid k (fnOf (descVf b))

/-- MAPPED := 0: no further entry is read. -/
def State.unmapSlot (s : State) (k : Fin 64) : State := s.modSlot k fun q => { q with mapped := false }

/-- NOTIFY (R298): the write index goes into the descriptor of the queue last mapped; then, if mapped, WAKEPEND. -/
def State.notifySlot (s : State) (k : Fin 64) (v : Word) : State :=
  let q := s.pkg.slots.get k
  if q.lastv && !q.closed && q.lastqid == v.extractLsb' 48 16 && !s.memWriteBad (q.phys + 0x18) 4 then
    let s := s.writeMem (q.phys + 0x18) (leBytes 4 (v.extractLsb' 0 32).toNat)
    if q.mapped then s.modSlot k fun q => { q with wakepend := true } else s
  else s

/-- Entries of a slot read and not wholly dispatched. -/
def Package.held (p : Package) (k : Fin 64) : Nat :=
  p.nests.countP fun n => n.slot == some k && (n.state == .waiting || decide (n.next < n.total))

/-- SLOTCTL and SLOTSTAT of a slot (Table 10-2). -/
def Package.slotctl (p : Package) (k : Fin 64) : Word :=
  let q := p.slots.get k
  BitVec.ofNat 64 ((if q.mapped then 1 else 0) + (if q.lastv then 2 else 0) + 2 ^ 16 * q.lastqid.toNat)
def Package.slotstat (p : Package) (k : Fin 64) : Word :=
  BitVec.ofNat 64 (p.held k + (if (p.slots.get k).wakepend then 2 ^ 16 else 0))

/-- A runner start: kind 1 of a queue entry. -/
def queueStart (b : BitVec 1024) (ctx : BitVec 16) (vf : Nat) : Start :=
  ⟨nestWord b 0, nestWord b 1, BitVec.allOnes 64, ⟨ctx, vf, false, none⟩, false, none⟩

/-- What an entry of a queue becomes (R296, R303, R348). -/
def State.takeEntry (s : State) (k : Fin 64) (d : BitVec 512) (b : BitVec 1024) : State :=
  let f := fnOf (descVf d)
  if b.extractLsb' 964 60 != 0 || decide (1 < nestKind b) then s.queueInvalid k f
  else if nestKind b = 1 then
    if (s.ctxEntry (descCtx d)).isNone then s.internalCheck 0 (descCtx d)
    else s.modRunner 0 fun r => { r with startq := r.startq ++ [queueStart b (descCtx d) (descVf d)] }
  else if !s.pkg.nestOk b || (s.ctxEntry (descCtx d)).isNone then s.hostEvent f .launchInvalid (descQid d).toNat
  else if !s.pkg.rangeInVf (descVf d) b then
    (s.serviceCause .vfIsolation (descCtx d)).hostEvent f .vfIsolation (descQid d).toNat
  else
    let prio := if descCap d < nestPrio b then descCap d else nestPrio b
    s.addNest fun id => Nest.fresh id b prio (descCtx d) (descVf d) false false none (some k) (descWdog d) (descSave d)

/-- QUEUE_ENTRY_READ (R295, R297): the next entry of a mapped slot is read whole, and RDIDX advances; a runner start
waits for room in the start queue (R222). -/
def execQueueEntryRead (k : Fin 64) (s : State) : Host.Outcome State Fault Refusal :=
  .next <|
    let q := s.pkg.slots.get k
    let d := q.desc
    if !q.mapped || q.dead || s.pkg.dying (descCtx d) || !(q.wakepend || q.look) || decide (16 ≤ s.pkg.held k) then s
    else if s.memBad (q.phys + 0x10) 4 || s.memBad (q.phys + 0x18) 4 then s.queueInvalid k (fnOf (descVf d))
    else
      let rd := memW32 s.mem (q.phys + 0x10)
      let wr := memW32 s.mem (q.phys + 0x18)
      if rd = wr then s.modSlot k fun q => { q with wakepend := false, look := false }
      else
        let tag : Tag := ⟨descCtx d, descVf d, true, none⟩
        match s.serviceRead tag ((descWord d 0).toNat + 128 * (rd.toNat % 2 ^ descLog d)) 128 with
        | .error _ => s.queueInvalid k (fnOf (descVf d))
        | .ok (s, bs) =>
          let b := BitVec.ofNat 1024 (leNat bs)
          if nestKind b = 1 ∧ 64 ≤ (s.runner 0).startq.length then s
          else (s.writeMem (q.phys + 0x10) (leBytes 4 (rd + 1).toNat)).takeEntry k d b

/-! ### Placement (R305, R307) -/

/-- A monitor halts every core (R432). -/
def Package.monHalt (p : Package) : Bool := !p.hot.isEmpty || !p.badRails.isEmpty

/-- Numbers of the saved grains of a record. -/
def Nest.savedNums (n : Nest) : List Nat :=
  (n.saved.map fun x => (x.state.grain.map (·.num)).getD 0).dedup

def Nest.savedCores (n : Nest) (g : Nat) : List CoreId :=
  (n.saved.filter fun x => (x.state.grain.map (·.num)).getD 0 == g).map (·.core)

/-- A record that has a grain to place. -/
def Nest.wants (n : Nest) : Bool :=
  (n.state == .ready || n.state == .running || n.state == .draining) && (decide (n.next < n.total) || !n.saved.isEmpty)

/-- The cores that a record may take. -/
def State.wantedCores (s : State) (n : Nest) : List CoreId :=
  n.saved.map (·.core) ++ (if n.next < n.total then (s.pkg.units n.bits).flatten else [])

/-- Another record holds a core idle as a co-resident one that waits for its range (R305). -/
def State.lent (s : State) (n : Nest) (c : CoreId) : Bool :=
  s.pkg.nests.all fun x => x.id == n.id || !x.coresident || !x.wants || !(s.wantedCores x).contains c ||
    decide (x.prio < n.prio) || (x.prio == n.prio && n.coresident && decide (n.id < x.id))

/-- A core that a record may take now. -/
def State.freeFor (s : State) (n : Nest) (c : CoreId) : Bool :=
  (s.core c).phase == .idle && s.pkg.coreLive c && s.lent n c

/-- A grain of a record is given to a core, which starts it. -/
def State.giveGrain (s : State) (n : Nest) (num : Nat) (c : CoreId) : State :=
  let g : Grain := {
    nest := n.id
    num := num
    idx := #v[BitVec.ofNat 32 (nestIndex n.bits num 0), BitVec.ofNat 32 (nestIndex n.bits num 1),
      BitVec.ofNat 32 (nestIndex n.bits num 2), BitVec.ofNat 32 (nestIndex n.bits num 3)]
    vf := n.vf
    sup := n.sup
    child := n.child
    wdog := n.wdog
    saveva := n.saveva
    ctx := n.ctx
    prio := n.prio
    seq := s.pkg.grainSeq }
  s.modCore c fun k => { k with grain := some g, phase := .starting }

/-- The core after a unit, cyclically in the record's range. -/
def ptrAfter (b : BitVec 1024) (u : List CoreId) : Nat :=
  match u.getLast? with
  | some c => if c.val < nestLast b then c.val + 1 else nestFirst b
  | none => nestFirst b

/-- The next grain of a record starts on a unit, and its pointer moves on. -/
def State.dispatchOn (s : State) (id : Nat) (u : List CoreId) : State :=
  match s.nest id with
  | none => s
  | some n =>
    ((u.foldl (fun t c => t.giveGrain n n.next c) s).modPkg fun p => { p with grainSeq := p.grainSeq + 1 }).modNest id
      fun n => { n with next := n.next + 1, ptr := ptrAfter n.bits u, state := .running }.settle

/-- Units from the record's pointer on, cyclically. -/
def fromPtr (ptr : Nat) (l : List (List CoreId)) : List (List CoreId) :=
  let below (u : List CoreId) : Bool := match u.head? with
    | some c => decide (c.val < ptr)
    | none => false
  (l.filter fun u => !below u) ++ l.filter below

/-- Restore begins on the cores that a saved grain left; it is no new dispatch (R307). -/
def State.beginRestore (s : State) (id : Nat) (cs : List CoreId) : State :=
  match s.nest id with
  | none => s
  | some n =>
    cs.foldl (fun t c => match n.saved.find? fun x => x.core == c with
      | some x => t.modCore c fun k => { k with grain := x.state.grain, phase := .restoring }
      | none => t) s

/-- The restores under way of a record. -/
def State.restoring (s : State) (n : Nest) (c : CoreId) : Bool :=
  (s.core c).phase == .restoring && (s.core c).grain.any fun g => g.nest == n.id

/-- A placement of the record, if one can be made: a saved grain first (R307), then the next grain; a co-resident
record whole (R305). -/
def State.tryPlace (s : State) (n : Nest) : Option State :=
  let free (cs : List CoreId) : Bool := cs.all fun c => s.freeFor n c
  let pending := n.savedNums.filter fun g => !(n.savedCores g).any fun c => s.restoring n c
  let restores : List (List CoreId) :=
    if n.coresident then
      (if (s.coresOf n.id).isEmpty && !n.saved.isEmpty then [n.saved.map (·.core)] else [])
    else pending.map n.savedCores
  match restores.find? free with
  | some cs => some (s.beginRestore n.id cs)
  | none =>
    if n.total ≤ n.next then none
    else
      let units := fromPtr n.ptr ((s.pkg.units n.bits).filter free)
      if n.coresident then
        if n.next = 0 ∧ n.total ≤ units.length then
          some ((units.take n.total).foldl (fun t u => t.dispatchOn n.id u) s)
        else none
      else match units with
        | [] => none
        | u :: _ => some (s.dispatchOn n.id u)

/-- Records in the order in which they are offered a core: by priority, round-robin inside one (R307). -/
def State.offerOrder (s : State) : List Nest :=
  (List.range 16).reverse.flatMap fun p =>
    let l := s.pkg.nests.filter fun n => n.wants && n.prio.toNat == p && !s.pkg.dying n.ctx
    let last := s.pkg.rr.toArray.getD p 0
    (l.filter fun n => decide (last < n.id)) ++ l.filter fun n => decide (n.id ≤ last)

/-- GRAIN_DISPATCH (R305, R307): one dispatch opportunity. -/
def execGrainDispatch (s : State) : Host.Outcome State Fault Refusal :=
  .next <|
    match s.offerOrder.findSome? fun n => (s.tryPlace n).map fun t => (n, t) with
    | none => s
    | some (n, t) => t.modPkg fun p => { p with rr := p.rr.setIfInBounds n.prio.toNat n.id }

/-! ### Pre-emption requests (R307, R311) -/

/-- The cores stopped together with a core: its gang, or its whole record when co-resident. -/
def State.together (s : State) (c : CoreId) : List CoreId :=
  match (s.core c).grain with
  | none => []
  | some g =>
    let whole := (s.nest g.nest).any Nest.coresident
    (s.coresOf g.nest).filter fun k => whole || (s.core k).grain.any fun h => h.num == g.num

/-- The request to stop, for a record or for none: a wait in progress is abandoned (Table 03-6). -/
def State.requestStop (s : State) (why : Option Nat) (cs : List CoreId) : State :=
  cs.foldl (fun t c =>
    if (t.core c).phase = .running then
      (t.cancelWaita c).modCore c fun k =>
        { k.setStem { k.stem with waitSince := none } with phase := .stopping, stopFor := why }
    else t) s

/-- A core that stops together with this one has been asked to stop, or is saved already: a core still on its way to
its first instruction then stops there, so that the record is pre-empted whole (R305). -/
def State.peersStop (s : State) (c : CoreId) : Bool :=
  ((s.together c).any fun k => k != c && ((s.core k).phase == .stopping || (s.core k).phase == .halted)) ||
    match (s.core c).grain with
    | none => false
    | some g => (s.nest g.nest).any fun n => n.saved.any fun x =>
        x.core != c && (n.coresident || x.state.grain.any fun h => h.num == g.num) &&
          !((s.core x.core).phase == .restoring && (s.core x.core).grain.any fun h => h.nest == g.nest)

/-- The phase of a core whose stem is about to issue its first instruction. -/
def State.phaseAtStart (s : State) (c : CoreId) : Phase := if s.peersStop c then .stopping else .running

/-- The running grain that a record would pre-empt: of the lowest priority, then the most recently dispatched. -/
def State.victim (s : State) (n : Nest) : Option CoreId :=
  ((s.wantedCores n).filter fun c => (s.core c).phase == .running).foldl (fun best c =>
    match (s.core c).grain with
    | none => best
    | some g =>
      if n.prio ≤ g.prio then best
      else match best.bind fun b => (s.core b).grain with
        | none => some c
        | some h => if g.prio < h.prio || (g.prio == h.prio && decide (h.seq < g.seq)) then some c else best) none

/-- The record for which the scheduler pre-empts next: ready, of the highest priority, with no core it may take and
no request of its own outstanding. -/
def State.preemptor (s : State) : Option (Nest × CoreId) :=
  s.offerOrder.findSome? fun n =>
    if (s.tryPlace n).isSome || (s.wantedCores n).any fun c =>
        ((s.core c).phase == .stopping || (s.core c).phase == .halted) && (s.core c).stopFor == some n.id
    then none
    else (s.victim n).map fun c => (n, c)

/-- PREEMPT_REQUEST. -/
def execPreemptRequest (c : CoreId) (s : State) : Host.Outcome State Fault Refusal :=
  .next <|
    match s.preemptor with
    | none => s
    | some (n, v) => if (s.together v).contains c then s.requestStop (some n.id) (s.together v) else s

/-! ### Grain start (R29, R302, R425) -/

/-- The pieces of n bytes from va on, page by page: address, length. -/
def pieces : Nat → Nat → Nat → List (Nat × Nat)
  | 0, _, _ => []
  | k + 1, va, n =>
    if n = 0 then []
    else (va, min n (4096 - va % 4096)) :: pieces k (va + min n (4096 - va % 4096)) (n - min n (4096 - va % 4096))
def pagesOf (va n : Nat) : List (Nat × Nat) := pieces (n / 4096 + 2) va n

/-- The bytes of an image, read page by page in the grain's context. -/
def readImage (tag : Tag) : List (Nat × Nat) → State → Except Cause (State × List Byte)
  | [], s => .ok (s, [])
  | (a, n) :: ps, s =>
    match s.serviceRead tag a n with
    | .error c => .error c
    | .ok (s, bs) => (readImage tag ps s).map fun r => (r.1, bs ++ r.2)

/-- The copy of an image, unless it is resident (R302): its bytes, or none when the copy is skipped. -/
def imageCopy (tag : Tag) (va : Word) (len : Nat) (reload : Bool) (last : Option Image) (s : State) :
    Except Cause (State × Option (List Byte)) :=
  if va = 0 then .ok (s, none)
  else if !reload && last == some ⟨va, len, tag.ctx⟩ then .ok (s, none)
  else (readImage tag (pagesOf va.toNat len) s).map fun r => (r.1, some r.2)

/-- A core that passes to another context has its three stores zeroed (R302). -/
def Core.switchTo (c : Core) (ctx : BitVec 16) : Core :=
  let c' := { c with lastCtx := some ctx }
  if c.lastCtx.isNone || c.lastCtx == some ctx then c'
  else { c' with
    scratch := [], imem := [], seg := [], eccHard := [], eccSoft := [], eccFix := [], imemBad := [], segBad := [],
    stext := none, vtext := none }

def Core.loadStext (c : Core) (im : Image) : Option (List Byte) → Core
  | none => c
  | some bs => { c with imem := memPut c.imem 0 bs, imemBad := wordsOutside c.imemBad 0 bs.length, stext := some im }

def Core.loadVtext (c : Core) (im : Image) : Option (List Byte) → Core
  | none => c
  | some bs => { c with seg := memPut c.seg 0 bs, segBad := wordsOutside c.segBad 0 bs.length, vtext := some im }

/-- Core reset (R425): the state of R29, R34 and R36, the probe window and the shape slots; TRAPVEC and TRAPSCR stay.
The stores keep their contents; posts not yet accepted, replies not yet received and requests at the banks are under
way and stay. -/
def Core.coreReset (c : Core) : Core :=
  { c with
    stem := { Stem.reset with
      trapvec := c.stem.trapvec
      trapscr := c.stem.trapscr
      ratoms := c.stem.ratoms.map fun r => { r with d := 0 }
      ratomNext := c.stem.ratomNext }
    vec := Vec.reset
    mat := Mat.reset
    slots := Vector.replicate 4 Slot.empty
    tiles := Vector.replicate 4 Mem.empty
    full := Vector.replicate 4 false
    moulds := Vector.replicate 2 Mem.empty
    probes := Vector.replicate 256 Probe.empty
    victim := 0 }

/-- The values of grain start (Table 01-10, R29): x1-x4 the indices, x5 the core, x6 ARGS, PC the kernel entry. -/
def Core.grainStart (c : Core) (id : CoreId) (g : Grain) (b : BitVec 1024) : Core :=
  let k := c.coreReset
  let x0 : Vector Word 31 := Vector.replicate 31 0
  { k with
    stem := { k.stem with
      x := ((((((x0.set 1 ((g.idx.get 0).setWidth 64)).set 2 ((g.idx.get 1).setWidth 64)).set 3
        ((g.idx.get 2).setWidth 64)).set 4 ((g.idx.get 3).setWidth 64)).set 5 (BitVec.ofNat 64 id.val)).set 6 (nestArgs b))
      pc := nestEntry b
      status := statusStart g.prio g.sup
      ctxid := g.ctx }
    phase := .running }

/-- A failed copy ends the nest with the copy's cause; the core is free again (R302). -/
def State.imageFailed (s : State) (c : CoreId) (g : Grain) (cause : Cause) : State :=
  ((s.serviceCause cause g.ctx).modNest g.nest fun n => (n.withCause cause).noMore.settle).modCore c fun k =>
    { k with grain := none, phase := .idle }

/-- A nest whose context has no usable entry is refused when it starts (R348). -/
def State.startRefused (s : State) (c : CoreId) (g : Grain) : State :=
  (s.imageFailed c g .launchInvalid).hostEvent (fnOf g.vf) .launchInvalid g.ctx.toNat

/-- GRAIN_START (R302). -/
def execGrainStart (c : CoreId) (s : State) : Host.Outcome State Fault Refusal :=
  .next <|
    match (s.core c).grain with
    | none => s
    | some g =>
      match s.nest g.nest with
      | none => s
      | some n =>
        if (s.core c).phase ≠ .starting then s
        else if (s.ctxEntry g.ctx).isNone then s.startRefused c g
        else
          let b := n.bits
          let phase := s.phaseAtStart c
          let k := (s.core c).switchTo g.ctx
          match imageCopy n.tag (nestStext b) (nestStlen b) (nestReload b) k.stext s with
          | .error e => s.imageFailed c g e
          | .ok (s, si) =>
            match imageCopy n.tag (nestVtext b) (nestVtlen b) (nestReload b) k.vtext s with
            | .error e => s.imageFailed c g e
            | .ok (s, vi) =>
              s.setCore c { ((k.loadStext ⟨nestStext b, nestStlen b, g.ctx⟩ si).loadVtext ⟨nestVtext b, nestVtlen b, g.ctx⟩
                vi).grainStart c g b with phase := phase }

/-! ### Grain end (R308, R309) -/

/-- The grain of a core is over: the core is idle, and the record notes a HALT or a cause. -/
def State.endGrain (s : State) (c : CoreId) (f : Nest → Nest) : State :=
  match (s.core c).grain with
  | none => s
  | some g =>
    ((s.cancelWaita c).modCore c fun k => { k with grain := none, phase := .idle }).modNest g.nest fun n => (f n).settle

def State.endGrains (s : State) (cs : List CoreId) (f : Nest → Nest) : State := cs.foldl (fun t c => t.endGrain c f) s

/-- A co-resident record no longer fits its range. -/
def Package.misfit (p : Package) (n : Nest) : Bool :=
  n.coresident && decide ((p.units n.bits).length < n.total)

/-- A physical quad is quarantined (R309): it takes no grain, the grains there end with CONFIG_DEGRADED, those saved
from it, which no core can take again, among them (log 82), and so does a co-resident record that no longer fits. GEN
advances and the touched contexts are told (R431). -/
def State.quarantine (s : State) (d : DieId) (q : Nat) : State :=
  let cs := allCores.filter fun c => dieOf c == d && s.pkg.physQuad c == some q && (s.core c).grain.isSome
  let touched := (cs.filterMap fun c => (s.core c).grain.map fun g => (g.ctx, g.vf)).dedup
  let u : UnitRef := ⟨0, 68 * d.val + 4 * q, d, true⟩
  let saved (n : Nest) : List Saved := n.saved.filter fun x => dieOf x.core == d && s.pkg.physQuad x.core == some q
  let gangs := (cs.flatMap fun c => (s.core c).grain.elim [] fun g =>
    (s.coresOf g.nest).filter fun k => (s.core k).grain.any fun h => h.num == g.num).dedup
  let s := s.modPkg fun p => { p with quarq := p.quarq.set d.val (p.quarq.get d ||| (1#17 <<< q)) d.isLt }
  let s := s.endGrains gangs fun n => n.withCause .configDegraded
  let s := s.modPkg fun p => { p with nests := p.nests.map fun n =>
    if (saved n).isEmpty then n
    else ({ n.withCause .configDegraded with saved := n.saved.filter fun x => !(saved n).contains x }).settle }
  let bad := s.pkg.nests.filter s.pkg.misfit
  let s := bad.foldl (fun t n =>
    (t.endGrains (t.coresOf n.id) fun m => m.withCause .configDegraded).modNest n.id fun m =>
      let m := (m.withCause .configDegraded).noMore
      if m.state = .waiting ∨ m.state = .ready then { m with state := .done } else m.settle) s
  touched.foldl (fun t x => t.degraded u x.1 x.2) (s.genChanged.heartEvent
    ⟨0, Cause.configDegraded.code, u, 0, BitVec.ofNat 64 (s.runner d).cycle⟩)

/-! ### Launch (R127, R310) -/

def Package.poolUsed (p : Package) (d : DieId) : Nat := p.nests.countP fun n => n.pool == some d

/-- A record may enter the pool: 32 of 512 are kept for launches by child grains. -/
def Package.poolRoom (p : Package) (d : DieId) (child : Bool) : Bool :=
  decide (p.poolUsed d + (if child then 0 else 32) < 512)

def Package.spillLog (p : Package) (d : DieId) : Nat := ((p.childq.get d).extractLsb' 0 5).toNat
def Package.spillBase (p : Package) (d : DieId) : Nat := (p.childq.get d).toNat / 4096 * 4096
def Package.spillWr (p : Package) (d : DieId) : W32 := (p.childidx.get d).extractLsb' 32 32
def Package.spillRd (p : Package) (d : DieId) : W32 := (p.childidx.get d).extractLsb' 0 32
def Package.spillFull (p : Package) (d : DieId) : Bool :=
  p.spillLog d == 0 || decide (2 ^ p.spillLog d ≤ (p.spillWr d - p.spillRd d).toNat)

def setSpill (p : Package) (d : DieId) (wr rd : W32) : Package := { p with childidx := p.childidx.set d.val (wr ++ rd) d.isLt }

/-- The place of an index in a spill queue; one whose memory takes no write has no room for a record (log 83). -/
def Package.spillAt (p : Package) (d : DieId) (i : W32) : Nat := p.spillBase d + 256 * (i.toNat % 2 ^ p.spillLog d)

/-- A spill-queue entry (Table 10-12): the record as LAUNCH read it, with its tag block. -/
def spillBytes (b : BitVec 1024) (g : Grain) (sup : Bool) : List Byte :=
  leBytes 128 b.toNat ++
  leBytes 8 ((if g.child then 1 else 0) + (if sup then 256 else 0) + 65536 * g.vf + 2 ^ 32 * g.ctx.toNat) ++
  leBytes 8 g.wdog.toNat ++ leBytes 8 g.saveva.toNat ++ List.replicate 104 0

/-- LAUNCH: the record goes to the child pool of the die, or to its spill queue. -/
def execLaunch (a : Src) (s : State) : Host.Outcome State Fault Refusal :=
  stemRun (srcRegs a) [] s fun c =>
    withAddr (c.src a) 128 .misaligned fun x =>
      if !c.stem.stq.isEmpty || 32 ≤ c.posts.length then .wait s
      else if c.hardAt x 128 then .ecc x 128
      else match c.grain with
        | none => .trap .launchInvalid 0
        | some g =>
          let b := BitVec.ofNat 1024 (c.read x 128)
          let d := dieOf s.cur
          let sup := statusSup c.stem.status
          let next := c.after (1 + litWords [a])
          let s := s.setCore s.cur (c.noteSoft x 128)
          if !s.pkg.nestOk b || !s.pkg.rangeInVf g.vf b || (s.ctxEntry c.stem.ctxid).isNone then .trap .launchInvalid 0
          else
            let cap := statusPrio c.stem.status
            let prio := if !sup && cap < nestPrio b then cap else nestPrio b
            if s.pkg.poolRoom d g.child then
              .done (s.addNest fun id =>
                Nest.fresh id b prio c.stem.ctxid g.vf sup true (some d) none g.wdog g.saveva) next
            else
              let a := s.pkg.spillAt d (s.pkg.spillWr d)
              if s.pkg.spillFull d || s.memWriteBad a 256 then .trap .childPool 0
              else .done ((s.writeMem a (spillBytes b g sup)).modPkg fun p =>
                { setSpill p d (p.spillWr d + 1) (p.spillRd d) with
                  spillPrio := p.spillPrio.set d.val (p.spillPrio.get d ++ [prio]) d.isLt }) next

/-- SPILL_ENTRY_TAKEN (R310): the head of the spill queue enters the pool, in order, subject to the reserve, with the
priority that its LAUNCH lowered to the cap (R303); one that a kill has freed is passed over (R315), and one whose
context has no usable entry is refused (R348). -/
def execSpillEntryTaken (d : DieId) (s : State) : Host.Outcome State Fault Refusal :=
  .next <|
    let p := s.pkg
    let a := p.spillAt d (p.spillRd d)
    let popped (t : State) : State := t.modPkg fun p =>
      { setSpill p d (p.spillWr d) (p.spillRd d + 1) with
        spillPrio := p.spillPrio.set d.val ((p.spillPrio.get d).drop 1) d.isLt
        spillGone := p.spillGone.set d.val ((p.spillGone.get d).filter (· ≠ p.spillRd d)) d.isLt }
    if p.spillLog d = 0 || p.spillWr d = p.spillRd d || s.memBad a 256 then s
    else if (p.spillGone.get d).contains (p.spillRd d) then popped s
    else
      let b := BitVec.ofNat 1024 (memNat s.mem a 128)
      let w := memW64 s.mem (a + 0x80)
      let ctx : BitVec 16 := w.extractLsb' 32 16
      let vf := (w.extractLsb' 16 5).toNat
      if s.pkg.dying ctx then s
      else if (s.ctxEntry ctx).isNone then popped (s.hostEvent (fnOf vf) .launchInvalid ctx.toNat)
      else if p.poolRoom d (w.getLsbD 0) then
        popped (s.addNest fun id => Nest.fresh id b ((p.spillPrio.get d).headD (nestPrio b)) ctx vf (w.getLsbD 8) true
          (some d) none (memW32 s.mem (a + 0x88)) (memW64 s.mem (a + 0x90)))
      else s

/-! ### GRAINEND, HALT, YIELD (R128, R131) -/

/-- GRAINEND waits for the stem's stores, the engines, every RATOM reply and every post's acceptance; then the grain
ends. A pending matrix prefix raises MCMD_INVALID (R198). -/
def execGrainend (s : State) : Host.Outcome State Fault Refusal :=
  stemRun [] [] s fun c =>
    if c.mat.pwait.isSome || c.mat.psig.isSome then .trap .mcmdInvalid 0
    else if c.stem.stq.isEmpty && c.enginesIdle && c.stem.ratoms.isEmpty && c.posts.isEmpty then .stop (s.endGrain s.cur id) else .wait s

/-- HALT drains the queues, an engine that a taken fault has stopped excepted, and ends the grain without
completion. -/
def execHalt (s : State) : Host.Outcome State Fault Refusal :=
  stemRun [] [] s fun c =>
    if !statusSup c.stem.status then .trap .privViolation c.firstWord
    else if c.stem.stq.isEmpty && (c.vec.taken || c.vecIdle) && (c.mat.taken || c.matIdle) then
      .stop (s.endGrain s.cur fun n => { n with halted := true })
    else .wait s

/-- A ready grain of equal or higher priority wants a core: it can be placed there only (R307). -/
def State.coreWanted (s : State) (c : CoreId) : Bool :=
  match (s.core c).grain with
  | none => false
  | some g => s.pkg.nests.any fun n =>
      n.wants && decide (g.prio ≤ n.prio) && (s.wantedCores n).contains c && (s.tryPlace n).isNone

/-- YIELD: with such a grain ready the grain is pre-empted at the next boundary, otherwise nothing happens. -/
def execYield (s : State) : Host.Outcome State Fault Refusal :=
  match stemRun [] [] s fun c => .done s (c.after 1) with
  | .next t => .next (if s.coreWanted s.cur then t.requestStop none (t.together t.cur) else t)
  | o => o

end Sys2Proof.Machine
end

