-- ==== Sys2Proof/Machine/Rounds.lean ====
section
/-! DEFINITION. Abort rounds (R371-R375): stopping an instance, the request that opens a round, settles, outcomes and
repairs, and the collective walker's emission (R261, R368). -/

namespace Sys2Proof.Machine

/-! ### Reads of the walker and of package services -/

inductive Got where
  | bytes (s : State) (l : List Byte)
  | bad (c : Cause) (va : Nat)
  | noCtx

/-- The pages of a read, one after another. -/
def readPages (d : DieId) (tag : Tag) : List (Nat × Nat) → State → List Byte → Got
  | [], s, acc => .bytes s acc
  | (va, n) :: r, s, acc =>
    match s.translate d tag va .read with
    | .noCtx => .noCtx
    | .bad c => .bad c va
    | .ok t s' =>
      if s'.isLocal t then
        if !s'.reaches d t then .bad .peerUnreachable va
        else match s'.homeReadBad t n with
          | some c => .bad c va
          | none => readPages d tag r (s'.noteRead t n) (acc ++ s'.homeBytes t n)
      else if (s'.liveRoutes d t.pkg).isEmpty then .bad .peerUnreachable va
      else readPages d tag r s' (acc ++ s'.farBytes va n)

def State.readVa (s : State) (d : DieId) (tag : Tag) (va : Word) (n : Nat) : Got := readPages d tag (pagesOf va.toNat n) s []

/-! ### Stopping an instance (R263, R372) -/

/-- A running instance moves to aborting: no more emission, and its boxes that have not started are dropped. -/
def State.stopInst (s : State) (d : DieId) (id : Nat) : State :=
  match (s.runner d).inst id with
  | none => s
  | some i =>
    if i.state ≠ 1 then s
    else (s.modInst d id fun i => { i with state := 2 }).modRunner d fun r =>
      { r with boxes := r.boxes.filter fun b => !(b.inst == some id && b.state == .queued && !b.checked) }

/-! ### The request (R371) -/

/-- Lowest and highest destination offset over all boxes of a record, from the affine extremes. -/
def rcSpan (b : Rec) : Int × Int :=
  let t := rcTemplate b
  let e := (bxDestSide t ⟨bxDst t, 0, 0⟩).extremes t (bxDst t).toInt (bxDims t)
  if rcTotal b = 0 ∨ bxCount t = 0 then (0, -1)
  else
    (rcLevels b).foldl (fun p l =>
      let x : Int := rcDofs b l * ((rcBound b l : Int) - 1)
      (p.1 + min 0 x, p.2 + max 0 x)) e

def wordsOf : Nat → List Byte → List Word
  | 0, _ => []
  | n + 1, l => BitVec.ofNat 64 (leNat (l.take 8)) :: wordsOf n (l.drop 8)

def AbortRound.fresh (q : AbortReq) (vf : Nat) : AbortRound :=
  ⟨q.ctx, q.seq, q.dbuf, q.ranktab, q.lo, q.hi, vf, [], [], [], [], [], 0, []⟩

def Package.round (p : Package) (ctx : BitVec 16) (sq : W32) : Option AbortRound :=
  p.rounds.find? fun r => r.ctx == ctx && r.seq == sq

def State.modRound (s : State) (ctx : BitVec 16) (sq : W32) (f : AbortRound → AbortRound) : State :=
  s.modPkg fun p => { p with rounds := p.rounds.map fun r => if r.ctx = ctx ∧ r.seq = sq then f r else r }

/-- A request at the resolver opens the round of its SEQ, or joins it, open or closed. -/
def State.openRound (s : State) (q : AbortReq) (vf : Nat) : State :=
  if (s.pkg.round q.ctx q.seq).isSome then s
  else s.modPkg fun p => { p with rounds := p.rounds ++ [AbortRound.fresh q vf] }

/-- What asking for an abort comes to. -/
inductive Asked where
  | ok (s : State)
  | bad (c : Cause) (va : Nat)
  | noCtx

/-- An instance that no resolver can be asked about, its ranks unread or out of reach, is stopped by itself: a round of
no rank, whose outcome is aborted (log 25). -/
def Asked.orAlone (a : Asked) (s : State) (d : DieId) (i : Inst) : State :=
  match a with
  | .ok t => t
  | _ => (s.stopInst d i.id).openRound ⟨i.tag.ctx, i.seq, rcDbuf i.bits, [], 0, 0⟩ i.tag.vf

/-- An instance is stopped and its abort goes to the resolver, the package of rank 0's header; a record without a
buffer has no header, and its round is kept here (log 25). A resolver elsewhere is outside the machine (log 20). -/
def State.abortInst (s : State) (d : DieId) (i : Inst) : Asked :=
  let b := i.bits
  match s.readVa d i.tag (rcRanktab b) (8 * rcRanks b) with
  | .noCtx => .noCtx
  | .bad c va => .bad c va
  | .bytes s1 bs =>
    let ranks := wordsOf (rcRanks b) bs
    let span := rcSpan b
    let q : AbortReq := ⟨i.tag.ctx, i.seq, rcDbuf b, if rcDbuf b = 0 then [] else ranks, BitVec.ofInt 64 span.1,
      BitVec.ofInt 64 span.2⟩
    if rcDbuf b = 0 then .ok ((s1.stopInst d i.id).openRound q i.tag.vf)
    else
      let va := rcDbuf b + ranks.headD 0
      match s1.translate d i.tag va.toNat .read with
      | .noCtx => .noCtx
      | .bad c => .bad c va.toNat
      | .ok t s2 =>
        if s2.isLocal t then .ok ((s2.stopInst d i.id).openRound q i.tag.vf)
        else if (s2.liveRoutes d t.pkg).isEmpty then .bad .peerUnreachable va.toNat
        else .ok (s2.stopInst d i.id)

/-- ABORT_REQUEST: a request of another package reaches this resolver; its function is that of the context. -/
def execAbortRequest (q : AbortReq) (s : State) : Host.Outcome State Fault Refusal :=
  .next <|
    match s.ctxEntry q.ctx with
    | some e => s.openRound q e.vf
    | none => s

/-! ### Settle and stop (R372) -/

/-- A record of a walker instance that has ended: its access and position are stated nowhere (log 24). -/
def State.instRecord (s : State) (d : DieId) (ctx : BitVec 16) (sq : W32) (cause : Cause) (va : Nat) (origin : BitVec 16) :
    Option State :=
  (s.postFault d ⟨0, ctx, 2, s.accessCode none, true, cause, BitVec.ofNat 64 va, 0, sq, s.free 1, 0, origin, d⟩).map (·.1)

def AbortRound.tag (r : AbortRound) : Tag := ⟨r.ctx, r.vf, true, none⟩
def AbortRound.header (r : AbortRound) (rank : Nat) : Word := r.dbuf + r.ranktab.getD rank 0

/-- A settle or a repair that cannot be made: the fault is posted, and the round stays open. None: no record can be
stored yet. -/
def State.cutOff (s : State) (r : AbortRound) (rank : Nat) (cause : Cause) : Option State :=
  (s.instRecord 0 r.ctx r.seq cause (r.header rank).toNat 0xFFFF).map fun t =>
    t.modRound r.ctx r.seq fun x => { x with unreached := rank :: x.unreached }

def State.unreached (s : State) (r : AbortRound) (rank : Nat) (cause : Cause) : State := (s.cutOff r rank cause).getD s

def State.settled (s : State) (r : AbortRound) (rank : Nat) (committed : Bool) : State :=
  s.modRound r.ctx r.seq fun x =>
    if x.replies.any fun p => p.1 == rank then x else { x with replies := (rank, committed) :: x.replies }

/-- The settle at a header home of this package. -/
def State.settleAt (s : State) (r : AbortRound) (rank : Nat) (t : Target) : State :=
  let unfit : State :=
    match s.instRecord 0 r.ctx r.seq .publishState (r.header rank).toNat 0xFFFF with
    | some x => x.settled r rank false
    | none => s
  if (r.header rank).toNat % 64 ≠ 0 then unfit
  else match s.header t with
    | .bad c => s.unreached r rank c
    | .unfit => unfit
    | .at_ h =>
      if h.pseq = r.seq then s.settled r rank true
      else (s.setHead t r.seq h.sel).settled r rank false

/-- The settle of a rank is under way in a window. -/
def State.settling (s : State) (r : AbortRound) (rank : Nat) : Bool :=
  (s.runner 0).srcWins.any fun w => w.out.any fun o => o.owner == .round r.ctx r.seq rank

/-- SETTLE: one for each rank of an undecided round; what is sent to a killed context is dropped (R378). -/
def execSettle (ctx : BitVec 16) (sq : W32) (rank : Nat) (s : State) : Host.Outcome State Fault Refusal :=
  .next <|
    match s.pkg.round ctx sq with
    | none => s
    | some r =>
      if r.outcome ≠ 0 || decide (r.ranktab.length ≤ rank) || r.unreached.contains rank ||
          (r.replies.any fun p => p.1 == rank) || s.pkg.killed.contains ctx || s.settling r rank then s
      else match s.translate 0 r.tag (r.header rank).toNat .combine with
        | .noCtx => s.internalCheck 0 ctx
        | .bad c => s.unreached r rank c
        | .ok t s1 =>
          if s1.isLocal t then
            if !s1.reaches 0 t then s.unreached r rank .peerUnreachable
            else if s1.homeFree t 64 then s1.settleAt r rank t else s
          else match s1.sendFar 0 t.pkg (.round ctx sq rank) (farReq 7 r.tag t 0 0 (sq.setWidth 64) 0) with
            | .sent s2 => s2
            | .full => s
            | .bad c => s.unreached r rank c

/-- STOP: a stop of the round reaches a runner die. -/
def execStop (d : DieId) (ctx : BitVec 16) (sq : W32) (s : State) : Host.Outcome State Fault Refusal :=
  .next <|
    let t := s.modRound ctx sq fun r => if r.stopped.contains d then r else { r with stopped := d :: r.stopped }
    match (s.runner d).instOf ctx sq with
    | some i => t.stopInst d i.id
    | none => t

/-! ### Outcome and repair (R373) -/

def AbortRound.settledAll (r : AbortRound) : Bool :=
  (List.range r.ranktab.length).all fun k => r.replies.any fun p => p.1 == k

def AbortRound.committed (r : AbortRound) (k : Nat) : Bool := r.replies.any fun p => p.1 == k && p.2
def AbortRound.source (r : AbortRound) : Option Nat := (List.range r.ranktab.length).find? r.committed

/-- Sealed ranks whose header has not flipped. -/
def AbortRound.pending (r : AbortRound) : List Nat :=
  (List.range r.ranktab.length).filter fun k => !r.committed k && !r.repaired.contains k

/-- ABORT_OUTCOME: with every settle answered. -/
def execAbortOutcome (ctx : BitVec 16) (sq : W32) (s : State) : Host.Outcome State Fault Refusal :=
  .next <|
    match s.pkg.round ctx sq with
    | none => s
    | some r =>
      if r.outcome ≠ 0 || !r.settledAll then s
      else s.modRound ctx sq fun r =>
        { r with told := [], outcome := if r.source.isNone then 1 else if r.pending.isEmpty then 3 else 2 }

/-- A header read by package services. -/
def State.headerVa (s : State) (r : AbortRound) (rank : Nat) : Except Cause (State × Header) :=
  match s.readVa 0 r.tag (r.header rank) 64 with
  | .bytes t bs => .ok (t, headerOf bs)
  | .bad c _ => .error c
  | .noCtx => .error .internalCheck

/-- The descriptor of a raw copy of n bytes in deadline class 2, released at pod scope. -/
def rawCopy (src dst : Word) (n : Nat) : Desc :=
  let ctl : Word := (5 <<< 44) ||| (2 <<< 36) ||| (1 <<< 24) ||| (1 <<< 8) ||| (1 <<< 4) ||| 1
  src.setWidth 1024 ||| (dst.setWidth 1024 <<< 64) ||| ((BitVec.ofNat 32 n).setWidth 1024 <<< 128) |||
    ((1#32).setWidth 1024 <<< 160) ||| ((1#32).setWidth 1024 <<< 192) ||| (ctl.setWidth 1024 <<< 832)

/-- The boxes of a repair copy: at most 2^31 bytes each. -/
def State.repairBoxes (s : State) (r : AbortRound) (rank : Nat) (src dst : Word) : Nat → Nat → State
  | 0, _ => s
  | k + 1, n =>
    let m := min n (2 ^ 31)
    let mid := s.pkg.moveid
    let t := (s.addBox 0 fun mid =>
      { Box.fresh mid 0 (rawCopy src dst m) r.tag .services none [] [] with exempt := true }).modRound r.ctx r.seq fun x =>
        { x with copies := (rank, mid) :: x.copies }
    t.repairBoxes r rank (src + BitVec.ofNat 64 m) (dst + BitVec.ofNat 64 m) k (n - m)

/-- The repair copy of a sealed rank starts: both halves are read at their headers. -/
def State.startRepair (s : State) (r : AbortRound) (source rank : Nat) : State :=
  match s.headerVa r source with
  | .error c => s.unreached r rank c
  | .ok (s1, hs) =>
    match s1.headerVa r rank with
    | .error c => s.unreached r rank c
    | .ok (s2, hq) =>
      let n := (r.hi - r.lo + 1).toNat
      s2.repairBoxes r rank (hs.shown + r.lo) (hq.shadow + r.lo) (max 1 ((n + 2 ^ 31 - 1) / 2 ^ 31)) n

/-- A rank's repair flip is done; with the last one the outcome is complete. -/
def State.repaired (s : State) (r : AbortRound) (rank : Nat) : State :=
  s.modRound r.ctx r.seq fun x =>
    let y := { x with repaired := rank :: x.repaired }
    if y.pending.isEmpty then { y with outcome := 3, told := [] } else y

/-- The repair flip: SEL changes and PSEQ stays; at another package its answer is awaited. -/
def State.flipBack (s : State) (r : AbortRound) (rank : Nat) : State :=
  match s.translate 0 r.tag (r.header rank).toNat .combine with
  | .noCtx => s.internalCheck 0 r.ctx
  | .bad c => s.unreached r rank c
  | .ok t s1 =>
    if s1.isLocal t then
      if !s1.homeFree t 64 then s
      else match s1.header t with
        | .bad c => s.unreached r rank c
        | .unfit => s.unreached r rank .publishState
        | .at_ h => (s1.setHead t h.pseq !h.sel).repaired r rank
    else match s1.sendFar 0 t.pkg (.repair r.ctx r.seq rank) (farReq 3 r.tag t 64 12 (r.seq.setWidth 64) 0) with
      | .sent s2 => s2
      | .full => s
      | .bad c => s.unreached r rank c

/-- The repair flip of a rank is under way in a window. -/
def State.flipping (s : State) (r : AbortRound) (rank : Nat) : Bool :=
  (s.runner 0).srcWins.any fun w => w.out.any fun o => o.owner == .repair r.ctx r.seq rank

/-- REPAIR_FLIP: a sealed rank's copy is started, and once its boxes have completed its header flips. -/
def execRepairFlip (ctx : BitVec 16) (sq : W32) (rank : Nat) (s : State) : Host.Outcome State Fault Refusal :=
  .next <|
    match s.pkg.round ctx sq with
    | none => s
    | some r =>
      match r.source with
      | none => s
      | some source =>
        if r.outcome ≠ 2 || !r.pending.contains rank || r.unreached.contains rank || s.pkg.killed.contains ctx ||
            s.flipping r rank then s
        else if !r.copies.any fun c => c.1 == rank then
          if 256 ≤ (s.runner 0).queued then s else s.startRepair r source rank
        else if r.copies.any fun c => c.1 == rank && ((s.runner 0).box c.2).isSome then s
        else s.flipBack r rank

/-! ### Outcomes at the dies (R375) -/

/-- The round of this package has sent that outcome, and the die has not had it; a round resolved elsewhere sends what
it decided. -/
def State.outcomeDue (s : State) (d : DieId) (ctx : BitVec 16) (sq : W32) (o : Fin 3) : Bool :=
  match s.pkg.round ctx sq with
  | some r => r.outcome == o.val + 1 && !r.told.contains d
  | none => true

/-- The record of an abort, at the die of a rank. -/
def State.abortRecord (s : State) (d : DieId) (ctx : BitVec 16) (sq : W32) (origin : BitVec 16) : Option State :=
  s.instRecord d ctx sq .collectiveAbort 0 origin

/-- What an outcome makes of an instance's state (Table 15-2); none: it stays. An instance that aborts becomes
committed first, and complete at the outcome's second delivery. -/
def outcomeState (state : Nat) (o : Fin 3) : Option Nat :=
  if o = 0 then (if state = 2 ∨ state = 5 then some 3 else none)
  else if state = 2 then some 4
  else if state = 4 ∧ o = 2 then some 5
  else none

/-- An instance of the walker takes a state: 3 and 5 end it. -/
def State.instTakes (s : State) (d : DieId) (i : Inst) (state : Nat) : State :=
  if state = 4 then s.modInst d i.id fun i => { i with state := 4 } else s.endInst d i state

/-- The die has had the outcome, but for an instance that only now becomes committed on its way to complete. -/
def State.outcomeTold (s : State) (d : DieId) (ctx : BitVec 16) (sq : W32) (o : Fin 3) (new : Option Nat) : State :=
  if o = 2 ∧ new = some 4 then s else s.modRound ctx sq fun r => { r with told := d :: r.told }

/-- An abort's record where the new state is aborted. -/
def State.ifAborted (s : State) (d : DieId) (ctx : BitVec 16) (sq : W32) (origin : BitVec 16) (new : Nat) : Option State :=
  if new = 3 then s.abortRecord d ctx sq origin else some s

/-- OUTCOME_RECEIVED: aborted, completion with repair in progress, or complete. An instance that has not been stopped
is stopped first; a record that can be stored nowhere keeps the outcome waiting. -/
def execOutcomeReceived (d : DieId) (ctx : BitVec 16) (sq : W32) (o : Fin 3) (s : State) :
    Host.Outcome State Fault Refusal :=
  .next <|
    if !s.outcomeDue d ctx sq o then s
    else
      match (s.runner d).instOf ctx sq with
      | some i =>
        if i.state = 1 then s
        else match outcomeState i.state o with
          | none => s.outcomeTold d ctx sq o none
          | some n => (((s.outcomeTold d ctx sq o (some n)).instTakes d i n).ifAborted d ctx sq i.tag.origin n).getD s
      | none =>
        match (s.runner d).past.find? fun p => p.ctx == ctx && p.seq == sq with
        | some p =>
          match outcomeState p.state o with
          | none => s.outcomeTold d ctx sq o none
          | some n => (((s.outcomeTold d ctx sq o (some n)).modRunner d (remember { p with state := n })).ifAborted d ctx sq
              0xFFFF n).getD s
        | none => (s.outcomeTold d ctx sq o none).modRunner d (remember ⟨ctx, sq, 3 + o.val, 0⟩)

/-! ### The walker (R261, R368) -/

/-- An instance meets a cause: it is suspended under a record (R356); with no usable context it is aborted (R348). -/
def State.instFault (s : State) (d : DieId) (i : Inst) (cause : Cause) (acc : Option Access) (va : Nat) : State :=
  if (s.ctxEntry i.tag.ctx).isNone then (s.internalCheck d i.tag.ctx).stopInst d i.id
  else if 512 ≤ (s.runner d).suspended then s
  else match s.postFault d ⟨0, i.tag.ctx, 2, s.accessCode acc, false, cause, BitVec.ofNat 64 va, 0, i.seq, s.free 1, 0,
      i.tag.origin, d⟩ with
    | some (t, id) => t.modInst d i.id fun i => { i with susp := some id }
    | none => s

/-- A field of a descriptor replaced. -/
def bxSet (b : Desc) (ofs n : Nat) (v : Int) : Desc :=
  (b &&& ~~~((BitVec.ofNat 1024 (2 ^ n - 1)) <<< ofs)) ||| ((BitVec.ofInt n v).setWidth 1024 <<< ofs)

/-- The descriptor of a point, with its peer's offset; and its header. -/
def rcBox (b : Rec) (point : Nat) (rank : Word) : Desc × Option Word :=
  let t := rcTemplate b
  let t1 := bxSet t 0 64 ((bxSrc t).toNat + rcSum b point (rcSofs b))
  let dst : Int := (bxDst t).toNat + rcSum b point (rcDofs b) + (if rcDbuf b = 0 then (rank.toNat : Int) else 0)
  let t2 := bxSet t1 64 64 dst
  let t3 := if bxCredit t ≠ 0 then bxSet t2 640 64 ((bxSem t).toNat + rank.toNat) else t2
  (t3, if rcDbuf b = 0 then none else some (rcDbuf b + rank))

/-- WALKER_EMIT: the box of the next iteration point. -/
def execWalkerEmit (d : DieId) (i : Nat) (s : State) : Host.Outcome State Fault Refusal :=
  .next <|
    match (s.runner d).insts[i]? with
    | none => s
    | some x =>
      if x.state ≠ 1 || x.susp.isSome || decide (rcTotal x.bits ≤ x.point) || decide (256 ≤ (s.runner d).queued) then s
      else
        let va := rcRanktab x.bits + BitVec.ofNat 64 (8 * rcPeer x.bits x.point)
        match s.readVa d x.tag va 8 with
        | .noCtx => (s.internalCheck d x.tag.ctx).stopInst d x.id
        | .bad c v => s.instFault d x c (some .read) v
        | .bytes s1 bs =>
          let b := rcBox x.bits x.point (BitVec.ofNat 64 (leNat bs))
          match s1.boxCheck d .walker x.tag.vf b.1 with
          | .error c => s.instFault d x c none 0
          | .ok _ =>
            (s1.addBox d fun mid => { Box.fresh mid 0 b.1 x.tag (.inst x.id) none [] [] with
              hdr := b.2, seq := x.seq, inst := some x.id }).modInst d x.id fun y =>
                { y with point := y.point + 1, emitted := y.emitted + 1 }

end Sys2Proof.Machine
end

