-- ==== Sys2Proof/Machine/PercoMove.lean ====
section
/-! DEFINITION. Boxes and collectives issued by a sequencer: the move commands (R228, R233, R238, R243, R244-R254),
NEST, SEQST and ABORT (R260-R263). -/

namespace Sys2Proof.Machine

/-- The number of a program's next box. -/
def Runner.nextNum (r : Runner) (a : Agent) : Nat :=
  (r.boxes.foldl (fun m b => if b.agent = a then max m (b.num + 1) else m) 0)

/-- The program of a sequencer, as the agent of its boxes. -/
def Seqr.agent (q : Seqr) (d : DieId) : Agent := .prog d q.prog

/-- A structure of n bytes, 128-byte aligned, in the runner store. -/
inductive StoreRead where
  | bytes (l : List Byte)
  | outside
  | damaged

def Seqr.readStruct (q : Seqr) (a : Word) (n : Nat) : StoreRead :=
  if a.toNat % 128 ≠ 0 ∨ rstoreSize < a.toNat + n then .outside
  else if storeHit q.storeBad a.toNat n then .damaged
  else .bytes (memBytes q.store a.toNat n)

/-- A move command: the descriptor is read and checked as it issues, and the box joins the queue of the die. With .sy
the program waits until the box is complete or dropped; a wait that RESUME re-enters issues nothing (R227). -/
def moveRun (kind : Nat) (a : Src) (sy : Bool) (s : State) : Host.Outcome State Fault Refusal :=
  percoRun false s fun q =>
    let d := s.curDie
    let next := q.after (1 + litWords [a])
    match q.wait with
    | some (.box mid) => if ((s.runner d).box mid).isSome then .wait s else .done s next
    | _ =>
      match q.readStruct (q.src a) 128 with
      | .outside => .fault .boxInvalid none 0
      | .damaged => .storeError
      | .bytes bs =>
        let b : Desc := BitVec.ofNat 1024 (leNat bs)
        if bxKind b ≠ kind then .fault .boxInvalid none 0
        else match s.boxCheck d (.seq s.curSeq) q.tag.vf b with
          | .error c => .fault c none 0
          | .ok dests =>
            if 256 ≤ (s.runner d).queued then .wait s
            else
              let num := (s.runner d).nextNum (q.agent d)
              let t := s.addBox d fun mid => Box.fresh mid num b q.tag (q.agent d) (some s.curSeq) [] dests
              if sy then .wait (t.modCurSeq fun q => { q with wait := some (.box s.pkg.moveid) }) else .done t next

def execCopy (a : Src) (sy : Bool) (s : State) : Host.Outcome State Fault Refusal := moveRun 1 a sy s
def execGath (a : Src) (sy : Bool) (s : State) : Host.Outcome State Fault Refusal := moveRun 2 a sy s
def execScat (a : Src) (sy : Bool) (s : State) : Host.Outcome State Fault Refusal := moveRun 3 a sy s
def execXpose (a : Src) (sy : Bool) (s : State) : Host.Outcome State Fault Refusal := moveRun 4 a sy s
def execConv (a : Src) (sy : Bool) (s : State) : Host.Outcome State Fault Refusal := moveRun 5 a sy s
def execInfl (a : Src) (sy : Bool) (s : State) : Host.Outcome State Fault Refusal := moveRun 6 a sy s
def execMcast (a : Src) (sy : Bool) (s : State) : Host.Outcome State Fault Refusal := moveRun 7 a sy s
def execRed (a : Src) (sy : Bool) (s : State) : Host.Outcome State Fault Refusal := moveRun 8 a sy s
def execFill (a : Src) (sy : Bool) (s : State) : Host.Outcome State Fault Refusal := moveRun 9 a sy s

/-! ### Collectives -/

/-- An instance starts in the die's walker. -/
def State.startInst (s : State) (d : DieId) (q : Seqr) (n : Fin 16) (b : Rec) : State :=
  let id := s.pkg.instNext
  let i : Inst := {
    id := id
    bits := b
    tag := q.tag
    prog := q.prog
    grain := q.grain
    seqn := n
    seq := rcSeq b
    state := 1
    point := 0
    emitted := 0
    susp := none }
  ((s.modRunner d fun r => trimPast { r with
      insts := r.insts ++ [i], past := r.past.filter fun x => !(x.ctx == q.tag.ctx && x.seq == rcSeq b) }).modPkg fun p => { p with instNext := id + 1 }).settleInst d id

/-- NEST: a record that breaks R260, or whose template breaks R238, is refused; the walker holds 16 instances. -/
def execNest (a : Src) (sy : Bool) (s : State) : Host.Outcome State Fault Refusal :=
  percoRun false s fun q =>
    let d := s.curDie
    let next := q.after (1 + litWords [a])
    match q.wait with
    | some (.inst id) => if ((s.runner d).inst id).isSome then .wait s else .done s next
    | _ =>
      match q.readStruct (q.src a) 256 with
      | .outside => .fault .boxInvalid none 0
      | .damaged => .storeError
      | .bytes bs =>
        let b : Rec := BitVec.ofNat 2048 (leNat bs)
        if !rcOk b || (s.boxCheck d .walker q.tag.vf (rcTemplate b)).isOk = false then .fault .boxInvalid none 0
        else if ((s.runner d).instOf q.tag.ctx (rcSeq b)).isSome then .fault .collectiveSeq none 0
        else if 16 ≤ (s.runner d).insts.length then .wait s
        else
          let t := s.startInst d q s.curSeq b
          if sy && ((t.runner d).inst s.pkg.instNext).isSome then
            .wait (t.modCurSeq fun q => { q with wait := some (.inst s.pkg.instNext) })
          else .done t next

def execSeqst (d : Reg) (a : Src) (s : State) : Host.Outcome State Fault Refusal :=
  percoSet d (1 + litWords [a]) s fun q => (s.runner s.curDie).instState q.tag.ctx ((q.src a).setWidth 32)

/-- ABORT: D takes the state as it stood; a running instance is stopped and its abort goes to the resolver. -/
def execAbort (d : Reg) (a : Src) (s : State) : Host.Outcome State Fault Refusal :=
  percoRun false s fun q =>
    let sq : W32 := (q.src a).setWidth 32
    let old := (s.runner s.curDie).instState q.tag.ctx sq
    let fin (t : State) : PRes := .done (t.modCurSeq fun q => q.setG d old) (q.after (1 + litWords [a]))
    match (s.runner s.curDie).instOf q.tag.ctx sq with
    | none => fin s
    | some i =>
      if i.state ≠ 1 then fin s
      else match s.abortInst s.curDie i with
        | .ok t => fin t
        | .bad c va => .fault c (some .read) (BitVec.ofNat 64 va)
        | .noCtx => .refused

end Sys2Proof.Machine
end

