-- ==== Sys2Proof/Machine/PercoSync.lean ====
section
/-! DEFINITION. The sequencers' semaphores, fences, atomics and header flips (R255-R259, R265), and their privileged
translation and resume instructions (R266-R268). KILLCTX stands in Kill. -/

namespace Sys2Proof.Machine

/-! ### Requests of a program to a home -/

/-- Every earlier box write of the program has performed (R255): the release waits for them. -/
def State.progReleased (s : State) (d : DieId) (q : Seqr) : Bool :=
  (s.runner d).boxes.all fun b => b.agent != q.agent d || b.written

/-- A request of the current program: translated, then performed at its home in this package once no earlier request
stands ahead there, or sent to the package that holds it. -/
def State.atHome (s : State) (q : Seqr) (va : Word) (acc : Access) (n : Nat) (here : State → Target → PRes)
    (far : State → Target → PRes) : PRes :=
  match s.translate s.curDie q.tag va.toNat acc with
  | .noCtx => .refused
  | .bad c => .fault c (some acc) va
  | .ok t s1 =>
    if s1.isLocal t then
      if !s1.reaches s.curDie t then .fault .peerUnreachable (some acc) va
      else if s1.homeFree t n then here s1 t else .wait s
    else far s1 t

/-- A request to another package whose answer the program awaits. -/
def State.askFar (s : State) (q : Seqr) (va : Word) (acc : Access) (t : Target) (r : FarReq) : PRes :=
  match s.sendFar s.curDie t.pkg (.prog s.curSeq q.prog va) r with
  | .sent t => .wait (t.modCurSeq fun q => { q with wait := some .far })
  | .full => .wait s
  | .bad c => .fault c (some acc) va

/-- An instruction that may wait for another package. -/
def farRun (s : State) (f : Seqr → Option Word → PRes) : Host.Outcome State Fault Refusal :=
  percoRun false s fun q =>
    match q.wait with
    | some .far => .wait s
    | some (.answered v) => f q (some v)
    | _ => f q none

/-! ### SEMADD, SEMWAIT, FENCE (R255-R257) -/

def execSemadd (a b : Src) (_sc : Scope) (s : State) : Host.Outcome State Fault Refusal :=
  farRun s fun q ans =>
    let va := q.src a
    let n := ((q.src b).setWidth 32).toNat
    let next := q.after (1 + litWords [a, b])
    match ans with
    | some _ => .done s next
    | none =>
      if !s.progReleased s.curDie q then .wait s
      else if va.toNat % 4 ≠ 0 then .fault .semRange (some .combine) va
      else s.atHome q va .combine 4
        (fun s1 t =>
          match s1.semAddAt t n with
          | .error c => .fault c (some .combine) va
          | .ok s2 => .done s2 next)
        fun s1 t => s1.askFar q va .combine t (farReq 4 q.tag t 4 0 (BitVec.ofNat 64 n) 0)

/-- A count of 0 completes at once, with no access (log 57). The test and the subtraction are one step at the home; at
another package the old value comes back, and the wait asks again while it is too small. -/
def execPercoSemwait (a b : Src) (_sc : Scope) (s : State) : Host.Outcome State Fault Refusal :=
  farRun s fun q ans =>
    let va := q.src a
    let n := ((q.src b).setWidth 32).toNat
    let next := q.after (1 + litWords [a, b])
    if ans.any fun v => decide (n ≤ v.toNat % 2 ^ 32) then .done s next
    else if va.toNat % 4 ≠ 0 then .fault .semRange (some .combine) va
    else if n = 0 then .done s next
    else s.atHome q va .combine 4
      (fun s1 t =>
        match s1.homeReadBad t 4 with
        | some c => .fault c (some .combine) va
        | none =>
          let v := leNat (s1.homeBytes t 4)
          if v < n then .wait s1
          else .done ((s1.noteRead t 4).homeWrite t (leBytes 4 (v - n))) next)
      fun s1 t => s1.askFar q va .combine t (farReq 3 q.tag t 4 10 (BitVec.ofNat 64 n) 0)

/-- FENCE: every earlier box of the program in the mask has completed. -/
def execPercoFence (a : Src) (_sc : Scope) (s : State) : Host.Outcome State Fault Refusal :=
  percoRun false s fun q =>
    let k : BitVec 16 := (q.src a).setWidth 16
    if (s.runner s.curDie).boxes.all fun b => b.agent != q.agent s.curDie || !k.getLsbD (bxClass b.desc) || b.written then
      .done s (q.after (1 + litWords [a]))
    else .wait s

/-! ### RATOM (R258) -/

/-- Two targets lie in one aligned 8-byte word. -/
def Target.sameWord (t u : Target) : Bool :=
  t.pkg == u.pkg && t.scratch == u.scratch && t.core == u.core && t.addr / 8 == u.addr / 8

/-- An earlier remote atomic of the program on the same word has still to perform (R327). -/
def Runner.postedAhead (l : List Posted) (prog : Nat) (t : Target) : Bool :=
  l.any fun p => p.prog == prog && p.target.sameWord t

/-- A remote atomic whose program goes on. -/
def addPosted (prog : Nat) (tag : Tag) (op bytes : Nat) (va b pc : Word) (t : Target) (r : Runner) : Runner :=
  { r with
    posted := r.posted ++ [⟨r.postedNext, prog, tag, op, bytes, va, b, pc, t, false, none⟩]
    postedNext := r.postedNext + 1 }

/-- RATOM: with D = g0 it is posted and the program goes on; .cas then compares with 0. -/
def percoRatom (op : Nat) (d : Reg) (a b : Src) (ty : Ty) (s : State) : Host.Outcome State Fault Refusal :=
  farRun s fun q ans =>
    let va := q.src a
    let n := if ty = .i64 then 8 else 4
    let next := q.after (1 + litWords [a, b])
    let put (t : State) (v : Word) : PRes := .done (t.modCurSeq fun q => q.setG d (sext64 (8 * n) v.toNat)) next
    if ty ≠ .i32 && ty ≠ .i64 then .fault .formatInvalid none 0
    else match ans with
      | some v => put s v
      | none =>
        if va.toNat % n ≠ 0 then .fault .atomicMisaligned (some .combine) va
        else if d = 0 then match s.translate s.curDie q.tag va.toNat .combine with
          | .noCtx => .refused
          | .bad c => .fault c (some .combine) va
          | .ok t s1 =>
            if s1.isLocal t && !s1.reaches s.curDie t then .fault .peerUnreachable (some .combine) va
            else if !s1.isLocal t && (s1.liveRoutes s.curDie t.pkg).isEmpty then .fault .peerUnreachable (some .combine) va
            else .done (s1.modRunner s.curDie (addPosted q.prog q.tag op n va (q.src b) q.pc t)) next
        else s.atHome q va .combine n
          (fun s1 t =>
            if Runner.postedAhead (s1.runner s.curDie).posted q.prog t then .wait s
            else match s1.atomicAt t n op (q.src b) (q.getG d) with
            | .error c => .fault c (some .combine) va
            | .ok (s2, old) => put s2 old)
          fun s1 t =>
            if Runner.postedAhead (s1.runner s.curDie).posted q.prog t then .wait s
            else s1.askFar q va .combine t (farReq 3 q.tag t n op (q.src b) (q.getG d))

def execPercoRatomAdd (d : Reg) (a b : Src) (ty : Ty) (s : State) : Host.Outcome State Fault Refusal :=
  percoRatom 0 d a b ty s
def execPercoRatomAnd (d : Reg) (a b : Src) (ty : Ty) (s : State) : Host.Outcome State Fault Refusal :=
  percoRatom 1 d a b ty s
def execPercoRatomOr (d : Reg) (a b : Src) (ty : Ty) (s : State) : Host.Outcome State Fault Refusal :=
  percoRatom 2 d a b ty s
def execPercoRatomXor (d : Reg) (a b : Src) (ty : Ty) (s : State) : Host.Outcome State Fault Refusal :=
  percoRatom 3 d a b ty s
def execPercoRatomMin (d : Reg) (a b : Src) (ty : Ty) (s : State) : Host.Outcome State Fault Refusal :=
  percoRatom 4 d a b ty s
def execPercoRatomMax (d : Reg) (a b : Src) (ty : Ty) (s : State) : Host.Outcome State Fault Refusal :=
  percoRatom 5 d a b ty s
def execPercoRatomMinu (d : Reg) (a b : Src) (ty : Ty) (s : State) : Host.Outcome State Fault Refusal :=
  percoRatom 6 d a b ty s
def execPercoRatomMaxu (d : Reg) (a b : Src) (ty : Ty) (s : State) : Host.Outcome State Fault Refusal :=
  percoRatom 7 d a b ty s
def execPercoRatomSwap (d : Reg) (a b : Src) (ty : Ty) (s : State) : Host.Outcome State Fault Refusal :=
  percoRatom 8 d a b ty s
def execPercoRatomCas (d : Reg) (a b : Src) (ty : Ty) (s : State) : Host.Outcome State Fault Refusal :=
  percoRatom 9 d a b ty s

def State.modPosted (s : State) (d : DieId) (id : Nat) (f : Posted → Option Posted) : State :=
  s.modRunner d fun r => { r with posted := r.posted.filterMap fun p => if p.id = id then f p else some p }

/-- A posted atomic meets a cause at its home: it is suspended under a record (R121); none: no record can be stored. -/
def State.postedStop (s : State) (d : DieId) (p : Posted) (cause : Cause) : Option State :=
  if (s.ctxEntry p.tag.ctx).isNone then some ((s.internalCheck d p.tag.ctx).modPosted d p.id fun _ => none)
  else if 512 ≤ (s.runner d).suspended then none
  else (s.postFault d ⟨0, p.tag.ctx, 1, Access.combine.code, false, cause, p.va, 0, 0, p.pc, 0, p.tag.origin, d⟩).map fun x =>
    x.1.modPosted d p.id fun p => some { p with susp := some x.2, away := false }

/-- A posted atomic goes to its home, behind those of its program on the same word; in this package it performs once no
earlier request stands ahead there. -/
def State.postedTurn (s : State) (d : DieId) (i : Nat) : State :=
  let l := (s.runner d).posted
  match l[i]? with
  | none => s
  | some p =>
    if p.away || p.susp.isSome || Runner.postedAhead (l.take i) p.prog p.target then s
    else if s.isLocal p.target then
      if !s.homeFree p.target p.bytes then s
      else if s.pkg.killed.contains p.tag.ctx then s.modPosted d p.id fun _ => none
      else match s.atomicAt p.target p.bytes p.op p.b 0 with
        | .error c => (s.postedStop d p c).getD s
        | .ok (t, _) => t.modPosted d p.id fun _ => none
    else match s.sendFar d p.target.pkg (.posted p.id) (farReq 3 p.tag p.target p.bytes p.op p.b 0) with
      | .sent t => t.modPosted d p.id fun p => some { p with away := true }
      | .full => s
      | .bad c => (s.postedStop d p c).getD s

/-! ### WAKEA (R259) -/

/-- WAKEA: every watcher of the line is answered with its word as it stands; nothing is written. -/
def execWakea (a : Src) (_sc : Scope) (s : State) : Host.Outcome State Fault Refusal :=
  percoRun false s fun q =>
    let va := q.src a
    let next := q.after (1 + litWords [a])
    if !s.progReleased s.curDie q then .wait s
    else s.atHome q va .read 1
      (fun s1 t => .done (s1.fireOn (s1.watchDie t) fun w => w.onLine t.scratch t.core t.addr 1) next)
      fun s1 t =>
        match s1.sendFar s.curDie t.pkg .nobody (farReq 6 q.tag t 0 1 0 0) with
        | .sent s2 => .done s2 next
        | .full => .wait s
        | .bad c => .fault c (some .read) va

/-! ### PUBLISH (R265, R337) -/

/-- PUBLISH: the release, then the flip, which is a step of its own at the header's home (PUBLISH_FLIP). -/
def execPublish (a b : Src) (_sc : Scope) (s : State) : Host.Outcome State Fault Refusal :=
  farRun s fun q ans =>
    let va := q.src a
    let sq : W32 := (q.src b).setWidth 32
    match ans, q.wait with
    | some _, _ => .done s (q.after (1 + litWords [a, b]))
    | none, some (.flip ..) => .wait s
    | none, _ =>
      if !s.progReleased s.curDie q then .wait s
      else if va.toNat % 64 ≠ 0 then .fault .atomicMisaligned (some .combine) va
      else s.atHome q va .combine 64
        (fun s1 t => .wait (s1.modCurSeq fun q => { q with wait := some (.flip t sq va) }))
        fun s1 t => s1.askFar q va .combine t (farReq 3 q.tag t 64 11 (sq.setWidth 64) 0)

/-- A program fault met while its request was away: the next try makes the request anew; PUBLISH_STATE ends the
program. None: no record can be stored yet. -/
def State.progLost (s : State) (d : DieId) (n : Fin 16) (cause : Cause) (acc : Access) (va : Word) : Option State :=
  if cause = .publishState then s.progUnfit d n va
  else s.progStop d n cause (some acc) va 0 fun q => { q with wait := none }

/-- PUBLISH_FLIP: one step at the header's home: a header already at this SEQ is left; any other flips. -/
def execPublishFlip (d : DieId) (n : Fin 16) (s : State) : Host.Outcome State Fault Refusal :=
  .next <|
    let q := s.seqr d n
    match q.wait with
    | some (.flip t sq va) =>
      if !q.running || q.susp.isSome || !s.homeFree t 64 then s
      else match s.header t with
        | .bad c => (s.progLost d n c .combine va).getD s
        | .unfit => (s.progLost d n .publishState .combine va).getD s
        | .at_ h =>
          let s1 := if h.pseq = sq then s else s.setHead t sq !h.sel
          s1.modSeq d n fun q => { q with wait := some (.answered 0) }
    | _ => s

/-! ### TLBINV, MAPCHK (R266, R267) -/

/-- Requests of the contexts selected are still unanswered or unperformed. -/
def State.requestsOut (s : State) (f : BitVec 16 → Bool) : Bool :=
  (allCores.any fun c => ((s.core c).bankq.any fun r => f r.tag.ctx) ||
    (s.ratomsOf c).any fun r => f r.tag.ctx && (r.phase == .travelling || r.phase == .atHome)) ||
  allDies.any fun d => ((s.runner d).posted.any fun p => f p.tag.ctx && p.susp.isNone) ||
    ((s.runner d).seqs.any fun q => f q.tag.ctx && q.running && match q.wait with
      | some (.flip ..) => true
      | _ => false) || ((s.runner d).hbmq.any fun r => f r.tag.ctx) || (s.runner d).srcWins.any fun w => w.out.any fun o =>
    f o.req.ctx && match o.owner with
      | .waita .. => false
      | _ => true

/-- A watch whose line is translated otherwise now. -/
def State.watchMoved (s : State) (d : DieId) (w : Watch) : Bool :=
  w.pkg.toNat == s.pkg.pkgid.toNat && match s.lookup d w.ctx w.va.toNat with
    | .leaf e _ => e.target w.va.toNat != w.target
    | _ => true

/-- Translations are dropped on all four dies, and watches whose translation has changed are answered. -/
def State.dropTlb (s : State) (f : TlbEntry → Bool) (w : WalkEntry → Bool) (g : Watch → Bool) : State :=
  let s1 := { s with dies := s.dies.map fun r => { r with
    tlb := r.tlb.filter fun e => !f e, walks := r.walks.filter fun e => !w e } }
  allDies.foldl (fun t d => t.fireOn d fun w => g w && t.watchMoved d w) s1

def tlbRun (words : Nat) (s : State) (ctxs : Seqr → BitVec 16 → Bool) (f : Seqr → TlbEntry → Bool)
    (w : Seqr → WalkEntry → Bool) (g : Seqr → Watch → Bool) : Host.Outcome State Fault Refusal :=
  percoRun true s fun q =>
    let t := s.dropTlb (f q) (w q) (g q)
    if t.requestsOut (ctxs q) then .wait t else .done t (q.after words)

/-- TLBINV: the page that holds A, in context B. -/
def execTlbinv (a b : Src) (s : State) : Host.Outcome State Fault Refusal :=
  let ctx (q : Seqr) : BitVec 16 := (q.src b).setWidth 16
  let page (q : Seqr) (e : TlbEntry) : Bool := e.holds (ctx q) (q.src a).toNat
  tlbRun (1 + litWords [a, b]) s (fun q c => c == ctx q) page
    (fun q w => w.ctx == ctx q && (w.lvl == 4 || (decide (w.base ≤ (q.src a).toNat) && decide ((q.src a).toNat < w.base + w.size))))
    fun q w =>
    w.ctx == ctx q && ((q.src a).toNat / 4096 == w.va.toNat / 4096 ||
      allDies.any fun d => (s.runner d).tlb.any fun e => page q e && e.holds w.ctx w.va.toNat)

/-- TLBINV .ctx. -/
def execTlbinvCtx (a b : Src) (s : State) : Host.Outcome State Fault Refusal :=
  let ctx (q : Seqr) : BitVec 16 := (q.src b).setWidth 16
  tlbRun (1 + litWords [a, b]) s (fun q c => c == ctx q) (fun q e => e.ctx == ctx q) (fun q w => w.ctx == ctx q)
    fun q w => w.ctx == ctx q

/-- TLBINV .all. -/
def execTlbinvAll (s : State) : Host.Outcome State Fault Refusal :=
  tlbRun 1 s (fun _ _ => true) (fun _ _ => true) (fun _ _ => true) fun _ _ => true

/-- MAPCHK: 0, or the cause of orders 1 to 5; 62 for a context without a usable entry. -/
def execMapchk (d : Reg) (a b : Src) (sup wr : Bool) (s : State) : Host.Outcome State Fault Refusal :=
  percoRun true s fun q =>
    let put (t : State) (n : Nat) : PRes :=
      .done (t.modCurSeq fun q => q.setG d (BitVec.ofNat 64 n)) (q.after (1 + litWords [a, b]))
    match s.lookup s.curDie ((q.src b).setWidth 16) (q.src a).toNat with
    | .noCtx => put s Cause.internalCheck.code
    | .bad c => put s c.code
    | .leaf e fill =>
      if permOk e.perms sup (if wr then .write else .read) then put (s.modRunner s.curDie fill) 0
      else put s Cause.pagePermission.code

/-! ### RESUME (R227, R241, R268, R364) -/

/-- Work suspended under a record identifier. -/
inductive Work where
  | box (d : DieId) (mid : W32)
  | prog (d : DieId) (n : Fin 16)
  | inst (d : DieId) (i : Inst)
  | fill (d : DieId) (i : Nat) (f : Fill)
  | ratom (c : CoreId) (r : Ratom)
  | waita (c : CoreId)
  | posted (d : DieId) (id : Nat)

def State.suspendedAt (s : State) (d : DieId) (id : W32) : Option Work :=
  let r := s.runner d
  (((r.boxes.find? fun b => b.state == .suspended id).map fun b => Work.box d b.mid).or
    (((List.finRange 16).find? fun n => (r.seqs.get n).running && (r.seqs.get n).susp == some id).map fun n => Work.prog d n)).or
  (((r.insts.find? fun i => i.susp == some id).map fun i => Work.inst d i).or
    (((r.fills.zipIdx.find? fun f => f.1.susp == some id).map fun f => Work.fill d f.2 f.1).or
      ((r.posted.find? fun p => p.susp == some id).map fun p => Work.posted d p.id)))

def State.suspendedOn (s : State) (c : CoreId) (id : W32) : Option Work :=
  (((s.ratomsOf c).find? fun r => r.phase == .suspended && r.susp == some id).map fun r => Work.ratom c r).or
    (if (s.core c).stem.waita.any fun w => w.phase == .suspended && w.susp == some id then some (.waita c) else none)

def State.work (s : State) (id : W32) : Option Work :=
  (allDies.findSome? fun d => s.suspendedAt d id).or (allCores.findSome? fun c => s.suspendedOn c id)

/-- RESUME with SUB 0. -/
def State.resumeWork (s : State) (w : Work) : State :=
  match w with
  | .box d mid => s.modBox d mid fun b => { b with state := .queued }
  | .prog d n => s.modSeq d n fun q => { q with susp := none, waitSince := none }
  | .inst d i => s.modInst d i.id fun i => { i with susp := none }
  | .fill d i _ => s.modFill d i fun f => some { f with susp := none }
  | .ratom c r =>
    (s.setRatom c r.id fun q => { q with susp := none, phase := .travelling, target := none }).enterDie (dieOf c)
      ⟨c, r.id, false, none⟩
  | .waita c => s.setWaita c fun w => { w with phase := .travelling, susp := none }
  | .posted d id => s.modPosted d id fun p => some { p with susp := none }

/-- RESUME .drop. A dropped remote atomic or watch is answered with a value that the spec states nowhere (log 24). -/
def State.dropWork (s : State) (w : Work) : State :=
  match w with
  | .box d mid => s.dropBox d mid
  | .prog d n => s.endProg d n
  | .inst d i =>
    ((s.abortInst d i).orAlone s d i).modInst d i.id fun i => { i with susp := none }
  | .fill d i f => s.dropFill d i f
  | .ratom c r => s.ratomDropped c r
  | .waita c => s.setWaita c fun w => { w with phase := .replying, seen := s.free 3 }
  | .posted d id => s.modPosted d id fun _ => none

def resumeRun (act : State → Work → State) (d : Reg) (a : Src) (s : State) : Host.Outcome State Fault Refusal :=
  percoRun true s fun q =>
    let next := q.after (1 + litWords [a])
    match s.work ((q.src a).setWidth 32) with
    | none => .done (s.modCurSeq fun q => q.setG d 1) next
    | some w => .done ((act s w).modCurSeq fun q => q.setG d 0) next

def execResume (d : Reg) (a : Src) (s : State) : Host.Outcome State Fault Refusal :=
  resumeRun State.resumeWork d a s
def execResumeDrop (d : Reg) (a : Src) (s : State) : Host.Outcome State Fault Refusal :=
  resumeRun State.dropWork d a s

end Sys2Proof.Machine
end

