-- ==== Sys2Proof/Machine/Matrix.lean ====
section
/-! DEFINITION. The stem's issue of matrix commands and prefixes (R196-R199, R203, R207, R213). -/

namespace Sys2Proof.Machine

/-! ### Fields (Tables 06-2, 06-5 to 06-7) -/

def mZero (m : BitVec 6) : Bool := m.getLsbD 0
def mChunk (m : BitVec 6) : Bool := m.getLsbD 1
def mEmit (m : BitVec 6) : Bool := m.getLsbD 2
def mStart (m : BitVec 6) : Bool := m.getLsbD 3
def mRagged (m : BitVec 6) : Bool := m.getLsbD 4
def mPred (m : BitVec 6) : Bool := m.getLsbD 5

def adrA (a : Word) : Nat := (a.extractLsb' 0 21).toNat
def adrB (a : Word) : Nat := (a.extractLsb' 21 21).toNat
def adrP (a : Word) : Nat := (a.extractLsb' 42 21).toNat

def sizM (s : Word) : Nat := (s.extractLsb' 0 8).toNat
def sizN (s : Word) : Nat := (s.extractLsb' 8 8).toNat
def sizK (s : Word) : Nat := (s.extractLsb' 16 13).toNat
def sizLda (s : Word) : Nat := (s.extractLsb' 29 10).toNat
def sizLdb (s : Word) : Nat := (s.extractLsb' 39 10).toNat

def ctlTile (c : Word) : Nat := (c.extractLsb' 0 2).toNat
def ctlMould (c : Word) : Nat := (c.extractLsb' 2 1).toNat
def ctlHad (c : Word) : Nat := (c.extractLsb' 3 3).toNat
def ctlSlot (c : Word) : Nat := (c.extractLsb' 6 2).toNat
def ctlFill (c : Word) : Bool := c.getLsbD 8
def ctlKept (c : Word) : Nat := 16 * ((c.extractLsb' 10 3).toNat + 1)
def ctlMeta (c : Word) : Nat := (c.extractLsb' 13 21).toNat
def ctlRow0 (c : Word) : Nat := (c.extractLsb' 34 15).toNat
def ctlCol0 (c : Word) : Nat := (c.extractLsb' 49 15).toNat

/-- The bank group of an address. -/
def groupOf (a : Nat) : Nat := a / 2 ^ 19 % 4

/-! ### Prefixes (R198) -/

/-- An MWAIT or MSIG whose slot is free: the address must be a semaphore's. -/
def prefixRun (a b : Src) (sc : Scope) (pending : Core → Option Prefix) (fill : Prefix → Mat → Mat) (s : State) :
    Host.Outcome State Fault Refusal :=
  stemRun (srcRegs a ++ srcRegs b) [] s fun c =>
    if (pending c).isSome then .mtrap .mcmdInvalid 0
    else if scratchSize ≤ (c.src a).toNat || (c.src a).toNat % 4 != 0 then .mtrap .semRange (c.src a)
    else .done (s.setCore s.cur (c.setMat (fill ⟨(c.src a).toNat, (c.src b).setWidth 32, sc⟩ c.mat)))
      (c.after (1 + litWords [a, b]))

def execMwait (a b : Src) (sc : Scope) (s : State) : Host.Outcome State Fault Refusal :=
  prefixRun a b sc (·.mat.pwait) (fun p m => { m with pwait := some p }) s
def execMsig (a b : Src) (sc : Scope) (s : State) : Host.Outcome State Fault Refusal :=
  prefixRun a b sc (·.mat.psig) (fun p m => { m with psig := some p }) s

/-! ### The queue (R199, R220) -/

/-- The mould a command names. -/
def MCmd.mould : MCmd → Option (Fin 2)
  | .mma _ ctl _ _ _ => some ⟨ctlMould ctl % 2, by omega⟩
  | .mclr m => some m
  | .memit _ m _ => some m
  | .mtld m _ => some m
  | .mtst m _ => some m
  | .mtbar _ _ => none
  | .mfmt _ _ => none

/-- With every entry in use the oldest retained command is dropped, and the window of its mould is lost (R220). -/
def Mat.makeRoom (m : Mat) : Mat :=
  if m.queue.length + m.kept.length < 16 then m
  else match m.kept with
    | [] => m
    | e :: rest => { m with
        kept := rest
        lost := match e.cmd.mould with
          | some k => m.lost.set k.val true k.isLt
          | none => m.lost }

/-- A carrier is queued with the prefixes and the slots as they stand. -/
def Core.queueCmd (c : Core) (cmd : MCmd) : Core :=
  let m := c.mat.makeRoom
  c.setMat { m with
    queue := m.queue ++ [⟨cmd, c.stem.pc, m.pwait, m.psig, c.slots, ⟨0, 0, 0, 0⟩⟩]
    pwait := none
    psig := none }

/-- A carrier command: its issue check on the core, then the wait for the stem's stores (R202) and for an entry, then
the queue. -/
def carrierRun (srcs : List Src) (s : State) (check : Core → Option (Cause × Word)) (cmd : Core → MCmd) :
    Host.Outcome State Fault Refusal :=
  stemRun (srcs.flatMap srcRegs) [] s fun c =>
    match check c with
    | some (cause, val) => .mtrap cause val
    | none =>
      if !c.stem.stq.isEmpty || 16 ≤ c.mat.queue.length then .wait s
      else .done (s.setCore s.cur (c.queueCmd (cmd c))) (c.after (1 + litWords srcs))

/-! ### MMA and MMAS (R207) -/

/-- A field that the command does not use is zero. -/
def unusedZero (used : Bool) (n : Nat) : Bool := used || n == 0

/-- The fields of CTL, ADDR and SIZE are in range, and those not used are zero. -/
def mmaFields (sparse : Bool) (ctl addr size : Word) (m : BitVec 6) : Bool :=
  !addr.getLsbD 63 && size.extractLsb' 49 15 == 0 && !ctl.getLsbD 9 &&
    unusedZero (mPred m) (adrP addr) && unusedZero (mRagged m || mPred m) (if ctlFill ctl then 1 else 0) &&
    unusedZero (mRagged m) (ctlSlot ctl) && unusedZero (mRagged m) (ctlRow0 ctl) &&
    unusedZero (mRagged m) (ctlCol0 ctl) && unusedZero (mChunk m || mEmit m) (ctlTile ctl) &&
    unusedZero sparse (ctlMeta ctl) && unusedZero sparse (ctlKept ctl - 16) &&
    decide (sizM size ≤ 128) && decide (sizN size ≤ 128) && !(mChunk m && mEmit m) &&
    !(mStart m && !mZero m && !mChunk m) && (ctlHad ctl == 0 || sizK size % 2 ^ ctlHad ctl == 0)

/-- The first of the used addresses off its alignment. -/
def mmaMisaligned (sparse : Bool) (ctl addr : Word) (m : BitVec 6) : Option Nat :=
  ([(adrA addr, 64), (adrB addr, 64)] ++ (if mPred m then [(adrP addr, 16)] else []) ++
    (if sparse then [(ctlMeta ctl, 16)] else [])).findSome? fun (q : Nat × Nat) => if q.1 % q.2 = 0 then none else some q.1

/-- The issue checks of MMA and MMAS, in the order of R199. -/
def mmaCheck (sparse : Bool) (ctl addr size : Word) (m : BitVec 6) (slots : Vector Slot 4) : Option (Cause × Word) :=
  if !mmaFields sparse ctl addr size m then some (.mcmdInvalid, 0)
  else match mmaMisaligned sparse ctl addr m with
    | some a => some (.misaligned, BitVec.ofNat 64 a)
    | none =>
      if groupOf (adrA addr) = groupOf (adrB addr) || (sparse && groupOf (ctlMeta ctl) == groupOf (adrA addr)) then
        some (.bankgroupConflict, 0)
      else if mRagged m && !(slots.toArray.getD (ctlSlot ctl) Slot.empty).valid then some (.raggedTable, 0)
      else none

def mmaRun (sparse : Bool) (c a b : Src) (m : BitVec 6) (s : State) : Host.Outcome State Fault Refusal :=
  carrierRun [c, a, b] s (fun k => mmaCheck sparse (k.src c) (k.src a) (k.src b) m k.slots)
    fun k => .mma sparse (k.src c) (k.src a) (k.src b) m

def execMma (c a b : Src) (mods : BitVec 6) (s : State) : Host.Outcome State Fault Refusal := mmaRun false c a b mods s
def execMmas (c a b : Src) (mods : BitVec 6) (s : State) : Host.Outcome State Fault Refusal := mmaRun true c a b mods s

/-! ### The other carriers (R213, R215, R218) -/

def noCheck : Core → Option (Cause × Word) := fun _ => none

def execMclr (m : Fin 2) (s : State) : Host.Outcome State Fault Refusal := carrierRun [] s noCheck fun _ => .mclr m
def execMemit (t : Fin 4) (m : Fin 2) (z : Bool) (s : State) : Host.Outcome State Fault Refusal :=
  carrierRun [] s noCheck fun _ => .memit t m z

/-- The address of a whole tile in the scratchpad. -/
def tileCheck (a : Src) (c : Core) : Option (Cause × Word) :=
  if 0x1F0000 < (c.src a).toNat then some (.scratchRange, c.src a)
  else if (c.src a).toNat % 512 ≠ 0 then some (.misaligned, c.src a) else none

def execMtld (m : Fin 2) (a : Src) (s : State) : Host.Outcome State Fault Refusal :=
  carrierRun [a] s (tileCheck a) fun c => .mtld m (c.src a).toNat
def execMtst (m : Fin 2) (a : Src) (s : State) : Host.Outcome State Fault Refusal :=
  carrierRun [a] s (tileCheck a) fun c => .mtst m (c.src a).toNat
def execMtbar (a b : Src) (s : State) : Host.Outcome State Fault Refusal :=
  carrierRun [a, b] s noCheck fun c => .mtbar ((c.src a).setWidth 32) ((c.src b).setWidth 32)
def execMfmt (g : Fin 4) (a : Src) (s : State) : Host.Outcome State Fault Refusal :=
  carrierRun [a] s (fun c => if gfmtOk (c.src a) then none else some (.formatInvalid, 0)) fun c => .mfmt g (c.src a)

end Sys2Proof.Machine
end

