-- ==== Sys2Proof/Machine/MatRun.lean ====
section
/-! DEFINITION. The matrix engine at work (R200-R221, R293): starts, chunks, emissions, the other commands, faults and
the replay of a mould's window. -/

namespace Sys2Proof.Machine

/-! ### Operand formats (R204) -/

/-- An operand's decoding: integer or floating, unsigned, bits of an element as stored. -/
structure MOperand where
  ty : Ty
  fmt : Fmt
  isInt : Bool
  usgn : Bool
  scaled : Bool
  bits : Nat
  deriving DecidableEq, Repr

/-- Table 06-4: the operand of a GFMT value with its format entry, or FORMAT_INVALID. -/
def mOperand (g f : Word) : Option MOperand :=
  let fmt := fmtOf f
  let u := gfmtUsgn g
  let sc := gfmtScaled g
  match Ty.ofCode (BitVec.ofNat 4 (gfmtType g)) with
  | some (.fn n) =>
    if fmt.kind = 1 then (if sc then none else some ⟨.fn n, fmt, true, u, false, 4⟩)
    else if u then none else some ⟨.fn n, fmt, false, false, sc, if fmt.width = 4 then 4 else 8⟩
  | some .bf16 => if sc || u then none else some ⟨.bf16, fmt, false, false, false, 16⟩
  | some .f16 => if sc || u then none else some ⟨.f16, fmt, false, false, false, 16⟩
  | some .i8 => if sc then none else some ⟨.i8, fmt, true, u, false, 8⟩
  | _ => none

/-- The value of an element's code. -/
def MOperand.value (o : MOperand) (c : Nat) : Num :=
  if o.isInt then .i (intOf o.usgn o.bits c)
  else match o.ty with
    | .fn _ => .f (decodeNarrow o.fmt c)
    | t => .f ((ffOf t).decode c)

/-! ### Operand reads (R202, R208) -/

/-- The lowest uncorrectable word of n bytes from a. -/
def Core.lowestHard (k : Core) (a n : Nat) : Nat :=
  (k.eccHard.filter fun w => decide (w < a + n) && decide (a < w + 4)).foldl min (a + n)

/-- What the engine reads while others write: of the words that have changed since the command started, those picked
are read as they stood then. -/
def mixWords (pick : Nat → Bool) (old new : Mem) : Mem :=
  if old = new then new
  else ((((old ++ new).map fun c => c.1 / 4 * 4).dedup).filter fun w => pick w && memBytes old w 4 != memBytes new w 4).foldl
    (fun m w => memPut m w (memBytes old w 4)) new

/-- The scratchpad as a chunk reads it: word by word a free value says which of the two is read (R202). -/
def State.operands (s : State) (k : Core) : Mem :=
  mixWords (fun w => (s.free (2 ^ 24 + w)).getLsbD 0) k.mat.seen k.scratch

/-- GroupAddr. -/
def groupAddr (g x : Nat) : Nat := g * 2 ^ 19 + x % 2 ^ 19

/-- The byte address of element e of the k-row at distance d from a base. -/
def MOperand.addr (o : MOperand) (base d e : Nat) : Nat := groupAddr (groupOf base) (base + d + e * o.bits / 8)

/-- The code of an element. -/
def MOperand.code (o : MOperand) (m : Mem) (base d e : Nat) : Nat :=
  let a := o.addr base d e
  if o.bits = 4 then (memGet m a).toNat / (if e % 2 = 1 then 16 else 1) % 16 else memNat m a (o.bits / 8)

/-- The values of n elements of a k-row. -/
def MOperand.row (o : MOperand) (m : Mem) (base d n : Nat) : List Num :=
  (List.range n).map fun e => o.value (o.code m base d e)

/-- The first word of n elements that an uncorrectable error holds. -/
def MOperand.hard (o : MOperand) (c : Core) (base d n : Nat) : Option Nat :=
  if c.eccHard.isEmpty then none
  else (List.range n).findSome? fun e =>
    let a := o.addr base d e
    if c.hardAt a (max 1 (o.bits / 8)) then some (a / 4 * 4) else none

/-- A corrected error in n elements is found. -/
def MOperand.soft (o : MOperand) (c : Core) (base d n : Nat) : Core :=
  if c.eccSoft.isEmpty then c
  else (List.range n).foldl (fun k e => k.noteSoft (o.addr base d e) (max 1 (o.bits / 8))) c

/-! ### Inclusion (R209) -/

/-- What a command's inclusion rests on. -/
structure MIncl where
  pred : Bool
  mask : BitVec 128
  rag : Option ShapeRec
  bounds : List Nat
  row0 : Nat
  col0 : Nat

def MIncl.holds (x : MIncl) (i j : Nat) : Bool :=
  (!x.pred || x.mask.getLsbD i) &&
    match x.rag with
    | none => true
    | some r =>
      let ti := x.row0 + i
      let tj := x.col0 + j
      decide (ti < r.rows) && decide (tj < r.rows) && seqOf x.bounds r.rows ti == seqOf x.bounds r.rows tj &&
        !(r.causal && decide (ti < tj))

/-! ### Sums (R80-R84, R211, R212) -/

/-- The exact sum of floating terms, settled by R81; no term gives +0. -/
def sumF : List FVal → FVal
  | [] => .fin false 0 0
  | t :: ts => ts.foldl (fun acc v => if acc.isNan || v.isNan then FVal.genNan else acc.add .rne v)
      (if t.isNan then FVal.genNan else t)

def sumI (l : List Int) : Int := l.foldl (· + ·) 0

/-- The Hadamard transform of a block of a row of A, exact and not normalised (R211). -/
def hadBlock (x : List Num) : List Num :=
  (List.range x.length).map fun u =>
    let terms := x.zip (List.range x.length)
    if x.any fun v => match v with
        | .i _ => true
        | .f _ => false then
      .i (sumI (terms.map fun q => match q.1 with
        | .i v => if hadNeg u q.2 then -v else v
        | .f _ => 0))
    else .f (sumF (terms.map fun q => if hadNeg u q.2 then q.1.toF.negate else q.1.toF))

/-- A row transformed block by block. -/
def hadRow (h : Nat) : Nat → List Num → List Num
  | 0, x => x
  | n + 1, x => if h = 0 then x
    else match x with
      | [] => []
      | x => hadBlock (x.take (2 ^ h)) ++ hadRow h n (x.drop (2 ^ h))

/-- The products of a row of A and a column of B. -/
def productsF (a b : List Num) : List FVal :=
  (a.zip b).map fun q => let v := q.1.toF.mul q.2.toF; if q.1.toF.isNan || q.2.toF.isNan then FVal.genNan else v
def productsI (a b : List Num) : List Int :=
  (a.zip b).map fun q => match q.1, q.2 with
    | .i x, .i y => x * y
    | _, _ => 0

def word32 (v : Int) : Nat := (v % 2 ^ 32).toNat

/-- A result of the products of one chunk: the chunk's own sum, or the mould's value updated by it. -/
def chunkVal (isInt : Bool) (old : Option Nat) (a b : List Num) : Nat :=
  if isInt then word32 ((old.getD 0 : Nat) + sumI (productsI a b))
  else ff32.encode .rne 0 (sumF ((match old with
    | some v => [ff32.decode v]
    | none => []) ++ productsF a b))

/-! ### A command with its operands -/

/-- An MMA or MMAS with what was fixed at its start. -/
structure MJob where
  sparse : Bool
  ctl : Word
  addr : Word
  size : Word
  mods : BitVec 6
  oa : MOperand
  ob : MOperand
  incl : MIncl

def MJob.chunks (j : MJob) : Nat := (sizK j.size + 127) / 128
def MJob.mould (j : MJob) : Fin 2 := ⟨ctlMould j.ctl % 2, by omega⟩
def MJob.tile (j : MJob) : Fin 4 := ⟨ctlTile j.ctl % 4, by omega⟩
/-- k-steps of chunk c. -/
def MJob.len (j : MJob) (c : Nat) : Nat := min 128 (sizK j.size - 128 * c)
def MJob.rowA (j : MJob) (k : Nat) : Nat := k * 64 * sizLda j.size
def MJob.rowB (j : MJob) (k : Nat) : Nat := k * 64 * sizLdb j.size

/-- The kept k-steps of column j in chunk c, counted from the chunk's first. -/
def MJob.keptSteps (j : MJob) (m : Mem) (c col : Nat) : List Nat :=
  let a := groupAddr (groupOf (ctlMeta j.ctl)) (ctlMeta j.ctl + 2048 * c + 16 * col)
  let bits := memNat m a 16
  (List.range 128).filter fun u => bits.testBit u

/-- The k-rows of B that chunk c reads. -/
def MJob.rowsB (j : MJob) (m : Mem) (c : Nat) : List Nat :=
  if j.sparse then
    let most := (List.range (sizN j.size)).foldl (fun n col => max n (j.keptSteps m c col).length) 0
    (List.range most).map fun r => ctlKept j.ctl * c + r
  else (List.range (j.len c)).map fun u => 128 * c + u

/-- Column col of B in chunk c: the values at its kept k-steps, in order. -/
def colB (rows : List (List Num)) (col : Nat) : List Num :=
  rows.map fun r => r.getD col (.i 0)

/-- What stops a chunk before it is computed: bad metadata, or an uncorrectable word. -/
def MJob.bad (j : MJob) (k : Core) (m : Mem) (c : Nat) : Option (Cause × Nat) :=
  let meta_ := if j.sparse then
      (List.range (sizN j.size)).findSome? fun col =>
        let a := groupAddr (groupOf (ctlMeta j.ctl)) (ctlMeta j.ctl + 2048 * c + 16 * col)
        let ks := j.keptSteps m c col
        if k.hardAt a 16 then some (Cause.eccUncorrectable, k.lowestHard a 16)
        else if ctlKept j.ctl < ks.length || ks.any fun u => decide (sizK j.size ≤ 128 * c + u) then
          some (Cause.sparseMeta, 0)
        else none
    else none
  match meta_ with
  | some b => some b
  | none =>
    match (List.range (j.len c)).findSome? fun u => j.oa.hard k (adrA j.addr) (j.rowA (128 * c + u)) (sizM j.size) with
    | some a => some (.eccUncorrectable, a)
    | none =>
      ((j.rowsB m c).findSome? fun r => j.ob.hard k (adrB j.addr) (j.rowB r) (sizN j.size)).map fun a =>
        (.eccUncorrectable, a)

/-- The corrected errors that a chunk's reads find. -/
def MJob.soft (j : MJob) (k : Core) (c : Nat) : Core :=
  let k := if j.sparse then k.noteSoft (groupAddr (groupOf (ctlMeta j.ctl)) (ctlMeta j.ctl + 2048 * c)) (16 * sizN j.size)
    else k
  let k := (List.range (j.len c)).foldl (fun k u => j.oa.soft k (adrA j.addr) (j.rowA (128 * c + u)) (sizM j.size)) k
  (j.rowsB k.scratch c).foldl (fun k r => j.ob.soft k (adrB j.addr) (j.rowB r) (sizN j.size)) k

/-- The A operand of a chunk: for each row, its values along k, transformed when HADC asks for it. -/
def MJob.matA (j : MJob) (m : Mem) (c : Nat) : List (List Num) :=
  let rows := (List.range (j.len c)).map fun u => j.oa.row m (adrA j.addr) (j.rowA (128 * c + u)) (sizM j.size)
  (List.range (sizM j.size)).map fun i => hadRow (ctlHad j.ctl) 128 (rows.map fun r => r.getD i (.i 0))

/-- The results of a chunk at the included positions: address in the tile, value. -/
def MJob.results (j : MJob) (m mould : Mem) (c : Nat) : List (Nat × Nat) :=
  let rows := (j.rowsB m c).map fun r => j.ob.row m (adrB j.addr) (j.rowB r) (sizN j.size)
  let as_ := j.matA m c
  let cols := (List.range (sizN j.size)).map fun col =>
    (col, if j.sparse then some (j.keptSteps m c col) else none, colB rows col)
  (as_.zip (List.range as_.length)).flatMap fun ai =>
    cols.filterMap fun cb =>
      if j.incl.holds ai.2 cb.1 then
        let a := 512 * ai.2 + 4 * cb.1
        let av := match cb.2.1 with
          | none => ai.1
          | some ks => ks.map fun u => ai.1.getD u (.i 0)
        some (a, chunkVal j.oa.isInt (if mChunk j.mods then none else some (memNat mould a 4)) av cb.2.2)
      else none

/-- Words written over a tile or a mould. -/
def putWords (m : Mem) (l : List (Nat × Nat)) : Mem := l.foldl (fun m q => memPut m q.1 (leBytes 4 q.2)) m

/-- The M × N region of a mould at zero. -/
def MJob.clear (j : MJob) (m : Mem) : Mem :=
  (List.range (sizM j.size)).foldl (fun m i => memClear m (512 * i) (4 * sizN j.size)) m

def MJob.fill (j : MJob) : Nat :=
  if ctlFill j.ctl then 0 else if j.oa.isInt then 0x80000000 else 0xFF800000

/-- The region as Emit writes it: included positions from src, the others filled. -/
def MJob.region (j : MJob) (src : Mem) : Mem :=
  putWords [] ((List.range (sizM j.size)).flatMap fun i => (List.range (sizN j.size)).map fun c =>
    let a := 512 * i + 4 * c
    (a, if j.incl.holds i c then memNat src a 4 else j.fill))

/-- The region written over a tile. -/
def copyRegion (rows cols : Nat) (dst src : Mem) : Mem :=
  (List.range rows).foldl (fun m i => memBlit m (512 * i) src (512 * i) (4 * cols)) dst

/-! ### Inclusion and formats at the start (R204, R209, R391) -/

/-- The formats in force of a command's groups. -/
def Core.mmaFmts (k : Core) (addr : Word) : MFmts :=
  let ga := k.stem.gfmt.toArray.getD (groupOf (adrA addr)) 0
  let gb := k.stem.gfmt.toArray.getD (groupOf (adrB addr)) 0
  ⟨ga, k.stem.fmt.toArray.getD (gfmtType ga) 0, gb, k.stem.fmt.toArray.getD (gfmtType gb) 0⟩

/-- The operands that formats give a command, or its fault. -/
def mmaOperands (sparse : Bool) (m : BitVec 6) (f : MFmts) : Except Cause (MOperand × MOperand) :=
  match mOperand f.ga f.fa, mOperand f.gb f.fb with
  | some a, some b =>
    if a.isInt != b.isInt || (sparse && (a.bits == 16 || b.bits == 16)) || ((a.scaled || b.scaled) && !mChunk m) then
      .error .mcmdInvalid
    else .ok (a, b)
  | _, _ => .error .formatInvalid

/-- Boundary k of a record, external entries read from the scratchpad. -/
def boundAt (r : ShapeRec) (m : Mem) (k : Nat) : Nat :=
  if r.ext && decide (28 ≤ k) then memNat m (r.xtab + 4 * (k - 28)) 4 else r.bnd.getD k 0

/-- The entries of one table read stand in order, b(28) not below b(27), b(S) = R (R387). -/
def boundsOk (r : ShapeRec) (m : Mem) (is : List Nat) : Bool :=
  sortedLe (is.map (boundAt r m)) && (!is.contains 28 || decide (r.bnd.getLastD 0 ≤ boundAt r m 28)) &&
    (!is.contains r.seqs || boundAt r m r.seqs == r.rows)

/-- The sequence that a search finds for a row, among those whose boundaries enclose it: in a table in order there is
one (R391). -/
def seqFound (pick : Nat) (bnd : List Nat) (t : Nat) : Option Nat :=
  let l := (List.range (bnd.length - 1)).filter fun q => decide (bnd.getD q 0 ≤ t) && decide (t < bnd.getD (q + 1) 0)
  l[pick % max 1 l.length]?

/-- The boundaries that a command needs, from b(qa) to b(qb + 1), checked (R391): RAGGED_TABLE for a break,
ECC_UNCORRECTABLE for an entry that cannot be read. Which entries outside that run the searches meet is open, so
whether they meet what is wrong there, and which of several rows' sequences they find in a table out of order, are free
values (log 2). -/
def mmaBounds (k : Core) (met : Bool) (pick : Nat) (r : ShapeRec) (row0 col0 m n : Nat) :
    Except (Cause × Nat) (List Nat) :=
  if !r.ext then .ok r.bnd
  else
    let ts := (((List.range m).map (row0 + ·)) ++ ((List.range n).map (col0 + ·))).filter fun t => decide (t < r.rows)
    match ts with
    | [] => .ok r.bnd
    | t :: rest =>
      let idx := List.range (r.seqs + 1)
      let all := idx.map (boundAt r k.scratch)
      let qa := (seqFound pick all (rest.foldl min t)).getD (r.seqs + 1)
      let qb := (seqFound pick all (rest.foldl max t)).getD (r.seqs + 1)
      let run := (all.drop qa).take (qb + 2 - qa)
      let read := if met then idx else (idx.drop qa).take (qb + 2 - qa)
      match (read.filter fun i => decide (28 ≤ i)).find? fun i => k.hardAt (r.xtab + 4 * (i - 28)) 4 with
      | some i => .error (.eccUncorrectable, r.xtab + 4 * (i - 28))
      | none =>
        if boundsOk r k.scratch read && ts.all fun t => decide (run.headD 1 ≤ t) && decide (t < run.getLastD 0) then .ok run
        else .error (.raggedTable, 0)

/-- The record of a ragged command. -/
def mmaRecord (ctl : Word) (m : BitVec 6) (slots : Vector Slot 4) : Option ShapeRec :=
  if mRagged m then shapeRec (slots.toArray.getD (ctlSlot ctl) Slot.empty).bits else none

/-- What a starting command fixes: the mask, and the boundaries it needs of a record that is valid (R387). With no
position there is no mask to read. -/
def Core.mmaReads (k : Core) (met : Bool) (pick : Nat) (ctl addr size : Word) (m : BitVec 6) (slots : Vector Slot 4) :
    Except (Cause × Nat) (BitVec 128 × List Nat) :=
  let masked := mPred m && sizM size != 0 && sizN size != 0
  if masked && k.hardAt (adrP addr) 16 then .error (.eccUncorrectable, k.lowestHard (adrP addr) 16)
  else
    let mask := if masked then BitVec.ofNat 128 (k.read (adrP addr) 16) else 0
    match mmaRecord ctl m slots with
    | none => if mRagged m then .error (.raggedTable, 0) else .ok (mask, [])
    | some r => (mmaBounds k met pick r (ctlRow0 ctl) (ctlCol0 ctl) (sizM size) (sizN size)).map fun b => (mask, b)

/-- The job of an entry, from the formats and reads fixed when it started. -/
def mJob (e : MEntry) (mask : BitVec 128) (bounds : List Nat) : Option MJob :=
  match e.cmd with
  | .mma sparse ctl addr size mods =>
    match mmaOperands sparse mods e.fmts with
    | .ok (a, b) => some ⟨sparse, ctl, addr, size, mods, a, b,
        ⟨mPred mods, mask, mmaRecord ctl mods e.slots, bounds, ctlRow0 ctl, ctlCol0 ctl⟩⟩
    | .error _ => none
  | _ => none

/-! ### Faults, completion and signals (R200, R201, R217) -/

/-- TRAPVAL of an engine fault (R201). -/
def matVal (detail chunk : Nat) (pc : BitVec 16) : Word := BitVec.ofNat 64 (2 ^ 32 * detail + 65536 * chunk + pc.toNat)

/-- The window of a mould has lost its first command when a START that has begun is discarded (R220). -/
def Mat.loseStart (m : Mat) (e : MEntry) : Vector Bool 2 :=
  match e.cmd with
  | .mma _ ctl _ _ mods =>
    if mStart mods && m.phase != .waiting then m.lost.set (ctlMould ctl % 2) true (by omega) else m.lost
  | _ => m.lost

/-- The command at the head is discarded and the engine stops with a fault to report; a logged cause is logged. -/
def State.matFault (s : State) (c : CoreId) (cause : Cause) (detail chunk : Nat) : State :=
  match (s.core c).mat.queue with
  | [] => s
  | e :: rest =>
    (s.modCore c fun k => k.setMat { k.mat with
      queue := rest
      phase := .waiting
      barStruck := false
      lost := k.mat.loseStart e
      held := some ⟨cause, matVal detail chunk e.pc, 0, s.cycles.get (dieOf c)⟩ }).logCore c cause
      (if cause = .eccUncorrectable then BitVec.ofNat 64 detail else 0)

/-- An uncorrectable word stops the command. -/
def State.matEcc (s : State) (c : CoreId) (a chunk : Nat) : State :=
  (s.modCore c fun k => k.noteHard a 4).matFault c .eccUncorrectable a chunk

def State.matBad (s : State) (c : CoreId) (b : Cause × Nat) (chunk : Nat) : State :=
  if b.1 = .eccUncorrectable then s.matEcc c (b.2 / 4 * 4) chunk else s.matFault c b.1 b.2 chunk

/-- The head command is complete: a command that names a mould is kept for replay (R220). -/
def Mat.finish (m : Mat) : Mat :=
  match m.queue with
  | [] => m
  | e :: rest => { m with
      queue := rest
      phase := .waiting
      barStruck := false
      kept := if e.cmd.mould.isSome then m.kept ++ [{ e with sig := none }] else m.kept }

def State.modMat (s : State) (c : CoreId) (f : Mat → Mat) : State := s.modCore c fun k => k.setMat (f k.mat)

/-- The work is done: the signal follows at once where its bank serves it, and the command is complete. -/
def State.matSignal (s : State) (c : CoreId) : State :=
  let k := s.core c
  match k.mat.queue with
  | [] => s
  | e :: _ =>
    match e.sig with
    | none => s.modMat c Mat.finish
    | some p =>
      let n := p.count.toNat
      if !k.banksFree p.addr 4 then s.modMat c fun m => { m with phase := .signal }
      else if k.hardAt p.addr 4 then s.matEcc c p.addr 0
      else if 2 ^ 32 ≤ k.read p.addr 4 + n then s.matFault c .semOverflow p.addr 0
      else ((s.modCore c fun k => k.noteSoft p.addr 4).writeScratch c p.addr (leBytes 4 (k.read p.addr 4 + n))).modMat c
        Mat.finish

/-! ### MATRIX_COMMAND_START -/

/-- A START opens a new window of its mould: entries kept for it are dropped, and the strikes count anew. -/
def Mat.openWindow (m : Mat) (cmd : MCmd) : Mat :=
  match cmd with
  | .mma _ ctl _ _ mods =>
    if mStart mods then
      let k : Fin 2 := ⟨ctlMould ctl % 2, by omega⟩
      { m with
        kept := m.kept.filter fun e => e.cmd.mould != some k
        replays := m.replays.set k.val 0 k.isLt
        lost := m.lost.set k.val false k.isLt }
    else m
  | _ => m

/-- The phase in which an MMA goes on after its start. -/
def MJob.firstPhase (j : MJob) : MPhase :=
  let named := mChunk j.mods || mEmit j.mods
  if sizM j.size = 0 || sizN j.size = 0 then (if named then .emit j.tile [] 0 else .signal)
  else if sizK j.size = 0 then
    (if named then .emit j.tile (if mZero j.mods then j.region [] else []) 0 else .signal)
  else .chunks 0

/-- The searches of a boundary table meet an entry outside the run that a command needs (R391). -/
def State.searchMeets (s : State) : Bool := (s.free 7).getLsbD 0
def State.searchPick (s : State) : Nat := (s.free 8).toNat

/-- An MMA starts: formats, mask and boundaries are read and checked, and ZERO clears its region. -/
def State.startMma (s : State) (c : CoreId) (e : MEntry) (sparse : Bool) (ctl addr size : Word) (mods : BitVec 6) :
    State :=
  let k := s.core c
  let f := k.mmaFmts addr
  match mmaOperands sparse mods f with
  | .error cause => s.matFault c cause 0 0
  | .ok _ =>
    match k.mmaReads s.searchMeets s.searchPick ctl addr size mods e.slots with
    | .error b => s.matBad c b 0
    | .ok (mask, bounds) =>
      let e := { e with fmts := f }
      match mJob e mask bounds with
      | none => s.matFault c .formatInvalid 0 0
      | some j =>
        s.modCore c fun k =>
          let m := k.mat.openWindow e.cmd
          { (if mPred mods then k.noteSoft (adrP addr) 16 else k) with
            moulds := if mZero mods && !mChunk mods then k.moulds.set j.mould.val (j.clear (k.moulds.get j.mould)) j.mould.isLt
              else k.moulds
            mat := { m with
              queue := e :: m.queue.tail
              phase := j.firstPhase
              rowMask := mask
              bounds := bounds
              seen := k.scratch } }

/-- The wait that the head carries is performed: the state after it, or none while it goes on. -/
def State.matWait (s : State) (c : CoreId) (p : Prefix) : Option State :=
  let k := s.core c
  let n := p.count.toNat
  if n ≠ 0 && !k.banksFree p.addr 4 then none
  else if k.read p.addr 4 < n then none
  else some (((s.modCore c fun k => k.noteSoft p.addr 4).writeScratch c p.addr (leBytes 4 (k.read p.addr 4 - n))).modMat c
    fun m => { m with queue := match m.queue with
      | [] => []
      | e :: rest => { e with wait := none } :: rest })

/-- The engine may begin a command: its core runs, and no fault stops it. -/
def Core.matMayStart (k : Core) : Bool :=
  k.phase == .running && k.mat.held.isNone && !k.mat.taken && k.mat.phase == .waiting

/-- The head command begins its work. -/
def State.matBegin (s : State) (c : CoreId) : State :=
  match (s.core c).mat.queue with
  | [] => s
  | e :: _ =>
    match e.cmd with
    | .mma sparse ctl addr size mods => s.startMma c e sparse ctl addr size mods
    | _ => s.modMat c fun m => { m with phase := .chunks 0 }

def execMatrixCommandStart (c : CoreId) (s : State) : Host.Outcome State Fault Refusal :=
  .next <|
    let k := s.core c
    match k.mat.queue with
    | [] => s
    | e :: _ =>
      if k.matMayStart then
        match e.wait with
        | none => s.matBegin c
        | some p =>
          if k.hardAt p.addr 4 then s.matEcc c p.addr 0
          else match s.matWait c p with
            | none => s
            | some t => t.matBegin c
      else s

/-! ### MMA_CHUNK -/

/-- The engine goes on with a command already begun: until it halts, and no fault stops it. -/
def Core.matMayGo (k : Core) : Bool :=
  (k.phase == .running || k.phase == .stopping) && k.mat.held.isNone && !k.mat.taken

/-- A chunk's results: into a tile's waiting emission, or into the mould. -/
def Core.chunkDone (k : Core) (j : MJob) (m : Mem) (n : Nat) : Core :=
  let mould := k.moulds.get j.mould
  let out := j.results m mould n
  let k := j.soft k n
  if mChunk j.mods then k.setMat { k.mat with phase := .emit j.tile (j.region (putWords [] out)) (n + 1) }
  else
    let mould := putWords mould out
    let next := if n + 1 < j.chunks then .chunks (n + 1)
      else if mEmit j.mods then .emit j.tile (j.region mould) (n + 1)
      else .signal
    { k with
      moulds := k.moulds.set j.mould.val mould j.mould.isLt
      mat := { k.mat with phase := next } }

def execMmaChunk (c : CoreId) (s : State) : Host.Outcome State Fault Refusal :=
  .next <|
    let k := s.core c
    match k.mat.queue, k.mat.phase with
    | e :: _, .chunks n =>
      match mJob e k.mat.rowMask k.mat.bounds with
      | none => s
      | some j =>
        if k.phase = .running && k.matMayGo then
          match j.bad k (s.operands k) n with
          | some b => s.matBad c b n
          | none =>
            let m := s.operands k
            let s := s.modCore c fun k => k.chunkDone j m n
            if (s.core c).mat.phase = .signal then s.matSignal c else s
        else s
    | _, _ => s

/-! ### TILE_EMIT (R214) -/

/-- The head only marks its tile: it has no element to write (R210). -/
def MJob.marksOnly (j : MJob) : Bool :=
  sizM j.size == 0 || sizN j.size == 0 || (sizK j.size == 0 && !mZero j.mods)

def Core.setTile (k : Core) (t : Fin 4) (m : Mem) : Core :=
  { k with tiles := k.tiles.set t.val m t.isLt, full := k.full.set t.val true t.isLt }

def execTileEmit (c : CoreId) (s : State) : Host.Outcome State Fault Refusal :=
  .next <|
    let k := s.core c
    match k.mat.queue, k.mat.phase with
    | e :: _, .emit t out n =>
      match mJob e k.mat.rowMask k.mat.bounds with
      | none => s
      | some j =>
        if k.phase = .running && k.matMayGo && !k.full.get t then
          let s := s.modCore c fun k => k.setTile t (if j.marksOnly then k.tiles.get t
            else copyRegion (sizM j.size) (sizN j.size) (k.tiles.get t) out)
          if mChunk j.mods && decide (n < j.chunks) && !j.marksOnly then s.modMat c fun m => { m with phase := .chunks n }
          else s.matSignal c
        else s
    | e :: _, .chunks _ =>
      match e.cmd with
      | .memit t m z =>
        if k.phase = .running && k.matMayGo && !k.full.get t then
          (s.modCore c fun k =>
            let k := k.setTile t (k.moulds.get m)
            if z then { k with moulds := k.moulds.set m.val [] m.isLt } else k).matSignal c
        else s
      | _ => s
    | _, _ => s

/-! ### MATRIX_COMMAND_COMPLETE -/

/-- The bytes that a test bar draws, in order (R218). -/
def barBytes : Nat → W32 → List Byte
  | 0, _ => []
  | n + 1, s => let t := genDraw s; t.setWidth 8 :: barBytes n t

def splitRows : Nat → List Byte → List (List Int)
  | 0, _ => []
  | n + 1, l => (l.take 128).map BitVec.toInt :: splitRows n (l.drop 128)

/-- The columns of 128 rows. -/
def transposeRows (l : List (List Int)) : List (List Int) := (List.range 128).map fun j => l.map fun r => r.getD j 0

/-- The digest of MTBAR from its seed. -/
def barDigest (seed : W32) : W32 :=
  let d := barBytes 32768 (if seed = 0 then 0xFFFFFFFF else seed)
  let x := splitRows 128 d
  let y := transposeRows (splitRows 128 (d.drop 16384))
  crc32c (x.flatMap fun r => y.flatMap fun q =>
    (leBytes 4 (word32 (sumI ((r.zip q).map fun p => p.1 * p.2)))).map BitVec.toNat)

/-- A mould takes the 64 KiB at an address (R213). -/
def Core.loadMould (k : Core) (m : Fin 2) (a : Nat) : Core :=
  let k := k.noteSoft a 65536
  { k with moulds := k.moulds.set m.val (memBlit [] 0 k.scratch a 65536) m.isLt }

/-- A mould is stored at an address, in whole words. -/
def State.storeMould (s : State) (c : CoreId) (m : Fin 2) (a : Nat) : State :=
  (s.modCore c fun k => { k with
    scratch := memBlit k.scratch a (k.moulds.get m) 0 65536
    eccHard := wordsOutside k.eccHard a 65536
    eccSoft := wordsOutside k.eccSoft a 65536
    eccFix := wordsOutside k.eccFix a 65536 }).scratchWrote c a 65536

/-- The work of a chunkless command at the head; a MEMIT's is TILE_EMIT. -/
def State.matWork (s : State) (c : CoreId) : MCmd → State
  | .mclr m => (s.modCore c fun k => { k with moulds := k.moulds.set m.val [] m.isLt }).matSignal c
  | .mtld m a =>
    if (s.core c).hardAt a 65536 then s.matEcc c ((s.core c).lowestHard a 65536) 0
    else (s.modCore c fun k => k.loadMould m a).matSignal c
  | .mtst m a => (s.storeMould c m a).matSignal c
  | .mtbar seed digest =>
    let g := barDigest seed
    if g = digest then s.matSignal c else s.matFault c .testbarMismatch g.toNat 0
  | .mfmt g v => (s.modCore c fun k => k.setStem { k.stem with gfmt := k.stem.gfmt.set g.val v g.isLt }).matSignal c
  | .memit _ _ _ => s
  | .mma _ _ _ _ _ => s

def execMatrixCommandComplete (c : CoreId) (s : State) : Host.Outcome State Fault Refusal :=
  .next <|
    let k := s.core c
    match k.mat.queue with
    | [] => s
    | e :: _ =>
      if k.matMayGo then
        match k.mat.phase with
        | .signal => s.matSignal c
        | .chunks _ => s.matWork c e.cmd
        | _ => s
      else s

/-! ### MOULD_PARITY (R220, R293) -/

/-- What stops a replay: a fault with its chunk. -/
abbrev Replay := Except ((Cause × Nat) × Nat)

/-- A kept command executed again on its mould: waits, tile writes and signals are not repeated. -/
def Core.replayChunks (j : MJob) : Nat → Nat → Core → Replay Core
  | 0, _, k => .ok k
  | n + 1, c, k =>
    match j.bad k k.scratch c with
    | some b => .error (b, c)
    | none =>
      let mould := putWords (k.moulds.get j.mould) (j.results k.scratch (k.moulds.get j.mould) c)
      Core.replayChunks j n (c + 1) { j.soft k c with moulds := k.moulds.set j.mould.val mould j.mould.isLt }

def State.replayOne (c : CoreId) (e : MEntry) (s : State) : Replay State :=
  let k := s.core c
  match e.cmd with
  | .mma _ ctl addr size mods =>
    if mChunk mods then .ok s
    else match k.mmaReads s.searchMeets s.searchPick ctl addr size mods e.slots with
      | .error b => .error (b, 0)
      | .ok (mask, bounds) =>
        match mJob e mask bounds with
        | none => .ok s
        | some j =>
          let k := if mZero mods then { k with moulds := k.moulds.set j.mould.val (j.clear (k.moulds.get j.mould)) j.mould.isLt }
            else k
          if sizM size = 0 || sizN size = 0 then .ok (s.setCore c k)
          else (Core.replayChunks j j.chunks 0 k).map fun k => s.setCore c k
  | .mclr m => .ok (s.modCore c fun k => { k with moulds := k.moulds.set m.val [] m.isLt })
  | .memit _ m z => .ok (if z then (s.modCore c fun k => { k with moulds := k.moulds.set m.val [] m.isLt }) else s)
  | .mtld m a =>
    if k.hardAt a 65536 then .error ((.eccUncorrectable, k.lowestHard a 65536), 0) else .ok (s.modCore c fun k => k.loadMould m a)
  | .mtst m a => .ok (s.storeMould c m a)
  | .mtbar _ _ => .ok s
  | .mfmt _ _ => .ok s

def State.replayAll (c : CoreId) : List MEntry → State → Replay State
  | [], s => .ok s
  | e :: l, s => match s.replayOne c e with
    | .error b => .error b
    | .ok s => State.replayAll c l s

/-- The chunk that a strike hits: the one at work, or the one whose result waits for its tile. -/
def MPhase.struck : MPhase → Nat
  | .chunks n => n
  | .emit _ _ n => n - 1
  | _ => 0

/-- The window of a mould is executed again, and the struck command begins anew. -/
def State.replayWindow (s : State) (c : CoreId) (e : MEntry) (m : Fin 2) : State :=
  let k := s.core c
  if k.mat.lost.get m || decide (2 ≤ k.mat.replays.get m) then s.matFault c .replayExhausted 0 k.mat.phase.struck
  else
    let s := s.modCore c fun k => { k with
      moulds := k.moulds.set m.val [] m.isLt
      mat := { k.mat with replays := k.mat.replays.set m.val (k.mat.replays.get m + 1) m.isLt } }
    match s.replayAll c (k.mat.kept.filter fun x => x.cmd.mould == some m) with
    | .error (b, n) => s.matBad c b n
    | .ok s =>
      match mJob e k.mat.rowMask k.mat.bounds with
      | none => s
      | some j => s.modCore c fun k => { k with
          moulds := if mZero j.mods then k.moulds.set m.val (j.clear (k.moulds.get m)) m.isLt else k.moulds
          mat := { k.mat with phase := j.firstPhase } }

/-- A strike on the mould or the array while a command runs: logged, and the command recovered. -/
def execMouldParity (c : CoreId) (s : State) : Host.Outcome State Fault Refusal :=
  .next <|
    let k := s.core c
    match k.mat.queue with
    | [] => s
    | e :: _ =>
      if !k.matMayGo then s
      else
        let begun := match k.mat.phase with
          | .chunks _ => true
          | .emit _ _ _ => true
          | _ => false
        match e.cmd with
        | .mma _ _ _ _ mods =>
          if !begun then s
          else
            let s := s.logCore c .mouldParity 0
            if mChunk mods then
              match k.mat.phase with
              | .emit _ _ n => s.modMat c fun m => { m with phase := if n = 0 then m.phase else .chunks (n - 1) }
              | _ => s
            else match e.cmd.mould with
              | some m => s.replayWindow c e m
              | none => s
        | .mtbar _ _ =>
          if !begun then s
          else
            let s := s.logCore c .mouldParity 0
            if k.mat.barStruck then s.matFault c .replayExhausted 0 0 else s.modMat c fun m => { m with barStruck := true }
        | .mfmt _ _ => s
        | _ =>
          match begun, e.cmd.mould with
          | true, some m => (s.logCore c .mouldParity 0).replayWindow c e m
          | _, _ => s

end Sys2Proof.Machine
end

