-- ==== Sys2Proof/Machine/VecEvents.lean ====
section
/-! DEFINITION. What the vector engine does between instructions, and how its faults reach the stem (R154, R278-R280,
R290-R292), with the stem's watchdog (R132). -/

namespace Sys2Proof.Machine

/-- No fault stops the engine. -/
def Vec.clear (v : Vec) : Bool := v.found.isNone && v.held.isNone && !v.taken

/-- Found uncorrectable words, the one detected first. -/
def earliestFault : List EngFault → Option EngFault
  | [] => none
  | f :: l => match earliestFault l with
    | none => some f
    | some g => if g.time < f.time then some g else some f

/-! ### TOKEN_START (R278-R280) -/

/-- The words of a segment from its entry on, at most 128, ending with the store (R170, R279). -/
def segWords (seg : Mem) (ent : Nat) : List W32 :=
  (List.range (min 128 ((0x10000 - ent) / 4))).map fun i => memW32 seg (ent + 4 * i)

def segBadWords (bad : List Nat) (ent n : Nat) : List Nat :=
  (List.range n).filter fun i => bad.contains (ent + 4 * i)

/-- The scalars a token carries go to e0 and on. -/
def loadScalars : Nat → List W32 → Vector W32 8 → Vector W32 8
  | _, [], e => e
  | k, w :: ws, e => loadScalars (k + 1) ws (e.setIfInBounds k w)

/-- The engine with a token started in cycle t: e0-e3 and vm0 written, the buffer filled, PCHK sampled. A trip count
of 0 ends it in that cycle. -/
def Core.startToken (c : Core) (tok : Token) (rest : List Token) (t : Nat) : Core :=
  let v := c.vec.retire t
  let buf := segWords c.seg tok.ent.toNat
  let run : Run := {
    tok := tok
    iter := 0
    buf := buf
    bad := segBadWords c.segBad tok.ent.toNat buf.length
    pos := 0
    grant := tok.grant
    eop := false
    pchk := statusPchk c.stem.status }
  c.setVec ({ v with
    queue := rest
    e := loadScalars 0 tok.scal v.e
    run := if tok.trip = 0 then none else some run
    next := if tok.trip = 0 then t + 2 else t }.setMask0 tok)

/-- The cycle in which a token starts: the engine's next issue cycle, or the one in which TOKEN queued it (R138). -/
def Vec.tokenCycle (v : Vec) (tok : Token) : Nat := max v.next tok.cycle

/-- The engine may take a token: running, free, unfaulted, every word that a bank serves before then served, and none
of them told uncorrectable. -/
def Core.mayStart (k : Core) (tok : Token) : Bool :=
  k.phase == .running && k.vec.run.isNone && k.vec.clear && k.vec.ecc.isEmpty &&
    k.vec.svc.all fun q => decide (k.vec.tokenCycle tok ≤ q.time)

def execTokenStart (c : CoreId) (s : State) : Host.Outcome State Fault Refusal :=
  .next <|
    match (s.core c).vec.queue with
    | [] => s
    | tok :: rest =>
      let t := (s.core c).vec.tokenCycle tok
      if (s.core c).mayStart tok then (s.modCore c fun k => k.startToken tok rest t).passTo (dieOf c) t else s

/-! ### Faults found and reported (R154, R290) -/

/-- The uncorrectable word detected first stops the engine: it has no fault, or has found one of a later cycle. -/
def Vec.eccDue (v : Vec) : Bool :=
  match earliestFault v.ecc with
  | none => false
  | some f => v.held.isNone && !v.taken && v.found.all fun g => decide (f.time < g.time)

/-- An uncorrectable word is counted and logged as it stops the engine. -/
def State.tellFault (s : State) (c : CoreId) (f : EngFault) : State :=
  if f.cause = .eccUncorrectable then (s.modCore c fun k => k.noteHard f.val.toNat 4).logCore c f.cause f.val else s

/-- VECTOR_LOAD_ECC: the engine stops at a word that a bank has found uncorrectable; a fault found for a later cycle
waits behind it. -/
def execVectorLoadEcc (c : CoreId) (s : State) : Host.Outcome State Fault Refusal :=
  .next <|
    let v := (s.core c).vec
    match earliestFault v.ecc with
    | none => s
    | some f =>
      if v.eccDue then
        ((s.modCore c fun k => k.setVec { v with found := some f, ecc := v.found.toList ++ v.ecc.erase f }).tellFault c
          f).passTo (dieOf c) f.time
      else s

/-- VECTOR_FAULT_REPORT: once every earlier write is visible, the banks have served every word and the engine writes
VFAULT, the running token ends and its grants lapse, and the stem is told. -/
def execVectorFaultReport (c : CoreId) (s : State) : Host.Outcome State Fault Refusal :=
  .next <|
    let k := s.core c
    match k.vec.found with
    | none => s
    | some f =>
      if !k.vec.svc.isEmpty || k.vec.eccDue then s
      else
      let t := max (max f.time k.vec.lastWrite) (s.cycles.get (dieOf c))
      let v := k.vec.retire t
      (s.setCore c { k with
        stem := { k.stem with vfault := f.loc }
        vec := { v with found := none, held := some { f with time := t }, run := none, next := max v.next t } }).passTo
        (dieOf c) t

/-! ### The trap (R91, R291) -/

/-- The engine fault that the stem takes next: the earliest reported, the vector engine's first on a tie. -/
def Core.nextFault (k : Core) : Option (Engine × EngFault) :=
  match k.vec.held, k.mat.held with
  | some f, some g => if g.time < f.time then some (.matrix, g) else some (.vector, f)
  | some f, none => some (.vector, f)
  | none, some g => some (.matrix, g)
  | none, none => none

/-- The fault leaves the engine, which stays stopped until ERET. -/
def Core.takeFault (k : Core) : Engine → Core
  | .vector => k.setVec { k.vec with held := none, taken := true }
  | .matrix => k.setMat { k.mat with held := none, taken := true }
  | .stem => k

/-- The stem takes an engine fault at its boundary; another one that is held waits for the handler's ERET. -/
def Core.engineTrap (k : Core) (e : Engine) (f : EngFault) : Core :=
  let k := k.takeFault e
  let t := k.trapEntry e f.cause f.val k.stem.pc (if e = .vector then some f.loc else none)
  t.setStem { t.stem with deferred := t.vec.held.isSome || t.mat.held.isSome }

def Core.mayTrap (k : Core) : Bool := k.phase == .running && !k.stem.deferred && k.nextFault.isSome

def execEngineFaultTrap (c : CoreId) (s : State) : Host.Outcome State Fault Refusal :=
  .next <|
    match (s.core c).nextFault with
    | none => s
    | some (e, f) => if (s.core c).mayTrap then (s.cancelWaita c).modCore c fun k => k.engineTrap e f else s

/-- WATCHDOG (R132): a wait has lasted longer than the interval of the grain's queue, in units of 1,024 cycles. -/
def execWatchdog (c : CoreId) (s : State) : Host.Outcome State Fault Refusal :=
  .next <|
    let k := s.core c
    match k.stem.waitSince, k.grain with
    | some t, some g =>
      if k.phase = .running && statusWdog k.stem.status && g.wdog != 0 &&
          decide (1024 * g.wdog.toNat < s.cycles.get (dieOf c) - t.toNat) then
        { ({ s with cur := c }).stemTrap .stem .watchdog 0 with cur := s.cur }
      else s
    | _, _ => s

end Sys2Proof.Machine
end

