-- ==== Sys2Proof/Machine/Preempt.lean ====
section
/-! DEFINITION. Pre-emption (R122, R221, R294, R311-R314): the halt point, the save record and its restore. -/

namespace Sys2Proof.Machine

/-! ### The halt point (R221, R294, R312) -/

/-- The vector engine stands between two iterations, or a fault has stopped it, and its bank service is over with every
uncorrectable word told. -/
def Vec.stopped (v : Vec) : Bool :=
  v.found.isNone && v.svc.isEmpty && (v.ecc.isEmpty || !v.clear) && match v.run with
    | none => true
    | some r => decide (r.pos = 0)

/-- The matrix engine stands where R221 lets it stop. -/
def Mat.stopped (m : Mat) : Bool :=
  m.held.isSome || m.taken || match m.queue, m.phase with
    | [], _ => true
    | _, .waiting => true
    | _, .emit _ _ _ => true
    | _, .signal => false
    | e :: _, .chunks _ => match e.cmd with
      | .mma .. | .memit .. => true
      | _ => false

/-- The streams have stopped issuing, and every vector write in flight is visible. -/
def State.haltCore (s : State) (c : CoreId) : State :=
  let t := max (s.core c).vec.lastWrite (s.cycles.get (dieOf c))
  (s.modCore c fun k => { k.setVec (k.vec.retire t) with phase := .halted }).passTo (dieOf c) t

/-- Instances that runner programs started by this grain have in flight (R314). -/
def State.grainInsts (s : State) (g : Grain) : List (DieId × Inst) :=
  allDies.flatMap fun d => ((s.runner d).insts.filter fun i =>
    i.tag.ctx == g.ctx && i.grain == some (g.nest, g.num)).map fun i => (d, i)

/-- Package services issue ABORT for those that run; one that cannot be asked for is asked for again before the save. -/
def State.abortGrain (s : State) (g : Grain) : State :=
  (s.grainInsts g).foldl (fun t x => if x.2.state = 1 then match t.abortInst x.1 x.2 with
    | .ok u => u
    | _ => t else t) s

/-- CORE_HALTED: the halt point, the stem's stores performed. A grain of a context being killed ends there with its
cause (R315); another goes on to its save. -/
def execCoreHalted (c : CoreId) (s : State) : Host.Outcome State Fault Refusal :=
  .next <|
    let k := s.core c
    match k.grain with
    | none => s
    | some g =>
      if k.phase = .stopping && k.stem.stq.isEmpty && k.vec.stopped && k.mat.stopped then
        let t := s.haltCore c
        match s.pkg.ending.find? fun e => e.1 == g.ctx with
        | some e => t.endGrain c fun n => n.withCause e.2
        | none => t.abortGrain g
      else s

/-! ### The record (R313, Table 10-8) -/

/-- The address of a core's record, and of a section of it. -/
def saveAt (g : Grain) (c : CoreId) (ofs : Nat) : Nat := g.saveva.toNat + 0x2B0000 * c.val + ofs

def memPiece (m : Mem) (n : Nat) : List Byte := memBytes m 0 n
def vecPiece (v : Vector VReg 31) : List Byte := v.toList.flatMap fun r => leBytes 4096 r.toNat
def maskPiece (v : Vector Mask 8) : List Byte := (v.toList.drop 1).flatMap fun r => leBytes 512 r.toNat
def slotPiece (v : Vector Slot 4) : List Byte := v.toList.flatMap fun k => leBytes 128 k.bits.toNat

/-- The first section as the save of a turn writes it: its layout is stated nowhere, and its bytes are free values
(log 15). -/
def openBytes (tick : Nat) : List Byte :=
  (List.range 65536).map fun i => (freeAt tick (2 ^ 20 + i)).setWidth 8
def State.openSection (s : State) : List Byte := openBytes s.ticks

/-- The sections in order: offset, length and bytes. -/
def State.sections (s : State) (k : Core) (lim : Nat) : List (Nat × Nat × List Byte) :=
  [(0, 0x10000, s.openSection), (0x010000, 0x20000, vecPiece k.vec.v ++ maskPiece k.vec.vm ++ slotPiece k.slots),
    (0x030000, 0x40000, k.tiles.toList.flatMap fun m => memPiece m 65536),
    (0x070000, 0x20000, k.moulds.toList.flatMap fun m => memPiece m 65536),
    (0x090000, 0x10000, memPiece k.imem 65536), (0x0A0000, 0x10000, memPiece k.seg 65536),
    (0x0B0000, 1024 * lim, memPiece k.scratch (1024 * lim))]

/-- Pages of bytes written for a context. -/
def writePages (tag : Tag) : List (Nat × Nat) → List Byte → State → Except Cause State
  | [], _, s => .ok s
  | (va, n) :: r, bs, s => do
    let s ← s.serviceWrite tag va (bs.take n)
    writePages tag r (bs.drop n) s

def writeSections (tag : Tag) (base : Nat) : List (Nat × Nat × List Byte) → State → Except Cause State
  | [], s => .ok s
  | (ofs, n, bs) :: r, s => do
    let s ← writePages tag (pagesOf (ofs + base) n) bs s
    writeSections tag base r s

/-- What a grain of a record keeps of its core: everything but the stores, which stand in memory, and what belongs to
the core itself. -/
def Core.kept (k : Core) : Core :=
  { k with
    scratch := []
    imem := []
    seg := []
    tiles := Vector.replicate 4 []
    moulds := Vector.replicate 2 []
    bankq := [] }

/-- The core after the save: idle, its posts and its outstanding remote atomics gone with the grain. -/
def Core.vacated (k : Core) : Core :=
  { k with phase := .idle, grain := none, posts := [], marks := [], stem := { k.stem with ratoms := [] } }

/-- No fill of the core is under way. -/
def State.fillsLanded (s : State) (c : CoreId) : Bool :=
  allDies.all fun d => (s.runner d).fills.all fun f => f.core != c || f.susp.isSome

/-- SAVE_COMPLETE: the outcomes of R314 are in, and the record is written in the grain's context. While a page of it
cannot be written the save does not complete (log 15). -/
def execSaveComplete (c : CoreId) (s : State) : Host.Outcome State Fault Refusal :=
  .next <|
    let k := s.core c
    match k.grain with
    | none => s
    | some g =>
      if k.phase ≠ .halted || !s.fillsLanded c then s
      else if (s.grainInsts g).any fun x => x.2.state == 1 then s.abortGrain g
      else if !(s.grainInsts g).isEmpty then s
      else match s.nest g.nest with
        | none => s
        | some n =>
          match writeSections n.tag (saveAt g c 0) (s.sections k (nestSaveKib n.bits)) s with
          | .error _ => s
          | .ok t =>
            (t.modCore c Core.vacated).modNest g.nest fun n =>
              { n with saved := n.saved ++ [⟨c, k.kept, .preempt, s.ticks, k.scratch, []⟩] }

/-! ### Restore (R122, R307, R313) -/

def chunk (l : List Byte) (a n : Nat) : List Byte := (l.drop a).take n

/-- Posts and markers come after those the core has numbered since. -/
def shiftPost (k : Nat) (p : Post) : Post := { p with num := p.num + k, marks := p.marks.map fun m => (m.1, m.2 + k) }

/-- Bytes with later writes over them. -/
def memOver (bytes : List Byte) (late : List (Nat × List Byte)) : List Byte :=
  late.foldl (fun l w =>
    if w.1 + w.2.length ≤ l.length then l.take w.1 ++ w.2 ++ l.drop (w.1 + w.2.length) else l) bytes

/-- A core with a saved grain's state: the sections as read, and the rest as kept. The probe slots, which Table 10-8
does not list, are invalid (log 27). -/
def Core.restored (k x : Core) (now lim : Nat) (regs tiles moulds imem seg scratch : List Byte) : Core :=
  let sh := k.postNum - x.postNum
  let base : Core := { x with
    vec := { x.vec with
      v := Vector.ofFn fun i : Fin 31 => BitVec.ofNat 32768 (leNat (chunk regs (4096 * i.val) 4096))
      vm := Vector.ofFn fun i : Fin 8 =>
        if i = 0 then x.vec.vm.get 0 else BitVec.ofNat 4096 (leNat (chunk regs (0x1F000 + 512 * (i.val - 1)) 512))
      next := max now x.vec.next
      busy := [] }
    slots := Vector.ofFn fun i : Fin 4 =>
      { x.slots.get i with bits := BitVec.ofNat 1024 (leNat (chunk regs (0x1FE00 + 128 * i.val) 128)) }
    tiles := Vector.ofFn fun i : Fin 4 => memCells 0 (chunk tiles (65536 * i.val) 65536)
    moulds := Vector.ofFn fun i : Fin 2 => memCells 0 (chunk moulds (65536 * i.val) 65536)
    imem := memCells 0 imem
    seg := memCells 0 seg
    scratch := memCells 0 scratch
    eccHard := x.eccHard.filter (· < 1024 * lim)
    eccSoft := x.eccSoft.filter (· < 1024 * lim)
    eccFix := x.eccFix.filter (· < 1024 * lim)
    eccCount := k.eccCount
    eccWords := k.eccWords
    probes := Vector.replicate 256 Probe.empty
    victim := 0
    bankq := k.bankq
    posts := k.posts ++ x.posts.map (shiftPost sh)
    postNum := max k.postNum (x.postNum + sh)
    marks := x.marks.map fun m => (m.1, m.2 + sh)
    stem := { x.stem with ratoms := k.stem.ratoms ++ x.stem.ratoms, ratomNext := k.stem.ratomNext }
    phase := .running
    grain := k.grain
    stext := none
    vtext := none
    lastCtx := k.grain.map (·.ctx) }
  (x.stem.ratoms.filter fun r => r.phase == .replied).foldl (fun c r => c.takeRatom r) base

/-- What the first section holds when software has changed it: where each register stands in it is stated nowhere, so
every register of it takes a free value (log 15). -/
def State.reread (s : State) (k : Core) : Core :=
  let f (i : Nat) : Word := s.free (2 ^ 21 + i)
  { k with
    stem := { k.stem with
      x := Vector.ofFn fun i => f i.val
      lc := Vector.ofFn fun i => (f (32 + i.val)).setWidth 32
      pc := (f 36).setWidth 16 &&& 0xFFFC
      status := f 37
      trapcause := f 38
      trappc := f 39
      trapval := f 40
      trapvec := f 41
      trapscr := f 42
      vfault := f 43
      seed := f 44
      pwindow := f 45
      gfmt := Vector.ofFn fun i => f (46 + i.val)
      fmt := Vector.ofFn fun i => f (50 + i.val) }
    vec := { k.vec with
      a := Vector.ofFn fun i => (f (58 + i.val)).setWidth 21
      wst := Vector.ofFn fun i => (f (66 + i.val)).setWidth 21
      wlen := Vector.ofFn fun i => (f (74 + i.val)).setWidth 22
      e := Vector.ofFn fun i => (f (82 + i.val)).setWidth 32
      shape := (f 90).setWidth 32
      gens := Vector.ofFn fun i => (f (91 + i.val)).setWidth 32 } }

/-- The sections as they stand in memory. -/
def readSections (tag : Tag) (base : Nat) : List (Nat × Nat) → State → Except Cause (State × List (List Byte))
  | [], s => .ok (s, [])
  | (ofs, n) :: r, s => do
    let (s, bs) ← readImage tag (pagesOf (ofs + base) n) s
    let (s, l) ← readSections tag base r s
    pure (s, bs :: l)

/-- RESTORE_COMPLETE: the record is read back and the grain runs on; one whose context has been killed is freed. -/
def execRestoreComplete (c : CoreId) (s : State) : Host.Outcome State Fault Refusal :=
  .next <|
    let k := s.core c
    match k.grain with
    | none => s
    | some g =>
      if k.phase ≠ .restoring then s
      else match s.nest g.nest with
        | none => s.modCore c fun k => { k with phase := .idle, grain := none }
        | some n =>
          if s.pkg.dying g.ctx then
            (s.modCore c fun k => { k with phase := .idle, grain := none }).modNest g.nest fun n => (dropSaved c g.num n).settle
          else match n.saved.find? fun x => x.core == c && x.state.grain.any fun h => h.num == g.num with
            | none => s
            | some x =>
              let lim := nestSaveKib n.bits
              let phase := s.phaseAtStart c
              match readSections n.tag (saveAt g c 0) [(0, 0x10000), (0x010000, 0x20000), (0x030000, 0x40000),
                  (0x070000, 0x20000), (0x090000, 0x10000), (0x0A0000, 0x10000), (0x0B0000, 1024 * lim)] s with
              | .ok (t, [first, regs, tiles, moulds, imem, seg, scratch]) =>
                let y := if first = openBytes x.tick then x.state else s.reread x.state
                (t.modCore c fun k =>
                  { k.restored y (s.cycles.get (dieOf c)) lim regs tiles moulds imem seg (memOver scratch x.late) with
                    phase := phase }).modNest g.nest fun n => (dropSaved c g.num n).settle
              | _ => s

end Sys2Proof.Machine
end

