-- ==== Sys2Proof/Machine/Kill.lean ====
section
/-! DEFINITION. Killing a context (R269, R315, R358, R378) and function-level reset (R426): the start of the drain, its
end, and what follows for the program, the host or the function that ordered it. -/

namespace Sys2Proof.Machine

/-! ### Halting the cores first (R315 steps 1 and 2, R426 step 2) -/

/-- The cause with which the grains of a killed context end (R315). -/
def KillBy.cause : KillBy → Cause
  | .prog => .kill
  | .host _ | .flr _ => .hostAbort

/-- Cores whose grains run for a context are asked to stop; those that run nothing now end at once. Saved grains go. -/
def State.haltCtx (s : State) (ctx : BitVec 16) (cause : Cause) : State :=
  let mine (t : State) : List CoreId := allCores.filter fun c => (t.core c).grain.any fun g => g.ctx == ctx
  let t := s.modPkg fun p => { p with
    ending := if p.ending.any fun e => e.1 == ctx then p.ending else (ctx, cause) :: p.ending }
  let t := t.requestStop none (mine t)
  let t := t.endGrains ((mine t).filter fun c => (t.core c).phase != .stopping) fun n => n.withCause cause
  t.modPkg fun p => { p with nests := p.nests.map fun n => if n.ctx = ctx then (n.withCause cause).noMore else n }

def State.ctxHalted (s : State) (ctx : BitVec 16) : Bool :=
  allCores.all fun c => !(s.core c).grain.any fun g => g.ctx == ctx

/-- A kill of a context begins: its cores halt. -/
def State.killStart (s : State) (ctx : BitVec 16) (d : DieId) (n : Fin 16) (by_ : KillBy) : State :=
  (s.haltCtx ctx by_.cause).modPkg fun p => { p with kills := p.kills ++ [⟨d, n, ctx, 0, 0, by_, .halting, [], [], false⟩] }

def Package.killing (p : Package) (ctx : BitVec 16) : Bool := p.kills.any fun k => k.ctx == ctx

/-- KILLCTX. A second one of a context waits for the first and returns 0. -/
def execKillctx (d : Reg) (a : Src) (s : State) : Host.Outcome State Fault Refusal :=
  percoRun true s fun q =>
    let ctx : BitVec 16 := (q.src a).setWidth 16
    let answer (v : Word) : PRes := .done (s.modCurSeq fun q => q.setG d v) (q.after (1 + litWords [a]))
    match q.wait with
    | some (.answered v) => answer v
    | some (.drain _) => if s.pkg.killing ctx then .wait s else answer 0
    | _ =>
      let t := if s.pkg.killing ctx then s else s.killStart ctx s.curDie s.curSeq .prog
      .wait (t.modCurSeq fun q => { q with wait := some (.drain 0) })

/-! ### The rounds (R378) -/

def State.putKill (s : State) (k x : Kill) : State :=
  s.modPkg fun p => { p with kills := p.kills.map fun y => if y = k then x else y }

/-- Rounds for the running instances of a context; the dies and numbers whose outcome is awaited. -/
def State.startRounds (s : State) (ctx : BitVec 16) : State × List (DieId × W32) :=
  (allDies.flatMap fun d => ((s.runner d).insts.filter fun i => i.tag.ctx == ctx).map fun i => (d, i)).foldl
    (fun acc x =>
      (if x.2.state = 1 then (acc.1.abortInst x.1 x.2).orAlone acc.1 x.1 x.2 else acc.1, (x.1, x.2.seq) :: acc.2)) (s, [])

/-- The cores have halted: the rounds start, and their outcomes are awaited. -/
def State.openRounds (s : State) (k : Kill) : State :=
  let r := s.startRounds k.ctx
  r.1.putKill k { k with stage := .rounds, rounds := r.2, since := (s.runner k.die).cycle }

/-- An awaited outcome has come: the die remembers the instance as aborted or complete. -/
def State.outcomeIn (s : State) (ctx : BitVec 16) (x : DieId × W32) : Bool :=
  (s.runner x.1).past.any fun p => p.ctx == ctx && p.seq == x.2 && (p.state == 3 || p.state == 5)

/-! ### The drain (R358) -/

/-- Homes of this package drop what arrives for a context (step 3). -/
def State.markKilled (s : State) (ctx : BitVec 16) : State :=
  s.modPkg fun p => { p with killed := if p.killed.contains ctx then p.killed else ctx :: p.killed }

/-- A die drops the work of a context: programs end, boxes, instances and starts are discarded, fills abandoned,
watches removed without a reply; the instances stay among those remembered (R262). -/
def Runner.cancel (r : Runner) (ctx : BitVec 16) : Runner :=
  (r.insts.filter fun i => i.tag.ctx == ctx).foldl (fun r i => remember ⟨i.tag.ctx, i.seq, i.state, i.emitted⟩ r)
    { r with
      seqs := r.seqs.map fun q => if q.running && q.tag.ctx == ctx then q.ended else q
      startq := r.startq.filter fun x => x.tag.ctx != ctx
      posted := r.posted.filter fun x => x.tag.ctx != ctx
      boxes := r.boxes.filter fun b => b.tag.ctx != ctx
      insts := r.insts.filter fun i => i.tag.ctx != ctx
      watches := r.watches.filter fun w => w.ctx != ctx
      fills := r.fills.filter fun f => f.tag.ctx != ctx }

def State.countBoxes (s : State) (ctx : BitVec 16) : Nat :=
  (allDies.map fun d => (s.runner d).boxes.countP fun b => b.tag.ctx == ctx).sum

/-- Suspended remote atomics of the context are answered as dropped. -/
def State.dropRatoms (s : State) (ctx : BitVec 16) : State :=
  allCores.foldl (fun t c =>
    ((t.ratomsOf c).filter fun r => r.tag.ctx == ctx && r.phase == .suspended).foldl (fun t r => t.ratomDropped c r) t) s

/-- The packages to which requests of the context are outstanding (step 4). -/
def State.killTargets (s : State) (ctx : BitVec 16) : List (DieId × BitVec 12) :=
  allDies.flatMap fun d => ((s.runner d).srcWins.filter fun w => w.out.any fun o => o.req.ctx == ctx).map fun w => (d, w.pkg)

/-- The outcomes are in, or their time is over: the drain begins (steps 1 to 3). -/
def State.beginDrain (s : State) (k : Kill) : State :=
  let t : State := { s with dies := s.dies.map fun x => x.cancel k.ctx }
  ((t.markKilled k.ctx).dropRatoms k.ctx).putKill k { k with
    stage := .draining, count := s.countBoxes k.ctx, toSend := s.killTargets k.ctx, rounds := []
    left := !k.rounds.all (s.outcomeIn k.ctx) }

/-- The next kill leaves for its package (step 4); a package with no live route is settled by the close of its
window. -/
def State.sendKill (s : State) (k : Kill) (d : DieId) (pkg : BitVec 12) (rest : List (DieId × BitVec 12)) : Option State :=
  match s.sendFar d pkg (.kill k.ctx) (farReq 8 ⟨k.ctx, 0, true, none⟩ ⟨pkg, false, 0, 0⟩ 0 0 0 0) with
  | .sent t => some (t.putKill k { k with toSend := rest })
  | .full => none
  | .bad _ => some (s.putKill k { k with toSend := rest })

/-! ### The end (R358 step 5) -/

/-- One KILL record, if the ring has room; records of the context that still wait are discarded. Its work code,
access and position are stated nowhere (log 24). -/
def State.killRecord (s : State) (d : DieId) (ctx : BitVec 16) : State :=
  let t : State := { s with dies := s.dies.map fun r => { r with overflow := r.overflow.filter fun x => x.ctx != ctx } }
  match t.ctxEntry ctx with
  | none => t
  | some e =>
    if t.fqFull e then t
    else (t.writeFault e ⟨t.pkg.recid, ctx, (s.free 0).toNat % 16, s.accessCode none, true, .kill, 0, 0, 0, s.free 1, 0,
      0xFFFF, d⟩).modPkg fun p => { p with recid := p.recid + 1 }

/-- A record ends with a cause and no further grain; one whose completion cannot be told yet stays until it can
(R355). -/
def State.freeNest (s : State) (c : Cause) (n : Nest) : State :=
  let n' := (n.withCause c).noMore
  (s.finishNest n').getD (s.modPkg fun p =>
    { p with nests := (p.nests.filter fun x => x.id != n.id) ++ [{ n' with state := .done }] })

/-- Records of a context end with a cause; their completion words are written (R315 step 4). -/
def State.freeNests (s : State) (ctx : BitVec 16) (c : Cause) : State :=
  (s.pkg.nests.filter fun n => n.ctx == ctx).foldl (fun t n => t.freeNest c n) s

/-- The indices of a spill queue that hold records of a context. -/
def State.spilledOf (s : State) (d : DieId) (ctx : BitVec 16) : List W32 :=
  let p := s.pkg
  ((List.range (p.spillWr d - p.spillRd d).toNat).map fun i => p.spillRd d + BitVec.ofNat 32 i).filter fun i =>
    !(p.spillGone.get d).contains i && !s.memBad (p.spillAt d i) 256 &&
      (memW64 s.mem (p.spillAt d i + 0x80)).extractLsb' 32 16 == ctx

/-- The record of a spill-queue entry, as the pool takes it. -/
def State.spilledNest (s : State) (d : DieId) (i : W32) (prio : BitVec 4) (id : Nat) : Nest :=
  let a := s.pkg.spillAt d i
  let w := memW64 s.mem (a + 0x80)
  Nest.fresh id (BitVec.ofNat 1024 (memNat s.mem a 128)) prio (w.extractLsb' 32 16) (w.extractLsb' 16 5).toNat
    (w.getLsbD 8) true (some d) none (memW32 s.mem (a + 0x88)) (memW64 s.mem (a + 0x90))

/-- Spilled records of a context end with the cause too; their entries are passed over from now on. -/
def State.freeSpilled (s : State) (ctx : BitVec 16) (c : Cause) : State :=
  allDies.foldl (fun t d => (s.spilledOf d ctx).foldl (fun t i =>
    (t.freeNest c (s.spilledNest d i 0 t.pkg.nestNext)).modPkg fun p => { p with
      nestNext := p.nestNext + 1
      spillGone := p.spillGone.set d.val (i :: p.spillGone.get d) d.isLt }) t) s

/-- Slots whose queue runs in a context are unmapped (R315 step 5). -/
def State.unmapCtx (s : State) (ctx : BitVec 16) : State :=
  (List.finRange 64).foldl (fun t k =>
    if (t.pkg.slots.get k).mapped && descCtx (t.pkg.slots.get k).desc == ctx then t.unmapSlot k else t) s

/-- The logical cores assigned to a virtual function. -/
def Package.coresOfFn (p : Package) (f : Fin 17) : List CoreId := allCores.filter fun c => p.vfHas f.val c.val

/-- A core scrubbed: every store zero with fresh check bits; idle. -/
def Core.scrubbed (k : Core) : Core :=
  { Core.reset with
    eccCount := k.eccCount
    eccWords := k.eccWords
    postNum := k.postNum
    stem := { Stem.reset with ratomNext := k.stem.ratomNext } }

/-- Steps 5 and 6 of an FLR: cores scrubbed, child records freed, host queue registers reset, NOTIFY accepted again,
and assignments written meanwhile take effect (R420). -/
def State.flrEnd (s : State) (f : Fin 17) : State :=
  let scrub (c : Fin 256) : Core := (if (s.pkg.vfHas f.val c.val) then (s.core c).scrubbed else s.core c)
  let t : State := { s with cores := Vector.ofFn scrub }
  let opened (p : Package) (k : Fin 64) : QSlot :=
    if p.slotFn k = f then { p.slots.get k with closed := false } else p.slots.get k
  let u := t.modPkg fun p => { p with
    nests := p.nests.filter fun n => !(n.vf == f.val && n.child)
    slots := Vector.ofFn (opened p)
    flrs := p.flrs.filter (· ≠ f) }
  u.modFn f fun h => { HostFn.reset with
    vfcores := h.vfcoresNext, vfslots := h.vfslotsNext, vfcoresNext := h.vfcoresNext, vfslotsNext := h.vfslotsNext }

/-- Steps 4 and 5 of R315; then what follows for whoever ordered the kill. -/
def State.killOver (s : State) (k : Kill) : State :=
  let t := (((s.freeNests k.ctx k.by_.cause).freeSpilled k.ctx k.by_.cause).unmapCtx k.ctx).modPkg fun p =>
    { p with ending := p.ending.filter fun e => e.1 != k.ctx }
  match k.by_ with
  | .prog => t.modSeq k.die k.seqn fun q => match q.wait with
    | some (.drain _) => if q.running then { q with wait := some (.answered (BitVec.ofNat 64 k.count)) } else q
    | _ => q
  | .host f => t.answerHost f 0 (s.free 4).toNat
  | .flr f => if t.pkg.kills.any fun x => x.by_ == .flr f then t else t.flrEnd f

/-- The drain is over: the KILL record, and the marks cleared unless a round was left open. -/
def State.killEnd (s : State) (k : Kill) : State :=
  ((s.killRecord k.die k.ctx).modPkg fun p => { p with
    kills := p.kills.erase k
    killed := if k.left then p.killed else p.killed.filter (· ≠ k.ctx)
    rounds := if k.left then p.rounds else p.rounds.filter fun r => r.ctx ≠ k.ctx }).killOver k

/-- The next step of a kill, if it can be taken now. -/
def State.killStep (s : State) (k : Kill) : Option State :=
  match k.stage, k.toSend with
  | .halting, _ => if s.ctxHalted k.ctx then some (s.openRounds k) else none
  | .rounds, _ => if k.rounds.all (s.outcomeIn k.ctx) then some (s.beginDrain k) else none
  | .draining, x :: rest => s.sendKill k x.1 x.2 rest
  | .draining, [] => if s.requestsOut fun c => c == k.ctx then none else some (s.killEnd k)

/-- KILLCTX_DRAIN_DONE: a kill ordered there takes its next step: its cores have halted, its outcomes are in, a kill
leaves for another package, or every request of the context has been answered, which ends it. -/
def execKillctxDrainDone (d : DieId) (n : Fin 16) (s : State) : Host.Outcome State Fault Refusal :=
  .next (((s.pkg.kills.filter fun k => k.die == d && k.seqn == n).findSome? s.killStep).getD s)

/-- 40 ms of runner cycles (R8, R378). -/
def roundLimit : Nat := 64000000

/-- ROUND_DRAIN_TIMEOUT: rounds still open 40 ms after they started are left, and the drain begins. -/
def execRoundDrainTimeout (d : DieId) (n : Fin 16) (s : State) : Host.Outcome State Fault Refusal :=
  .next <|
    match s.pkg.kills.find? fun k => k.die == d && k.seqn == n && k.stage == .rounds &&
        decide (roundLimit ≤ (s.runner d).cycle - k.since) with
    | some k => s.beginDrain k
    | none => s

/-- KILL_MESSAGE: a package that kills a context has its homes marked here, until system software next writes the
context's entry (log 26); the answer leaves once earlier arrivals have performed. -/
def execKillMessage (_pkg : BitVec 12) (ctx : BitVec 16) (s : State) : Host.Outcome State Fault Refusal :=
  .next (if s.pkg.yrbase.getLsbD 0 then s.markKilled ctx else s)

/-! ### Function-level reset (R426) -/

/-- Usable contexts of a function. -/
def State.ctxsOf (s : State) (f : Fin 17) : List (BitVec 16) :=
  ((List.range (2 ^ (s.pkg.mmuctx.extractLsb' 0 5).toNat)).map (BitVec.ofNat 16)).filter fun c =>
    (s.ctxEntry c).any fun e => e.vf == f.val

/-- Steps 1 and 2: slots unmapped and closed to NOTIFY, cores asked to halt. -/
def State.flrHalt (s : State) (f : Fin 17) (ctxs : List (BitVec 16)) : State :=
  let shut (p : Package) (k : Fin 64) : QSlot :=
    if p.slotFn k = f then { p.slots.get k with mapped := false, closed := true } else p.slots.get k
  let t := s.modPkg fun p => { p with
    flrs := if p.flrs.contains f then p.flrs else f :: p.flrs
    slots := Vector.ofFn (shut p) }
  let t := ctxs.foldl (fun t c => t.haltCtx c .hostAbort) t
  t.requestStop none ((t.pkg.coresOfFn f).filter fun c => (t.core c).grain.isSome)

/-- FLR (R426): slots unmapped and closed to NOTIFY; cores halted; then the kills; steps 5 and 6 follow the drains. The
event acts again until the cores have halted, and until no other kill of its contexts is under way. An FLR of function 0
is a warm reset (R425), which stands with the resets. -/
def State.flrStep (s : State) (f : Fin 17) : State :=
  let ctxs := s.ctxsOf f
  if s.pkg.kills.any fun x => x.by_ == .flr f then s
  else
    let t := s.flrHalt f ctxs
    if !ctxs.all t.ctxHalted || (t.pkg.coresOfFn f).any (fun c => (t.core c).grain.isSome) || ctxs.any t.pkg.killing then t
    else if ctxs.isEmpty then t.flrEnd f
    else ctxs.foldl (fun t c => t.killStart c 0 14 (.flr f)) t

end Sys2Proof.Machine
end

