-- ==== Sys2Proof/Machine/LinkEvents.lean ====
section
/-! DEFINITION. The end of a retrain, and what follows when directions, sides, dies, the ring or a Yunan port go down
(R398, R403-R405, R409, R431). -/

namespace Sys2Proof.Machine

/-! ### What no route reaches any more (R404) -/

/-- A crown die with neither side: its cores are treated as quarantined, and the host is told. -/
def State.dieLost (s : State) (d : DieId) : State :=
  let quads := (s.pkg.quadMap d).filter fun q => !(s.pkg.quarq.get d).getLsbD q
  let t := quads.foldl (fun t q => t.quarantine d q) s
  let t := (allCores.filter fun c => dieOf c == d).foldl (fun t c =>
    (t.core c).posts.foldl (fun t p => t.losePost c p) t) t
  t.hostEvent 0 .internalCheck d.val

/-- Every runner die reaches every other. -/
def Package.ringWhole (p : Package) : Bool := allDies.all fun a => allDies.all fun b => p.ringPath a b

/-- What the loss of a direction brings with it: compared with the state before. -/
def State.afterLoss (s : State) (before : Package) : State :=
  let t := (allDies.filter fun d => before.dieReachable d && !s.pkg.dieReachable d).foldl State.dieLost s
  if before.ringWhole && !s.pkg.ringWhole then t.hostEvent 0 .internalCheck 0 else t

/-! ### Yunan ports (R405, R409) -/

/-- 200 µs, and RETRY, in runner cycles. -/
def closeLimit : Nat := 320000
def retryLimit : Nat := 65536

def State.putWin (s : State) (d : DieId) (w : SrcWin) : State :=
  s.modRunner d fun r => { r with srcWins := r.srcWins.map fun x => if x.pkg = w.pkg then w else x }

/-- The source sends a close on a live route (R409). -/
def State.beginClose (s : State) (d : DieId) (w : SrcWin) : State :=
  (s.putWin d { w with closing := some (s.runner d).cycle }).yunanSend d
    ⟨s.pkg.pkgid.setWidth 12, w.pkg, d, w.epoch, 9, 0, 0, w.next, (s.runner d).eack w.pkg d, 0, false⟩

/-- Every unanswered request of a window leaves again, in order, on a route. -/
def State.resendWin (s : State) (d : DieId) (w : SrcWin) (port : Nat) : State :=
  w.out.foldl (fun t o => t.yunanOut port (reqMsg o.req))
    (s.putWin d { w with route := port, out := w.out.map fun o => { o with sent := (s.runner d).cycle } })

/-- The next route of a window: the present one, then the next live one, until each has had two tries. -/
def SrcWin.nextRoute (w : SrcWin) (live : List Nat) : Option Nat :=
  let left := live.filter fun p => decide (w.tried.count p < 2)
  if left.contains w.route then some w.route else left.head?

/-- The requests of a window are sent again on its next route; with none left it is closed. -/
def State.retryWin (s : State) (d : DieId) (w : SrcWin) : State :=
  match w.nextRoute (s.liveRoutes d w.pkg) with
  | some p => s.resendWin d w p
  | none => s.beginClose d w

/-- The windows of a die on a port that went down move to their next live route at once, or are closed. -/
def State.rerouted (s : State) (p : Nat) (d : DieId) : State :=
  ((s.runner d).srcWins.filter fun w => !w.out.isEmpty && w.closing.isNone && w.route == p).foldl
    (fun t w => t.retryWin d w) s

/-- A port goes down in both directions. -/
def State.portDown (s : State) (p : Fin 16) : State :=
  let l := portLink p.val
  if !s.pkg.portUp p.val then s
  else
    let off (x : LinkDir) : LinkDir := { x with lanes := 0, retrain := false, buf := [], wire := [], waiting := [] }
    let t := (s.setLink l true (off (s.pkg.link l true))).setLink l false (off (s.pkg.link l false))
    let u := allDies.foldl (fun t d => t.rerouted p.val d) t
    u.linkEvent l true (linkUnit l) 4 0 false

/-- YUNAN_PORT_DOWN. -/
def execYunanPortDown (p : Fin 16) (s : State) : Host.Outcome State Fault Refusal := .next <| s.portDown p

/-! ### RETRAIN_DONE (R398) -/

/-- A direction that comes up: the transmitter sends again from the NAKed number. -/
def LinkDir.resume (x : LinkDir) (lanes size now : Nat) : LinkDir :=
  let buf : List Flit := x.buf.filter fun b => !fseqBelow b.seq x.expected
  let y : LinkDir := { x with
    lanes := lanes, retrain := false, naked := none, buf := buf.map fun (b : Flit) => { b with sent := now }
    wire := buf.map fun (b : Flit) => (b.seq, b.msg)
    back := x.back.filter fun b => match b with
      | .ack _ => true
      | .nak _ => false }
  y.pump size now x.waiting.length

/-- RETRAIN_DONE: failing lanes are retired, and the direction comes up, at half its width or less, or goes down. -/
def execRetrainDone (l : LinkId) (up : Bool) (s : State) : Host.Outcome State Fault Refusal :=
  .next <|
    let x := s.pkg.link l up
    if !x.retrain then s
    else
      let lanes := lanesAfter l x.failing
      let t := s.retireLanes l up lanes
      if lanes = 0 then
        if 96 ≤ l.val then (t.setLink l up { x with retrain := false }).portDown ⟨(l.val - 96) % 16, by omega⟩
        else ((t.setLink l up { x with lanes := 0, retrain := false }).dropDirection l up).afterLoss s.pkg
      else
        let u := t.setLink l up (x.resume lanes (bufSize l) (t.linkNow l up))
        if lanes ≠ x.lanes then u.linkEvent l up (linkUnit l) 1 lanes false else u

end Sys2Proof.Machine
end

