-- ==== Sys2Proof/Machine/FarEvents.lean ====
section
/-! DEFINITION. The sequence windows of the pod (R408-R411): requests that arrive here, answers that come back,
resends and closes. What a message's operation means beyond Table 19-2 is log 20. -/

namespace Sys2Proof.Machine

/-- Yunan traffic is enabled (Table 19-3). -/
def State.podOn (s : State) : Bool := s.pkg.yrbase.getLsbD 0

/-! ### Answers (R408, R409, R414) -/

/-- What a request of this package is answered with. -/
inductive Answer where
  | value (v : Word)
  | cause (c : Cause)
  deriving DecidableEq, Repr

/-- The causes that a home of another package may answer with, by their codes (log 20). -/
def causeOf (n : Nat) : Cause :=
  (([.formatInvalid, .semOverflow, .eccUncorrectable, .vaRange, .ptPoison, .pageNotPresent, .ptFormat, .pagePermission,
    .hbmPoison, .collectiveSeq, .publishState, .vfIsolation] : List Cause).find? fun c => c.code == n).getD .peerUnreachable

/-- Requests that have no data reply: an acknowledgement, whose value names the cause met if it is not 0. -/
def farAcked (q : FarReq) : Bool := q.op == 1 || q.op == 2 || q.op == 4 || (q.op == 3 && (q.aop == 11 || q.aop == 12))

/-- The access that a request makes. -/
def farAccess (q : FarReq) : Access := if q.op = 0 ∨ q.op = 5 ∨ q.op = 6 then .read else if q.op = 1 then .write else .combine

/-- A poisoned reply stands for HBM_POISON, or for the cause that its value names (log 20). -/
def farAnswer (q : FarReq) (v : Word) (poison : Bool) : Answer :=
  if poison then .cause (if v = 0 then .hbmPoison else causeOf v.toNat)
  else if farAcked q && v != 0 then .cause (causeOf v.toNat) else .value v

/-- A program's answer; none: its record can be stored nowhere yet. -/
def State.tellProg (s : State) (d : DieId) (n : Fin 16) (id : Nat) (va : Word) (q : FarReq) (a : Answer) : Option State :=
  let p := s.seqr d n
  if !p.running || p.prog != id || p.wait != some .far then some s
  else match a with
    | .value v => some (s.modSeq d n fun p => { p with wait := some (.answered v) })
    | .cause c => if p.susp.isSome then some (s.modSeq d n fun p => { p with wait := none })
      else s.progLost d n c (farAccess q) va

/-- A collective box's write met a newer header: COLLECTIVE_SEQ, once per box (R369). -/
def State.boxOld (s : State) (d : DieId) (b : Box) (acc : Access) (va : Nat) : Option State :=
  if b.oldSeq then some s
  else (s.boxRecord d b true .collectiveSeq (some acc) va).map fun x => x.1.modBox d b.mid fun z => { z with oldSeq := true }

/-- A box's answer: bytes for its element, or one request less under way. -/
def State.tellBox (s : State) (d : DieId) (mid : W32) (q : FarReq) (a : Answer) : Option State :=
  match (s.runner d).box mid with
  | none => some s
  | some b =>
    let va := if q.op = 0 then b.rva else b.accessVa (farAccess q)
    match a with
    | .cause .collectiveSeq => (s.boxOld d b (farAccess q) va).map fun t => t.answered d mid
    | .cause .publishState => s.boxEnded d b va
    | .cause c => s.boxStop d b c (some (farAccess q)) va
    | .value v =>
      if q.op = 0 then some (s.modBox d mid fun b => { b with got := b.got ++ leBytes q.bytes v.toNat, outs := b.outs - 1 })
      else some (s.answered d mid)

/-- A WAITA's answer. -/
def State.tellWaita (s : State) (c : CoreId) (sent : Word) (a : Answer) : Option State :=
  match (s.core c).stem.waita with
  | none => some s
  | some w =>
    if w.sent ≠ sent ∨ w.phase ≠ .atHome then some s
    else match a with
      | .value v => some (s.setWaita c fun w => { w with phase := .replying, seen := v })
      | .cause e => s.waitaStop c w e

/-- A posted atomic's answer. -/
def State.tellPosted (s : State) (d : DieId) (id : Nat) (a : Answer) : Option State :=
  match (s.runner d).posted.find? fun p => p.id == id, a with
  | some p, .cause c => s.postedStop d p c
  | some _, .value _ => some (s.modPosted d id fun _ => none)
  | none, _ => some s

/-- A header home or a package that cannot be reached is posted as PEER_UNREACHABLE (R375). -/
def roundCause (c : Cause) : Cause := if c = .linkTimeout then .peerUnreachable else c

/-- The answer of a request goes to whoever waits for it; none: its record can be stored nowhere yet. -/
def State.tell (s : State) (d : DieId) (o : FarOut) (a : Answer) : Option State :=
  match o.owner with
  | .ratom c id =>
    match s.ratom c id with
    | none => some s
    | some r => match a with
      | .value v => some (s.ratomReply c r v)
      | .cause e => s.ratomFault c r e
  | .waita c sent => s.tellWaita c sent a
  | .prog n id va => s.tellProg d n id va o.req a
  | .box mid => s.tellBox d mid o.req a
  | .posted id => s.tellPosted d id a
  | .round ctx sq rank =>
    match s.pkg.round ctx sq with
    | none => some s
    | some r => match a with
      | .value v => some (s.settled r rank (v != 0))
      | .cause e => s.cutOff r rank (roundCause e)
  | .repair ctx sq rank =>
    match s.pkg.round ctx sq with
    | none => some s
    | some r => match a with
      | .value _ => some (s.repaired r rank)
      | .cause e => s.cutOff r rank (roundCause e)
  | .kill _ | .nobody => some s

def Runner.win (r : Runner) (pkg : BitVec 12) : Option SrcWin := r.srcWins.find? fun w => w.pkg == pkg

def State.modWin (s : State) (d : DieId) (pkg : BitVec 12) (f : SrcWin → SrcWin) : State :=
  s.modRunner d fun r => { r with srcWins := r.srcWins.map fun w => if w.pkg == pkg then f w else w }

/-- END_TO_END_REPLY: the request leaves the retry buffer, and the window's tries start again; a reply that comes after
a close is discarded. -/
def execEndToEndReply (d : DieId) (pkg : BitVec 12) (ws : W32) (val : Word) (poison : Bool) (s : State) :
    Host.Outcome State Fault Refusal :=
  .next <|
    match (if s.podOn then ((s.runner d).win pkg).bind fun w => w.out.find? fun o => o.ws == ws else none) with
    | none => s
    | some o =>
      ((s.modWin d pkg fun w => { w with out := w.out.filter fun x => x.ws != ws, tried := [] }).tell d o
        (farAnswer o.req val poison)).getD s

/-! ### Resends and closes (R409) -/

/-- END_TO_END_NAK: the requests from the number on are sent again, in order, on the window's route. -/
def execEndToEndNak (d : DieId) (pkg : BitVec 12) (ws : W32) (s : State) : Host.Outcome State Fault Refusal :=
  .next <|
    match (if s.podOn then (s.runner d).win pkg else none) with
    | none => s
    | some w =>
      if w.closing.isSome then s
      else
        let again (o : FarOut) : Bool := decide ((o.ws - ws).toNat < 256)
        (w.out.filter again).foldl (fun t o => t.yunanOut w.route (reqMsg o.req))
          (s.putWin d { w with out := w.out.map fun o => if again o then { o with sent := (s.runner d).cycle } else o })

/-- An idle source end is closed when a place is wanted and none is free: the least recently used one (R408). -/
def State.closeIdle (s : State) (d : DieId) (w : SrcWin) : State :=
  if (s.runner d).room ≤ (s.runner d).places ∧ ((s.runner d).idlest.any fun x => x.pkg == w.pkg) then s.beginClose d w else s

/-- WINDOW_RETRY_TIMEOUT: the oldest unanswered request has waited RETRY since it was last sent: every one is sent again
on the window's next route, or, after two tries on every live route, the window is closed. -/
def execWindowRetryTimeout (d : DieId) (pkg : BitVec 12) (s : State) : Host.Outcome State Fault Refusal :=
  .next <|
    match (s.runner d).win pkg with
    | none => s
    | some w =>
      match w.out with
      | [] => if w.placed && w.closing.isNone then s.closeIdle d w else s
      | o :: _ =>
        if w.closing.isSome || decide ((s.runner d).cycle < o.sent + retryLimit) then s
        else s.retryWin d { w with tried := w.route :: w.tried }

/-- WSEQ a lies below b. -/
def wseqBelow (a b : W32) : Bool := (b - a) != 0 && decide ((b - a).toNat < 2 ^ 31)

/-- Unanswered requests are answered one after another. -/
def tellAll (d : DieId) (f : FarOut → Answer) : List FarOut → State → Option State
  | [], s => some s
  | o :: l, s => (s.tell d o (f o)).bind (tellAll d f l)

/-- A window closes: its requests are answered, EPOCH advances and WSEQ starts again. -/
def State.closeWin (s : State) (d : DieId) (w : SrcWin) (f : FarOut → Answer) : State :=
  (tellAll d f w.out (s.putWin d { w with
    epoch := w.epoch + 1, next := 0, out := [], route := 0, tried := [], closing := none })).getD s

/-- CLOSE_REPLY: a request below the far end's expected number has performed and gets its reply, an atomic's from the
result table; any other has not and gets PEER_UNREACHABLE. The data of a read that performed come back with no reply:
they are free (log 20). -/
def execCloseReply (d : DieId) (pkg : BitVec 12) (expected : W32) (results : List (W32 × Word)) (s : State) :
    Host.Outcome State Fault Refusal :=
  .next <|
    match (if s.podOn then (s.runner d).win pkg else none) with
    | none => s
    | some w =>
      if w.closing.isNone then s
      else s.closeWin d w fun o =>
        if wseqBelow o.ws expected then
          match results.find? fun r => r.1 == o.ws with
          | some r => farAnswer o.req r.2 false
          | none => .value (if farAcked o.req then 0 else s.free (5 + o.ws.toNat % 256))
        else .cause .peerUnreachable

/-- CLOSE_TIMEOUT: no reply to the close within 200 µs. -/
def execCloseTimeout (d : DieId) (pkg : BitVec 12) (s : State) : Host.Outcome State Fault Refusal :=
  .next <|
    match (s.runner d).win pkg with
    | none => s
    | some w =>
      if w.closing.any fun t => decide (t + closeLimit ≤ (s.runner d).cycle) then
        s.closeWin d w fun _ => .cause .linkTimeout
      else s

/-! ### What a request does here -/

def Runner.farWin (r : Runner) (pkg : BitVec 12) (sd : DieId) : Option FarWin :=
  r.farWins.find? fun w => w.pkg == pkg && w.sdie == sd

def State.setFar (s : State) (d : DieId) (w : FarWin) : State :=
  s.modRunner d fun r => { r with farWins := w :: r.farWins.filter fun x => !(x.pkg == w.pkg && x.sdie == w.sdie) }

/-- The physical target of a request, as it names this package. -/
def State.hereTarget (s : State) (q : FarReq) : Target :=
  { pkg := s.pkg.pkgid.setWidth 12, scratch := q.scratch, core := ⟨q.target / 2 ^ 21 % 256, by omega⟩,
    addr := if q.scratch then q.target % 2 ^ 21 else q.target }

/-- The bits of a write's or combine's operation (log 20): raw or tag code, nibble flags; operation and type. -/
def farHomeOp (q : FarReq) : HomeOp :=
  if q.op = 1 then
    if q.aop / 16 % 2 = 1 then .nibble (BitVec.ofNat 4 q.aop) q.cmp (q.aop / 32 % 2 == 1)
    else .write (BitVec.ofNat 4 q.aop) q.cmp (8 * q.bytes)
  else if q.op = 2 then .combine (q.aop % 16) (boxTy (q.aop / 16))
  else .credit

/-- The tag that a request of another package carries (R347). -/
def farTag (q : FarReq) : Tag := ⟨q.ctx, q.vf, q.sup, q.core⟩

/-- What the far end answers: a value, poisoned or not; poisoned: a cause met, by its code (log 20). -/
structure FarAns where
  val : Word
  poison : Bool

def FarAns.ok (v : Word) : FarAns := ⟨v, false⟩
/-- A cause: in the value of an acknowledgement, or in a poisoned reply. -/
def farBad (q : FarReq) (c : Cause) : FarAns := ⟨BitVec.ofNat 64 c.code, !farAcked q⟩

/-- What performing a request comes to: none where it cannot perform yet. -/
abbrev FarDone := Option (State × FarAns)

def State.farDone (s : State) (q : FarReq) : Except Cause State → FarDone
  | .ok t => some (t, .ok 0)
  | .error c => some (s, farBad q c)

/-- The write of a collective box at its shadow half's home, in the step that reads the header; none while an earlier
request stands there. -/
def State.farShadowAt (s : State) (d : DieId) (q : FarReq) (va : Word) : FarDone :=
  match locateVa d (farTag q) (farHomeOp q).access (spans va.toNat q.bytes) s [] with
  | .noCtx => some (s.internalCheck d q.ctx, .ok 0)
  | .bad c _ => some (s, farBad q c)
  | .at_ s1 l =>
    let free := l.all fun p => match p.1 with
      | .home t => s1.homeFree t p.2.1
      | _ => true
    if !free then none
    else s.farDone q ((shares (farHomeOp q) l (leBytes q.bytes q.data.toNat)).foldlM (fun (t : State) w =>
      match w.2.1 with
      | .home x => t.perform x w.1 w.2.2
      | .far _ => .error .peerUnreachable
      | _ => .ok t) s1)

/-- A collective write at a header's home here (R369): one that is dropped for its age is answered COLLECTIVE_SEQ, and
the die of its box posts the record. -/
def State.farShadow (s : State) (d : DieId) (q : FarReq) (sq : W32) (ofs : Word) : FarDone :=
  match s.header (s.hereTarget q) with
  | .bad c => some (s, farBad q c)
  | .unfit => some (s, farBad q .publishState)
  | .at_ h =>
    let dist := (sq - h.pseq).toNat
    if dist = 0 then some (s, .ok 0)
    else if 2 ^ 31 ≤ dist then some (s, farBad q .collectiveSeq)
    else s.farShadowAt d q (h.shadow + ofs)

/-- A read: the present value. -/
def State.farRead (s : State) (q : FarReq) (t : Target) : FarDone :=
  match s.homeReadBad t q.bytes with
  | some c => some (s, farBad q c)
  | none => some (s.noteRead t q.bytes, .ok (BitVec.ofNat 64 (leNat (s.homeBytes t q.bytes))))

/-- An atomic of another package, and the value that it answers (R410). -/
def State.farAtomic (s : State) (q : FarReq) (t : Target) : FarDone :=
  if q.aop < 10 then
    match s.atomicAt t q.bytes q.aop q.data q.cmp with
    | .ok (s', old) => some (s', .ok old)
    | .error c => some (s, farBad q c)
  else if q.aop = 10 then
    match s.homeReadBad t 4 with
    | some c => some (s, farBad q c)
    | none =>
      let v := leNat (s.homeBytes t 4)
      let n := q.data.toNat % 2 ^ 32
      let s := s.noteRead t 4
      some (if n ≠ 0 ∧ n ≤ v then s.homeWrite t (leBytes 4 (v - n)) else s, .ok (BitVec.ofNat 64 v))
  else
    match s.header t with
    | .bad c => some (s, farBad q c)
    | .unfit => some (s, farBad q .publishState)
    | .at_ h =>
      if q.aop = 11 then some (if h.pseq = q.data.setWidth 32 then s else s.setHead t (q.data.setWidth 32) !h.sel, .ok 0)
      else some (s.setHead t h.pseq !h.sel, .ok 0)

/-- A watch of another package; its answer leaves at once when the word differs or the die holds 2,048 watches. -/
def State.farWatch (s : State) (d : DieId) (q : FarReq) (t : Target) : State × Option FarAns :=
  match s.homeReadBad t q.bytes with
  | some c => (s, some (farBad q c))
  | none =>
    let die := s.watchDie t
    let v := BitVec.ofNat 64 (leNat (s.homeBytes t q.bytes))
    let s := s.noteRead t q.bytes
    if v ≠ q.data || 2048 ≤ (s.runner die).watches.length then (s, some (.ok v))
    else (s.modRunner die (addWatch ⟨t, q.bytes == 8, q.data, q.src, q.core.getD 0, q.ctx, 0, d, q.sdie, q.epoch, q.wseq⟩), none)

/-- A settle of a round resolved elsewhere; none while its record can be stored nowhere (R355). -/
def State.farSettle (s : State) (q : FarReq) (t : Target) : FarDone :=
  let sq : W32 := q.data.setWidth 32
  let unfit : FarDone := (s.instRecord 0 q.ctx sq .publishState 0 0xFFFF).map fun x => (x, .ok 0)
  if t.addr % 64 ≠ 0 then unfit
  else match s.header t with
    | .bad c => some (s, farBad q c)
    | .unfit => unfit
    | .at_ h => if h.pseq = sq then some (s, .ok 1) else some (s.setHead t sq h.sel, .ok 0)

/-- A request performs here, once, with the function's range checked at this home (R352); one of a killed context is
dropped and answered as dropped (R358). A watch that is installed answers later. -/
def State.farPerform (s : State) (d : DieId) (q : FarReq) : Option (State × Option FarAns) :=
  let t := s.hereTarget q
  let one (r : FarDone) : Option (State × Option FarAns) := r.map fun x => (x.1, some x.2)
  if q.op ≠ 8 ∧ s.pkg.killed.contains q.ctx then some (s, some (.ok 0))
  else if q.op < 8 && t.scratch && (!s.pkg.coreExists t.core || !s.pkg.vfHas q.vf t.core.val) then
    some (s, some (farBad q .vfIsolation))
  else match q.op with
    | 0 => one (s.farRead q t)
    | 1 | 2 =>
      match q.hdr with
      | some (sq, ofs) => one (s.farShadow d q sq ofs)
      | none => one (s.farDone q (s.perform t (farHomeOp q) (leBytes q.bytes q.data.toNat)))
    | 3 => one (s.farAtomic q t)
    | 4 => one (s.farDone q (s.semAddAt t (q.data.toNat % 2 ^ 32)))
    | 5 => some (s.farWatch d q t)
    | 6 => some (s.fireOn (s.watchDie t) fun w => w.onLine t.scratch t.core t.addr 1 &&
        (q.aop == 1 || (w.pkg == q.src && q.core.any fun c => w.core == c)), some (.ok 0))
    | 7 => one (s.farSettle q t)
    | 8 => some (s.markKilled q.ctx, some (.ok 0))
    | _ => some (s, none)

/-! ### The far end (Table 19-5, R410) -/

/-- Atomics whose results are kept. -/
def farKept (q : FarReq) : Bool := q.op == 3 || q.op == 7

/-- A message back to the die that sent a request: a reply, an acknowledgement or a NAK, by any live route. -/
def State.farReply (s : State) (d : DieId) (q : FarReq) (op : Nat) (ws : W32) (a : FarAns) : State :=
  s.yunanSend d ⟨s.pkg.pkgid.setWidth 12, q.src, d, q.epoch, op, if op = 16 then 1 else 0, q.ctx, ws,
    (s.runner d).eack q.src q.sdie, a.val, a.poison⟩

/-- The answer of a request, if it has one now: a data reply or an acknowledgement. -/
def State.farSay (s : State) (d : DieId) (q : FarReq) : Option FarAns → State
  | none => s
  | some a => s.farReply d q (if farAcked q || decide (6 ≤ q.op) then 17 else 16) q.wseq a

/-- The results kept: of the atomics among the last 256 requests performed. -/
def FarWin.keep (w : FarWin) (q : FarReq) (a : Option FarAns) : List (W32 × Word) :=
  let old := w.results.filter fun x => decide ((w.expected - x.1).toNat < 256)
  match a with
  | some a => if farKept q && !a.poison then (q.wseq, a.val) :: old else old
  | none => old

/-- A request with the expected number performs once no earlier request stands at its home, and is answered. -/
def State.farEqual (s : State) (d : DieId) (w : FarWin) (q : FarReq) : State :=
  if !s.homeFree (s.hereTarget q) (max 1 q.bytes) then s
  else match s.farPerform d q with
    | none => s
    | some (t, a) => (t.setFar d { w with expected := w.expected + 1, results := w.keep q a, freed := false }).farSay d q a

/-- A request behind the expected number (Table 19-5): an atomic's stored result, the present value of a read or a
watched word, or another acknowledgement. -/
def State.farBehind (s : State) (d : DieId) (w : FarWin) (q : FarReq) : State :=
  let t := s.hereTarget q
  if farKept q then
    match w.results.find? fun x => x.1 == q.wseq with
    | some x => s.farSay d q (some (.ok x.2))
    | none => s.farSay d q ((s.homeReadBad t (max 1 q.bytes)).map (farBad q))
  else if q.op = 0 ∨ q.op = 5 then
    match s.farRead q t with
    | some (u, a) => u.farSay d q (some a)
    | none => s
  else s.farSay d q (some (.ok 0))

/-- A request of the current epoch (Table 19-5). -/
def State.farArrive (s : State) (d : DieId) (w : FarWin) (q : FarReq) : State :=
  if q.wseq = w.expected then s.farEqual d w q
  else if wseqBelow q.wseq w.expected then s.farBehind d w q
  else if w.lastNak.any fun t => decide ((s.runner d).cycle < t + 4096) then s
  else (s.setFar d { w with lastNak := some (s.runner d).cycle }).farReply d q 18 w.expected (.ok 0)

/-- A window that has no place at the far end gets one, or its request is discarded with a NAK (R408). -/
def State.farPlaced (s : State) (d : DieId) (w : FarWin) (q : FarReq) : State :=
  if w.freed ∧ (s.runner d).room ≤ (s.runner d).places then s.farReply d q 18 0 (.ok 0) else s.farArrive d w q

/-- FAR_END_REQUEST: one for another package is discarded (R434); a request of an older epoch is refused and answered as
dropped, a newer epoch discards the result table. -/
def execFarEndRequest (d : DieId) (q : FarReq) (s : State) : Host.Outcome State Fault Refusal :=
  .next <|
    if !s.podOn then s
    else if q.dst.toNat ≠ s.pkg.pkgid.toNat then s.logFar d ⟨7, 0, d, false⟩ .internalCheck 0 q.ctx (q.src.setWidth 16)
    else match (s.runner d).farWin q.src q.sdie with
      | none => s.farPlaced d ⟨q.src, q.sdie, q.epoch, 0, [], none, true⟩ q
      | some w =>
        if q.epoch = w.epoch then s.farPlaced d w q
        else if (q.epoch - w.epoch).toNat < 128 then
          s.farPlaced d { w with epoch := q.epoch, expected := 0, results := [] } q
        else s.farReply d q 17 q.wseq (.ok 0)

/-- WINDOW_CLOSE: the far end answers with its expected number, takes the epoch that follows the closed one, and is
freed. -/
def execWindowClose (d : DieId) (pkg : BitVec 12) (sd : DieId) (ep : BitVec 8) (s : State) :
    Host.Outcome State Fault Refusal :=
  .next <|
    match (if s.podOn then (s.runner d).farWin pkg sd else none) with
    | none => s
    | some w =>
      if w.epoch = ep then
        (s.setFar d { w with epoch := ep + 1, expected := 0, results := [], freed := true }).yunanSend d
          ⟨s.pkg.pkgid.setWidth 12, pkg, d, ep, 16, 1, 0, w.expected, (s.runner d).eack pkg sd, w.expected.setWidth 64, false⟩
      else s

/-- The oldest message of a runner die to another package leaves by a live route. -/
def State.messageTurn (s : State) (d : DieId) : State :=
  match (s.runner d).messages with
  | [] => s
  | m :: rest => (s.modRunner d fun r => { r with messages := rest }).yunanSend d m

end Sys2Proof.Machine
end

