-- ==== Sys2Proof/Machine/Reset.lean ====
section
/-! DEFINITION. Cold and warm reset (R304, R360, R403, R404, R425), the choice of the firmware bank (R427), the
heartwood copies (R429) and MEMREADY (R425, R430). -/

namespace Sys2Proof.Machine

/-! ### Boot (R427) -/

/-- An image passes the checks of the root of trust; its security version (log 14). -/
def fwOk (img : List Byte) : Bool := !(Config.crypto 1 img).isEmpty
def fwVersion (img : List Byte) : Nat := leNat (Config.crypto 2 img)

/-- The bank that boots: the one that passes, the higher version of two. -/
def bootBank (flash : Vector (List Byte) 2) : Option (Fin 2) :=
  if fwOk (flash.get 0) then
    if fwOk (flash.get 1) && decide (fwVersion (flash.get 0) < fwVersion (flash.get 1)) then some 1 else some 0
  else if fwOk (flash.get 1) then some 1 else none

/-! ### Links -/

/-- Lanes of a direction that the heartwood table has retired. -/
def Heartwood.lanesOf (h : Heartwood) (l : LinkId) (up : Bool) : BitVec 64 :=
  BitVec.ofNat 64 (bitsOf ((h.lanes.filter fun x => x.1 == l && x.2.1 == up).map (·.2.2)).dedup)

def idxLink (i : Fin 224) : LinkId := ⟨i.val / 2, by omega⟩
def idxUp (i : Fin 224) : Bool := i.val % 2 == 1

/-- A direction as training leaves it: its failing and retired lanes out. -/
def trained (h : Heartwood) (old : Vector LinkDir 224) (i : Fin 224) : LinkDir :=
  let failing := (old.get i).failing ||| h.lanesOf (idxLink i) (idxUp i)
  { LinkDir.reset (lanesAfter (idxLink i) failing) with failing := failing }

/-- A direction that did not come up has its substitute at once (R403). -/
def withSub (v : Vector LinkDir 224) (i : Fin 224) : LinkDir :=
  let x := v.get i
  if x.lanes = 0 ∧ i.val < 192 then
    { x with sub := (substitutes (idxLink i)).find? fun k => (v.get (linkIdx k (idxUp i))).lanes != 0 }
  else x

def retrainAll (h : Heartwood) (old : Vector LinkDir 224) : Vector LinkDir 224 :=
  Vector.ofFn (withSub (Vector.ofFn (trained h old)))

/-- The UCIe links with a direction at 32 lanes. -/
def narrowOf (v : Vector LinkDir 224) : BitVec 96 :=
  BitVec.ofNat 96 (bitsOf ((List.range 96).filter fun l =>
    let k : LinkId := ⟨l % 112, by omega⟩
    (v.get (linkIdx k true)).lanes == 32 || (v.get (linkIdx k false)).lanes == 32))

/-! ### Main memory when L changes (R360) -/

/-- Where a byte of one live channel list stands under another (Place, R359): it stays in its channel. -/
def placeMove (old new : List Nat) (a : Nat) : Option Nat :=
  let n := max 1 old.length
  let ch := old.getD (a / 512 % n) 0
  (new.findIdx? (· == ch)).map fun k => (a / 512 / n * new.length + k) * 512 + a % 512

def moveMem (old new : List Nat) (m : Mem) : Mem :=
  m.foldl (fun r c => match placeMove old new c.1 with
    | some a => memPut r a [c.2]
    | none => r) []

/-! ### The resets -/

/-- Scratchpad words found uncorrectable so far, by physical core. -/
def State.eccFound (s : State) : List (Nat × Nat) :=
  (s.pkg.eccLife ++ allCores.flatMap fun c => (s.core c).eccWords.map fun w => (s.pkg.physCore c, w)).dedup

/-- The heartwood table after the check of its copies (R429). -/
def Heartwood.checked (h : Heartwood) : Heartwood :=
  if h.bad0 && h.bad1 then Heartwood.shipped else { h with bad0 := false, bad1 := false }

/-- Live quads of a die after a reset (R304, R404). -/
def Package.quadsAtReset (p : Package) (d : DieId) : BitVec 17 :=
  if p.dieReachable d then ~~~ (p.heart.quads.get d) else 0

/-- The package after a reset: what Table 20-5 keeps, the links trained, the binding and L from the heartwood table. -/
def State.pkgReset (s : State) (cold : Bool) : Package :=
  let p := s.pkg
  let heart := p.heart.checked
  let bank := bootBank p.flash
  let q : Package := { Package.reset with
    heart := heart
    links := retrainAll heart p.links
    narrow := narrowOf (retrainAll heart p.links)
    livech := ~~~ heart.chans
    lchanged := !cold && p.livech != ~~~ heart.chans
    poison := if cold then [] else
      p.poison.filterMap (placeMove p.channels (bitList 256 (~~~ heart.chans)))
    uid0 := p.uid0
    uid1 := p.uid1
    flash := p.flash
    booted := bank
    fwFailed := bank.isNone
    fwver := bank.elim 0 fun b => BitVec.ofNat 16 (fwVersion (p.flash.get b))
    temp := p.temp
    volt := p.volt
    proc := p.proc
    pnow := p.pnow
    hot := p.hot
    badRails := p.badRails
    counts := p.counts
    badRows := p.badRows
    eccLife := s.eccFound }
  let quads (d : Fin 4) : BitVec 17 := q.quadsAtReset d
  { q with liveq := Vector.ofFn quads }

/-- A runner die after a reset: a YWBASE written before it takes effect (R408). -/
def Runner.afterReset (r : Runner) : Runner := { Runner.reset with ywbase := r.ywbaseNext, ywbaseNext := r.ywbaseNext }

/-- Lanes that fail at this training are retired (R398, R415). -/
def State.retireAll (s : State) : State :=
  (List.finRange 224).foldl (fun t i => t.retireLanes (idxLink i) (idxUp i) (t.pkg.links.get i).lanes) s

/-- Sides, runner-to-runner links and dies that training finds down are logged, and the host is told (R404). -/
def State.reportDown (s : State) : State :=
  let side (kind : Nat) (t : State) (l : LinkId) : State :=
    if t.pkg.sideUp l then t else t.linkEvent l true (linkUnit l) kind 0 false
  let t := allDies.foldl (fun t d => side 3 (side 2 (side 2 t (crownLink d 0)) (crownLink d 8)) (ringLink d 0)) s
  let u := (allDies.filter fun d => !s.pkg.dieReachable d).foldl (fun t d => t.hostEvent 0 .internalCheck d.val) t
  if allDies.all fun a => allDies.all fun b => s.pkg.ringPath a b then u else u.hostEvent 0 .internalCheck 0

/-- A package-wide failure: its log record and an unsolicited completion. -/
def State.packageFailure (s : State) (c : Cause) : State :=
  (s.logCause 0 ⟨7, 0, 0, false⟩ c 0 0xFFFF).hostEvent 0 c 0

/-- Cold or warm reset: all work ended, every on-chip store cleared; main memory is kept by a warm reset, its cells in
their channels (log 29). -/
def State.resetAs (s : State) (cold : Bool) : State :=
  let q := s.pkgReset cold
  let mem := if cold then [] else if q.lchanged then moveMem s.pkg.channels q.channels s.mem else s.mem
  let t : State := { s with
    cores := Vector.replicate 256 Core.reset
    dies := if cold then Vector.replicate 4 Runner.reset else s.dies.map Runner.afterReset
    cycles := Vector.replicate 4 0
    mem := mem
    pkg := q }
  let t := t.retireAll.reportDown
  let t := if s.pkg.heart.bad0 && s.pkg.heart.bad1 then t.packageFailure .internalCheck else t
  if q.fwFailed then t.packageFailure .fwAuth else t

/-- COLD_RESET: power-on or PERST#. -/
def execColdReset (s : State) : Host.Outcome State Fault Refusal := .next <| s.resetAs true

/-- WARM_RESET: a hot reset of function 0. -/
def execWarmReset (s : State) : Host.Outcome State Fault Refusal := .next <| s.resetAs false

/-- MEMREADY: every link and PHY has trained; the configuration record is written first. -/
def execMemready (s : State) : Host.Outcome State Fault Refusal :=
  .next <|
    if s.pkg.memready || s.pkg.fwFailed then s
    else s.writeConf.modPkg fun p => { p with memready := true }

end Sys2Proof.Machine
end

