-- ==== Sys2Proof/Machine/HostPort.lean ====
section
/-! DEFINITION. What the host does to the part: doorbells and acknowledgements (R421-R424), the operations of Table 20-4
(R297, R309, R315, R422, R427, R429), writes of the windows' registers (R298, R310, R347, R362, R407, R408, R419-R421,
R432, R434), and reads and writes of main memory (R320, R414). -/

namespace Sys2Proof.Machine

/-! ### Doorbell and acknowledgement -/

/-- The host queues of a function are alive: those of function 0 always, a virtual function's unless the firmware
failed its checks (R427). -/
def Package.queueAlive (p : Package) (f : Fin 17) : Bool := f == 0 || !p.fwFailed

/-- DOORBELL: a 32-bit write to the low half leaves CACKNOW as it was. -/
def execDoorbell (f : Fin 17) (v : W32) (s : State) : Host.Outcome State Fault Refusal :=
  .next <|
    if s.pkg.queueAlive f then (s.modFn f fun h => { h with doorbell := v }).pumpSubs f else s

/-- CACK: the 64-bit write acknowledges first; held completions go out; then it rings the doorbell. -/
def execCack (f : Fin 17) (v : Word) (s : State) : Host.Outcome State Fault Refusal :=
  .next <|
    if s.pkg.queueAlive f then
      ((s.modFn f fun h => { h with cacknow := v.extractLsb' 32 32, doorbell := v.setWidth 32 }).flushFn f).pumpSubs f
    else s

/-! ### Submissions (Table 20-4) -/

/-- The accepted entry of a function when it holds an operation. -/
def State.submitted (s : State) (f : Fin 17) (op : Nat) : Option (List Word) :=
  (s.pkg.fns.get f).accepted.filter fun ws => subOp ws == op

/-- The entry completes with a cause, or with status 0; a DETAIL that no cause fixes is not stated (log 28). -/
def State.refuseHost (s : State) (f : Fin 17) (c : Cause) (detail : Word) : State :=
  s.answerHost f (0x100 + c.code) detail.toNat
def State.okHost (s : State) (f : Fin 17) : State := s.answerHost f 0 (s.free 4).toNat

/-- A slot that a function may name. -/
def State.ownSlot (s : State) (f : Fin 17) (w : Word) : Except Cause (Fin 64) :=
  if h : w.toNat < 64 then
    if s.pkg.slotFn ⟨w.toNat, h⟩ = f then .ok ⟨w.toNat, h⟩ else .error .vfIsolation
  else .error .queueInvalid

/-- A context that a function may name. -/
def State.ownCtx (s : State) (f : Fin 17) (w : Word) : Except Cause (BitVec 16) :=
  if 2 ^ 16 ≤ w.toNat then .error .queueInvalid
  else match s.ctxEntry (w.setWidth 16) with
    | none => .error .queueInvalid
    | some e => if e.vf = f.val then .ok (w.setWidth 16) else .error .vfIsolation

/-- MAPQ: word 2 is translated once, as a read, in the context of word 3; the physical address goes to SLOTQ and the slot
is mapped. A target that is no main memory of this package cannot stand in SLOTQ. -/
def execMapq (f : Fin 17) (s : State) : Host.Outcome State Fault Refusal :=
  .next <|
    match s.submitted f 1 with
    | none => s
    | some ws =>
      if !s.pkg.memready then s
      else match s.ownSlot f (subWord ws 1), s.ownCtx f (subWord ws 3) with
        | .error c, _ => s.refuseHost f c (subWord ws 1)
        | _, .error c => s.refuseHost f c (subWord ws 3)
        | .ok k, .ok ctx =>
          match s.translate 0 ⟨ctx, f.val, true, none⟩ (subWord ws 2).toNat .read with
          | .noCtx => s.refuseHost f .queueInvalid (subWord ws 3)
          | .bad c => s.refuseHost f c (subWord ws 3)
          | .ok t u =>
            if t.scratch || !s.isLocal t then u.refuseHost f .queueInvalid (subWord ws 1)
            else ((u.modSlot k fun q => { q with slotq := BitVec.ofNat 64 t.addr }).mapSlot k).okHost f

/-- UNMAPQ. -/
def execUnmapq (f : Fin 17) (s : State) : Host.Outcome State Fault Refusal :=
  .next <|
    match s.submitted f 2 with
    | none => s
    | some ws =>
      if !s.pkg.memready then s
      else match s.ownSlot f (subWord ws 1) with
        | .error c => s.refuseHost f c (subWord ws 1)
        | .ok k => (s.unmapSlot k).okHost f

/-- SETCTX: bytes 0x00 to 0x27 of the entry. A mark left by a kill and rounds it left open end with the entry's new life
(log 26). -/
def execSetctx (f : Fin 17) (s : State) : Host.Outcome State Fault Refusal :=
  .next <|
    match s.submitted f 3 with
    | none => s
    | some ws =>
      let n := subWord ws 1
      if !s.pkg.memready then s
      else match (if 2 ^ 16 ≤ n.toNat then none else s.ctxPa (n.setWidth 16)) with
        | none => s.refuseHost f .queueInvalid n
        | some pa =>
          if s.memWriteBad pa 40 then s.refuseHost f .hbmPoison n
          else
            let ctx : BitVec 16 := n.setWidth 16
            let t := s.writeMem pa ([2, 3, 4, 5, 6].flatMap fun k => leBytes 8 (subWord ws k).toNat)
            (t.modPkg fun p => { p with
              killed := if p.kills.any fun k => k.ctx == ctx then p.killed else p.killed.filter (· ≠ ctx)
              rounds := p.rounds.filter fun r => !(r.ctx == ctx && r.outcome == 0 && !(p.kills.any fun k => k.ctx == ctx)) }).okHost f

/-- KILL with HOST_ABORT (R315), whose end answers; one that finds a kill of the context under way waits for it. -/
def execKill (f : Fin 17) (s : State) : Host.Outcome State Fault Refusal :=
  .next <|
    match s.submitted f 4 with
    | none => s
    | some ws =>
      if !s.pkg.memready || s.pkg.kills.any fun k => k.by_ == .host f then s
      else match s.ownCtx f (subWord ws 1) with
        | .error c => s.refuseHost f c (subWord ws 1)
        | .ok ctx =>
          if s.pkg.killing ctx then s else s.killStart ctx 0 14 (.host f)

/-- HWREAD: the table goes to the host's 64 KiB buffer. Its layout is not stated: the bytes are free values (log 28). -/
def execHwread (f : Fin 17) (s : State) : Host.Outcome State Fault Refusal :=
  .next <|
    match s.submitted f 5 with
    | none => s
    | some ws =>
      let bytes := (List.range 65536).map fun i => (s.free (2 ^ 20 + i)).setWidth 8
      let t : State := { s with hostMem := memPut s.hostMem (subWord ws 1).toNat bytes }
      t.okHost f

/-- QUARANTINE of a physical quad. -/
def execQuarantine (f : Fin 17) (s : State) : Host.Outcome State Fault Refusal :=
  .next <|
    match s.submitted f 6 with
    | none => s
    | some ws =>
      let d := (subWord ws 1).toNat
      let q := (subWord ws 2).toNat
      if !s.pkg.memready then s
      else if h : d < 4 then
        if 17 ≤ q then s.refuseHost f .queueInvalid (subWord ws 2)
        else if (s.pkg.quarq.get ⟨d, h⟩).getLsbD q then s.okHost f
        else (s.quarantine ⟨d, h⟩ q).okHost f
      else s.refuseHost f .queueInvalid (subWord ws 1)

/-- WARMRESET completes before the reset begins: it waits until its completion can be written. -/
def execWarmreset (f : Fin 17) (s : State) : Host.Outcome State Fault Refusal :=
  .next <|
    match s.submitted f 7 with
    | none => s
    | some _ =>
      let t := s.answerSub f 0 (s.free 4).toNat
      if (t.pkg.fns.get f).heldc.isEmpty then t.resetAs false else s

def fwLimit : Nat := 32 * 2 ^ 20

/-- FWLOAD: the image is checked, then written into the bank that was not booted. Host memory does not change between
the two reads, for they are one step. -/
def execFwload (f : Fin 17) (s : State) : Host.Outcome State Fault Refusal :=
  .next <|
    match s.submitted f 8 with
    | none => s
    | some ws =>
      let len := (subWord ws 2).toNat
      if len = 0 || decide (fwLimit < len) || len % 4096 != 0 then s.refuseHost f .fwAuth (s.free 4)
      else
        let img := memBytes s.hostMem (subWord ws 1).toNat len
        if fwOk img then
          let bank : Fin 2 := if s.pkg.booted = some 0 then 1 else 0
          (s.modPkg fun p => { p with flash := p.flash.set bank.val img bank.isLt }).okHost f
        else s.refuseHost f .fwAuth (s.free 4)

/-! ### Function-level reset (R425, R426) -/

/-- FLR: of function 0 it is a warm reset. -/
def execFlr (f : Fin 17) (s : State) : Host.Outcome State Fault Refusal :=
  .next <| if f = 0 then s.resetAs false else if s.pkg.memready then s.flrStep f else s

/-! ### Windows (Table 20-1) -/

/-- SLOT_MAP, SLOT_UNMAP: writes of MAPPED through the scheduler window. -/
def execSlotMap (k : Fin 64) (s : State) : Host.Outcome State Fault Refusal :=
  .next <| if s.pkg.memready then s.mapSlot k else s
def execSlotUnmap (k : Fin 64) (s : State) : Host.Outcome State Fault Refusal :=
  .next <| if s.pkg.memready then s.unmapSlot k else s

/-- NOTIFY: function 0 reaches every slot, a virtual function its own. -/
def execNotify (f : Fin 17) (k : Fin 64) (v : Word) (s : State) : Host.Outcome State Fault Refusal :=
  .next <| if s.pkg.memready && (f == 0 || s.pkg.slotFn k == f) then s.notifySlot k v else s

/-- CHILDQ_WRITE: only while the ring is empty; both indices become 0. -/
def execChildqWrite (d : DieId) (v : Word) (s : State) : Host.Outcome State Fault Refusal :=
  .next <|
    if s.pkg.memready && s.pkg.spillWr d == s.pkg.spillRd d then
      s.modPkg fun p => { p with
        childq := p.childq.set d.val (v &&& 0xFFFFFFFFFFFFF01F) d.isLt
        childidx := p.childidx.set d.val 0 d.isLt }
    else s

/-- PKGID_WRITE: ignored while YRBASE.EN is 1. -/
def execPkgidWrite (v : Word) (s : State) : Host.Outcome State Fault Refusal :=
  .next <|
    if s.pkg.memready && !s.pkg.yrbase.getLsbD 0 then s.modPkg fun p => { p with pkgid := v &&& 0xFFF } else s

/-- A host queue register (Table 20-3): SBASE, CBASE, and the sizes. -/
def HostFn.writeReg (h : HostFn) (off : Nat) (v : Word) : HostFn :=
  if off = 0x00 then { h with sbase := v &&& ~~~0xFFF }
  else if off = 0x08 then { h with cbase := v &&& ~~~0xFFF }
  else if off = 0x10 then { h with slog2n := (v.extractLsb' 0 5).toNat, clog2n := (v.extractLsb' 8 5).toNat }
  else h

/-- A write of a host queue register; held completions go out once the pair is on. -/
def State.writeQueueReg (s : State) (f : Fin 17) (off : Nat) (v : Word) : State :=
  if s.pkg.queueAlive f then ((s.modFn f fun h => h.writeReg off v).flushFn f).pumpSubs f else s

/-- A function has a usable context. -/
def State.fnInUse (s : State) (f : Fin 17) : Bool := !(s.ctxsOf f).isEmpty

/-- VFCORES and VFSLOTS of a virtual function: at once, or at its next reset when it has a context in use (R420). -/
def State.writeVf (s : State) (f : Fin 17) (slots : Bool) (v : Word) : State :=
  let now := !s.fnInUse f
  s.modFn f fun h =>
    if slots then { h with vfslotsNext := v, vfslots := if now then v else h.vfslots }
    else
      let v := v &&& 0xFFFFFFFF
      { h with vfcoresNext := v, vfcores := if now then v else h.vfcores }

/-- The runner management window (Tables 14-1, 14-8, 19-3, 19-8, 19-13). -/
def State.writeRunnerReg (s : State) (off : Nat) (v : Word) : State :=
  if off = 0x000 then s.modPkg fun p => { p with mmuctx := v &&& 0x0000FFFFFFC0001F }
  else if off = 0x008 then s.modPkg fun p => { p with yrbase := v &&& 0x0000FFFFFFFF8001 }
  else if off = 0x010 then s.modPkg fun p => { p with errlog := v &&& 0x0000FFFFFFFFF01F }
  else if off = 0x020 then s.modPkg fun p => { p with errrd := v }
  else if 0x060 ≤ off ∧ off ≤ 0x078 ∧ off % 8 = 0 then
    s.modRunner ⟨(off - 0x60) / 8 % 4, by omega⟩ fun r => { r with ywbaseNext := v &&& 0x0000FFFFFFFF001F }
  else if 0x1000 ≤ off ∧ off < 0x1800 ∧ off % 8 = 0 then
    s.modPkg fun p => { p with dlbudget := p.dlbudget.setIfInBounds ((off - 0x1000) / 8) (v &&& 0x0000FFFFFFFFFFFF) }
  else s

/-- SLOTQ of a slot. -/
def State.writeSlotReg (s : State) (off : Nat) (v : Word) : State :=
  if off < 0x40000 ∧ off % 0x1000 = 0 then s.modSlot ⟨off / 0x1000 % 64, by omega⟩ fun q => { q with slotq := v } else s

/-- REGISTER_WRITE through a function's BAR0; every register that is read-only, reserved or has an event of its own is
left alone, and before MEMREADY all but the host queues. -/
def execRegisterWrite (f : Fin 17) (off : Nat) (v : Word) (s : State) : Host.Outcome State Fault Refusal :=
  .next <|
    if f ≠ 0 then (if off < 0x1000 then s.writeQueueReg f off v else s)
    else if 0x10000 ≤ off ∧ off < 0x11000 then s.writeQueueReg 0 (off - 0x10000) v
    else if !s.pkg.memready then s
    else if off = 0x20400 then
      if 1200 ≤ v.toNat % 65536 ∧ v.toNat % 65536 ≤ 2600 then s.modPkg fun p => { p with plimit := v.setWidth 16 } else s
    else if 0x30040 ≤ off ∧ off ≤ 0x30408 then
      if off % 64 = 0 then s.writeVf ⟨(off - 0x30000) / 64 % 17, by omega⟩ false v
      else if off % 64 = 8 then s.writeVf ⟨(off - 0x30000) / 64 % 17, by omega⟩ true v
      else s
    else if 0x100000 ≤ off ∧ off < 0x101800 then s.writeRunnerReg (off - 0x100000) v
    else if 0x400000 ≤ off ∧ off < 0x440000 then s.writeSlotReg (off - 0x400000) v
    else s

/-! ### Main memory by the host (R320, R414; physical addresses, log 19) -/

/-- HOST_READ: a read of a poisoned block completes with poisoned data. -/
def execHostRead (pa n : Nat) (s : State) : Host.Outcome State Fault Refusal :=
  .next <|
    if !s.pkg.memready || decide (s.pkg.capacity < pa + n) then s
    else if s.memBad pa n then s.modPkg fun p => { p with hostReply := [], hostPoison := true }
    else s.modPkg fun p => { p with hostReply := memBytes s.mem pa n, hostPoison := false }

/-- HOST_WRITE: a write of part of a poisoned block is not performed, and HBM_POISON is logged. -/
def execHostWrite (pa : Nat) (bytes : List Byte) (s : State) : Host.Outcome State Fault Refusal :=
  .next <|
    if !s.pkg.memready || decide (s.pkg.capacity < pa + bytes.length) then s
    else if s.memWriteBad pa bytes.length then
      s.logCause (s.pkg.dieOfPa pa) ⟨4, s.pkg.chanOf pa, s.pkg.dieOfPa pa, false⟩ .hbmPoison (BitVec.ofNat 64 pa) 0xFFFF
    else s.writeMem pa bytes

end Sys2Proof.Machine
end

