-- ==== Sys2Proof/Machine/Monitors.lean ====
section
/-! DEFINITION. Automatic retirement (R415), and the monitors of temperature, voltage and power (R432). -/

namespace Sys2Proof.Machine

/-! ### Retirement (Table 19-7) -/

/-- The record of a retirement: its cause, with RET = 1 (R416). -/
def State.logRetired (s : State) (d : DieId) (u : UnitRef) (c : Cause) : State :=
  (s.errLog d ⟨u, false, c.code, 0, 0, 0xFFFF, true⟩).heartEvent ⟨0, c.code, u, 0, BitVec.ofNat 64 (s.runner d).cycle⟩

def Package.countOf (p : Package) (u : UnitRef) (c : Cause) : Nat :=
  ((p.counts.find? fun x => x.1 == u && x.2.1 == c).map (·.2.2)).getD 0

/-- Distinct scratchpad words of a physical core found uncorrectable over its life. -/
def State.eccWordsOf (s : State) (pc : Nat) : Nat :=
  (s.pkg.eccLife.filter (·.1 == pc) ++
    (allCores.filter fun c => s.pkg.coreExists c && s.pkg.physCore c == pc).flatMap fun c =>
      (s.core c).eccWords.map fun w => (pc, w)).dedup.length

/-- The threshold that a physical core has reached. -/
def State.coreWorn (s : State) (u : UnitRef) : Option Cause :=
  if 2 ≤ s.pkg.countOf u .testbarMismatch then some .testbarMismatch
  else if 1 ≤ s.pkg.countOf u .replayExhausted then some .replayExhausted
  else if 4 ≤ s.eccWordsOf u.unit then some .eccUncorrectable
  else none

/-- A quad is retired in the heartwood table; it is not live from the next warm reset. -/
def State.retireQuad (s : State) (u : UnitRef) (c : Cause) : State :=
  let d : DieId := ⟨u.unit / 68 % 4, by omega⟩
  let bit : BitVec 17 := 1#17 <<< (u.unit % 68 / 4)
  if (s.pkg.heart.quads.get d &&& bit) ≠ 0 then s
  else (s.modPkg fun p => { p with heart := { p.heart with
    quads := p.heart.quads.set d.val (p.heart.quads.get d ||| bit) d.isLt } }).logRetired d u c

/-- A channel is declared failed at once and retired from the next warm reset (R361). Contexts are told as their
requests meet it. -/
def State.retireChannel (s : State) (ch : Nat) (c : Cause) : State :=
  let d : DieId := ⟨ch / 64 % 4, by omega⟩
  if 256 ≤ ch || s.pkg.heart.chans.getLsbD ch then s
  else ((s.modPkg fun p => { p with
    heart := { p.heart with chans := p.heart.chans ||| (1#256 <<< ch) }
    failedch := p.failedch ||| (1#256 <<< ch) }).logRetired d ⟨4, ch, d, false⟩ c).genChanged

/-- The rows of a channel in which uncorrectable errors were found. -/
def Package.rowsOf (p : Package) (ch : Nat) : Nat := ((p.badRows.filter (·.1 == ch)).dedup).length

/-- A block becomes poisoned: its row counts once toward its channel (R414, R415). Granule Q holds row Q[21:6] of bank
Q[3:0]. -/
def State.poisonBlock (s : State) (pa : Nat) : State :=
  let b := pa / 32 * 32
  let q := b / 512 / max 1 s.pkg.channels.length
  let row := (s.pkg.chanOf b, q / 64 * 16 + q % 16)
  s.modPkg fun p => { p with
    poison := if p.poison.contains b then p.poison else b :: p.poison
    badRows := if p.badRows.contains row then p.badRows else row :: p.badRows }

/-- AUTOMATIC_RETIREMENT. -/
def execAutomaticRetirement (u : UnitRef) (s : State) : Host.Outcome State Fault Refusal :=
  .next <|
    if u.kind.val = 0 ∧ u.unit < 272 then match s.coreWorn ⟨0, u.unit, ⟨u.unit / 68 % 4, by omega⟩, true⟩ with
      | some c => s.retireQuad ⟨0, u.unit, ⟨u.unit / 68 % 4, by omega⟩, true⟩ c
      | none => s
    else if u.kind.val = 4 ∧ 64 ≤ s.pkg.rowsOf u.unit then s.retireChannel u.unit .hbmPoison
    else s

/-! ### Monitors (R432) -/

/-- Sensor i stands on die i / 8: 0 to 3 crown dies, 4 to 7 runner dies (log 30); in units of 1/16 °C. -/
def Package.dieTemps (p : Package) (die : Fin 8) : List Int :=
  (List.range 8).map fun k => (p.temp.toArray.getD (8 * die.val + k) 0).toInt

/-- The runner die that reports for a die. -/
def reporterOf (die : Fin 8) : DieId := ⟨die.val % 4, by omega⟩
def dieUnit (die : Fin 8) : UnitRef := ⟨7, die.val, reporterOf die, decide (die.val < 4)⟩

/-- THERMAL: the die reaches 105 °C. -/
def execThermal (die : Fin 8) (s : State) : Host.Outcome State Fault Refusal :=
  .next <|
    if (s.pkg.dieTemps die).any (fun t => decide (16 * 105 ≤ t)) && !s.pkg.hot.contains die then
      ((s.modPkg fun p => { p with hot := die :: p.hot }).logCause (reporterOf die) (dieUnit die) .thermal 0 0xFFFF).hostEvent
        0 .thermal die.val
    else s

/-- THERMAL_RECOVERY: the die is below 95 °C again. -/
def execThermalRecovery (die : Fin 8) (s : State) : Host.Outcome State Fault Refusal :=
  .next <|
    if (s.pkg.dieTemps die).all fun t => decide (t < 16 * 95) then
      s.modPkg fun p => { p with hot := p.hot.filter (· ≠ die) }
    else s

/-- A rail is outside 5 % of its nominal voltage. -/
def Package.railBad (p : Package) (rail : Fin 32) : Bool :=
  let v : Int := (p.volt.get rail).toNat
  let n : Int := (Config.nominalMv rail).toNat
  decide (n < 20 * (v - n)) || decide (n < 20 * (n - v))

/-- VOLTAGE. -/
def execVoltage (rail : Fin 32) (s : State) : Host.Outcome State Fault Refusal :=
  .next <|
    if s.pkg.railBad rail && !s.pkg.badRails.contains rail then
      ((s.modPkg fun p => { p with badRails := rail :: p.badRails }).logCause 0 ⟨7, rail.val, 0, false⟩ .voltage
        (BitVec.ofNat 64 rail.val) 0xFFFF).hostEvent 0 .voltage rail.val
    else s

/-- VOLTAGE_RECOVERY. -/
def execVoltageRecovery (rail : Fin 32) (s : State) : Host.Outcome State Fault Refusal :=
  .next <|
    if s.pkg.railBad rail then s else s.modPkg fun p => { p with badRails := p.badRails.filter (· ≠ rail) }

/-- The throttling condition: power above its limit, or a crown-die sensor above 95 °C. -/
def Package.throttled (p : Package) : Bool :=
  decide (p.plimit < p.pnow) ||
    ([0, 1, 2, 3] : List (Fin 8)).any fun d => (p.dieTemps d).any fun t => decide (16 * 95 < t)

/-- CLOCK_STEP: one millisecond. The clock steps down by 50 MHz while the condition holds, and back up once it has been
absent for 10 ms. -/
def execClockStep (s : State) : Host.Outcome State Fault Refusal :=
  .next <|
    s.modPkg fun p =>
      if p.throttled then { p with clknow := if p.clknow < 50 then 0 else p.clknow - 50, coolMs := 0 }
      else { p with
        clknow := if 9 ≤ p.coolMs ∧ p.clknow < 1300 then (if p.clknow < 1250 then p.clknow + 50 else 1300) else p.clknow
        coolMs := min 10 (p.coolMs + 1) }

end Sys2Proof.Machine
end

