-- ==== Sys2Proof/Machine/Spdm.lean ====
section
/-! DEFINITION. The SPDM responder of function 0 (R428). What keys, signatures and hashes come to is opaque (log 14);
the codes of its messages are those of SPDM itself (PRESUMED, log 31). -/

namespace Sys2Proof.Machine

def spdmBytes (q : SpdmReq) : List Byte :=
  [BitVec.ofNat 8 q.version, if q.extAsym then 1 else 0] ++ leBytes 4 q.session ++ leBytes 4 q.param

/-- A response: version, code, body. -/
def State.spdmAnswer (s : State) (q : SpdmReq) (code : Nat) (body : List Byte) : State :=
  s.modPkg fun p => { p with spdm := { p.spdm with
    reply := [BitVec.ofNat 8 q.version, BitVec.ofNat 8 code] ++ body, asked := p.spdm.asked + 1 } }

/-- ERROR with code UnsupportedRequest. -/
def State.spdmError (s : State) (q : SpdmReq) : State := s.spdmAnswer q 0x7F [0x07, 0x00]

def spdmVersionOk (q : SpdmReq) : Bool := q.version == 0x12 || q.version == 0x13

/-- A request of a version that the part answers, after the algorithms have been agreed. -/
def State.spdmServe (s : State) (q : SpdmReq) (code : Nat) (body : List Byte) : Host.Outcome State Fault Refusal :=
  .next <| if spdmVersionOk q && s.pkg.spdm.algorithms then s.spdmAnswer q code body else s.spdmError q

/-- GET_VERSION starts a connection: earlier agreements are void. -/
def execGetVersion (q : SpdmReq) (s : State) : Host.Outcome State Fault Refusal :=
  .next <| (s.modPkg fun p => { p with spdm := { p.spdm with version := 0, algorithms := false, sessions := [] } }).spdmAnswer
    q 0x04 [0x02, 0x12, 0x13]

/-- GET_CAPABILITIES. -/
def execGetCapabilities (q : SpdmReq) (s : State) : Host.Outcome State Fault Refusal :=
  .next <|
    if spdmVersionOk q then
      (s.modPkg fun p => { p with spdm := { p.spdm with version := q.version } }).spdmAnswer q 0x61
        (Config.crypto 0x61 (spdmBytes q))
    else s.spdmError q

/-- NEGOTIATE_ALGORITHMS: SHA-384 and the extended asymmetric algorithm, or ERROR. -/
def execNegotiateAlgorithms (q : SpdmReq) (s : State) : Host.Outcome State Fault Refusal :=
  .next <|
    if spdmVersionOk q && q.extAsym then
      (s.modPkg fun p => { p with spdm := { p.spdm with algorithms := true } }).spdmAnswer q 0x63
        (Config.crypto 0x63 (spdmBytes q))
    else s.spdmError q

/-- GET_DIGESTS, GET_CERTIFICATE (one slot: root, identity, alias) and CHALLENGE. -/
def execGetDigests (q : SpdmReq) (s : State) : Host.Outcome State Fault Refusal :=
  s.spdmServe q 0x01 (Config.crypto 0x01 (spdmBytes q))
def execGetCertificate (q : SpdmReq) (s : State) : Host.Outcome State Fault Refusal :=
  if q.param % 256 = 0 then s.spdmServe q 0x02 (Config.crypto 0x02 (spdmBytes q)) else .next (s.spdmError q)
def execChallenge (q : SpdmReq) (s : State) : Host.Outcome State Fault Refusal :=
  s.spdmServe q 0x03 (Config.crypto 0x03 (spdmBytes q))

/-- The heartwood table as the measurement hashes it. -/
def Heartwood.measured (h : Heartwood) : List Byte :=
  h.quads.toList.flatMap (fun b => leBytes 3 b.toNat) ++ leBytes 32 h.chans.toNat ++
    h.lanes.flatMap (fun x => leBytes 1 x.1.val ++ [if x.2.1 then 1 else 0] ++ leBytes 1 x.2.2) ++ leBytes 4 h.cls.toNat

/-- Measurement blocks 1 to 4: ROM hash, firmware hash, hash of the heartwood table, configuration class. -/
def Package.measurements (p : Package) : List Byte :=
  Config.crypto 0x10 [] ++ Config.crypto 0x11 (p.booted.elim [] fun b => p.flash.get b) ++
    Config.crypto 0x12 p.heart.measured ++ leBytes 4 p.heart.cls.toNat

/-- GET_MEASUREMENTS. -/
def execGetMeasurements (q : SpdmReq) (s : State) : Host.Outcome State Fault Refusal :=
  s.spdmServe q 0x60 (s.pkg.measurements ++ Config.crypto 0x60 (spdmBytes q))

/-- KEY_EXCHANGE opens a session; FINISH completes it. -/
def execKeyExchange (q : SpdmReq) (s : State) : Host.Outcome State Fault Refusal :=
  let t := if spdmVersionOk q && s.pkg.spdm.algorithms then
      s.modPkg fun p => { p with spdm := { p.spdm with
        sessions := (q.session, false) :: p.spdm.sessions.filter fun x => x.1 != q.session } }
    else s
  t.spdmServe q 0x64 (Config.crypto 0x64 (spdmBytes q))

def execFinish (q : SpdmReq) (s : State) : Host.Outcome State Fault Refusal :=
  if (s.pkg.spdm.sessions.any fun x => x.1 == q.session) then
    (s.modPkg fun p => { p with spdm := { p.spdm with
      sessions := p.spdm.sessions.map fun x => if x.1 = q.session then (x.1, true) else x } }).spdmServe q 0x65
        (Config.crypto 0x65 (spdmBytes q))
  else .next (s.spdmError q)

end Sys2Proof.Machine
end

