-- ==== Sys2Proof/Machine/StemFlow.lean ====
section
/-! DEFINITION. The stem's branches, jumps, return stack and hardware loops (R95-R101). -/

namespace Sys2Proof.Machine

/-- A branch or jump target outside 0x0000-0xFFFC raises IMEM_RANGE with the target in TRAPVAL (R96). -/
def targetOk (t : Int) : Bool := decide (0 ≤ t) && decide (t ≤ 0xFFFC)
def targetWord (t : Int) : Word := BitVec.ofInt 64 t

/-- A conditional branch (R95). -/
def branchIf (cond : Word → Word → Bool) (x y : Src) (ofs : BitVec 16) (s : State) :
    Host.Outcome State Fault Refusal :=
  stemRun (srcRegs x ++ srcRegs y) [] s fun c =>
    let t := branchTarget c.stem.pc.toNat ofs.toInt
    if cond (c.src x) (c.src y) then
      if targetOk t then .done s t.toNat else .trap .imemRange (targetWord t)
    else .done s (c.after (1 + litWords [x, y]))

def execBeq (x y : Src) (ofs : BitVec 16) (s : State) : Host.Outcome State Fault Refusal := branchIf condEq x y ofs s
def execBne (x y : Src) (ofs : BitVec 16) (s : State) : Host.Outcome State Fault Refusal := branchIf condNe x y ofs s
def execBlt (x y : Src) (ofs : BitVec 16) (s : State) : Host.Outcome State Fault Refusal := branchIf condLt x y ofs s
def execBge (x y : Src) (ofs : BitVec 16) (s : State) : Host.Outcome State Fault Refusal := branchIf condGe x y ofs s
def execBltu (x y : Src) (ofs : BitVec 16) (s : State) : Host.Outcome State Fault Refusal := branchIf condLtu x y ofs s
def execBgeu (x y : Src) (ofs : BitVec 16) (s : State) : Host.Outcome State Fault Refusal := branchIf condGeu x y ofs s

/-- A push onto the 16-entry return stack (R96). -/
def Core.pushRet (c : Core) (a : Nat) : Core :=
  c.setStem { c.stem with rets := BitVec.ofNat 16 a :: c.stem.rets }

/-- A jump to a target, with a push of the following word's address for a call: IMEM_RANGE of the target is tested
before CALL_DEPTH of the push (the lower code first, log 22). -/
def jumpTo (call : Bool) (t : Int) (follow : Nat) (s : State) (c : Core) : Res :=
  if targetOk t then
    if call then
      if c.stem.rets.length < 16 then .done (s.setCore s.cur (c.pushRet follow)) t.toNat
      else .trap .callDepth (targetWord t)
    else .done s t.toNat
  else .trap .imemRange (targetWord t)

def execJ (ofs : BitVec 26) (s : State) : Host.Outcome State Fault Refusal :=
  stemRun [] [] s fun c => jumpTo false (branchTarget c.stem.pc.toNat ofs.toInt) 0 s c

def execJal (ofs : BitVec 26) (s : State) : Host.Outcome State Fault Refusal :=
  stemRun [] [] s fun c => jumpTo true (branchTarget c.stem.pc.toNat ofs.toInt) (c.after 1) s c

/-- JR (R96): A[63:16] or A[1:0] non-zero raises IMEM_RANGE, TRAPVAL the target. -/
def jumpReg (call : Bool) (a : Src) (s : State) : Host.Outcome State Fault Refusal :=
  stemRun (srcRegs a) [] s fun c =>
    let v := c.src a
    if v.toNat ≤ 0xFFFC && v.toNat % 4 == 0 then jumpTo call (v.toNat : Int) (c.after (1 + litWords [a])) s c
    else .trap .imemRange v

def execJr (a : Src) (s : State) : Host.Outcome State Fault Refusal := jumpReg false a s
def execJrCall (a : Src) (s : State) : Host.Outcome State Fault Refusal := jumpReg true a s

/-- RET (R96); on an empty stack there is no target, and TRAPVAL is 0. -/
def execRet (s : State) : Host.Outcome State Fault Refusal :=
  stemRun [] [] s fun c =>
    match c.stem.rets with
    | [] => .trap .callDepth 0
    | a :: rest => .done (s.setCore s.cur (c.setStem { c.stem with rets := rest })) a.toNat

/-- LOOP (R97): the count is latched; a count of zero skips the body. TRAPVAL of its RESERVED_FIELD is the first word,
that of its IMEM_RANGE the END address (log 78). -/
def execLoop (a : Src) (imm : BitVec 16) (s : State) : Host.Outcome State Fault Refusal :=
  stemRun (srcRegs a) [] s fun c =>
    let n : W32 := (c.src a).setWidth 32
    let start := c.after (1 + litWords [a])
    let fin := branchTarget c.stem.pc.toNat imm.toInt
    if fin ≤ start then .trap .reservedField c.firstWord
    else if 0xFFFC < fin then .trap .imemRange (targetWord fin)
    else if n = 0 then .done s fin.toNat
    else if 4 ≤ c.stem.loops.length then .trap .loopDepth 0
    else .done (s.setCore s.cur (c.setStem { c.stem with
        lc := c.stem.lc.setIfInBounds c.stem.loops.length n
        loops := ⟨start, fin.toNat⟩ :: c.stem.loops })) start

/-- MVLC (R99): lcN := A[31:0], or D := ZeroExtend(lcN). -/
def execMvlc (lc : Fin 4) (a : Src) (s : State) : Host.Outcome State Fault Refusal :=
  stemRun (srcRegs a) [] s fun c =>
    .done (s.setCore s.cur (c.setStem { c.stem with lc := c.stem.lc.set lc.val ((c.src a).setWidth 32) lc.isLt }))
      (c.after (1 + litWords [a]))

def execMvlcRead (d : Reg) (lc : Fin 4) (s : State) : Host.Outcome State Fault Refusal :=
  stemRun [] [d] s fun c => .done (s.setCore s.cur (c.setX d ((c.stem.lc.get lc).setWidth 64))) (c.after 1)

/-- LBRK (R100): pops the innermost loop; the next PC is its END. -/
def execLbrk (s : State) : Host.Outcome State Fault Refusal :=
  stemRun [] [] s fun c =>
    match c.stem.loops with
    | [] => .trap .loopDepth 0
    | l :: ls => .done (s.setCore s.cur (c.setStem { c.stem with loops := ls })) l.fin

end Sys2Proof.Machine
end

