-- ==== Sys2Proof/Machine/Dispatch.lean ====
section
/-! DEFINITION. What each instruction and each event does: one arm for each constructor of Instr. -/

namespace Sys2Proof.Machine

def exec (i : Instr) (s : State) : Host.Outcome State Fault Refusal :=
  match i with
  | .add d a b ty => Sys2Proof.Machine.execAdd d a b ty s
  | .sub d a b ty => Sys2Proof.Machine.execSub d a b ty s
  | .mul d a b ty => Sys2Proof.Machine.execMul d a b ty s
  | .mulh d a b ty => Sys2Proof.Machine.execMulh d a b ty s
  | .div d a b ty => Sys2Proof.Machine.execDiv d a b ty s
  | .rem d a b ty => Sys2Proof.Machine.execRem d a b ty s
  | .and d a b ty => Sys2Proof.Machine.execAnd d a b ty s
  | .or d a b ty => Sys2Proof.Machine.execOr d a b ty s
  | .xor d a b ty => Sys2Proof.Machine.execXor d a b ty s
  | .shl d a b ty => Sys2Proof.Machine.execShl d a b ty s
  | .shr d a b ty => Sys2Proof.Machine.execShr d a b ty s
  | .sra d a b ty => Sys2Proof.Machine.execSra d a b ty s
  | .min d a b ty => Sys2Proof.Machine.execMin d a b ty s
  | .max d a b ty => Sys2Proof.Machine.execMax d a b ty s
  | .slt d a b ty => Sys2Proof.Machine.execSlt d a b ty s
  | .sltu d a b ty => Sys2Proof.Machine.execSltu d a b ty s
  | .madd d a b ty => Sys2Proof.Machine.execMadd d a b ty s
  | .clz d a ty => Sys2Proof.Machine.execClz d a ty s
  | .popc d a ty => Sys2Proof.Machine.execPopc d a ty s
  | .mulhUnsigned d a b ty => Sys2Proof.Machine.execMulhUnsigned d a b ty s
  | .divUnsigned d a b ty => Sys2Proof.Machine.execDivUnsigned d a b ty s
  | .remUnsigned d a b ty => Sys2Proof.Machine.execRemUnsigned d a b ty s
  | .minUnsigned d a b ty => Sys2Proof.Machine.execMinUnsigned d a b ty s
  | .maxUnsigned d a b ty => Sys2Proof.Machine.execMaxUnsigned d a b ty s
  | .li d v => Sys2Proof.Machine.execLi d v s
  | .beq x y ofs => Sys2Proof.Machine.execBeq x y ofs s
  | .bne x y ofs => Sys2Proof.Machine.execBne x y ofs s
  | .blt x y ofs => Sys2Proof.Machine.execBlt x y ofs s
  | .bge x y ofs => Sys2Proof.Machine.execBge x y ofs s
  | .bltu x y ofs => Sys2Proof.Machine.execBltu x y ofs s
  | .bgeu x y ofs => Sys2Proof.Machine.execBgeu x y ofs s
  | .j ofs => Sys2Proof.Machine.execJ ofs s
  | .jal ofs => Sys2Proof.Machine.execJal ofs s
  | .jr a => Sys2Proof.Machine.execJr a s
  | .jrCall a => Sys2Proof.Machine.execJrCall a s
  | .loop a imm => Sys2Proof.Machine.execLoop a imm s
  | .mvlc lc a => Sys2Proof.Machine.execMvlc lc a s
  | .mvlcRead d lc => Sys2Proof.Machine.execMvlcRead d lc s
  | .ld d a cls size ofs => Sys2Proof.Machine.execLd d a cls size ofs s
  | .ldZeroExtending d a cls size ofs => Sys2Proof.Machine.execLdZeroExtending d a cls size ofs s
  | .st x a cls size ofs => Sys2Proof.Machine.execSt x a cls size ofs s
  | .amoAdd d a b ty => Sys2Proof.Machine.execAmoAdd d a b ty s
  | .amoAnd d a b ty => Sys2Proof.Machine.execAmoAnd d a b ty s
  | .amoOr d a b ty => Sys2Proof.Machine.execAmoOr d a b ty s
  | .amoXor d a b ty => Sys2Proof.Machine.execAmoXor d a b ty s
  | .amoMin d a b ty => Sys2Proof.Machine.execAmoMin d a b ty s
  | .amoMax d a b ty => Sys2Proof.Machine.execAmoMax d a b ty s
  | .amoMinu d a b ty => Sys2Proof.Machine.execAmoMinu d a b ty s
  | .amoMaxu d a b ty => Sys2Proof.Machine.execAmoMaxu d a b ty s
  | .amoSwap d a b ty => Sys2Proof.Machine.execAmoSwap d a b ty s
  | .cas d a b ty => Sys2Proof.Machine.execCas d a b ty s
  | .semwait a b sc => Sys2Proof.Machine.execSemwait a b sc s
  | .sempost a b sc => Sys2Proof.Machine.execSempost a b sc s
  | .waita d a b ty sc => Sys2Proof.Machine.execWaita d a b ty sc s
  | .fence a sc => Sys2Proof.Machine.execFence a sc s
  | .bar a sc => Sys2Proof.Machine.execBar a sc s
  | .token d n a b => Sys2Proof.Machine.execToken d n a b s
  | .twait t => Sys2Proof.Machine.execTwait t s
  | .xfer a hi => Sys2Proof.Machine.execXfer a hi s
  | .rcall a b hi => Sys2Proof.Machine.execRcall a b hi s
  | .ratomAdd d a b ty => Sys2Proof.Machine.execRatomAdd d a b ty s
  | .ratomAnd d a b ty => Sys2Proof.Machine.execRatomAnd d a b ty s
  | .ratomOr d a b ty => Sys2Proof.Machine.execRatomOr d a b ty s
  | .ratomXor d a b ty => Sys2Proof.Machine.execRatomXor d a b ty s
  | .ratomMin d a b ty => Sys2Proof.Machine.execRatomMin d a b ty s
  | .ratomMax d a b ty => Sys2Proof.Machine.execRatomMax d a b ty s
  | .ratomMinu d a b ty => Sys2Proof.Machine.execRatomMinu d a b ty s
  | .ratomMaxu d a b ty => Sys2Proof.Machine.execRatomMaxu d a b ty s
  | .ratomSwap d a b ty => Sys2Proof.Machine.execRatomSwap d a b ty s
  | .ratomCas d a b ty => Sys2Proof.Machine.execRatomCas d a b ty s
  | .probe d a imm => Sys2Proof.Machine.execProbe d a imm s
  | .pwait a => Sys2Proof.Machine.execPwait a s
  | .pin a => Sys2Proof.Machine.execPin a s
  | .unpin a => Sys2Proof.Machine.execUnpin a s
  | .cinv a => Sys2Proof.Machine.execCinv a s
  | .shld sh a => Sys2Proof.Machine.execShld sh a s
  | .shinv sh => Sys2Proof.Machine.execShinv sh s
  | .launch a => Sys2Proof.Machine.execLaunch a s
  | .trap imm => Sys2Proof.Machine.execTrap imm s
  | .sysrd d r => Sys2Proof.Machine.execSysrd d r s
  | .syswr a r => Sys2Proof.Machine.execSyswr a r s
  | .rdcyc d => Sys2Proof.Machine.execRdcyc d s
  | .mma c a b mods => Sys2Proof.Machine.execMma c a b mods s
  | .mmas c a b mods => Sys2Proof.Machine.execMmas c a b mods s
  | .mclr m => Sys2Proof.Machine.execMclr m s
  | .memit t m z => Sys2Proof.Machine.execMemit t m z s
  | .mtld m a => Sys2Proof.Machine.execMtld m a s
  | .mtst m a => Sys2Proof.Machine.execMtst m a s
  | .mtbar a b => Sys2Proof.Machine.execMtbar a b s
  | .mfmt g a => Sys2Proof.Machine.execMfmt g a s
  | .mwait a b sc => Sys2Proof.Machine.execMwait a b sc s
  | .msig a b sc => Sys2Proof.Machine.execMsig a b sc s
  | .vadd d a b m ty r => Sys2Proof.Machine.execVadd d a b m ty r s
  | .vsub d a b m ty r => Sys2Proof.Machine.execVsub d a b m ty r s
  | .vmul d a b m ty r => Sys2Proof.Machine.execVmul d a b m ty r s
  | .vfma d a b m ty r => Sys2Proof.Machine.execVfma d a b m ty r s
  | .vmin d a b m ty => Sys2Proof.Machine.execVmin d a b m ty s
  | .vmax d a b m ty => Sys2Proof.Machine.execVmax d a b m ty s
  | .vexp2 d a m ty => Sys2Proof.Machine.execVexp2 d a m ty s
  | .vlog2 d a m ty => Sys2Proof.Machine.execVlog2 d a m ty s
  | .vrcp d a m ty => Sys2Proof.Machine.execVrcp d a m ty s
  | .vrsq d a m ty => Sys2Proof.Machine.execVrsq d a m ty s
  | .vtanh d a m ty => Sys2Proof.Machine.execVtanh d a m ty s
  | .viadd d a b m ty u sat => Sys2Proof.Machine.execViadd d a b m ty u sat s
  | .visub d a b m ty u sat => Sys2Proof.Machine.execVisub d a b m ty u sat s
  | .vimul d a b m ty h u => Sys2Proof.Machine.execVimul d a b m ty h u s
  | .vimad d a b m ty u sat => Sys2Proof.Machine.execVimad d a b m ty u sat s
  | .vand d a b m ty => Sys2Proof.Machine.execVand d a b m ty s
  | .vor d a b m ty => Sys2Proof.Machine.execVor d a b m ty s
  | .vxor d a b m ty => Sys2Proof.Machine.execVxor d a b m ty s
  | .vshl d a b m ty => Sys2Proof.Machine.execVshl d a b m ty s
  | .vshr d a b m ty => Sys2Proof.Machine.execVshr d a b m ty s
  | .vsra d a b m ty => Sys2Proof.Machine.execVsra d a b m ty s
  | .vimin d a b m ty u => Sys2Proof.Machine.execVimin d a b m ty u s
  | .vimax d a b m ty u => Sys2Proof.Machine.execVimax d a b m ty u s
  | .vcmp d a b m ty u c => Sys2Proof.Machine.execVcmp d a b m ty u c s
  | .vsel d a b m ty => Sys2Proof.Machine.execVsel d a b m ty s
  | .vmopAnd d a b => Sys2Proof.Machine.execVmopAnd d a b s
  | .vmopOr d a b => Sys2Proof.Machine.execVmopOr d a b s
  | .vmopXor d a b => Sys2Proof.Machine.execVmopXor d a b s
  | .vmopAndn d a b => Sys2Proof.Machine.execVmopAndn d a b s
  | .vmopNot d a => Sys2Proof.Machine.execVmopNot d a s
  | .vmopOnes d => Sys2Proof.Machine.execVmopOnes d s
  | .vmopZeros d => Sys2Proof.Machine.execVmopZeros d s
  | .vmopCopy d a => Sys2Proof.Machine.execVmopCopy d a s
  | .vmpop d a => Sys2Proof.Machine.execVmpop d a s
  | .vmpopFirst d a => Sys2Proof.Machine.execVmpopFirst d a s
  | .vcvt d a sty su m ty du r => Sys2Proof.Machine.execVcvt d a sty su m ty du r s
  | .vquant d a sc m ty r => Sys2Proof.Machine.execVquant d a sc m ty r s
  | .vdeq d a sc m ty => Sys2Proof.Machine.execVdeq d a sc m ty s
  | .vrnd d a m ty r => Sys2Proof.Machine.execVrnd d a m ty r s
  | .vsacc d a sc m => Sys2Proof.Machine.execVsacc d a sc m s
  | .vld d a b m ty p => Sys2Proof.Machine.execVld d a b m ty p s
  | .vldRagged d a b m ty pf k => Sys2Proof.Machine.execVldRagged d a b m ty pf k s
  | .vst x a b m ty p => Sys2Proof.Machine.execVst x a b m ty p s
  | .vstRagged x a b m ty pf k => Sys2Proof.Machine.execVstRagged x a b m ty pf k s
  | .vldb d a m ty => Sys2Proof.Machine.execVldb d a m ty s
  | .vldbPf d a m ty => Sys2Proof.Machine.execVldbPf d a m ty s
  | .vgath d a b m ty sc => Sys2Proof.Machine.execVgath d a b m ty sc s
  | .vscat x a b m ty sc => Sys2Proof.Machine.execVscat x a b m ty sc s
  | .vtrd d t b m ty => Sys2Proof.Machine.execVtrd d t b m ty s
  | .vtrel t => Sys2Proof.Machine.execVtrel t s
  | .vmov d a m ty => Sys2Proof.Machine.execVmov d a m ty s
  | .vmovIns d a b ty => Sys2Proof.Machine.execVmovIns d a b ty s
  | .vmovExt d a b ty => Sys2Proof.Machine.execVmovExt d a b ty s
  | .vsplat d a m ty => Sys2Proof.Machine.execVsplat d a m ty s
  | .vsplatRow d a m ty => Sys2Proof.Machine.execVsplatRow d a m ty s
  | .vsplatCol d a m ty => Sys2Proof.Machine.execVsplatCol d a m ty s
  | .vshape a => Sys2Proof.Machine.execVshape a s
  | .vshapeRd d => Sys2Proof.Machine.execVshapeRd d s
  | .vperm d a b m ty => Sys2Proof.Machine.execVperm d a b m ty s
  | .vpermRows d a b m ty => Sys2Proof.Machine.execVpermRows d a b m ty s
  | .vxpose d a m ty => Sys2Proof.Machine.execVxpose d a m ty s
  | .vslide d a b m ty => Sys2Proof.Machine.execVslide d a b m ty s
  | .vslideRot d a b m ty => Sys2Proof.Machine.execVslideRot d a b m ty s
  | .vslideFlat d a b m ty => Sys2Proof.Machine.execVslideFlat d a b m ty s
  | .vredAdd d a b m ty g => Sys2Proof.Machine.execVredAdd d a b m ty g s
  | .vredMax d a b m ty g => Sys2Proof.Machine.execVredMax d a b m ty g s
  | .vredMin d a b m ty g => Sys2Proof.Machine.execVredMin d a b m ty g s
  | .vridxMax d a b m ty g => Sys2Proof.Machine.execVridxMax d a b m ty g s
  | .vridxMin d a b m ty g => Sys2Proof.Machine.execVridxMin d a b m ty g s
  | .vscanAdd d a b m ty g => Sys2Proof.Machine.execVscanAdd d a b m ty g s
  | .vscanMax d a b m ty g => Sys2Proof.Machine.execVscanMax d a b m ty g s
  | .vscanMin d a b m ty g => Sys2Proof.Machine.execVscanMin d a b m ty g s
  | .vnormMs d a b m ty g => Sys2Proof.Machine.execVnormMs d a b m ty g s
  | .vnormRms d a b m ty g => Sys2Proof.Machine.execVnormRms d a b m ty g s
  | .vsmax d a b m ty g => Sys2Proof.Machine.execVsmax d a b m ty g s
  | .vhad d a m ty n k => Sys2Proof.Machine.execVhad d a m ty n k s
  | .vaset n a => Sys2Proof.Machine.execVaset n a s
  | .vasetWst n a => Sys2Proof.Machine.execVasetWst n a s
  | .vasetWlen n a => Sys2Proof.Machine.execVasetWlen n a s
  | .vasetRd d a => Sys2Proof.Machine.execVasetRd d a s
  | .vaadd n a => Sys2Proof.Machine.execVaadd n a s
  | .vtokr d f => Sys2Proof.Machine.execVtokr d f s
  | .veop a => Sys2Proof.Machine.execVeop a s
  | .vchk a b => Sys2Proof.Machine.execVchk a b s
  | .vchkRd d a => Sys2Proof.Machine.execVchkRd d a s
  | .vlit d a => Sys2Proof.Machine.execVlit d a s
  | .vlitAdd d a => Sys2Proof.Machine.execVlitAdd d a s
  | .vlitSub d a => Sys2Proof.Machine.execVlitSub d a s
  | .percoAdd d a b ty => Sys2Proof.Machine.execPercoAdd d a b ty s
  | .percoSub d a b ty => Sys2Proof.Machine.execPercoSub d a b ty s
  | .percoMul d a b ty => Sys2Proof.Machine.execPercoMul d a b ty s
  | .percoAnd d a b ty => Sys2Proof.Machine.execPercoAnd d a b ty s
  | .percoOr d a b ty => Sys2Proof.Machine.execPercoOr d a b ty s
  | .percoXor d a b ty => Sys2Proof.Machine.execPercoXor d a b ty s
  | .percoShl d a b ty => Sys2Proof.Machine.execPercoShl d a b ty s
  | .percoShr d a b ty => Sys2Proof.Machine.execPercoShr d a b ty s
  | .percoMin d a b ty => Sys2Proof.Machine.execPercoMin d a b ty s
  | .percoMax d a b ty => Sys2Proof.Machine.execPercoMax d a b ty s
  | .percoMinUnsigned d a b ty => Sys2Proof.Machine.execPercoMinUnsigned d a b ty s
  | .percoMaxUnsigned d a b ty => Sys2Proof.Machine.execPercoMaxUnsigned d a b ty s
  | .percoLi d v => Sys2Proof.Machine.execPercoLi d v s
  | .percoLd d a size ofs => Sys2Proof.Machine.execPercoLd d a size ofs s
  | .percoSt x a size ofs => Sys2Proof.Machine.execPercoSt x a size ofs s
  | .percoBeq x y ofs => Sys2Proof.Machine.execPercoBeq x y ofs s
  | .percoBne x y ofs => Sys2Proof.Machine.execPercoBne x y ofs s
  | .percoBlt x y ofs => Sys2Proof.Machine.execPercoBlt x y ofs s
  | .percoBge x y ofs => Sys2Proof.Machine.execPercoBge x y ofs s
  | .percoJ ofs => Sys2Proof.Machine.execPercoJ ofs s
  | .percoCall ofs => Sys2Proof.Machine.execPercoCall ofs s
  | .percoLoop a imm => Sys2Proof.Machine.execPercoLoop a imm s
  | .copy a sy => Sys2Proof.Machine.execCopy a sy s
  | .gath a sy => Sys2Proof.Machine.execGath a sy s
  | .scat a sy => Sys2Proof.Machine.execScat a sy s
  | .xpose a sy => Sys2Proof.Machine.execXpose a sy s
  | .conv a sy => Sys2Proof.Machine.execConv a sy s
  | .infl a sy => Sys2Proof.Machine.execInfl a sy s
  | .mcast a sy => Sys2Proof.Machine.execMcast a sy s
  | .red a sy => Sys2Proof.Machine.execRed a sy s
  | .fill a sy => Sys2Proof.Machine.execFill a sy s
  | .nest a sy => Sys2Proof.Machine.execNest a sy s
  | .abort d a => Sys2Proof.Machine.execAbort d a s
  | .publish a b sc => Sys2Proof.Machine.execPublish a b sc s
  | .seqst d a => Sys2Proof.Machine.execSeqst d a s
  | .semadd a b sc => Sys2Proof.Machine.execSemadd a b sc s
  | .percoSemwait a b sc => Sys2Proof.Machine.execPercoSemwait a b sc s
  | .percoFence a sc => Sys2Proof.Machine.execPercoFence a sc s
  | .percoRatomAdd d a b ty => Sys2Proof.Machine.execPercoRatomAdd d a b ty s
  | .percoRatomAnd d a b ty => Sys2Proof.Machine.execPercoRatomAnd d a b ty s
  | .percoRatomOr d a b ty => Sys2Proof.Machine.execPercoRatomOr d a b ty s
  | .percoRatomXor d a b ty => Sys2Proof.Machine.execPercoRatomXor d a b ty s
  | .percoRatomMin d a b ty => Sys2Proof.Machine.execPercoRatomMin d a b ty s
  | .percoRatomMax d a b ty => Sys2Proof.Machine.execPercoRatomMax d a b ty s
  | .percoRatomMinu d a b ty => Sys2Proof.Machine.execPercoRatomMinu d a b ty s
  | .percoRatomMaxu d a b ty => Sys2Proof.Machine.execPercoRatomMaxu d a b ty s
  | .percoRatomSwap d a b ty => Sys2Proof.Machine.execPercoRatomSwap d a b ty s
  | .percoRatomCas d a b ty => Sys2Proof.Machine.execPercoRatomCas d a b ty s
  | .wakea a sc => Sys2Proof.Machine.execWakea a sc s
  | .tlbinv a b => Sys2Proof.Machine.execTlbinv a b s
  | .tlbinvCtx a b => Sys2Proof.Machine.execTlbinvCtx a b s
  | .mapchk d a b sup wr => Sys2Proof.Machine.execMapchk d a b sup wr s
  | .resume d a => Sys2Proof.Machine.execResume d a s
  | .resumeDrop d a => Sys2Proof.Machine.execResumeDrop d a s
  | .killctx d a => Sys2Proof.Machine.execKillctx d a s
  | .percoTrap imm => Sys2Proof.Machine.execPercoTrap imm s
  | .percoSysrd d r => Sys2Proof.Machine.execPercoSysrd d r s
  | .percoSyswr a r => Sys2Proof.Machine.execPercoSyswr a r s
  | .unassignedEncoding st w => Sys2Proof.Machine.execUnassignedEncoding st w s
  | .tokenStart c => Sys2Proof.Machine.execTokenStart c s
  | .vectorLoadEcc c => Sys2Proof.Machine.execVectorLoadEcc c s
  | .vectorFaultReport c => Sys2Proof.Machine.execVectorFaultReport c s
  | .engineFaultTrap c => Sys2Proof.Machine.execEngineFaultTrap c s
  | .watchdog c => Sys2Proof.Machine.execWatchdog c s
  | .waitaReply c => Sys2Proof.Machine.execWaitaReply c s
  | .waitaTimeout c => Sys2Proof.Machine.execWaitaTimeout c s
  | .watchInstall c => Sys2Proof.Machine.execWatchInstall c s
  | .ratomAtHome c idx => Sys2Proof.Machine.execRatomAtHome c idx s
  | .ratomReply c idx => Sys2Proof.Machine.execRatomReply c idx s
  | .matrixCommandStart c => Sys2Proof.Machine.execMatrixCommandStart c s
  | .mmaChunk c => Sys2Proof.Machine.execMmaChunk c s
  | .tileEmit c => Sys2Proof.Machine.execTileEmit c s
  | .mouldParity c => Sys2Proof.Machine.execMouldParity c s
  | .bankSideService c b => Sys2Proof.Machine.execBankSideService c b s
  | .eccWriteback c wd => Sys2Proof.Machine.execEccWriteback c wd s
  | .probeFillComplete d idx => Sys2Proof.Machine.execProbeFillComplete d idx s
  | .sequencerStart d => Sys2Proof.Machine.execSequencerStart d s
  | .percoWatchdog d n => Sys2Proof.Machine.execPercoWatchdog d n s
  | .postAccept c hi => Sys2Proof.Machine.execPostAccept c hi s
  | .boxStart d mid => Sys2Proof.Machine.execBoxStart d mid s
  | .boxElement d mid => Sys2Proof.Machine.execBoxElement d mid s
  | .overflowRecordPost d => Sys2Proof.Machine.execOverflowRecordPost d s
  | .boxComplete d mid => Sys2Proof.Machine.execBoxComplete d mid s
  | .walkerEmit d idx => Sys2Proof.Machine.execWalkerEmit d idx s
  | .publishFlip d n => Sys2Proof.Machine.execPublishFlip d n s
  | .killctxDrainDone d n => Sys2Proof.Machine.execKillctxDrainDone d n s
  | .killMessage pkg ctx => Sys2Proof.Machine.execKillMessage pkg ctx s
  | .hbmRequest d idx => Sys2Proof.Machine.execHbmRequest d idx s
  | .deadlineUrgent d idx => Sys2Proof.Machine.execDeadlineUrgent d idx s
  | .queueEntryRead k => Sys2Proof.Machine.execQueueEntryRead k s
  | .nestReady id => Sys2Proof.Machine.execNestReady id s
  | .grainStart c => Sys2Proof.Machine.execGrainStart c s
  | .nestDone id => Sys2Proof.Machine.execNestDone id s
  | .spillEntryTaken d => Sys2Proof.Machine.execSpillEntryTaken d s
  | .preemptRequest c => Sys2Proof.Machine.execPreemptRequest c s
  | .coreHalted c => Sys2Proof.Machine.execCoreHalted c s
  | .saveComplete c => Sys2Proof.Machine.execSaveComplete c s
  | .restoreComplete c => Sys2Proof.Machine.execRestoreComplete c s
  | .flitReceived l up bad => Sys2Proof.Machine.execFlitReceived l up bad s
  | .ackReceived l up => Sys2Proof.Machine.execAckReceived l up s
  | .nakReceived l up => Sys2Proof.Machine.execNakReceived l up s
  | .ackFlitSend l up => Sys2Proof.Machine.execAckFlitSend l up s
  | .replayTimeout l up => Sys2Proof.Machine.execReplayTimeout l up s
  | .retrainDone l up => Sys2Proof.Machine.execRetrainDone l up s
  | .yunanPortDown p => Sys2Proof.Machine.execYunanPortDown p s
  | .farEndRequest d q => Sys2Proof.Machine.execFarEndRequest d q s
  | .endToEndNak d pkg ws => Sys2Proof.Machine.execEndToEndNak d pkg ws s
  | .windowRetryTimeout d pkg => Sys2Proof.Machine.execWindowRetryTimeout d pkg s
  | .windowClose d pkg sd ep => Sys2Proof.Machine.execWindowClose d pkg sd ep s
  | .closeReply d pkg expected results => Sys2Proof.Machine.execCloseReply d pkg expected results s
  | .closeTimeout d pkg => Sys2Proof.Machine.execCloseTimeout d pkg s
  | .endToEndReply d pkg ws val poison => Sys2Proof.Machine.execEndToEndReply d pkg ws val poison s
  | .abortRequest q => Sys2Proof.Machine.execAbortRequest q s
  | .settle ctx sq rank => Sys2Proof.Machine.execSettle ctx sq rank s
  | .stop d ctx sq => Sys2Proof.Machine.execStop d ctx sq s
  | .abortOutcome ctx sq => Sys2Proof.Machine.execAbortOutcome ctx sq s
  | .repairFlip ctx sq rank => Sys2Proof.Machine.execRepairFlip ctx sq rank s
  | .outcomeReceived d ctx sq o => Sys2Proof.Machine.execOutcomeReceived d ctx sq o s
  | .roundDrainTimeout d n => Sys2Proof.Machine.execRoundDrainTimeout d n s
  | .automaticRetirement u => Sys2Proof.Machine.execAutomaticRetirement u s
  | .thermal die => Sys2Proof.Machine.execThermal die s
  | .voltage rail => Sys2Proof.Machine.execVoltage rail s
  | .flr f => Sys2Proof.Machine.execFlr f s
  | .doorbell f v => Sys2Proof.Machine.execDoorbell f v s
  | .cack f v => Sys2Proof.Machine.execCack f v s
  | .mapq f => Sys2Proof.Machine.execMapq f s
  | .unmapq f => Sys2Proof.Machine.execUnmapq f s
  | .setctx f => Sys2Proof.Machine.execSetctx f s
  | .kill f => Sys2Proof.Machine.execKill f s
  | .hwread f => Sys2Proof.Machine.execHwread f s
  | .quarantine f => Sys2Proof.Machine.execQuarantine f s
  | .warmreset f => Sys2Proof.Machine.execWarmreset f s
  | .fwload f => Sys2Proof.Machine.execFwload f s
  | .slotMap k => Sys2Proof.Machine.execSlotMap k s
  | .slotUnmap k => Sys2Proof.Machine.execSlotUnmap k s
  | .notify f k v => Sys2Proof.Machine.execNotify f k v s
  | .childqWrite d v => Sys2Proof.Machine.execChildqWrite d v s
  | .pkgidWrite v => Sys2Proof.Machine.execPkgidWrite v s
  | .registerWrite f off v => Sys2Proof.Machine.execRegisterWrite f off v s
  | .hostRead pa n => Sys2Proof.Machine.execHostRead pa n s
  | .hostWrite pa bytes => Sys2Proof.Machine.execHostWrite pa bytes s
  | .getVersion q => Sys2Proof.Machine.execGetVersion q s
  | .getCapabilities q => Sys2Proof.Machine.execGetCapabilities q s
  | .negotiateAlgorithms q => Sys2Proof.Machine.execNegotiateAlgorithms q s
  | .getDigests q => Sys2Proof.Machine.execGetDigests q s
  | .getCertificate q => Sys2Proof.Machine.execGetCertificate q s
  | .challenge q => Sys2Proof.Machine.execChallenge q s
  | .getMeasurements q => Sys2Proof.Machine.execGetMeasurements q s
  | .keyExchange q => Sys2Proof.Machine.execKeyExchange q s
  | .finish q => Sys2Proof.Machine.execFinish q s
  | .matrixCommandComplete c => Sys2Proof.Machine.execMatrixCommandComplete c s
  | .thermalRecovery die => Sys2Proof.Machine.execThermalRecovery die s
  | .voltageRecovery rail => Sys2Proof.Machine.execVoltageRecovery rail s
  | .ret => Sys2Proof.Machine.execRet s
  | .lbrk => Sys2Proof.Machine.execLbrk s
  | .cinvAll => Sys2Proof.Machine.execCinvAll s
  | .eret => Sys2Proof.Machine.execEret s
  | .halt => Sys2Proof.Machine.execHalt s
  | .nop => Sys2Proof.Machine.execNop s
  | .yield => Sys2Proof.Machine.execYield s
  | .ifence => Sys2Proof.Machine.execIfence s
  | .vsync => Sys2Proof.Machine.execVsync s
  | .grainend => Sys2Proof.Machine.execGrainend s
  | .msync => Sys2Proof.Machine.execMsync s
  | .vend => Sys2Proof.Machine.execVend s
  | .vnop => Sys2Proof.Machine.execVnop s
  | .percoRet => Sys2Proof.Machine.execPercoRet s
  | .tlbinvAll => Sys2Proof.Machine.execTlbinvAll s
  | .percoHalt => Sys2Proof.Machine.execPercoHalt s
  | .percoNop => Sys2Proof.Machine.execPercoNop s
  | .grainDispatch => Sys2Proof.Machine.execGrainDispatch s
  | .clockStep => Sys2Proof.Machine.execClockStep s
  | .coldReset => Sys2Proof.Machine.execColdReset s
  | .warmReset => Sys2Proof.Machine.execWarmReset s
  | .memready => Sys2Proof.Machine.execMemready s

end Sys2Proof.Machine
end

