-- ==== Sys2Proof/Machine/Turns.lean ====
section
/-! DEFINITION. The turns of a run (log 2): a stem fetches, decodes and runs an instruction (R27, R89, R91, R113), so does
a vector engine out of its segment buffer (R279) and a move sequencer out of memory (R227); an event happens; cycles
pass; a cached translation is dropped (R353); a physical cause strikes (R412, R414, R432). -/

namespace Sys2Proof.Machine

/-! ### The stem -/

/-- The words of instruction memory at the PC, at most three, with their addresses (R21, R89). -/
def fetchAddrs (pc : Nat) : List Nat := [pc, pc + 4, pc + 8].filter (· < 0x10000)

/-- A word as fetch sees it: one overwritten since the last IFENCE may still be the old one (R113, log 9). -/
def State.fetchWord (s : State) (k : Core) (a : Nat) : W32 :=
  match k.stem.stale.find? fun x => x.1 == a with
  | some x => if Config.stalePick (2 ^ 16 * s.ticks + a) then x.2 else memW32 k.imem a
  | none => memW32 k.imem a

/-- An uncorrectable word of instruction memory: precise at the fetching instruction, TRAPVAL 0 (R52, R412). -/
def State.imemError (s : State) (c : CoreId) (a : Nat) : State :=
  (s.logCore c .eccUncorrectable (BitVec.ofNat 64 a)).stemTrap .stem .eccUncorrectable 0

/-- One instruction of a stem. -/
def State.stemFetch (s : State) (c : CoreId) : Host.Outcome State Fault Refusal :=
  let k := s.core c
  let pc := k.stem.pc.toNat
  let ws := (fetchAddrs pc).map (s.fetchWord k)
  if k.imemBad.contains pc then .next (s.imemError c pc)
  else match decode .stem ws with
    | .bad .illegalOpcode => exec (.unassignedEncoding .stem (ws.headD 0)) s
    | .bad cause => .next (s.stemTrap (decodeEngine (ws.headD 0)) cause ((ws.headD 0).setWidth 64))
    | .ok i n =>
      match ((List.range n).map fun j => pc + 4 * j).find? k.imemBad.contains with
      | some a => .next (s.imemError c a)
      | none => exec i (s.modCore c fun k => k.setStem { k.stem with ir := ws.headD 0 })

/-- The stem's own instruction took a trap while an engine fault was held: the engine fault then waits (R291). -/
def Core.ownTrap (k : Core) : Bool := k.stem.deferred && k.stem.trapcause != trapCauseWord .stem .singleStep

/-- A stem at a boundary with an engine fault to take (R291): a fault of its own instruction there comes first, and
otherwise it takes the engine fault, with no effect of the instruction. -/
def State.stemBoundary (s : State) (c : CoreId) : Host.Outcome State Fault Refusal :=
  match s.stemFetch c with
  | .next t => if (t.core c).ownTrap then .next t else exec (.engineFaultTrap c) s
  | o => o

/-- A stem takes a held engine fault at its boundary, or runs an instruction; it stands still while its core does not
run or a monitor halts the cores (R432). -/
def State.stemTurn (s : State) (c : CoreId) : Host.Outcome State Fault Refusal :=
  let t : State := { s with cur := c }
  if (t.core c).phase ≠ .running || t.pkg.monHalt then .next t
  else if (t.core c).mayTrap then t.stemBoundary c
  else t.stemFetch c

/-! ### The vector engine -/

/-- A decode fault at word w of the running token; its own TRAPVAL is the first word (R52). -/
def State.vecDecodeFault (s : State) (w : Nat) (c : Cause) (word : W32) : State := s.vecFaultAt w c (word.setWidth 64)

/-- An uncorrectable word of the segment (R279). -/
def State.segError (s : State) (r : Run) (i : Nat) : State :=
  s.vecFaultAt r.pos .eccUncorrectable (BitVec.ofNat 64 (r.tok.ent.toNat + 4 * i))

/-- One instruction of the running token (R170, R279). -/
def State.vecFetch (s : State) (r : Run) : Host.Outcome State Fault Refusal :=
  let ws := (r.buf.drop r.pos).take 3
  if r.buf.length ≤ r.pos then
    .next (s.vecFaultAt (r.buf.length - 1) .segmentTooLong (BitVec.ofNat 64 (r.tok.ent.toNat + 4 * r.buf.length)))
  else if r.bad.contains r.pos then .next (s.segError r r.pos)
  else match decode .vector ws with
    | .bad .illegalOpcode => exec (.unassignedEncoding .vector (ws.headD 0)) s
    | .bad cause => .next (s.vecDecodeFault r.pos cause (ws.headD 0))
    | .ok i n =>
      match ((List.range n).map fun j => r.pos + j).find? r.bad.contains with
      | some j => .next (s.segError r j)
      | none => exec i s

/-- The engine issues nothing before the word to be served first (R148, R154): it has stopped, or its next issue, of the
running token or of the next one, falls in a later cycle. -/
def Core.svcDue (k : Core) : Bool :=
  match k.vec.svc with
  | [] => false
  | q :: _ =>
    if !k.vec.clear then true
    else match k.vec.run with
      | some r => decide (q.time < k.vec.next) || (k.phase != .running && r.pos == 0)
      | none => match k.vec.queue with
        | [] => true
        | tok :: _ => decide (q.time < k.vec.tokenCycle tok) || k.phase != .running

/-- The engine may work: its core runs, or was asked to stop inside an iteration, which it finishes, with its bank
service (R294). -/
def State.vecMay (s : State) (c : CoreId) : Bool :=
  let k := s.core c
  !s.pkg.monHalt && match k.phase with
    | .running => true
    | .stopping => k.vec.found.isSome || !k.vec.svc.isEmpty || k.vec.eccDue || k.vec.run.any fun r => r.pos != 0
    | _ => false

/-- A turn of a vector engine. -/
def State.vectorTurn (s : State) (c : CoreId) : Host.Outcome State Fault Refusal :=
  let t : State := { s with cur := c }
  if !t.vecMay c then .next t
  else if (t.core c).svcDue then .next (t.serveWord c)
  else if (t.core c).vec.eccDue then exec (.vectorLoadEcc c) t
  else if (t.core c).vec.found.isSome then exec (.vectorFaultReport c) t
  else if !(t.core c).vec.clear then .next t
  else match (t.core c).vec.run with
    | none => exec (.tokenStart c) t
    | some r => t.vecFetch r

/-! ### A move sequencer -/

/-- What the fetch of a word at a program's address comes to (R227): fetched words are read at their homes; a word of
another package is a free value (log 20). -/
inductive SeqFetch where
  | word (w : W32) (s : State)
  | fault (c : Cause)
  | refused

def State.seqFetchWord (s : State) (d : DieId) (tag : Tag) (va : Word) : SeqFetch :=
  match s.translate d tag va.toNat .fetch with
  | .noCtx => .refused
  | .bad c => .fault c
  | .ok t u =>
    if !u.isLocal t then .word ((u.free (2 ^ 16 + va.toNat)).setWidth 32) u
    else match u.homeReadBad t 4 with
      | some c => .fault c
      | none => .word (BitVec.ofNat 32 (leNat (u.homeBytes t 4))) (u.noteRead t 4)

/-- The literal words that an instruction needs, fetched in order; a fault names the address that met it. -/
inductive SeqLits where
  | ok (ws : List W32) (s : State)
  | fault (c : Cause) (va : Word)
  | refused

def State.seqFetchLits (s : State) (d : DieId) (tag : Tag) : Nat → Word → SeqLits
  | 0, _ => .ok [] s
  | n + 1, va =>
    match s.seqFetchWord d tag va with
    | .refused => .refused
    | .fault c => .fault c va
    | .word w t => match t.seqFetchLits d tag n (va + 4) with
      | .ok ws u => .ok (w :: ws) u
      | r => r

/-- A program whose context has lost its entry ends (R348). -/
def State.seqRefused (s : State) (d : DieId) (n : Fin 16) (tag : Tag) : State := (s.internalCheck d tag.ctx).endProg d n

/-- One instruction of a program. The first word is decoded before its literals are fetched, so its own faults come
first (R27); a literal that cannot be fetched takes its translation fault. -/
def State.seqFetch (s : State) (d : DieId) (n : Fin 16) : Host.Outcome State Fault Refusal :=
  let q := s.seqr d n
  match s.seqFetchWord d q.tag q.pc with
  | .refused => .next (s.seqRefused d n q.tag)
  | .fault c => .next (s.progFault d n c (some .fetch) q.pc 0 id)
  | .word w t =>
    match decode .perco [w, 0, 0] with
    | .bad .illegalOpcode => exec (.unassignedEncoding .perco w) t
    | .bad c => .next (t.progFault d n c none 0 0 id)
    | .ok _ k =>
      match t.seqFetchLits d q.tag (k - 1) (q.pc + 4) with
      | .refused => .next (t.seqRefused d n q.tag)
      | .fault c va => .next (t.progFault d n c (some .fetch) va 0 id)
      | .ok lits u =>
        match decode .perco (w :: lits) with
        | .bad c => .next (u.progFault d n c none 0 0 id)
        | .ok i _ => exec i u

def State.seqTurn (s : State) (d : DieId) (n : Fin 16) : Host.Outcome State Fault Refusal :=
  let t : State := { s with curDie := d, curSeq := n }
  if (t.seqr d n).running && (t.seqr d n).susp.isNone then t.seqFetch d n else .next t

/-! ### Events, time and physical causes -/

/-- The rows of the opcode table that no stream encodes. -/
def isEvent : Instr → Bool
  | .unassignedEncoding _ _ => false
  | i => (encode i).isEmpty

/-- Cycles pass on a crown die (0 to 3) or on a runner die (4 to 7). -/
def State.elapse (s : State) (die : Fin 8) (n : Nat) : State :=
  let d : DieId := ⟨die.val % 4, by omega⟩
  if die.val < 4 then { s with cycles := s.cycles.set d.val (s.cycles.get d + n) d.isLt }
  else s.modRunner d fun r => { r with cycle := r.cycle + n }

/-- A single-bit error in a word; a second one makes it uncorrectable (R323, R324). -/
def Core.strike (k : Core) (a : Nat) (hard : Bool) : Core :=
  if k.eccHard.contains a then k
  else if hard || k.eccSoft.contains a then
    { k with eccHard := a :: k.eccHard, eccSoft := k.eccSoft.filter (· ≠ a), eccFix := k.eccFix.filter (· ≠ a) }
  else { k with eccSoft := a :: k.eccSoft }

/-- A home replies to a watch of its own accord (R111). -/
def State.wakeWatch (s : State) (d : DieId) (i : Nat) : State :=
  match (s.runner d).watches[i]? with
  | some w => s.fireOn d fun v => v == w
  | none => s

def addNat (a : Nat) (l : List Nat) : List Nat := if l.contains a then l else a :: l

/-- A physical cause (log 16). -/
def State.upset (s : State) : Upset → State
  | .scratch c w hard => s.modCore c fun k => k.strike (w % 2 ^ 19 * 4) hard
  | .imem c w => s.modCore c fun k => { k with imemBad := addNat (w % 2 ^ 14 * 4) k.imemBad }
  | .seg c w => s.modCore c fun k => { k with segBad := addNat (w % 2 ^ 14 * 4) k.segBad }
  | .stemReg c r => s.modCore c fun k =>
      if r = 0 ∨ r ∈ k.stem.parity then k else k.setStem { k.stem with parity := r :: k.stem.parity }
  | .rstore d n w => s.modSeq d n fun q => { q with storeBad := addNat (w % 2 ^ 11 * 8) q.storeBad }
  | .poison pa => if pa < s.pkg.capacity then s.poisonBlock pa else s
  | .lane l up n =>
    let x := s.pkg.link l up
    s.setLink l up { x with failing := x.failing ||| (1#64 <<< n.val) }
  | .port p live => if live then s else s.portDown p
  | .temp i v => s.modPkg fun p => { p with temp := p.temp.set i.val (BitVec.ofNat 16 v) i.isLt }
  | .volt i v => s.modPkg fun p => { p with volt := p.volt.set i.val (BitVec.ofNat 16 v) i.isLt }
  | .power v => s.modPkg fun p => { p with pnow := BitVec.ofNat 16 v }
  | .phy ch => s.retireChannel ch.val .internalCheck
  | .malformed l up => s.malformedFlit l up
  | .heart second => s.modPkg fun p => { p with heart :=
      if second then { p.heart with bad1 := true } else { p.heart with bad0 := true } }
  | .engine d i => match (s.runner d).boxes[i]? with
    | some b => if b.state = .running then s.boxFault d b .eccUncorrectable none 0 else s
    | none => s

/-- A start that package services ask a runner die for (R222, R223); one that finds the queue full is not accepted. -/
def State.serviceStart (s : State) (d : DieId) (entry arg : Word) (ctx : BitVec 16) : State :=
  let st : Start := ⟨entry, arg, BitVec.allOnes 64, ⟨ctx, ((s.ctxEntry ctx).map (·.vf)).getD 0, true, none⟩, true, none⟩
  if 64 ≤ (s.runner d).startq.length then s else s.modRunner d fun r => { r with startq := r.startq ++ [st] }

/-- A runner die drops a cached leaf, or a cached table or context entry (R353). -/
def Runner.evict (r : Runner) (i : Nat) : Runner :=
  if i < r.tlb.length then { r with tlb := r.tlb.eraseIdx i } else { r with walks := r.walks.eraseIdx (i - r.tlb.length) }

/-- One turn. -/
def takeTurn (t : Turn) (s : State) : Host.Outcome State Fault Refusal :=
  match t with
  | .stem c => s.stemTurn c
  | .vector c => s.vectorTurn c
  | .perform c i => .next (s.performStore c i)
  | .cancel c => .next (s.sendCancel c)
  | .wake d i => .next (s.wakeWatch d i)
  | .seq d n => s.seqTurn d n
  | .event i => if isEvent i then exec i s else .next s
  | .elapse die n => .next (s.elapse die n)
  | .ingress d => .next (s.ingressTurn d)
  | .message d => .next (s.messageTurn d)
  | .posted d i => .next (s.postedTurn d i)
  | .service d entry arg ctx => .next (s.serviceStart d entry arg ctx)
  | .evict d i => .next (s.modRunner d fun r => r.evict i)
  | .rewalk d ctx va => .next (s.rewalk d ctx va)
  | .upset u => .next (s.upset u)

/-! ### Where the host's words go (log 1) -/

/-- The bytes of words in memory order. -/
def wordBytes (ws : List W32) : List Byte := ws.flatMap fun w => leBytes 4 w.toNat

/-- A core that runs at its next turn, with no engine fault to take first. -/
def Core.ready (k : Core) : Core :=
  { k with
    phase := .running
    grain := some (k.grain.getD ⟨0, 0, Vector.replicate 4 0, 0, true, false, 0, 0, 0, 0, 0⟩)
    stem := { k.stem with deferred := k.stem.deferred || k.vec.held.isSome || k.mat.held.isSome } }

/-- Words in instruction memory at the PC; a PC with no room for three words goes to 0. -/
def Core.placeStem (k : Core) (ws : List W32) : Core :=
  let k := k.ready
  let pc : BitVec 16 := if 0xFFF4 < k.stem.pc.toNat then 0 else k.stem.pc
  { k with
    imem := memPut k.imem pc.toNat (wordBytes ws)
    imemBad := wordsOutside k.imemBad pc.toNat 12
    stem := { k.stem with pc := pc, stale := [] } }

/-- A running token whose buffer holds the words. -/
def Core.placeVector (k : Core) (ws : List W32) : Core :=
  let k := k.ready
  let tok : Token := ⟨0, 1, 0xFFFFFFFF, 0, 0, [], k.slots, 0⟩
  k.setVec { k.vec with
    run := some { tok := tok, iter := 0, buf := ws, bad := [], pos := 0, grant := 0, eop := false, pchk := false }
    pend := k.vec.pend.filter fun p => p.load.isNone
    svc := []
    ecc := []
    found := none
    held := none
    taken := false }

/-- The main-memory address at which a program's words are placed. -/
def placeAddr : Nat := 0x100000

/-- A running program whose next words stand at that address, through a cached translation. -/
def State.placeSeq (s : State) (ws : List W32) : State :=
  let q := s.seqr 0 0
  let q' : Seqr := { q with running := true, susp := none, tag := { q.tag with sup := true } }
  let e : TlbEntry := ⟨q.tag.ctx, q.pc.toNat, 12, s.pkg.pkgid.setWidth 12, false, placeAddr, 0xF⟩
  let t := s.modSeq 0 0 fun _ => q'
  let t := t.modRunner 0 fun r => { r with
    tlb := e :: r.tlb.filter fun x => !([0, 4, 8].any fun k => x.holds q.tag.ctx (q.pc.toNat + k)) }
  { t with
    mem := memPut t.mem placeAddr (wordBytes ws)
    pkg := { t.pkg with poison := t.pkg.poison.filter fun b => b != placeAddr } }

/-- The instruction of a table word stands where the next step fetches, and that step is its agent's. -/
def State.placeWords (s : State) (st : Strm) (ws : List W32) : State :=
  let s := s.modPkg fun p => { p with hot := [], badRails := [] }
  match st with
  | .stem => { s.modCore 0 fun k => k.placeStem ws with agenda := [.stem 0] }
  | .vector => { s.modCore 0 fun k => k.placeVector ws with agenda := [.vector 0] }
  | .perco => { s.placeSeq ws with agenda := [.seq 0 0] }

end Sys2Proof.Machine
end

