-- ==== Sys2Proof/Machine/Step.lean ====
section
/-! DEFINITION. One step of the machine: one turn (log 2), and where the host places an instruction (log 1). -/

namespace Sys2Proof.Machine

/-- The next turn is the agenda's head, or with an empty agenda the free value Config.arbiter. -/
def step (s : State) : Host.Outcome State Fault Refusal :=
  match s.agenda with
  | t :: rest => takeTurn t { s with agenda := rest, ticks := s.ticks + 1 }
  | [] => takeTurn (Config.arbiter s.ticks) { s with ticks := s.ticks + 1 }

/-- The state with an instruction, numbered as the opcode table numbers its bits, where the next step fetches. -/
def State.withFetchWord (s : State) (_nbits w : Nat) : State :=
  s.placeWords (tableStream (tableWords w)) (tableWords w)

end Sys2Proof.Machine
end

