-- ==== Sys2Proof/Safety.lean ====
section
/-! DEFINITION. The terms in which claims speak of a run: nothing ends it, memories keep their canonical form, the
stem's own limits hold, and when an instruction completes plainly. -/

namespace Sys2Proof.Machine

/-- An outcome that ends the run: no step of a safe run has one. -/
def Stops : Host.Outcome State Fault Refusal → Bool
  | .next _ => false
  | .fault _ | .refused _ => true

/-! ### Canonical memories -/

/-- The bytes of a tile write that waits for its tile are in their canonical form. -/
def MPhase.memOk : MPhase → Bool
  | .emit _ out _ => Mem.wf out
  | _ => true

/-- The memories of a core are in their canonical form. -/
def Core.memOk (k : Core) : Bool :=
  Mem.wf k.scratch && Mem.wf k.imem && Mem.wf k.seg && k.tiles.toList.all Mem.wf && k.moulds.toList.all Mem.wf &&
    k.mat.phase.memOk && Mem.wf k.mat.seen

/-- Every memory of the machine is in its canonical form: main and host memory, the stores of every core, those of
grains that are saved, and the runner stores. -/
structure State.MemOk (s : State) : Prop where
  main : Mem.wf s.mem = true
  host : Mem.wf s.hostMem = true
  cores : ∀ c, (s.core c).memOk = true
  saved : ∀ n ∈ s.pkg.nests, ∀ x ∈ n.saved, (x.state.memOk && Mem.wf x.image) = true
  stores : ∀ d n, Mem.wf (s.seqr d n).store = true

/-! ### Limits of a core (R96, R97, R115, R119, R121, R199, R220) -/

/-- The stem's PC is word-aligned, and no stack or queue of the core holds more than the spec gives it. -/
def Core.inLimits (k : Core) : Bool :=
  k.stem.pc.toNat % 4 == 0 && decide (k.stem.loops.length ≤ 4) && decide (k.stem.rets.length ≤ 16) &&
    (k.stem.loops.all fun l => l.fin % 4 == 0) && (k.stem.rets.all fun a => a.toNat % 4 == 0) &&
    k.stem.trapvec.toNat % 4 == 0 && decide (k.vec.queue.length ≤ 64) && decide (k.mat.queue.length ≤ 16) &&
    decide (k.posts.length ≤ 32)

/-! ### When a stem instruction completes -/

/-- No register that the instruction reads or writes awaits a remote atomic, and none that it reads has a parity error
(R121, R412). -/
def State.regsFree (s : State) (reads writes : List Reg) : Prop :=
  (∀ r ∈ reads ++ writes, (s.core s.cur).stem.isPending r = false) ∧ ∀ r ∈ reads, r ∉ (s.core s.cur).stem.parity

/-- The instruction after it lies in instruction memory, and SSTEP is 0 (R89, R129). -/
def State.plain (s : State) (npc : Nat) : Prop :=
  npc < 0x10000 ∧ statusSstep (s.core s.cur).stem.status = false

/-- The current core's stem has completed an instruction that leaves its core k and goes on at npc: nothing else of the
machine changes. -/
def State.stemDone (s : State) (k : Core) (npc : Nat) : State := s.setCore s.cur (k.goto npc)

/-! ### Where a vector store writes (R150, R153) -/

/-- The number of the first bit of a place in the scratchpad: bit 8a is bit 0 of byte a. -/
def VPlace.firstBit (q : VPlace) : Nat := 8 * q.addr + if q.nib = some true then 4 else 0

/-- The bits of a place: a code of wb bytes, or a packed one. -/
def VPlace.numBits (wb : Nat) (q : VPlace) : Nat := if q.nib = none then 8 * wb else 4

/-- A bit of the scratchpad is one of a place. -/
def VPlace.has (wb i : Nat) (q : VPlace) : Bool := decide (q.firstBit ≤ i) && decide (i < q.firstBit + q.numBits wb)

/-- The place that gives a bit its value: the last of those that have it (R150). -/
def lastPlace (wb : Nat) (l : List VPlace) (i : Nat) : Option VPlace := (l.filter (VPlace.has wb i)).getLast?

/-- Bit i of the scratchpad of a core. -/
def Core.scratchBit (k : Core) (i : Nat) : Bool := (memGet k.scratch (i / 8)).getLsbD (i % 8)

/-- What the instruction at issue of a core with a running token sees. -/
def Core.issueView (c : Core) (r : Run) : VX := ⟨c, c.vec.retire c.vec.next, r, c.vec.next⟩

end Sys2Proof.Machine
end

