-- ==== Sys2Proof/Certificates/Slice0/Obligations.lean ====
section
/-! DEFINITION. The statements for the provers: what the rules of spec/ say the machine does, family by family. -/

open Sys2Proof Sys2Proof.Machine

/-! ### The stem: integer instructions (R92-R94) -/

namespace Sys2Proof.Claims

/-- An instruction of two sources with a destination, as its constructor takes them. -/
abbrev Ctor3 := Reg → Src → Src → Ty → Instr

/-- Table 03-2 over the signed operands: n the width. -/
def signedAlu : List (Ctor3 × (Nat → Int → Int → Int)) :=
  [(.add, fun _ x y => x + y), (.sub, fun _ x y => x - y), (.mul, fun _ x y => x * y),
   (.mulh, fun n x y => x * y / 2 ^ n), (.min, fun _ x y => min x y), (.max, fun _ x y => max x y),
   (.slt, fun _ x y => if x < y then 1 else 0), (.sra, fun n x y => x / 2 ^ (y % n).toNat)]

/-- Table 03-2 over the unsigned operands. -/
def unsignedAlu : List (Ctor3 × (Nat → Nat → Nat → Nat)) :=
  [(.and, fun _ x y => x &&& y), (.or, fun _ x y => x ||| y), (.xor, fun _ x y => x ^^^ y),
   (.shl, fun n x y => x * 2 ^ (y % n)), (.shr, fun n x y => x / 2 ^ (y % n)),
   (.mulhUnsigned, fun n x y => x * y / 2 ^ n), (.minUnsigned, fun _ x y => min x y),
   (.maxUnsigned, fun _ x y => max x y), (.sltu, fun _ x y => if x < y then 1 else 0)]

/-- Every ALU instruction of two sources. -/
def aluCtors : List Ctor3 :=
  signedAlu.map (·.1) ++ unsignedAlu.map (·.1) ++ [.madd, .div, .rem, .divUnsigned, .remUnsigned]

/-- The low n bits of a word as a signed number. -/
def low (n : Nat) (v : Word) : Int := (v.setWidth n).toInt
/-- The low n bits of a word as an unsigned number. -/
def lowU (n : Nat) (v : Word) : Nat := v.toNat % 2 ^ n
/-- An n-bit result, sign-extended to 64 bits. -/
def signed (n : Nat) (r : Int) : Word := (BitVec.ofInt n r).signExtend 64

/-- The completion of an instruction of the current core that writes v to the stem register d and goes on at npc. -/
def setsX (s : State) (d : Reg) (v : Word) (npc : Nat) : Host.Outcome State Fault Refusal :=
  .next (s.stemDone ((s.core s.cur).setX d v) npc)

/-- The address after an instruction of the current core with these sources. -/
def after (s : State) (l : List Src) : Nat := (s.core s.cur).after (1 + litWords l)

end Sys2Proof.Claims

open Sys2Proof.Claims

/-- R92: the results of the ALU at each width, over the integers; the result is sign-extended to 64 bits, and a TYPE
that is no integer raises FORMAT_INVALID with the instruction's first word in TRAPVAL. -/
def Obligations.StemAluResults : Prop :=
  ∀ (s : State) (d : Reg) (a b : Src) (ty : Ty),
    let k := s.core s.cur
    (∀ n, intWidth ty = some n → s.plain (after s [a, b]) →
      (s.regsFree (srcRegs a ++ srcRegs b) [d] →
        (∀ p ∈ signedAlu, exec (p.1 d a b ty) s =
          setsX s d (signed n (p.2 n (low n (k.src a)) (low n (k.src b)))) (after s [a, b])) ∧
        (∀ p ∈ unsignedAlu, exec (p.1 d a b ty) s =
          setsX s d (signed n (p.2 n (lowU n (k.src a)) (lowU n (k.src b)))) (after s [a, b]))) ∧
      (s.regsFree (srcRegs a ++ srcRegs b ++ [d]) [d] → exec (.madd d a b ty) s =
        setsX s d (signed n (low n (k.getX d) + low n (k.src a) * low n (k.src b))) (after s [a, b]))) ∧
    (∀ n, intWidth ty = some n → s.plain (after s [a]) → s.regsFree (srcRegs a) [d] →
      exec (.clz d a ty) s = setsX s d (signed n ((n - (lowU n (k.src a)).size : Nat) : Int)) (after s [a]) ∧
      exec (.popc d a ty) s =
        setsX s d (signed n (((List.range n).countP fun i => (k.src a).getLsbD i : Nat) : Int)) (after s [a])) ∧
    (intWidth ty = none → s.regsFree (srcRegs a ++ srcRegs b ++ [d]) [d] →
      (∀ c ∈ aluCtors, exec (c d a b ty) s = .next (s.stemTrap .stem .formatInvalid k.firstWord)) ∧
      exec (.clz d a ty) s = .next (s.stemTrap .stem .formatInvalid k.firstWord) ∧
      exec (.popc d a ty) s = .next (s.stemTrap .stem .formatInvalid k.firstWord))

/-- R93: DIV and REM truncate toward zero, the most negative value divided by -1 gives itself and remainder 0, and a
zero divisor raises DIV_ZERO with the dividend in TRAPVAL, sign-extended (the model's choice: log 21); MUL, MADD, ADD
and SUB wrap. -/
def Obligations.StemDivision : Prop :=
  ∀ (s : State) (d : Reg) (a b : Src) (ty : Ty) (n : Nat),
    let k := s.core s.cur
    let x := low n (k.src a)
    let y := low n (k.src b)
    intWidth ty = some n → s.regsFree (srcRegs a ++ srcRegs b) [d] →
      (y ≠ 0 → s.plain (after s [a, b]) →
        exec (.div d a b ty) s = setsX s d (signed n (x.tdiv y)) (after s [a, b]) ∧
        exec (.rem d a b ty) s = setsX s d (signed n (x.tmod y)) (after s [a, b]) ∧
        exec (.divUnsigned d a b ty) s =
          setsX s d (signed n (lowU n (k.src a) / lowU n (k.src b) : Nat)) (after s [a, b]) ∧
        exec (.remUnsigned d a b ty) s =
          setsX s d (signed n (lowU n (k.src a) % lowU n (k.src b) : Nat)) (after s [a, b]) ∧
        (x = -2 ^ (n - 1) → y = -1 →
          exec (.div d a b ty) s = setsX s d (signed n x) (after s [a, b]) ∧
          exec (.rem d a b ty) s = setsX s d 0 (after s [a, b]))) ∧
      (y = 0 → ∀ c ∈ ([.div, .rem, .divUnsigned, .remUnsigned] : List Ctor3),
        exec (c d a b ty) s = .next (s.stemTrap .stem .divZero (signed n x)))

/-- R94: LI writes its immediate, or its literal, sign-extended; an A field other than 0 and 31, or 31 with a non-zero
IMM16, is refused at decode with RESERVED_FIELD. -/
def Obligations.StemLi : Prop :=
  (∀ (s : State) (d : Reg), s.regsFree [] [d] →
    (∀ i : BitVec 16, s.plain (after s []) → exec (.li d (.imm i)) s = setsX s d (i.signExtend 64) (after s [])) ∧
    (∀ v : W32, s.plain ((s.core s.cur).after 2) →
      exec (.li d (.lit v)) s = setsX s d (v.signExtend 64) ((s.core s.cur).after 2))) ∧
  ∀ (d : Reg) (a : BitVec 5) (i : BitVec 16) (ws : List W32),
    let w : W32 := 2#6 ++ regCode d ++ a ++ i
    (a ≠ 0 → a ≠ 31 → decode .stem (w :: ws) = .bad .reservedField) ∧
    (a = 31 → i ≠ 0 → decode .stem (w :: ws) = .bad .reservedField) ∧
    (a = 0 → decode .stem (w :: ws) = .ok (.li d (.imm i)) 1) ∧
    (∀ v, a = 31 → i = 0 → decode .stem (w :: v :: ws) = .ok (.li d (.lit v)) 2)

/-! ### The stem: branches, jumps, loops (R95-R100) -/

namespace Sys2Proof.Claims

/-- The conditional branches with the conditions of R95 on the first and the second source. -/
def branches : List ((Src → Src → BitVec 16 → Instr) × (Word → Word → Prop)) :=
  [(.beq, fun a b => a = b), (.bne, fun a b => a ≠ b), (.blt, fun a b => a.toInt < b.toInt),
   (.bge, fun a b => b.toInt ≤ a.toInt), (.bltu, fun a b => a.toNat < b.toNat), (.bgeu, fun a b => b.toNat ≤ a.toNat)]

/-- The current core's stem stays as it is but for its next PC. -/
def goesTo (s : State) (npc : Nat) : Host.Outcome State Fault Refusal := .next (s.stemDone (s.core s.cur) npc)

/-- A trap of the stem's own instruction with an address in TRAPVAL. -/
def trapsAt (s : State) (c : Cause) (t : Int) : Host.Outcome State Fault Refusal :=
  .next (s.stemTrap .stem c (BitVec.ofInt 64 t))

/-- The current core single-steps. -/
def steps (s : State) : Bool := statusSstep (s.core s.cur).stem.status

/-- A legal target of a branch or jump (R96). -/
def legal (t : Int) : Prop := 0 ≤ t ∧ t ≤ 0xFFFC

/-- The current core with an address pushed on its return stack. -/
def pushed (s : State) (a : Nat) : Core :=
  let k := s.core s.cur
  { k with stem := { k.stem with rets := BitVec.ofNat 16 a :: k.stem.rets } }

end Sys2Proof.Claims

/-- R95, and the range of R96: a conditional branch compares all 64 bits, and goes to four times its offset from its
own address or to the word after it and its literal; a target outside 0 to 0xFFFC raises IMEM_RANGE. -/
def Sys2Proof.Claims.StemBranches : Prop :=
  ∀ (s : State) (x y : Src) (ofs : BitVec 16), s.regsFree (srcRegs x ++ srcRegs y) [] → ∀ p ∈ branches,
    let k := s.core s.cur
    let t : Int := k.stem.pc.toNat + 4 * ofs.toInt
    (p.2 (k.src x) (k.src y) → legal t → steps s = false → exec (p.1 x y ofs) s = goesTo s t.toNat) ∧
    (p.2 (k.src x) (k.src y) → ¬legal t → exec (p.1 x y ofs) s = trapsAt s .imemRange t) ∧
    (¬p.2 (k.src x) (k.src y) → s.plain (after s [x, y]) → exec (p.1 x y ofs) s = goesTo s (after s [x, y]))

/-- R95 and R96 of the jumps: J, JAL, JR and RET go to their targets, the calls push the address of the next
instruction, and a jump out of range, a push on a full return stack and a RET on an empty one trap. -/
def Sys2Proof.Claims.StemJumps : Prop :=
  ∀ (s : State), steps s = false →
    let k := s.core s.cur
    (s.regsFree [] [] → ∀ ofs : BitVec 26,
      let t : Int := k.stem.pc.toNat + 4 * ofs.toInt
      (legal t → exec (.j ofs) s = goesTo s t.toNat ∧
        (k.stem.rets.length < 16 → exec (.jal ofs) s = .next (s.stemDone (pushed s (k.after 1)) t.toNat)) ∧
        (16 ≤ k.stem.rets.length → exec (.jal ofs) s = trapsAt s .callDepth t)) ∧
      (¬legal t → exec (.j ofs) s = trapsAt s .imemRange t ∧ exec (.jal ofs) s = trapsAt s .imemRange t)) ∧
    (∀ a, s.regsFree (srcRegs a) [] →
      let t := k.src a
      (t.toNat ≤ 0xFFFC → t.toNat % 4 = 0 → exec (.jr a) s = goesTo s t.toNat ∧
        (k.stem.rets.length < 16 → exec (.jrCall a) s = .next (s.stemDone (pushed s (after s [a])) t.toNat)) ∧
        (16 ≤ k.stem.rets.length → exec (.jrCall a) s = .next (s.stemTrap .stem .callDepth t))) ∧
      (0xFFFC < t.toNat ∨ t.toNat % 4 ≠ 0 → exec (.jr a) s = .next (s.stemTrap .stem .imemRange t) ∧
        exec (.jrCall a) s = .next (s.stemTrap .stem .imemRange t))) ∧
    (s.regsFree [] [] →
      (∀ a rest, k.stem.rets = a :: rest →
        exec .ret s = .next (s.stemDone { k with stem := { k.stem with rets := rest } } a.toNat)) ∧
      (k.stem.rets = [] → ∃ v, exec .ret s = .next (s.stemTrap .stem .callDepth v)))

/-- R95, R96: branches, jumps, calls and returns of the stem. -/
def Obligations.StemControl : Prop :=
  Sys2Proof.Claims.StemBranches ∧ Sys2Proof.Claims.StemJumps

/-- R97: LOOP as its pseudo-code gives it. -/
def Sys2Proof.Claims.StemLoop : Prop :=
  ∀ (s : State) (a : Src) (imm : BitVec 16), s.regsFree (srcRegs a) [] →
    let k := s.core s.cur
    let n : W32 := (k.src a).setWidth 32
    let start := after s [a]
    let fin : Int := k.stem.pc.toNat + 4 * imm.toInt
    (fin ≤ start → exec (.loop a imm) s = .next (s.stemTrap .stem .reservedField k.firstWord)) ∧
    (start < fin → 0xFFFC < fin → exec (.loop a imm) s = trapsAt s .imemRange fin) ∧
    (start < fin → fin ≤ 0xFFFC →
      (n = 0 → steps s = false → exec (.loop a imm) s = goesTo s fin.toNat) ∧
      (n ≠ 0 → k.stem.loops.length = 4 → exec (.loop a imm) s = .next (s.stemTrap .stem .loopDepth 0)) ∧
      (n ≠ 0 → steps s = false → ∀ h : k.stem.loops.length < 4,
        exec (.loop a imm) s = .next (s.stemDone { k with stem := { k.stem with
          lc := k.stem.lc.set k.stem.loops.length n
          loops := ⟨start, fin.toNat⟩ :: k.stem.loops } } start)))

/-- R98: the back-edge test of a transfer to npc. At the END of the innermost loop its count, if 0 or 1, pops it and the
test repeats for the next loop out; else the count goes down by one and the PC is the loop's START. -/
def Sys2Proof.Claims.StemBackEdge : Prop :=
  ∀ (k : Core) (npc : Nat), k.stem.loops.length ≤ 4 → npc < 0x10000 →
    (k.stem.loops = [] → (k.goto npc).stem.pc.toNat = npc ∧ (k.goto npc).stem.loops = [] ∧
      (k.goto npc).stem.lc = k.stem.lc) ∧
    ∀ l ls, k.stem.loops = l :: ls → ∀ h : ls.length < 4,
      (npc ≠ l.fin → (k.goto npc).stem.pc.toNat = npc ∧ (k.goto npc).stem.loops = l :: ls ∧
        (k.goto npc).stem.lc = k.stem.lc) ∧
      (npc = l.fin → k.stem.lc[ls.length].toNat ≤ 1 →
        k.goto npc = ({ k with stem := { k.stem with loops := ls } } : Core).goto npc) ∧
      (npc = l.fin → 1 < k.stem.lc[ls.length].toNat → l.start < 0x10000 →
        (k.goto npc).stem.pc.toNat = l.start ∧ (k.goto npc).stem.loops = l :: ls ∧
        (k.goto npc).stem.lc = k.stem.lc.set ls.length (k.stem.lc[ls.length] - 1))

/-- R99 and R100: MVLC writes or reads a loop counter, and LBRK pops the innermost loop and goes on at its END. -/
def Sys2Proof.Claims.StemLoopRegisters : Prop :=
  ∀ (s : State),
    let k := s.core s.cur
    (∀ (n : Fin 4) (a : Src), s.regsFree (srcRegs a) [] → s.plain (after s [a]) →
      exec (.mvlc n a) s = .next (s.stemDone { k with stem := { k.stem with
        lc := k.stem.lc.set n.val ((k.src a).setWidth 32) n.isLt } } (after s [a]))) ∧
    (∀ (d : Reg) (n : Fin 4), s.regsFree [] [d] → s.plain (after s []) →
      exec (.mvlcRead d n) s = setsX s d (BitVec.ofNat 64 (k.stem.lc.get n).toNat) (after s [])) ∧
    (s.regsFree [] [] → steps s = false → ∀ l ls, k.stem.loops = l :: ls → l.fin < 0x10000 →
      exec .lbrk s = .next (s.stemDone { k with stem := { k.stem with loops := ls } } l.fin)) ∧
    (s.regsFree [] [] → k.stem.loops = [] → exec .lbrk s = .next (s.stemTrap .stem .loopDepth 0))

/-- R97-R100: LOOP as its pseudo-code gives it; the back-edge test of a transfer; MVLC and LBRK. -/
def Obligations.StemLoops : Prop :=
  Sys2Proof.Claims.StemLoop ∧ Sys2Proof.Claims.StemBackEdge ∧ Sys2Proof.Claims.StemLoopRegisters

/-! ### The stem: scratchpad accesses, local atomics, semaphores (R90, R102, R106, R107, R110) -/

namespace Sys2Proof.Claims

/-- What a completed stem store leaves: the bytes bs stand at a of the current core's scratchpad, every other byte of
every memory reads as before, the stem's registers are x, its PC is that of a transfer to npc, and no other register of
the core changes. -/
structure Stored (s t : State) (a : Nat) (bs : List Byte) (x : Vector Word 31) (npc : Nat) : Prop where
  bytes : ∀ i (_ : i < bs.length), memGet (t.core s.cur).scratch (a + i) = bs[i]
  rest : ∀ b, b < a ∨ a + bs.length ≤ b → memGet (t.core s.cur).scratch b = memGet (s.core s.cur).scratch b
  others : ∀ c, c ≠ s.cur → (t.core c).scratch = (s.core c).scratch ∧ (t.core c).stem.x = (s.core c).stem.x
  stores : ∀ c, (t.core c).imem = (s.core c).imem ∧ (t.core c).seg = (s.core c).seg ∧
    (t.core c).tiles = (s.core c).tiles ∧ (t.core c).moulds = (s.core c).moulds
  memory : t.mem = s.mem ∧ t.hostMem = s.hostMem
  regs : (t.core s.cur).stem.x = x
  pc : (t.core s.cur).stem.pc = ((s.core s.cur).goto npc).stem.pc
  loops : (t.core s.cur).stem.loops = ((s.core s.cur).goto npc).stem.loops ∧
    (t.core s.cur).stem.lc = ((s.core s.cur).goto npc).stem.lc ∧ (t.core s.cur).stem.rets = (s.core s.cur).stem.rets
  status : (t.core s.cur).stem.status = (s.core s.cur).stem.status ∧
    (t.core s.cur).stem.trapcause = (s.core s.cur).stem.trapcause ∧
    (t.core s.cur).stem.trappc = (s.core s.cur).stem.trappc ∧ (t.core s.cur).stem.trapval = (s.core s.cur).stem.trapval
  engines : (t.core s.cur).vec = (s.core s.cur).vec ∧ (t.core s.cur).mat = (s.core s.cur).mat

/-- The instruction waits: it does not complete, and the wait's beginning stands (R132). -/
def waits (s : State) : Host.Outcome State Fault Refusal := .next s.keepWaiting

/-- An access of a class waits (R104, R112, R327): for a store of its class, for one that a FENCE of both classes
follows, or for a remote atomic that a FENCE puts first. -/
def heldBack (k : Core) (cls : BitVec 4) : Prop :=
  (∃ l c a bs r l', k.stem.stq = l ++ .store c a bs r :: l' ∧
    (c = cls ∨ ∃ m, .fence m ∈ l' ∧ m.getLsbD c.toNat = true ∧ m.getLsbD cls.toNat = true)) ∨
  ∃ r ∈ k.stem.ratoms, r.phase.performed = false ∧ r.id < k.stem.ratomFence.get cls.toFin

/-- The byte at b as the stem's own loads see it: of the last store on its way that has it, or of the scratchpad. -/
def ownByte (k : Core) (b : Nat) : Byte :=
  match (k.stem.stq.filter fun e => e.covers b 1).getLast? with
  | some (.store _ a bs _) => bs.getD (b - a) 0
  | _ => memGet k.scratch b

/-- The n bytes at a as the stem's own loads see them, as a number. -/
def sees (s : State) (a n : Nat) : Nat := leNat ((List.range n).map fun i => ownByte (s.core s.cur) (a + i))

/-- No valid shape slot stops a write of n bytes at a (R106). -/
def slotsAllow (s : State) (a n : Nat) : Prop :=
  statusShchk (s.core s.cur).stem.status = false ∨ (s.core s.cur).inSlot a n = false

/-- Bytes of a SIZE code. -/
def nBytes (size : BitVec 2) : Nat := 2 ^ size.toNat

/-- The address of LD and ST (R20, R102). -/
def ldAddr (s : State) (a : Src) (size : BitVec 2) (ofs : BitVec 10) : Word :=
  (s.core s.cur).src a + BitVec.ofInt 64 (ofs.toInt * nBytes size)

/-- The n bytes at a of the current core's scratchpad, as a number. -/
def stands (s : State) (a n : Nat) : Nat := memNat (s.core s.cur).scratch a n

/-- Table 03-4. -/
def amoOps : List (Ctor3 × ((n : Nat) → BitVec n → BitVec n → BitVec n)) :=
  [(.amoAdd, fun _ o b => o + b), (.amoAnd, fun _ o b => o &&& b), (.amoOr, fun _ o b => o ||| b),
   (.amoXor, fun _ o b => o ^^^ b), (.amoMin, fun _ o b => if o.toInt ≤ b.toInt then o else b),
   (.amoMax, fun _ o b => if o.toInt ≤ b.toInt then b else o),
   (.amoMinu, fun _ o b => if o.toNat ≤ b.toNat then o else b),
   (.amoMaxu, fun _ o b => if o.toNat ≤ b.toNat then b else o), (.amoSwap, fun _ _ b => b)]

end Sys2Proof.Claims

/-- R102 and R104 of LD: the value at the address as the stem's own stores leave it, sign-extended or zero-extended,
once no earlier store of its class is on its way (that loads perform as they issue is log 81's choice); an address
past the scratchpad raises SCRATCH_RANGE, an unaligned one MISALIGNED, each with the address in TRAPVAL, and the
zero-extending form of 8 bytes RESERVED_FIELD. -/
def Sys2Proof.Claims.StemLoads : Prop :=
  ∀ (s : State) (d : Reg) (a : Src) (cls : BitVec 4) (size : BitVec 2) (ofs : BitVec 10),
    s.regsFree (srcRegs a) [d] →
    let k := s.core s.cur
    let v := ldAddr s a size ofs
    let n := nBytes size
    (v.toNat < 2 ^ 21 → v.toNat % n = 0 → ¬heldBack k cls → k.loadBad v.toNat n = false → s.plain (after s [a]) →
      exec (.ld d a cls size ofs) s = .next (s.stemDone
        ((k.noteLoad v.toNat n).setX d ((BitVec.ofNat (8 * n) (sees s v.toNat n)).signExtend 64)) (after s [a])) ∧
      (size ≠ 3 → exec (.ldZeroExtending d a cls size ofs) s = .next (s.stemDone
        ((k.noteLoad v.toNat n).setX d (BitVec.ofNat 64 (sees s v.toNat n))) (after s [a])))) ∧
    (v.toNat < 2 ^ 21 → v.toNat % n = 0 → heldBack k cls → exec (.ld d a cls size ofs) s = waits s ∧
      (size ≠ 3 → exec (.ldZeroExtending d a cls size ofs) s = waits s)) ∧
    (2 ^ 21 ≤ v.toNat → exec (.ld d a cls size ofs) s = .next (s.stemTrap .stem .scratchRange v) ∧
      (size ≠ 3 → exec (.ldZeroExtending d a cls size ofs) s = .next (s.stemTrap .stem .scratchRange v))) ∧
    (v.toNat < 2 ^ 21 → v.toNat % n ≠ 0 → exec (.ld d a cls size ofs) s = .next (s.stemTrap .stem .misaligned v) ∧
      (size ≠ 3 → exec (.ldZeroExtending d a cls size ofs) s = .next (s.stemTrap .stem .misaligned v))) ∧
    (s.regsFree [] [] →
      exec (.ldZeroExtending d a cls 3 ofs) s = .next (s.stemTrap .stem .reservedField k.firstWord))

/-- R102 of ST and R106: the store of the low bytes of the source is on its way, after those already there, and nothing
else changes; an address past the
scratchpad raises SCRATCH_RANGE, an unaligned one MISALIGNED, and with SHCHK set a byte of a valid shape record
SHAPE_STALE, each with the address in TRAPVAL. -/
def Sys2Proof.Claims.StemStore : Prop :=
  ∀ (s : State) (x a : Src) (cls : BitVec 4) (size : BitVec 2) (ofs : BitVec 10),
    s.regsFree (srcRegs x ++ srcRegs a) [] →
    let k := s.core s.cur
    let v := ldAddr s a size ofs
    let n := nBytes size
    (v.toNat < 2 ^ 21 → v.toNat % n = 0 → wordPart k.eccHard v.toNat n = false → slotsAllow s v.toNat n →
      s.plain (after s [x, a]) → exec (.st x a cls size ofs) s = .next (s.stemDone
        (k.setStem { k.stem with stq := k.stem.stq ++ [.store cls v.toNat
          ((List.range n).map fun i => (k.src x).extractLsb' (8 * i) 8) (k.stem.ratomFence.get cls.toFin)] })
        (after s [x, a]))) ∧
    (2 ^ 21 ≤ v.toNat → exec (.st x a cls size ofs) s = .next (s.stemTrap .stem .scratchRange v)) ∧
    (v.toNat < 2 ^ 21 → v.toNat % n ≠ 0 → exec (.st x a cls size ofs) s = .next (s.stemTrap .stem .misaligned v)) ∧
    (v.toNat < 2 ^ 21 → v.toNat % n = 0 → ¬slotsAllow s v.toNat n →
      exec (.st x a cls size ofs) s = .next (s.stemTrap .stem .shapeStale v))

/-- R104, R112 and R327: a store on its way performs at the bank once no earlier one of its class or over its bytes, no
FENCE and no remote atomic fenced before it holds it back; its bytes then stand in the scratchpad, every other byte of
every memory reads as before, and the stores still on their way keep their order. -/
def Sys2Proof.Claims.StemPerform : Prop :=
  ∀ (s : State) (c : CoreId) (l l' : List StEntry) (cls : BitVec 4) (a : Nat) (bs : List Byte) (r : Nat),
    let k := s.core c
    k.stem.stq = l ++ .store cls a bs r :: l' → (∀ e ∈ l, e.covers a bs.length = false) →
    ¬(∃ l₁ c' a' bs' r' l₂, l = l₁ ++ .store c' a' bs' r' :: l₂ ∧
      (c' = cls ∨ ∃ m, .fence m ∈ l₂ ∧ m.getLsbD c'.toNat = true ∧ m.getLsbD cls.toNat = true)) →
    (∀ q ∈ k.stem.ratoms, q.phase.performed = true ∨ r ≤ q.id) → wordPart k.eccHard a bs.length = false →
    ∃ t, takeTurn (.perform c l.length) s = .next t ∧
      (∀ i (_ : i < bs.length), memGet (t.core c).scratch (a + i) = bs[i]) ∧
      (∀ b, b < a ∨ a + bs.length ≤ b → memGet (t.core c).scratch b = memGet k.scratch b) ∧
      (∀ d, d ≠ c → (t.core d).scratch = (s.core d).scratch) ∧ t.mem = s.mem ∧ t.hostMem = s.hostMem ∧
      (t.core c).stem.x = k.stem.x ∧ (t.core c).stem.pc = k.stem.pc ∧
      (t.core c).stem.stq = (l ++ l').dropWhile StEntry.isFence

/-- R102-R104, R112, R324, R327: loads and stores of the stem. -/
def Obligations.StemMemory : Prop :=
  Sys2Proof.Claims.StemLoads ∧ Sys2Proof.Claims.StemStore ∧ Sys2Proof.Claims.StemPerform

/-- R107: an AMO writes the value of Table 03-4, a CAS its new value when the old one equals the destination; the
destination takes the old value, sign-extended; each waits for the stem's earlier stores. An unaligned address raises
ATOMIC_MISALIGNED. -/
def Obligations.StemAtomics : Prop :=
  ∀ (s : State) (d : Reg) (a b : Src) (ty : Ty) (w : Nat), intWidth ty = some w →
    s.regsFree (srcRegs a ++ srcRegs b ++ [d]) [d] →
    let k := s.core s.cur
    let v := (k.src a).toNat
    let old := stands s v (w / 8)
    let x := (k.setX d ((BitVec.ofNat w old).signExtend 64)).stem.x
    let stored (r : BitVec w) (t : State) : Prop := Stored s t v (leBytes (w / 8) r.toNat) x (after s [a, b])
    (v < 2 ^ 21 → v % (w / 8) = 0 → k.stem.stq = [] → k.hardAt v (w / 8) = false → slotsAllow s v (w / 8) →
      k.banksFree v (w / 8) = true → s.plain (after s [a, b]) →
      (∀ p ∈ amoOps, ∃ t, exec (p.1 d a b ty) s = .next t ∧
        stored (p.2 w (BitVec.ofNat w old) ((k.src b).setWidth w)) t) ∧
      (BitVec.ofNat w old = (k.getX d).setWidth w → ∃ t, exec (.cas d a b ty) s = .next t ∧
        stored ((k.src b).setWidth w) t) ∧
      (BitVec.ofNat w old ≠ (k.getX d).setWidth w → ∃ t, exec (.cas d a b ty) s = .next t ∧
        stored (BitVec.ofNat w old) t)) ∧
    (v < 2 ^ 21 → v % (w / 8) = 0 → k.stem.stq ≠ [] →
      (∀ p ∈ amoOps, exec (p.1 d a b ty) s = waits s) ∧ exec (.cas d a b ty) s = waits s) ∧
    (v < 2 ^ 21 → v % (w / 8) ≠ 0 →
      (∀ p ∈ amoOps, exec (p.1 d a b ty) s = .next (s.stemTrap .stem .atomicMisaligned (k.src a))) ∧
      exec (.cas d a b ty) s = .next (s.stemTrap .stem .atomicMisaligned (k.src a))) ∧
    (2 ^ 21 ≤ v →
      (∀ p ∈ amoOps, exec (p.1 d a b ty) s = .next (s.stemTrap .stem .scratchRange (k.src a))) ∧
      exec (.cas d a b ty) s = .next (s.stemTrap .stem .scratchRange (k.src a)))

/-- R110 and R330: SEMWAIT takes its count from the semaphore once it is large enough, and waits until then; SEMPOST adds
its count once every earlier access of the stem has performed, or raises SEM_OVERFLOW and leaves the semaphore. -/
def Obligations.StemSemaphores : Prop :=
  ∀ (s : State) (a b : Src) (sc : Scope), s.regsFree (srcRegs a ++ srcRegs b) [] →
    let k := s.core s.cur
    let v := (k.src a).toNat
    let n := (k.src b).toNat % 2 ^ 32
    let stored (c : Nat) (t : State) : Prop := Stored s t v (leBytes 4 c) k.stem.x (after s [a, b])
    (v < 2 ^ 21 → v % 4 = 0 → k.hardAt v 4 = false → k.stem.stq = [] → s.plain (after s [a, b]) →
      (n = 0 ∨ k.banksFree v 4 = true →
        (n ≤ stands s v 4 → ∃ t, exec (.semwait a b sc) s = .next t ∧ stored (stands s v 4 - n) t) ∧
        (stands s v 4 < n → exec (.semwait a b sc) s = .next (s.setCore s.cur (k.noteSoft v 4)).keepWaiting)) ∧
      (k.banksFree v 4 = true → (∀ r ∈ k.stem.ratoms, r.phase.performed = true) →
        (stands s v 4 + n < 2 ^ 32 → ∃ t, exec (.sempost a b sc) s = .next t ∧ stored (stands s v 4 + n) t) ∧
        (2 ^ 32 ≤ stands s v 4 + n → exec (.sempost a b sc) s = .next (s.stemTrap .stem .semOverflow 0)))) ∧
    (v < 2 ^ 21 → v % 4 = 0 →
      (k.stem.stq ≠ [] → exec (.semwait a b sc) s = waits s ∧ exec (.sempost a b sc) s = waits s) ∧
      ((∃ r ∈ k.stem.ratoms, r.phase.performed = false) → exec (.sempost a b sc) s = waits s)) ∧
    (v < 2 ^ 21 → v % 4 ≠ 0 → exec (.semwait a b sc) s = .next (s.stemTrap .stem .semRange (k.src a)) ∧
      exec (.sempost a b sc) s = .next (s.stemTrap .stem .semRange (k.src a))) ∧
    (2 ^ 21 ≤ v → exec (.semwait a b sc) s = .next (s.stemTrap .stem .scratchRange (k.src a)) ∧
      exec (.sempost a b sc) s = .next (s.stemTrap .stem .scratchRange (k.src a)))

/-! ### The stem: waits, requests, probes, slots, system registers (R111-R131) -/

namespace Sys2Proof.Claims

/-- The completion of an instruction that leaves the current core k and goes on after it and these sources. -/
def leaves (s : State) (k : Core) (l : List Src) : Host.Outcome State Fault Refusal := .next (s.stemDone k (after s l))

/-- The current core's stem traps at its instruction. -/
def traps (s : State) (c : Cause) (v : Word) : Host.Outcome State Fault Refusal := .next (s.stemTrap .stem c v)

/-- An arrival at a barrier with its mark of release. -/
def freed (num : BitVec 2) (sc : Scope) (b : BarArrival) : Bool := b.num == num && b.scope == sc && b.released

/-- The token of R115. -/
def tokenOf (s : State) (d n : Nat) (a b : Word) : Token where
  ent := a.setWidth 16
  trip := a.toNat / 2 ^ 16 % 2 ^ 16
  rows := b.setWidth 32
  tail := b.toNat / 2 ^ 32 % 2 ^ 9
  grant := (b >>> 44).setWidth 4
  scal := (List.range n).map fun i => ((s.core s.cur).getX ⟨(d + i) % 31, by omega⟩).setWidth 32
  slots := (s.core s.cur).slots
  cycle := s.cycles.get (dieOf s.cur)

/-- The fields of TOKEN's operands that must be zero (R115). -/
def tokenFieldsZero (a b : Word) : Prop :=
  a.toNat / 2 ^ 32 = 0 ∧ a.toNat % 4 = 0 ∧ b.toNat / 2 ^ 41 % 8 = 0 ∧ b.toNat / 2 ^ 48 = 0

/-- A post of the current core (R119): a box with its descriptor, or a runner program with its entry and argument. -/
def postOf (s : State) (hi isBox : Bool) (desc : BitVec 1024) (entry arg : Word) : Post where
  num := (s.core s.cur).postNum
  hi := hi
  isBox := isBox
  desc := desc
  entry := entry
  arg := arg
  ctx := (s.core s.cur).stem.ctxid
  sup := (s.core s.cur).stem.status.getLsbD 0
  vf := ((s.core s.cur).grain.map (·.vf)).getD 0
  grain := (s.core s.cur).grain.map fun g => (g.nest, g.num)
  marks := (s.core s.cur).marks

/-- A core with one more post. -/
def posted (k : Core) (p : Post) : Core := { k with posts := k.posts ++ [p], postNum := k.postNum + 1 }

/-- The remote atomics with the codes of Table 03-4 and .cas (R121). -/
def ratomOps : List (Ctor3 × Nat) :=
  [(.ratomAdd, 0), (.ratomAnd, 1), (.ratomOr, 2), (.ratomXor, 3), (.ratomMin, 4), (.ratomMax, 5), (.ratomMinu, 6),
   (.ratomMaxu, 7), (.ratomSwap, 8), (.ratomCas, 9)]

/-- The remote atomic that the current core sends. -/
def ratomSent (s : State) (op : Nat) (d : Reg) (a b : Src) (wide : Bool) : Ratom where
  id := (s.core s.cur).stem.ratomNext
  op := op
  wide := wide
  va := (s.core s.cur).src a
  b := (s.core s.cur).src b
  c := (s.core s.cur).getX d
  tag := s.coreTag s.cur
  d := d
  phase := .travelling
  target := none
  susp := none
  old := 0
  fence := (s.core s.cur).stem.ratomFence.get 0

/-- Every earlier store and remote atomic of the stem has performed: what a release waits for (R330). -/
def performed (k : Core) : Prop := k.stem.stq = [] ∧ ∀ r ∈ k.stem.ratoms, r.phase.performed = true

/-- A core after a FENCE of a mask (R112): its marker in the stream of posts; behind the stores on their way, of scope
.c none; and, with class 0 in the mask, the remote atomics issued so far before later accesses of the mask's classes. -/
def fenced (k : Core) (mask : BitVec 16) (sc : Scope) : Core :=
  { k with
    marks := (mask, k.postNum) :: k.marks.filter fun m => m.1 != mask
    stem := { k.stem with
      stq := if sc = .core ∨ k.stem.stq = [] then k.stem.stq else k.stem.stq ++ [.fence mask]
      ratomFence := if mask.getLsbD 0 then
          Vector.ofFn fun i => if mask.getLsbD i.val then k.stem.ratomNext else k.stem.ratomFence.get i
        else k.stem.ratomFence } }

/-- The stem's system registers with their values (Table 01-11). -/
def sysValues (s : State) : List (BitVec 12 × Word) :=
  let k := (s.core s.cur).stem
  [(0, k.status), (1, k.trapcause), (2, k.trappc), (3, k.trapval), (4, k.trapvec), (5, k.trapscr), (6, k.vfault),
   (7, BitVec.ofNat 64 k.ctxid.toNat), (8, BitVec.ofNat 64 (s.cur.val + 65536 * s.pkg.physCore s.cur)),
   (9, BitVec.ofNat 64 (s.cycles.get (dieOf s.cur))), (10, k.seed), (11, k.pwindow),
   (16, k.gfmt[0]), (17, k.gfmt[1]), (18, k.gfmt[2]), (19, k.gfmt[3]), (24, k.fmt[0]), (25, k.fmt[1]), (26, k.fmt[2]),
   (27, k.fmt[3]), (28, k.fmt[4]), (29, k.fmt[5]), (30, k.fmt[6]), (31, k.fmt[7])]

/-- The supervisor bit of the current core. -/
def supervisor (s : State) : Bool := (s.core s.cur).stem.status.getLsbD 0

/-- The base address of a probe slot (R123). -/
def slotBase (k : Core) (i : Nat) : Nat := 2048 * (k.stem.pwindow.toNat / 2 ^ 11 % 2 ^ 10) + 2048 * i

/-- A probe slot holds the block of an address for the core's context (R123). -/
def holds (k : Core) (a : Word) (i : Fin 256) : Prop :=
  (k.probes.get i).state ≠ .invalid ∧ (k.probes.get i).tag.toNat = a.toNat / 2048 ∧ (k.probes.get i).ctx = k.stem.ctxid

/-- No slot before i holds it: i is the first. -/
def holdsFirst (k : Core) (a : Word) (i : Fin 256) : Prop := holds k a i ∧ ∀ j, j < i → ¬holds k a j

end Sys2Proof.Claims

/-- R112-R114, R117, R118, R131, R216: the stem's waits and the instructions with no operands. A TWAIT, VSYNC, MSYNC or
BAR completes as soon as what it waits for is there, and waits until then. -/
def Sys2Proof.Claims.StemWaits : Prop :=
  ∀ (s : State), s.plain (after s []) →
    let k := s.core s.cur
    (s.regsFree [] [] →
      exec .nop s = goesTo s (after s []) ∧
      exec .ifence s = leaves s { k with stem := { k.stem with stale := [] } } [] ∧
      (∀ t : Fin 4, exec (.twait t) s = if k.full.get t then goesTo s (after s []) else waits s) ∧
      exec .vsync s = (if k.vecIdle then
        .next ((s.passTo (dieOf s.cur) k.vec.lastWrite).stemDone k (after s [])) else waits s) ∧
      (k.mat.pwait = none → k.mat.psig = none →
        exec .msync s = if k.matIdle then goesTo s (after s []) else waits s) ∧
      (k.mat.pwait ≠ none ∨ k.mat.psig ≠ none → exec .msync s = .next (s.stemTrap .matrix .mcmdInvalid 0)) ∧
      (s.coreWanted s.cur = false → exec .yield s = goesTo s (after s [])) ∧
      (s.coreWanted s.cur = true → exec .yield s =
        .next ((s.stemDone k (after s [])).requestStop none ((s.stemDone k (after s [])).together s.cur)))) ∧
    ∀ d, s.regsFree [] [d] → exec (.rdcyc d) s = setsX s d (BitVec.ofNat 64 (s.cycles.get (dieOf s.cur))) (after s [])

/-- R112 and R114: FENCE orders the stem's stores, its remote atomics and its posts; BAR.c completes once the stem's
earlier accesses have performed; a wider BAR then records the arrival and completes once every participant has arrived,
which frees the others, and outside a co-resident nest it raises LAUNCH_INVALID. -/
def Sys2Proof.Claims.StemFenceBar : Prop :=
  ∀ (s : State) (a : Src) (sc : Scope), s.regsFree (srcRegs a) [] → s.plain (after s [a]) →
    let k := s.core s.cur
    let mask : BitVec 16 := (k.src a).setWidth 16
    let num : BitVec 2 := (k.src a).setWidth 2
    let s1 := s.setCore s.cur (k.arrive num sc)
    let l := s1.barCores s.cur sc
    exec (.fence a sc) s = leaves s (if mask = 0 then k else fenced k mask sc) [a] ∧
    (sc = .core → (performed k → exec (.bar a sc) s = goesTo s (after s [a])) ∧
      (¬performed k → exec (.bar a sc) s = waits s)) ∧
    (sc ≠ .core → (s.nestOf s.cur).any Nest.coresident = false → exec (.bar a sc) s = traps s .launchInvalid 0) ∧
    (sc ≠ .core → (s.nestOf s.cur).any Nest.coresident = true →
      (k.stem.bars.any (freed num sc) = true →
        exec (.bar a sc) s = leaves s (k.setStem { k.stem with
          bars := k.stem.bars.filter fun b => !(b.num == num && b.scope == sc) }) [a]) ∧
      (k.stem.bars.any (freed num sc) = false → ¬performed k → exec (.bar a sc) s = waits s) ∧
      (k.stem.bars.any (freed num sc) = false → performed k → (∃ c ∈ l, (s1.core c).stem.arrived num sc = false) →
        exec (.bar a sc) s = .next s1.keepWaiting) ∧
      (k.stem.bars.any (freed num sc) = false → performed k → (∀ c ∈ l, (s1.core c).stem.arrived num sc = true) →
        ∃ t, exec (.bar a sc) s = .next t ∧ (t.core s.cur).stem.pc = (k.goto (after s [a])).stem.pc ∧
          (t.core s.cur).stem.arrived num sc = false ∧
          ∀ c ∈ l, c ≠ s.cur → (t.core c).stem.bars.any (freed num sc) = true))

/-- R112-R114, R117, R118, R131, R216: waits, fences and barriers. -/
def Obligations.StemWaiting : Prop :=
  Sys2Proof.Claims.StemWaits ∧ Sys2Proof.Claims.StemFenceBar

/-- R111: WAITA sends its request and waits; once the home has replied, the destination takes the word as read there,
sign-extended. Another TYPE raises FORMAT_INVALID and an unaligned address ATOMIC_MISALIGNED. -/
def Obligations.StemWaita : Prop :=
  ∀ (s : State) (d : Reg) (a b : Src) (ty : Ty) (sc : Scope), s.regsFree (srcRegs a ++ srcRegs b ++ [d]) [d] →
    let k := s.core s.cur
    let n := if ty = .i64 then 8 else 4
    (ty ≠ .i32 → ty ≠ .i64 → exec (.waita d a b ty sc) s = traps s .formatInvalid k.firstWord) ∧
    (ty = .i32 ∨ ty = .i64 →
      ((k.src a).toNat % n ≠ 0 → exec (.waita d a b ty sc) s = traps s .atomicMisaligned (k.src a)) ∧
      ((k.src a).toNat % n = 0 →
        (k.stem.waita = none → exec (.waita d a b ty sc) s = .next (s.setCore s.cur (k.setStem { k.stem with
          waita := some ⟨ty = .i64, k.src a, BitVec.ofNat 64 ((k.getX d).toNat % 2 ^ (8 * n)), (k.src b).setWidth 32,
            k.stem.ctxid, BitVec.ofNat 64 (s.cycles.get (dieOf s.cur)), .travelling, none, none, 0⟩ })).keepWaiting) ∧
        (∀ q, k.stem.waita = some q → q.phase ≠ .replied → exec (.waita d a b ty sc) s = waits s) ∧
        (∀ q, k.stem.waita = some q → q.phase = .replied → s.plain (after s [a, b]) →
          exec (.waita d a b ty sc) s =
            setsX s d ((BitVec.ofNat (8 * n) q.seen.toNat).signExtend 64) (after s [a, b]))))

/-- R115: TOKEN appends its token to the control queue; a field that must be zero raises TOKEN_FORMAT, the grant of a
tile that is not FULL TILE_PROTOCOL, and a full queue or a store on its way makes it wait. -/
def Obligations.StemToken : Prop :=
  ∀ (s : State) (d : Fin 32) (n : Fin 5) (a b : Src), d.val + n.val ≤ 31 →
    let regs := (List.range n.val).map fun i => (⟨(d.val + i) % 31, by omega⟩ : Reg)
    s.regsFree (srcRegs a ++ srcRegs b ++ regs) [] →
    let k := s.core s.cur
    let t := tokenOf s d.val n.val (k.src a) (k.src b)
    (¬tokenFieldsZero (k.src a) (k.src b) → exec (.token d n a b) s = traps s .tokenFormat 0) ∧
    (tokenFieldsZero (k.src a) (k.src b) →
      ((∃ i : Fin 4, t.grant.getLsbD i.val = true ∧ k.full.get i = false) →
        exec (.token d n a b) s = traps s .tileProtocol 0) ∧
      ((∀ i : Fin 4, t.grant.getLsbD i.val = true → k.full.get i = true) →
        (k.stem.stq ≠ [] ∨ 64 ≤ k.vec.queue.length → exec (.token d n a b) s = waits s) ∧
        (k.stem.stq = [] → k.vec.queue.length < 64 → s.plain (after s [a, b]) → exec (.token d n a b) s =
          leaves s { k with vec := { k.vec with queue := k.vec.queue ++ [t] } } [a, b])))

/-- R119 and R120: XFER posts the descriptor at its address, RCALL a start with its entry and argument; with 32 posts
standing, or a store on its way, both wait. -/
def Obligations.StemPosts : Prop :=
  ∀ (s : State) (a b : Src) (hi : Bool),
    let k := s.core s.cur
    let v := (k.src a).toNat
    (s.regsFree (srcRegs a) [] →
      (v < 2 ^ 21 → v % 128 = 0 → k.stem.stq = [] → k.hardAt v 128 = false →
        (k.posts.length < 32 → s.plain (after s [a]) → exec (.xfer a hi) s =
          leaves s (posted (k.noteSoft v 128) (postOf s hi true (BitVec.ofNat 1024 (stands s v 128)) 0 0)) [a]) ∧
        (32 ≤ k.posts.length → exec (.xfer a hi) s = waits s)) ∧
      (v < 2 ^ 21 → v % 128 = 0 → k.stem.stq ≠ [] → exec (.xfer a hi) s = waits s) ∧
      (v < 2 ^ 21 → v % 128 ≠ 0 → exec (.xfer a hi) s = traps s .misaligned (k.src a)) ∧
      (2 ^ 21 ≤ v → exec (.xfer a hi) s = traps s .scratchRange (k.src a))) ∧
    (s.regsFree (srcRegs a ++ srcRegs b) [] →
      (v % 4 ≠ 0 → exec (.rcall a b hi) s = traps s .imemRange (k.src a)) ∧
      (v % 4 = 0 → k.stem.stq = [] → k.posts.length < 32 → s.plain (after s [a, b]) →
        exec (.rcall a b hi) s = leaves s (posted k (postOf s hi false 0 (k.src a) (k.src b))) [a, b]) ∧
      (v % 4 = 0 → k.stem.stq ≠ [] ∨ 32 ≤ k.posts.length → exec (.rcall a b hi) s = waits s))

/-- R121, R395: RATOM joins the outstanding remote atomics and its request leaves on the module toward the lower
runner die; with eight outstanding, or a store on its way, it waits. A TYPE that is no 32- or 64-bit integer raises
FORMAT_INVALID, an unaligned address ATOMIC_MISALIGNED. -/
def Obligations.StemRatom : Prop :=
  ∀ (s : State) (d : Reg) (a b : Src) (ty : Ty), s.regsFree (srcRegs a ++ srcRegs b ++ [d]) [d] →
    let k := s.core s.cur
    let n := if ty = .i64 then 8 else 4
    let link := crownLink (dieOf s.cur) (s.pkg.moduleOf s.cur)
    ∀ p ∈ ratomOps,
      let r := ratomSent s p.2 d a b (ty = .i64)
      (ty ≠ .i32 → ty ≠ .i64 → exec (p.1 d a b ty) s = traps s .formatInvalid k.firstWord) ∧
      (ty = .i32 ∨ ty = .i64 →
        ((k.src a).toNat % n ≠ 0 → exec (p.1 d a b ty) s = traps s .atomicMisaligned (k.src a)) ∧
        ((k.src a).toNat % n = 0 → k.stem.stq ≠ [] ∨ 8 ≤ k.stem.ratoms.length → exec (p.1 d a b ty) s = waits s) ∧
        ((k.src a).toNat % n = 0 → k.stem.stq = [] → k.stem.ratoms.length < 8 → (s.pkg.link link true).lanes ≠ 0 →
          s.plain (after s [a, b]) → exec (p.1 d a b ty) s =
            .next ((s.stemDone (k.setStem { k.stem with ratoms := k.stem.ratoms ++ [r], ratomNext := r.id + 1 })
              (after s [a, b])).sendOn link true ⟨s.cur, r.id, false, none⟩)))

/-- R123-R125: PROBE gives the address in the slot that holds the block, or allocates one and posts its fill, and goes
to its miss label unless the block is there; PWAIT waits for a slot, PIN and UNPIN set and clear its pin, and CINV
makes the block's slot, or every slot, invalid. -/
def Sys2Proof.Claims.StemProbeCache : Prop :=
  ∀ (s : State) (a : Src), s.plain (after s [a]) → s.regsFree (srcRegs a) [] →
    let k := s.core s.cur
    let v := k.src a
    let next := after s [a]
    let base := slotBase k 0
    (∀ d imm, s.regsFree (srcRegs a) [d] →
      let miss : Int := k.stem.pc.toNat + 4 * imm.toInt
      let at_ (i : Fin 256) : Word := BitVec.ofNat 64 (slotBase k i.val + v.toNat % 2048)
      (k.stem.pwindow.getLsbD 0 = false → exec (.probe d a imm) s = traps s .probeFull 0) ∧
      (k.stem.pwindow.getLsbD 0 = true → legal miss →
        (∀ i, holdsFirst k v i → (k.probes.get i).state = .valid → exec (.probe d a imm) s = setsX s d (at_ i) next) ∧
        (∀ i, holdsFirst k v i → (k.probes.get i).state = .filling →
          exec (.probe d a imm) s = setsX s d (at_ i) miss.toNat) ∧
        ((∀ i, ¬holds k v i) →
          (∀ i, k.probeVictim = some i → ∃ t, exec (.probe d a imm) s = .next t ∧
            t = (s.stemDone (({ k with
              probes := k.probes.set i.val ⟨v.extractLsb' 11 53, k.stem.ctxid, .filling, false⟩ i.isLt
              victim := i + 1 } : Core).setX d (at_ i)) miss.toNat).modRunner (dieOf s.cur) fun r =>
                { r with fills := r.fills ++ [⟨s.cur, i, v &&& ~~~0x7FF, s.coreTag s.cur, false, none⟩] }) ∧
          (k.probeVictim = none → exec (.probe d a imm) s = traps s .probeFull 0)))) ∧
    (v.toNat < base ∨ base + 0x80000 ≤ v.toNat →
      exec (.pwait a) s = traps s .scratchRange v ∧ exec (.pin a) s = traps s .scratchRange v ∧
      exec (.unpin a) s = traps s .scratchRange v) ∧
    (∀ i : Fin 256, v.toNat < 2 ^ 21 → slotBase k i.val ≤ v.toNat → v.toNat < slotBase k i.val + 2048 →
      let p := k.probes.get i
      exec (.pwait a) s = (if p.state = .valid then goesTo s next else waits s) ∧
      exec (.pin a) s = leaves s { k with probes := k.probes.set i.val { p with pin := true } i.isLt } [a] ∧
      exec (.unpin a) s = leaves s { k with probes := k.probes.set i.val { p with pin := false } i.isLt } [a]) ∧
    ((∀ i, ¬holds k v i) → exec (.cinv a) s = goesTo s next) ∧
    (∀ i, holdsFirst k v i →
      ((k.probes.get i).state = .filling → exec (.cinv a) s = waits s) ∧
      ((k.probes.get i).state = .valid → exec (.cinv a) s = leaves s { k with
        probes := k.probes.set i.val { k.probes.get i with state := .invalid, pin := false } i.isLt } [a])) ∧
    (s.plain (after s []) →
      (k.anyFilling = true → exec .cinvAll s = waits s) ∧
      (k.anyFilling = false → exec .cinvAll s = leaves s { k with
        probes := k.probes.map fun p => { p with state := .invalid, pin := false } } []))

/-- R126: SHLD reads a record that passes the checks into its slot, after the stem's stores, and raises RAGGED_TABLE for
another; SHINV makes a slot invalid. -/
def Sys2Proof.Claims.StemShapeSlots : Prop :=
  ∀ (s : State) (i : Fin 4) (a : Src),
    let k := s.core s.cur
    let v := (k.src a).toNat
    let rec_ := BitVec.ofNat 1024 (stands s v 128)
    (s.regsFree (srcRegs a) [] →
      (v < 2 ^ 21 → v % 128 = 0 → k.stem.stq ≠ [] → exec (.shld i a) s = waits s) ∧
      (v < 2 ^ 21 → v % 128 = 0 → k.stem.stq = [] → k.hardAt v 128 = false →
        ((shapeRec rec_).isSome = true → s.plain (after s [a]) → exec (.shld i a) s =
          leaves s { k.noteSoft v 128 with slots := k.slots.set i.val ⟨rec_, v, true⟩ i.isLt } [a]) ∧
        ((shapeRec rec_).isSome = false → exec (.shld i a) s = traps s .raggedTable 0)) ∧
      (v < 2 ^ 21 → v % 128 ≠ 0 → exec (.shld i a) s = traps s .misaligned (k.src a)) ∧
      (2 ^ 21 ≤ v → exec (.shld i a) s = traps s .scratchRange (k.src a))) ∧
    (s.regsFree [] [] → s.plain (after s []) → exec (.shinv i) s =
      leaves s { k with slots := k.slots.set i.val { k.slots.get i with valid := false } i.isLt } [])

/-- R123-R126: the probe cache and the shape slots. -/
def Obligations.StemSlots : Prop :=
  Sys2Proof.Claims.StemProbeCache ∧ Sys2Proof.Claims.StemShapeSlots

/-- R30 and R130 of SYSRD: each register of Table 01-11 reads its value, those without user access only in supervisor
mode; else PRIV_VIOLATION with the first word in TRAPVAL. -/
def Sys2Proof.Claims.StemSysrd : Prop :=
  ∀ (s : State) (d : Reg), s.regsFree [] [d] → ∀ p ∈ sysValues s,
    (supervisor s = true ∨ p.1.toNat = 0 ∨ 7 ≤ p.1.toNat → s.plain (after s []) →
      exec (.sysrd d p.1) s = setsX s d p.2 (after s [])) ∧
    (supervisor s = false → 1 ≤ p.1.toNat → p.1.toNat ≤ 6 →
      exec (.sysrd d p.1) s = traps s .privViolation (s.core s.cur).firstWord)

/-- R30, R33 and R130 of SYSWR: what each register takes, the registers no mode may write, those a user may not, and the
wait for earlier tokens and matrix commands. -/
def Sys2Proof.Claims.StemSyswr : Prop :=
  ∀ (s : State) (a : Src), s.regsFree (srcRegs a) [] →
    let k := s.core s.cur
    let v := k.src a
    (∀ r : BitVec 12, r = 1 ∨ (6 ≤ r.toNat ∧ r.toNat ≤ 9) ∨ (supervisor s = false ∧ r.toNat ≤ 6) →
      exec (.syswr a r) s = traps s .privViolation k.firstWord) ∧
    (s.plain (after s [a]) → supervisor s = true →
      (statusSstep v = false → exec (.syswr a 0) s = leaves s (k.setStem { k.stem with
        status := (k.stem.status &&& ~~~0xF3) ||| (v &&& 0xF3) }) [a]) ∧
      exec (.syswr a 2) s = leaves s (k.setStem { k.stem with trappc := v }) [a] ∧
      exec (.syswr a 3) s = leaves s (k.setStem { k.stem with trapval := v }) [a] ∧
      exec (.syswr a 4) s = leaves s (k.setStem { k.stem with trapvec := v &&& ~~~3 }) [a] ∧
      exec (.syswr a 5) s = leaves s (k.setStem { k.stem with trapscr := v }) [a]) ∧
    (k.enginesIdle = false → ∀ r : BitVec 12, 10 ≤ r.toNat → exec (.syswr a r) s = waits s) ∧
    (k.enginesIdle = true → s.plain (after s [a]) →
      exec (.syswr a 10) s = leaves s ((k.setStem { k.stem with seed := (v.setWidth 32).setWidth 64 }).setVec
        { k.vec with gens := seedGens (v.setWidth 32) }) [a] ∧
      (k.anyFilling = false →
        (v.getLsbD 0 = true → 2 ^ 21 < 2048 * (v.toNat / 2 ^ 11 % 2 ^ 10) + 2 ^ 19 →
          exec (.syswr a 11) s = traps s .scratchRange (BitVec.ofNat 64 (2048 * (v.toNat / 2 ^ 11 % 2 ^ 10)))) ∧
        (v.getLsbD 0 = false ∨ 2048 * (v.toNat / 2 ^ 11 % 2 ^ 10) + 2 ^ 19 ≤ 2 ^ 21 →
          exec (.syswr a 11) s = leaves s (({ k with
            probes := k.probes.map fun p => { p with state := .invalid, pin := false } } : Core).setStem
              { k.stem with pwindow := v &&& 0x1FF801 }) [a])) ∧
      (∀ i : Fin 4, gfmtOk v = true → exec (.syswr a (BitVec.ofNat 12 (16 + i.val))) s =
        leaves s (k.setStem { k.stem with gfmt := k.stem.gfmt.set i.val v i.isLt }) [a]) ∧
      (∀ i : Fin 8, fmtOk v = true → exec (.syswr a (BitVec.ofNat 12 (24 + i.val))) s =
        leaves s (k.setStem { k.stem with fmt := k.stem.fmt.set i.val v i.isLt }) [a]) ∧
      (∀ i : Fin 4, gfmtOk v = false → exec (.syswr a (BitVec.ofNat 12 (16 + i.val))) s = traps s .formatInvalid 0) ∧
      (∀ i : Fin 8, fmtOk v = false → exec (.syswr a (BitVec.ofNat 12 (24 + i.val))) s = traps s .formatInvalid 0))

/-- R30, R33, R74, R130: the reads and writes of the system registers. -/
def Obligations.StemSystem : Prop :=
  Sys2Proof.Claims.StemSysrd ∧ Sys2Proof.Claims.StemSyswr

/-- R129 and R131: TRAP raises USER_TRAP with its immediate; ERET returns to TRAPPC with SUP as PSUP saved it and
restarts the stopped engines; a TRAPPC that is no jump target raises IMEM_RANGE; in user mode ERET and HALT raise
PRIV_VIOLATION. -/
def Obligations.StemTrapReturn : Prop :=
  ∀ (s : State), s.regsFree [] [] →
    let k := s.core s.cur
    (∀ imm, exec (.trap imm) s = traps s .userTrap (BitVec.ofNat 64 imm.toNat)) ∧
    (supervisor s = false → exec .eret s = traps s .privViolation k.firstWord ∧
      exec .halt s = traps s .privViolation k.firstWord) ∧
    (supervisor s = true → 0xFFFC < k.stem.trappc.toNat ∨ k.stem.trappc.toNat % 4 ≠ 0 →
      exec .eret s = traps s .imemRange k.stem.trappc) ∧
    (supervisor s = true → k.stem.trappc.toNat ≤ 0xFFFC → k.stem.trappc.toNat % 4 = 0 → steps s = false →
      ∃ t, exec .eret s = .next t ∧
        (t.core s.cur).stem.status =
          ((k.stem.status &&& ~~~3) ||| (if k.stem.status.getLsbD 1 then 3 else 0)) ∧
        (t.core s.cur).stem.pc = (k.goto k.stem.trappc.toNat).stem.pc ∧
        (t.core s.cur).vec.taken = false ∧ (t.core s.cur).mat.taken = false ∧
        (t.core s.cur).stem.deferred = false ∧ (t.core s.cur).stem.x = k.stem.x ∧
        (t.core s.cur).scratch = k.scratch ∧ t.mem = s.mem)

/-- R127, R128, R131: LAUNCH adds its record to the die's child pool, or to its spill queue when the pool has no room,
and refuses a record outside its limits, or without a usable context entry, with LAUNCH_INVALID; GRAINEND ends the grain
once the stem's stores have performed, the engines are at rest, no remote atomic is outstanding and every post is
accepted, and HALT ends it without completion; the core is then idle. -/
def Obligations.StemLaunchEnd : Prop :=
  ∀ (s : State),
    let k := s.core s.cur
    (∀ a g, s.regsFree (srcRegs a) [] → s.plain (after s [a]) → k.grain = some g →
      let v := (k.src a).toNat
      let b := BitVec.ofNat 1024 (stands s v 128)
      let prio := if !supervisor s && statusPrio k.stem.status < nestPrio b then statusPrio k.stem.status else nestPrio b
      let die := dieOf s.cur
      let place := s.pkg.spillAt die (s.pkg.spillWr die)
      v < 2 ^ 21 → v % 128 = 0 → k.stem.stq = [] → k.hardAt v 128 = false → k.posts.length < 32 →
      (s.pkg.nestOk b = false ∨ s.pkg.rangeInVf g.vf b = false ∨ s.ctxEntry k.stem.ctxid = none →
        exec (.launch a) s = traps s .launchInvalid 0) ∧
      (s.pkg.nestOk b = true → s.pkg.rangeInVf g.vf b = true → s.ctxEntry k.stem.ctxid ≠ none →
        (s.pkg.poolRoom die g.child = true → exec (.launch a) s =
          .next (((s.stemDone (k.noteSoft v 128) (after s [a]))).addNest fun id =>
            Nest.fresh id b prio k.stem.ctxid g.vf (supervisor s) true (some die) none g.wdog g.saveva)) ∧
        (s.pkg.poolRoom die g.child = false → s.pkg.spillFull die = true → exec (.launch a) s = traps s .childPool 0) ∧
        (s.pkg.poolRoom die g.child = false → s.pkg.spillFull die = false → s.memWriteBad place 256 = false →
          ∃ t, exec (.launch a) s = .next t ∧ t.pkg.spillWr die = s.pkg.spillWr die + 1 ∧
            t.pkg.spillRd die = s.pkg.spillRd die ∧ t.pkg.spillPrio.get die = s.pkg.spillPrio.get die ++ [prio] ∧
            (∀ i < 256, memGet t.mem (place + i) = (spillBytes b g (supervisor s)).getD i 0) ∧
            (∀ i, i < place ∨ place + 256 ≤ i → memGet t.mem i = memGet s.mem i) ∧
            (t.core s.cur).stem.pc = (k.goto (after s [a])).stem.pc))) ∧
    (s.regsFree [] [] →
      (k.mat.pwait = none → k.mat.psig = none → k.stem.stq = [] → k.enginesIdle = true → k.stem.ratoms = [] →
        k.posts = [] → ∃ t, exec .grainend s = .next t ∧ t = s.endGrain s.cur id ∧
          (k.grain ≠ none → (t.core s.cur).grain = none ∧ (t.core s.cur).phase = .idle)) ∧
      (k.mat.pwait = none → k.mat.psig = none →
        k.stem.stq ≠ [] ∨ k.enginesIdle = false ∨ k.stem.ratoms ≠ [] ∨ k.posts ≠ [] → exec .grainend s = waits s) ∧
      (supervisor s = true → k.stem.stq = [] → k.vecIdle = true → k.matIdle = true →
        ∃ t, exec .halt s = .next t ∧ t = (s.endGrain s.cur fun n => { n with halted := true }) ∧
          (k.grain ≠ none → (t.core s.cur).grain = none ∧ (t.core s.cur).phase = .idle)))

/-! ### The matrix commands as the stem issues them (R196-R199, R207, R213, R217) -/

namespace Sys2Proof.Claims

/-- A carrier queued at the current core: it stands last in the queue with both prefixes and the shape slots as they
are, and takes the prefixes with it (R198, R199). -/
def carried (k : Core) (cmd : MCmd) : Core :=
  k.setMat { k.mat with
    queue := k.mat.queue ++ [⟨cmd, k.stem.pc, k.mat.pwait, k.mat.psig, k.slots, ⟨0, 0, 0, 0⟩⟩]
    pwait := none
    psig := none }

/-- The carriers of no operand that is checked. -/
def plainCarriers (k : Core) (m : Fin 2) (t : Fin 4) (a b : Src) : List (Instr × List Src × MCmd) :=
  [(.mclr m, [], .mclr m), (.memit t m false, [], .memit t m false), (.memit t m true, [], .memit t m true),
   (.mtbar a b, [a, b], .mtbar ((k.src a).setWidth 32) ((k.src b).setWidth 32))]

/-- The matrix engine traps at the stem's instruction. -/
def mtraps (s : State) (c : Cause) (v : Word) : Host.Outcome State Fault Refusal := .next (s.stemTrap .matrix c v)

/-- The three operands of MMA and MMAS are addresses on their alignments in a matrix command whose fields are in
range (R199, R207). -/
def mmaOk (sparse : Bool) (k : Core) (c a b : Src) (mods : BitVec 6) : Prop :=
  mmaFields sparse (k.src c) (k.src a) (k.src b) mods = true ∧
  (∀ q ∈ ([(adrA (k.src a), 64), (adrB (k.src a), 64)] ++ (if mPred mods then [(adrP (k.src a), 16)] else []) ++
    (if sparse then [(ctlMeta (k.src c), 16)] else []) : List (Nat × Nat)), q.1 % q.2 = 0) ∧
  groupOf (adrA (k.src a)) ≠ groupOf (adrB (k.src a)) ∧
  (sparse = true → groupOf (ctlMeta (k.src c)) ≠ groupOf (adrA (k.src a))) ∧
  (mRagged mods = true → ∀ i : Fin 4, i.val = ctlSlot (k.src c) → (k.slots.get i).valid = true)

end Sys2Proof.Claims

/-- R198, R217: MWAIT and MSIG fill the pending wait and signal; with one pending they raise MCMD_INVALID, and an
address that is no semaphore's SEM_RANGE. -/
def Sys2Proof.Claims.MatrixPrefixes : Prop :=
  ∀ (s : State) (a b : Src) (sc : Scope), s.regsFree (srcRegs a ++ srcRegs b) [] →
    let k := s.core s.cur
    let v := (k.src a).toNat
    let p : Prefix := ⟨v, (k.src b).setWidth 32, sc⟩
    (v < 2 ^ 21 → v % 4 = 0 → s.plain (after s [a, b]) →
      (k.mat.pwait = none → exec (.mwait a b sc) s = leaves s (k.setMat { k.mat with pwait := some p }) [a, b]) ∧
      (k.mat.psig = none → exec (.msig a b sc) s = leaves s (k.setMat { k.mat with psig := some p }) [a, b])) ∧
    (k.mat.pwait ≠ none → exec (.mwait a b sc) s = mtraps s .mcmdInvalid 0) ∧
    (k.mat.psig ≠ none → exec (.msig a b sc) s = mtraps s .mcmdInvalid 0) ∧
    (2 ^ 21 ≤ v ∨ v % 4 ≠ 0 →
      (k.mat.pwait = none → exec (.mwait a b sc) s = mtraps s .semRange (k.src a)) ∧
      (k.mat.psig = none → exec (.msig a b sc) s = mtraps s .semRange (k.src a)))

/-- R198, R199, R213: the carriers of a tile, a format or no address join the queue with the prefixes; a tile past
0x1F0000 raises SCRATCH_RANGE, one off 512 bytes MISALIGNED, and a format out of range FORMAT_INVALID; with sixteen
entries standing, or a store on its way, a carrier waits. -/
def Sys2Proof.Claims.MatrixCarriers : Prop :=
  ∀ (s : State) (m : Fin 2) (t g : Fin 4) (a b : Src),
    let k := s.core s.cur
    let v := k.src a
    let room := k.stem.stq = [] ∧ k.mat.queue.length + k.mat.kept.length < 16
    let full := k.stem.stq ≠ [] ∨ 16 ≤ k.mat.queue.length
    (∀ q ∈ plainCarriers k m t a b, s.regsFree (q.2.1.flatMap srcRegs) [] →
      (room → s.plain (after s q.2.1) → exec q.1 s = leaves s (carried k q.2.2) q.2.1) ∧
      (full → exec q.1 s = waits s)) ∧
    (s.regsFree (srcRegs a) [] →
      (v.toNat ≤ 0x1F0000 → v.toNat % 512 = 0 →
        (room → s.plain (after s [a]) →
          exec (.mtld m a) s = leaves s (carried k (.mtld m v.toNat)) [a] ∧
          exec (.mtst m a) s = leaves s (carried k (.mtst m v.toNat)) [a]) ∧
        (full → exec (.mtld m a) s = waits s ∧ exec (.mtst m a) s = waits s)) ∧
      (0x1F0000 < v.toNat → exec (.mtld m a) s = mtraps s .scratchRange v ∧
        exec (.mtst m a) s = mtraps s .scratchRange v) ∧
      (v.toNat ≤ 0x1F0000 → v.toNat % 512 ≠ 0 → exec (.mtld m a) s = mtraps s .misaligned v ∧
        exec (.mtst m a) s = mtraps s .misaligned v) ∧
      (gfmtOk v = true → room → s.plain (after s [a]) →
        exec (.mfmt g a) s = leaves s (carried k (.mfmt g v)) [a]) ∧
      (gfmtOk v = false → exec (.mfmt g a) s = mtraps s .formatInvalid 0))

/-- R199, R207: an MMA or MMAS that passes its issue checks joins the queue with CTL, ADDR, SIZE and its modifiers; a
field out of range raises MCMD_INVALID, and operands in one bank group BANKGROUP_CONFLICT. -/
def Sys2Proof.Claims.MatrixMultiply : Prop :=
  ∀ (s : State) (c a b : Src) (mods : BitVec 6) (sparse : Bool),
    s.regsFree (srcRegs c ++ srcRegs a ++ srcRegs b) [] →
    let k := s.core s.cur
    let i : Instr := if sparse then .mmas c a b mods else .mma c a b mods
    (mmaOk sparse k c a b mods →
      (k.stem.stq = [] → k.mat.queue.length + k.mat.kept.length < 16 → s.plain (after s [c, a, b]) →
        exec i s = leaves s (carried k (.mma sparse (k.src c) (k.src a) (k.src b) mods)) [c, a, b]) ∧
      (k.stem.stq ≠ [] ∨ 16 ≤ k.mat.queue.length → exec i s = waits s)) ∧
    (mmaFields sparse (k.src c) (k.src a) (k.src b) mods = false → exec i s = mtraps s .mcmdInvalid 0) ∧
    (mmaFields sparse (k.src c) (k.src a) (k.src b) mods = true → adrA (k.src a) % 64 ≠ 0 →
      exec i s = mtraps s .misaligned (BitVec.ofNat 64 (adrA (k.src a)))) ∧
    (mmaFields sparse (k.src c) (k.src a) (k.src b) mods = true → sparse = false → mPred mods = false →
      adrA (k.src a) % 64 = 0 → adrB (k.src a) % 64 = 0 → groupOf (adrA (k.src a)) = groupOf (adrB (k.src a)) →
      exec i s = mtraps s .bankgroupConflict 0)

/-- R198, R199, R207, R213, R217: the prefixes, the carriers and the multiplies as the stem issues them. -/
def Obligations.MatrixIssue : Prop :=
  Sys2Proof.Claims.MatrixPrefixes ∧ Sys2Proof.Claims.MatrixCarriers ∧ Sys2Proof.Claims.MatrixMultiply

/-! ### Traps, single-stepping and frames of the stem (R32, R89, R129) -/

namespace Sys2Proof.Claims

/-- What an instruction of the current core leaves: of its scratchpad every byte outside st, every other memory (but for
the error log, when a check fails), the registers but those in w, the special registers but what a trap entry writes,
its posts, the stores on their way but for q, the engines, and every other core's registers. -/
structure Kept (s t : State) (w : List Reg) (st : Nat → Prop) (q : Option StEntry) : Prop where
  scratch : ∀ b, ¬st b → memGet (t.core s.cur).scratch b = memGet (s.core s.cur).scratch b
  others : ∀ c, c ≠ s.cur → (t.core c).scratch = (s.core c).scratch ∧ (t.core c).stem.x = (s.core c).stem.x ∧
    (t.core c).stem.status = (s.core c).stem.status ∧ (t.core c).stem.pc = (s.core c).stem.pc ∧
    (t.core c).vec = (s.core c).vec ∧ (t.core c).mat = (s.core c).mat
  stores : ∀ c, (t.core c).imem = (s.core c).imem ∧ (t.core c).seg = (s.core c).seg ∧
    (t.core c).tiles = (s.core c).tiles ∧ (t.core c).moulds = (s.core c).moulds ∧ (t.core c).full = (s.core c).full
  memory : t.hostMem = s.hostMem ∧
    (t.mem = s.mem ∨ (t.core s.cur).stem.trapcause = trapCauseWord .stem .eccUncorrectable)
  regs : ∀ r, r ∉ w → (t.core s.cur).getX r = (s.core s.cur).getX r
  special : (t.core s.cur).stem.trapvec = (s.core s.cur).stem.trapvec ∧
    (t.core s.cur).stem.trapscr = (s.core s.cur).stem.trapscr ∧ (t.core s.cur).stem.vfault = (s.core s.cur).stem.vfault ∧
    (t.core s.cur).stem.ctxid = (s.core s.cur).stem.ctxid ∧ (t.core s.cur).stem.seed = (s.core s.cur).stem.seed ∧
    (t.core s.cur).stem.pwindow = (s.core s.cur).stem.pwindow ∧ (t.core s.cur).stem.gfmt = (s.core s.cur).stem.gfmt ∧
    (t.core s.cur).stem.fmt = (s.core s.cur).stem.fmt ∧ (t.core s.cur).stem.rets = (s.core s.cur).stem.rets ∧
    (t.core s.cur).stem.ratoms = (s.core s.cur).stem.ratoms ∧
    (t.core s.cur).stem.ratomFence = (s.core s.cur).stem.ratomFence
  queues : (t.core s.cur).posts = (s.core s.cur).posts ∧ (t.core s.cur).marks = (s.core s.cur).marks ∧
    ((t.core s.cur).stem.stq = (s.core s.cur).stem.stq ∨
      ∃ e, q = some e ∧ (t.core s.cur).stem.stq = (s.core s.cur).stem.stq ++ [e])
  traps : ((t.core s.cur).stem.status = (s.core s.cur).stem.status ∧
      (t.core s.cur).stem.trapcause = (s.core s.cur).stem.trapcause ∧
      (t.core s.cur).stem.trappc = (s.core s.cur).stem.trappc ∧
      (t.core s.cur).stem.trapval = (s.core s.cur).stem.trapval) ∨
    ((t.core s.cur).stem.status = statusMode (s.core s.cur).stem.status true (supervisor s) ∧
      (t.core s.cur).stem.pc = (s.core s.cur).stem.trapvec.setWidth 16)
  engines : (t.core s.cur).vec = (s.core s.cur).vec ∧ (t.core s.cur).mat = (s.core s.cur).mat ∧
    (t.core s.cur).slots = (s.core s.cur).slots ∧ (t.core s.cur).probes = (s.core s.cur).probes

/-- The numbers of the engines in TRAPCAUSE (Table 01-13). -/
def engineNo : Engine → Nat
  | .stem => 0
  | .vector => 1
  | .matrix => 2

/-- Instructions that write at most the register listed with them, and no other state but the PC, the loop registers
and, on a trap, the trap registers. -/
def registerOnly (d : Reg) (a b : Src) (ty : Ty) (v : LiVal) (o : BitVec 16) (o26 : BitVec 26) (n : Fin 4)
    (r : BitVec 12) : List (Instr × List Reg) :=
  aluCtors.map (fun c => (c d a b ty, [d])) ++ branches.map (fun p => (p.1 a b o, [])) ++
  [(.clz d a ty, [d]), (.popc d a ty, [d]), (.li d v, [d]), (.mvlcRead d n, [d]), (.sysrd d r, [d]), (.rdcyc d, [d]),
   (.nop, []), (.j o26, []), (.jr a, []), (.loop a o, []), (.mvlc n a, []), (.lbrk, [])]

/-- The atomics and semaphores, which write the scratchpad, each with the register it writes, its address and its
number of bytes. -/
def storing (s : State) (d : Reg) (a b : Src) (ty : Ty) (w : Nat) (sc : Scope) : List (Instr × List Reg × Nat × Nat) :=
  let v := ((s.core s.cur).src a).toNat
  amoOps.map (fun p => (p.1 d a b ty, [d], v, w / 8)) ++
  [(.cas d a b ty, [d], v, w / 8), (.semwait a b sc, [], v, 4), (.sempost a b sc, [], v, 4)]

/-- The entry that a store adds to those on their way. -/
def storeSent (s : State) (x a : Src) (cls : BitVec 4) (size : BitVec 2) (ofs : BitVec 10) : StEntry :=
  let k := s.core s.cur
  .store cls (ldAddr s a size ofs).toNat ((List.range (nBytes size)).map fun i => (k.src x).extractLsb' (8 * i) 8)
    (k.stem.ratomFence.get cls.toFin)

end Sys2Proof.Claims

/-- R32: a trap of the stem copies SUP to PSUP, sets SUP, writes TRAPCAUSE with its engine and cause, TRAPPC with the
PC and TRAPVAL, and the PC is TRAPVEC; no general register and no memory changes. VFAULT is kept: the cause is no
vector cause. -/
def Sys2Proof.Claims.StemTrapEntry : Prop :=
  ∀ (s : State) (e : Engine) (c : Cause) (v : Word),
    let k := (s.core s.cur).stem
    let t := s.stemTrap e c v
    let k' := (t.core s.cur).stem
    k'.status = (k.status &&& ~~~3) ||| 1 ||| (if supervisor s then 2 else 0) ∧
    k'.trapcause = BitVec.ofNat 64 (engineNo e * 64 + c.code) ∧ k'.trappc = k.pc.setWidth 64 ∧ k'.trapval = v ∧
    k'.pc = k.trapvec.setWidth 16 ∧ k'.vfault = k.vfault ∧ k'.x = k.x ∧ k'.trapvec = k.trapvec ∧
    (∀ b, (t.core b).scratch = (s.core b).scratch) ∧ t.mem = s.mem ∧ t.hostMem = s.hostMem

/-- R89 and R129: with SSTEP set an instruction completes, and SINGLE_STEP is raised with TRAPPC the next PC (log 12);
one that runs past the end of instruction memory raises IMEM_RANGE at itself. -/
def Sys2Proof.Claims.StemStepping : Prop :=
  ∀ (s : State) (d : Reg) (i : BitVec 16),
    let k := s.core s.cur
    let n := after s []
    (s.regsFree [] [] → n < 0x10000 → steps s = true →
      exec .nop s = .next ((s.stemDone k n).stemTrap .stem .singleStep 0)) ∧
    (s.regsFree [] [d] → n < 0x10000 → steps s = true →
      exec (.li d (.imm i)) s = .next ((s.stemDone (k.setX d (i.signExtend 64)) n).stemTrap .stem .singleStep 0)) ∧
    (s.regsFree [] [] → 0x10000 ≤ n → exec .nop s = .next (s.stemTrap .stem .imemRange 0))

/-- R32, R89 and R129: how a trap is taken, and SINGLE_STEP after an instruction that completes. -/
def Obligations.StemTraps : Prop :=
  Sys2Proof.Claims.StemTrapEntry ∧ Sys2Proof.Claims.StemStepping

/-- The frame of the stem's instructions on registers: whatever they come to, no byte of any memory changes, and no
register but the destination. -/
def Obligations.StemRegisterFrame : Prop :=
  ∀ (s t : State) (d : Reg) (a b : Src) (ty : Ty) (v : LiVal) (o : BitVec 16) (o26 : BitVec 26) (n : Fin 4)
    (r : BitVec 12), ∀ p ∈ registerOnly d a b ty v o o26 n r, exec p.1 s = .next t →
      Kept s t p.2 (fun _ => False) none

/-- The frame of the stem's loads, stores, atomics and semaphores: whatever they come to, only the bytes at the address
of an atomic or a semaphore change, a store is at most one more on its way, and no register but the destination changes.
-/
def Obligations.StemStoreFrame : Prop :=
  ∀ (s t : State) (d : Reg) (x a b : Src) (ty : Ty) (w : Nat) (cls : BitVec 4) (size : BitVec 2) (ofs : BitVec 10)
    (sc : Scope),
    (intWidth ty = some w → ∀ p ∈ storing s d a b ty w sc, exec p.1 s = .next t →
      Kept s t p.2.1 (fun c => p.2.2.1 ≤ c ∧ c < p.2.2.1 + p.2.2.2) none) ∧
    (exec (.st x a cls size ofs) s = .next t → Kept s t [] (fun _ => False) (some (storeSent s x a cls size ofs))) ∧
    (∀ i ∈ [Instr.ld d a cls size ofs, .ldZeroExtending d a cls size ofs], exec i s = .next t →
      Kept s t [d] (fun _ => False) none)

/-! ### The vector engine: element arithmetic (R134-R142, R159-R163) -/

namespace Sys2Proof.Claims

/-- What the instruction at issue of the current core's running token sees. -/
def view (s : State) (r : Run) : VX := (s.core s.cur).issueView r

/-- The vector instruction i of these words at issue: it issues with the effect e, or raises PENDING_READ when the
check of R141 finds an element that it reads in flight. -/
def issues (s : State) (r : Run) (i : Instr) (words : Nat) (e : VEff) : Prop :=
  ((view s r).pendingHit e.reads = false → exec i s = .next ((view s r).issue words e s)) ∧
  ((view s r).pendingHit e.reads = true → exec i s = .next (s.vecFault .pendingRead 0))

/-- The current core's vector engine faults at the instruction at issue. -/
def vfaults (s : State) (i : Instr) (c : Cause) (v : Word) : Prop := exec i s = .next (s.vecFault c v)

abbrev VCtor := Reg → VSrc → VSrc → Fin 8 → Ty → Instr

/-- The floating instructions of two sources with their results (R159). -/
def floatOps : List ((Reg → VSrc → VSrc → Fin 8 → Ty → Round → Instr) × (Round → FVal → FVal → FVal)) :=
  [(.vadd, fAdd), (.vsub, fSub), (.vmul, fun _ => fMul)]

/-- VMIN and VMAX. -/
def minMaxOps : List (VCtor × (FVal → FVal → FVal)) := [(.vmin, fMin), (.vmax, fMax)]

/-- The special functions with their latencies (R160, Table 05-6). -/
def specialOps : List ((Reg → VSrc → Fin 8 → Ty → Instr) × Nat × (Nat → FVal → Nat)) :=
  [(.vexp2, 12, spExp2), (.vlog2, 12, spLog2), (.vrcp, 10, spRcp), (.vrsq, 10, spRsq), (.vtanh, 16, spTanh)]

/-- An exact integer modulo 2^w as a code. -/
def wrapTo (w : Nat) (v : Int) : Nat := (v % (2 : Int) ^ w).toNat

/-- An exact integer clamped to the signed or unsigned range of w bits. -/
def clampTo (u : Bool) (w : Nat) (v : Int) : Int :=
  if u then max 0 (min (2 ^ w - 1) v) else max (-2 ^ (w - 1)) (min (2 ^ (w - 1) - 1) v)

/-- The value of a w-bit code, unsigned or in two's complement. -/
def valueOf (u : Bool) (w c : Nat) : Int := if u then (c % 2 ^ w : Nat) else (BitVec.ofNat w c).toInt

/-- The integer instructions of two sources with their latencies and results on w-bit codes (R161). -/
def intOps : List (VCtor × Nat × (Nat → Nat → Nat → Nat)) :=
  [(fun d a b m t => .viadd d a b m t false false, 2, fun w x y => wrapTo w (valueOf false w x + valueOf false w y)),
   (fun d a b m t => .viadd d a b m t false true, 2,
     fun w x y => wrapTo w (clampTo false w (valueOf false w x + valueOf false w y))),
   (fun d a b m t => .viadd d a b m t true true, 2,
     fun w x y => wrapTo w (clampTo true w (valueOf true w x + valueOf true w y))),
   (fun d a b m t => .visub d a b m t false false, 2, fun w x y => wrapTo w (valueOf false w x - valueOf false w y)),
   (fun d a b m t => .visub d a b m t false true, 2,
     fun w x y => wrapTo w (clampTo false w (valueOf false w x - valueOf false w y))),
   (fun d a b m t => .visub d a b m t true true, 2,
     fun w x y => wrapTo w (clampTo true w (valueOf true w x - valueOf true w y))),
   (fun d a b m t => .vimul d a b m t false false, 4, fun w x y => wrapTo w (valueOf false w x * valueOf false w y)),
   (fun d a b m t => .vimul d a b m t true false, 4,
     fun w x y => wrapTo w (valueOf false w x * valueOf false w y / 2 ^ w)),
   (fun d a b m t => .vimul d a b m t true true, 4,
     fun w x y => wrapTo w (valueOf true w x * valueOf true w y / 2 ^ w)),
   (.vand, 2, fun _ x y => x &&& y), (.vor, 2, fun _ x y => x ||| y), (.vxor, 2, fun _ x y => x ^^^ y),
   (.vshl, 2, fun w x y => x * 2 ^ (y % w) % 2 ^ w), (.vshr, 2, fun w x y => x / 2 ^ (y % w)),
   (.vsra, 2, fun w x y => wrapTo w (valueOf false w x / 2 ^ (y % w))),
   (fun d a b m t => .vimin d a b m t false, 2, fun w x y => if valueOf false w y < valueOf false w x then y else x),
   (fun d a b m t => .vimin d a b m t true, 2, fun w x y => if valueOf true w y < valueOf true w x then y else x),
   (fun d a b m t => .vimax d a b m t false, 2, fun w x y => if valueOf false w x < valueOf false w y then y else x),
   (fun d a b m t => .vimax d a b m t true, 2, fun w x y => if valueOf true w x < valueOf true w y then y else x)]

/-- An integer TYPE of vector elements. -/
def intTy (ty : Ty) : Bool := ty == .i8 || ty == .i16 || ty == .i32

/-- Every typed instruction of this section that needs its TYPE to fit the shape. -/
def typedOps (d : Reg) (a b : VSrc) (m : Fin 8) (ty : Ty) (r : Round) : List Instr :=
  floatOps.map (fun p => p.1 d a b m ty r) ++ minMaxOps.map (fun p => p.1 d a b m ty) ++
  specialOps.map (fun p => p.1 d a m ty) ++ intOps.map (fun p => p.1 d a b m ty) ++
  [.vfma d a b m ty r, .vrnd d a m ty r, .vimad d a b m ty false false, .vsel d a b m ty, .vmov d a m ty]

end Sys2Proof.Claims

/-- R159 and R166: the floating instructions write, at each enabled position, the result of the two sources, or of the
two sources and the destination, rounded once in the mode given, 4 or 5 cycles after the read; .rsr draws for each
position from the generators, which move on. -/
def Sys2Proof.Claims.VectorFloat : Prop :=
  ∀ (s : State) (r : Run) (d : Reg) (a b : VSrc) (m : Fin 8) (ty : Ty) (mode : Round) (n : Nat),
    (s.core s.cur).vec.run = some r → (view s r).need ty = .ok n →
    let x := view s r
    let f := ffOf ty
    let va p := f.decode (x.src a (8 * n) n p)
    let vb p := f.decode (x.src b (8 * n) n p)
    let vd p := f.decode (x.src (.reg d) (8 * n) n p)
    let two := x.rdSrc a (8 * n) n ++ x.rdSrc b (8 * n) n
    let dr := x.draws mode
    (∀ p ∈ floatOps, issues s r (p.1 d a b m ty mode) (vWords [a, b])
      { x.lanes d n 4 m two (fun q => f.encode mode (dr.1 q) (p.2 mode (va q) (vb q))) with vec := dr.2 }) ∧
    issues s r (.vfma d a b m ty mode) (vWords [a, b])
      { x.lanes d n 5 m (two ++ x.rdReg d (8 * n) n)
          (fun q => f.encode mode (dr.1 q) (fFma mode (va q) (vb q) (vd q))) with vec := dr.2 } ∧
    (∀ p ∈ minMaxOps, issues s r (p.1 d a b m ty) (vWords [a, b])
      (x.lanes d n 4 m two fun q => f.encode .rne 0 (p.2 (va q) (vb q)))) ∧
    issues s r (.vrnd d a m ty mode) (vWords [a])
      (x.lanes d n 3 m (x.rdSrc a (8 * n) n) fun q => roundInt f mode (va q))

/-- R160: the special functions evaluate in FP32 and round a 16-bit result once; with the special values of R79. -/
def Sys2Proof.Claims.VectorSpecial : Prop :=
  (∀ (s : State) (r : Run) (d : Reg) (a : VSrc) (m : Fin 8) (ty : Ty) (n : Nat),
    (s.core s.cur).vec.run = some r → (view s r).need ty = .ok n →
    let x := view s r
    ∀ p ∈ specialOps, issues s r (p.1 d a m ty) (vWords [a])
      (x.lanes d n p.2.1 m (x.rdSrc a (8 * n) n) fun q => special ty p.2.2 (x.src a (8 * n) n q))) ∧
  (special .f32 spExp2 0 = 0x3F800000 ∧ special .f32 spExp2 0x7F800000 = 0x7F800000 ∧
    special .f32 spExp2 0xFF800000 = 0 ∧ special .f32 spLog2 0 = 0xFF800000 ∧ special .f32 spLog2 0x3F800000 = 0 ∧
    special .f32 spLog2 0x7F800000 = 0x7F800000 ∧ special .f32 spRcp 0 = 0x7F800000 ∧
    special .f32 spRcp 0x80000000 = 0xFF800000 ∧ special .f32 spRcp 0xFF800000 = 0x80000000 ∧
    special .f32 spRsq 0 = 0x7F800000 ∧ special .f32 spRsq 0x7F800000 = 0 ∧
    special .f32 spTanh 0x7F800000 = 0x3F800000 ∧ special .f32 spTanh 0xFF800000 = 0xBF800000 ∧
    special .f32 spTanh 0x80000000 = 0x80000000)

/-- R159, R160 and R166: the floating instructions and the special functions. -/
def Obligations.VectorFloating : Prop :=
  Sys2Proof.Claims.VectorFloat ∧ Sys2Proof.Claims.VectorSpecial

/-- R161: the integer instructions write, at each enabled position, w bits of the result of Table 04-6 over the integers,
2 or 4 cycles after the read; the modulo forms have the same result signed and unsigned. -/
def Sys2Proof.Claims.VectorInteger : Prop :=
  ∀ (s : State) (r : Run) (d : Reg) (a b : VSrc) (m : Fin 8) (ty : Ty) (n : Nat), intTy ty = true →
    (s.core s.cur).vec.run = some r → (view s r).need ty = .ok n →
    let x := view s r
    let w := 8 * n
    let va p := x.src a w n p
    let vb p := x.src b w n p
    let vd p := x.src (.reg d) w n p
    let two := x.rdSrc a w n ++ x.rdSrc b w n
    (∀ p ∈ intOps, issues s r (p.1 d a b m ty) (vWords [a, b])
      (x.lanes d n p.2.1 m two fun q => p.2.2 w (va q) (vb q))) ∧
    (∀ u sat, issues s r (.vimad d a b m ty u sat) (vWords [a, b])
      (x.lanes d n 4 m (two ++ x.rdReg d w n) fun q =>
        let v := valueOf u w (vd q) + valueOf u w (va q) * valueOf u w (vb q)
        wrapTo w (if sat then clampTo u w v else v))) ∧
    (∀ u, issues s r (.viadd d a b m ty u false) (vWords [a, b])
      (x.lanes d n 2 m two fun q => wrapTo w (valueOf false w (va q) + valueOf false w (vb q)))) ∧
    (∀ u, issues s r (.visub d a b m ty u false) (vWords [a, b])
      (x.lanes d n 2 m two fun q => wrapTo w (valueOf false w (va q) - valueOf false w (vb q)))) ∧
    (∀ u, issues s r (.vimul d a b m ty false u) (vWords [a, b])
      (x.lanes d n 4 m two fun q => wrapTo w (valueOf false w (va q) * valueOf false w (vb q))))

/-- R135, R142: an instruction whose TYPE does not fit the element width of the shape in force raises FORMAT_INVALID. -/
def Sys2Proof.Claims.VectorTypes : Prop :=
  ∀ (s : State) (r : Run) (d : Reg) (a b : VSrc) (m : Fin 8) (ty : Ty) (mode : Round),
    (s.core s.cur).vec.run = some r →
    (∀ ew n, tyEw ty = some (ew, n) → ew ≠ (view s r).ew →
      ∀ i ∈ typedOps d a b m ty mode, vfaults s i .formatInvalid 0) ∧
    (tyEw ty = none → ∀ i ∈ typedOps d a b m ty mode, vfaults s i .formatInvalid 0)

/-- R135, R142 and R161: the integer instructions, and the TYPE that does not fit the shape. -/
def Obligations.VectorIntegers : Prop :=
  Sys2Proof.Claims.VectorInteger ∧ Sys2Proof.Claims.VectorTypes

/-! ### The vector engine: compares, masks, conversions, moves, permutes, checks (R145, R146, R155-R158, R162-R173,
R187-R192) -/

namespace Sys2Proof.Claims

/-- The mask operations with their results on whole masks (R164). -/
def maskOps (a b : Fin 8) : List ((Fin 8 → Instr) × List (Fin 8) × (Mask → Mask → Mask)) :=
  [(fun d => .vmopAnd d a b, [a, b], fun x y => x &&& y), (fun d => .vmopOr d a b, [a, b], fun x y => x ||| y),
   (fun d => .vmopXor d a b, [a, b], fun x y => x ^^^ y), (fun d => .vmopAndn d a b, [a, b], fun x y => x &&& ~~~y),
   (fun d => .vmopNot d a, [a], fun x _ => ~~~x), (fun d => .vmopOnes d, [], fun _ _ => BitVec.allOnes 4096),
   (fun d => .vmopZeros d, [], fun _ _ => 0), (fun d => .vmopCopy d a, [a], fun x _ => x)]

/-- A mask register at the first issue cycle. -/
def maskNow (x : VX) (m : Fin 8) : Mask := (x.v.vmAt m x.s).setWidth 4096

/-- The write of a whole mask, L cycles after the first issue cycle. -/
def maskWrite (x : VX) (d : Fin 8) (lat : Nat) (v : Mask) : VWrite :=
  ⟨x.s + lat, .vm d, lowBits 4096, v.setWidth 32768, none⟩

/-- The condition of VCMP at a position (R162). -/
def compares (c : Fin 8) (ty : Ty) (u : Bool) (w a b : Nat) : Bool :=
  if ty.isInt then condI c (intOf u w a) (intOf u w b) else condF c ((ffOf ty).decode a) ((ffOf ty).decode b)

/-- An instruction that issues for n cycles with these reads and writes, and has no other effect. -/
def cycles (n : Nat) (reads : List VRead) (writes : List VWrite) : VEff := { n := n, reads := reads, writes := writes }

/-- The same for one cycle. -/
def oneCycle (reads : List VRead) (writes : List VWrite) : VEff := cycles 1 reads writes

/-- What an instruction with one issue cycle comes to that sets a scalar register L cycles later. -/
def setsE (x : VX) (reads : List VRead) (d : Fin 8) (lat v : Nat) : VEff :=
  oneCycle reads (x.scalWrite d lat v)

/-- What an instruction with one issue cycle comes to that acts at its issue. -/
def actsOn (reads : List VRead) (f : Vec → Vec) : VEff :=
  { oneCycle reads [] with vec := f }

/-- The fields of the running token that VTOKR reads (R171). -/
def tokenFields (r : Run) : List (Fin 6 × Nat) :=
  [(0, r.iter), (1, r.tok.trip), (2, r.tok.ent.toNat), (3, r.tok.rows.toNat), (4, r.tok.tail), (5, r.grant.toNat)]

/-- VPERM, VXPOSE and VSLIDE with the source position of each position (R188-R190): none gives zero. -/
def moveOps (x : VX) (d a : Reg) (b : VSrc) (e : ESrc) (m : Fin 8) (ty : Ty) :
    List (Instr × Nat × Nat × List VRead × (Nat → Option Nat)) :=
  let k := (x.scal e).toInt
  let row p := p / x.cols
  let col p := p % x.cols
  [(.vperm d a b m ty, vWords [b], 4, idxReads b x.cols, fun p => some (row p * x.cols + x.src b 16 0 (col p) % x.cols)),
   (.vpermRows d a b m ty, vWords [b], 4, idxReads b x.rows,
     fun p => some (x.src b 16 0 (row p) % x.rows * x.cols + col p)),
   (.vslide d a e m ty, eWords [e], 3, rdScal e, fun p =>
     if 0 ≤ (col p : Int) - k ∧ (col p : Int) - k < x.cols then some (row p * x.cols + ((col p : Int) - k).toNat) else none),
   (.vslideRot d a e m ty, eWords [e], 3, rdScal e,
     fun p => some (row p * x.cols + (((col p : Int) - k) % x.cols).toNat)),
   (.vslideFlat d a e m ty, eWords [e], 3, rdScal e, fun p =>
     if 0 ≤ (p : Int) - k ∧ (p : Int) - k < (x.count : Int) then some ((p : Int) - k).toNat else none)]

end Sys2Proof.Claims

/-- R162-R164: VCMP writes every bit of its mask, VSEL every position of vm0, VMOP all 4,096 bits, and VMPOP the number
of set positions below E or the lowest of them. -/
def Sys2Proof.Claims.VectorMasks : Prop :=
  ∀ (s : State) (r : Run), (s.core s.cur).vec.run = some r →
    let x := view s r
    (∀ (d : Fin 8) (a b : VSrc) (m : Fin 8) (ty : Ty) (u : Bool) (c : Fin 8) (n : Nat), x.need ty = .ok n →
      let w := 8 * n
      let on := x.eff m n
      (ty.isInt = true ∧ c.val < 6 ∨ ty.isInt = false ∧ u = false → ∃ e, issues s r (.vcmp d a b m ty u c) (vWords [a, b]) e ∧
        e.n = x.cyc n ∧ e.reads = x.rdSrc a w n ++ x.rdSrc b w n ++ x.rdMask m n ∧ e.vec = id ∧ e.run = id ∧ e.state = id ∧
        (∀ q ∈ e.writes, q.target = .vm d ∧ ∀ p, p < x.count → p < 4096 → q.data.getLsbD p =
          (on.testBit p && compares c ty u w (x.src a w n p) (x.src b w n p))) ∧
        (∀ q ∈ e.writes, ∀ p, x.count ≤ p → q.data.getLsbD p = false) ∧
        ∀ p, p < 4096 → (∃ q ∈ e.writes, q.mask.getLsbD p = true) ∧
          ∀ q ∈ e.writes, q.mask.getLsbD p = true → q.time = x.s + min (p * n / 512) (x.cyc n - 1) + 3) ∧
      (ty.isInt = true ∧ 6 ≤ c.val ∨ ty.isInt = false ∧ u = true →
        vfaults s (.vcmp d a b m ty u c) .formatInvalid 0)) ∧
    (∀ (d : Reg) (a b : VSrc) (m : Fin 8) (ty : Ty) (n : Nat), x.need ty = .ok n →
      let w := 8 * n
      let reads := x.rdSrc a w n ++ x.rdSrc b w n ++ x.rdMask m n
      issues s r (.vsel d a b m ty) (vWords [a, b]) { x.lanes d n 2 0 reads (fun p =>
        if (x.mask m n).testBit p then x.src a w n p else x.src b w n p) with reads := reads }) ∧
    (∀ (d a b : Fin 8), ∀ p ∈ maskOps a b, issues s r (p.1 d) 1
      (oneCycle (p.2.1.map fun m => ⟨.vm m, lowBits 4096, 1, 0⟩)
        [maskWrite x d 1 (p.2.2 (maskNow x a) (maskNow x b))])) ∧
    (∀ (d a : Fin 8),
      let l := (List.range x.count).filter fun p => (x.v.vmAt a x.s).getLsbD p
      let reads : List VRead := [⟨.vm a, lowBits x.count, 1, 0⟩]
      issues s r (.vmpop d a) 1 (setsE x reads d 3 l.length) ∧
      issues s r (.vmpopFirst d a) 1 (setsE x reads d 3 (l.headD 0xFFFFFFFF)))

/-- R165-R169: VCVT converts each enabled element, VQUANT quantises blocks of 128 with a scale byte each, VDEQ scales
them back and VSACC accumulates with the scales of the row and of the column; a conversion too wide for a register
raises VSHAPE_INVALID, an integer entry FORMAT_INVALID. -/
def Sys2Proof.Claims.VectorConversions : Prop :=
  ∀ (s : State) (r : Run) (d a sc : Reg) (m : Fin 8) (ty : Ty) (mode : Round), (s.core s.cur).vec.run = some r →
    let x := view s r
    let dr := x.draws mode
    (∀ (sty : Ty) (su du : Bool), sty ≠ .i64 → ty ≠ .i64 → (su = true → sty.isInt = true) → (du = true → ty.isInt = true) →
      let n := max (sty.bits / 8) (ty.bits / 8)
      (x.count * n ≤ 4096 → issues s r (.vcvt d a sty su m ty du mode) 1
        { cycles (x.cyc n) (x.rdReg a sty.bits n ++ x.rdMask m n)
            (x.sliceWrites (.v d) ty.bits n 4 ((x.enabled m n).map fun p =>
              (p, encodeElt x.fmts ty du 0 mode (dr.1 p) (decodeElt x.fmts sty su (x.src (.reg a) sty.bits n p))))) with
          vec := dr.2 }) ∧
      (4096 < x.count * n → vfaults s (.vcvt d a sty su m ty du mode) .vshapeInvalid 0)) ∧
    (∀ k : Fin 8,
      let f := x.fmts k.val
      (f.kind = 1 → vfaults s (.vquant d a sc m (.fn k) mode) .formatInvalid 0 ∧
        vfaults s (.vdeq d a sc m (.fn k)) .formatInvalid 0) ∧
      (f.kind ≠ 1 → 4096 < x.count * 4 → vfaults s (.vquant d a sc m (.fn k) mode) .vshapeInvalid 0) ∧
      (f.kind ≠ 1 → x.count * 4 ≤ 4096 → ∃ e, issues s r (.vquant d a sc m (.fn k) mode) 1 e ∧
        e.n = x.cyc 4 ∧ e.vec = dr.2 ∧ e.reads = x.rdReg a 32 4 ++ x.rdMask m 4 ∧
        e.writes =
          let blocks := ((List.range ((x.count + 127) / 128)).map fun j =>
            (j, (x.enabled m 4).filter fun p => p / 128 == j)).filter fun b => !b.2.isEmpty
          let val p := ff32.decode (x.src (.reg a) 32 4 p)
          x.wholeWrites (.v d) 8 4 8 (blocks.flatMap fun b => b.2.map fun p =>
            (p, toNarrow f (quantScale f (b.2.map val)).2 mode (dr.1 p) (val p))) ++
          x.wholeWrites (.v sc) 8 4 8 (blocks.map fun b => (b.1, (quantScale f (b.2.map val)).1))) ∧
      (f.kind ≠ 1 → x.ew = 0 → issues s r (.vdeq d a sc m (.fn k)) 1 (x.lanes d 4 4 m
        (x.rdReg a 8 4 ++ [⟨.v sc, lowBits (8 * ((x.count + 127) / 128)), 8, 0⟩]) fun p =>
        let e := x.src (.reg sc) 8 0 (p / 128)
        if e = 0xFF then 0x7FC00000
        else ff32.encode .rne 0 ((decodeNarrow f (x.src (.reg a) 8 4 p)).quiet.scale ((e : Int) - 127))))) ∧
    (x.ew = 0 → issues s r (.vsacc d a sc m) 1 (x.lanes d 4 6 m (x.rdReg a 32 4 ++ x.rdReg d 32 4 ++
        [⟨.v sc, eltBits 8 0 x.rows ||| eltBits 8 32 x.cols, 8, 0⟩]) fun p =>
      let ea := x.src (.reg sc) 8 0 (p / x.cols)
      let eb := x.src (.reg sc) 8 0 (32 + p % x.cols)
      let va := ff32.decode (x.src (.reg a) 32 4 p)
      let vd := ff32.decode (x.src (.reg d) 32 4 p)
      if ea = 0xFF || eb = 0xFF || va.isNan || vd.isNan then 0x7FC00000
      else ff32.encode .rne 0 (vd.add .rne (va.scale ((ea : Int) + eb - 254)))))

/-- R162-R169: comparisons, selections, mask operations and conversions. -/
def Obligations.VectorConverting : Prop :=
  Sys2Proof.Claims.VectorMasks ∧ Sys2Proof.Claims.VectorConversions

/-- R145-R147: VSHAPE, VASET and VAADD write the shape, a pointer, a window's start or length, with the range and the
alignment of each; their reading forms set a scalar. -/
def Sys2Proof.Claims.VectorPointers : Prop :=
  ∀ (s : State) (r : Run) (n d k : Fin 8) (a : ESrc), (s.core s.cur).vec.run = some r →
    let x := view s r
    let v := (x.scal a).toNat
    (v < 2 ^ 16 ∧ shapeOk (x.scal a) = true →
      issues s r (.vshape a) (eWords [a]) (actsOn (rdScal a) fun q => { q with shape := x.scal a }.setMask0 r.tok)) ∧
    (2 ^ 16 ≤ v ∨ shapeOk (x.scal a) = false → vfaults s (.vshape a) .vshapeInvalid 0) ∧
    issues s r (.vshapeRd d) 1 (setsE x [] d 1 x.v.shape.toNat) ∧
    issues s r (.vasetRd d k) 1 (setsE x [] d 1 (x.v.a.get k).toNat) ∧
    (v < 2 ^ 21 → issues s r (.vaset n a) (eWords [a])
      (actsOn (rdScal a) fun q => { q with a := q.a.set n.val (BitVec.ofNat 21 v) n.isLt })) ∧
    (v < 2 ^ 21 → v % 4 = 0 → issues s r (.vasetWst n a) (eWords [a])
      (actsOn (rdScal a) fun q => { q with wst := q.wst.set n.val (BitVec.ofNat 21 v) n.isLt })) ∧
    (v ≤ 2 ^ 21 → v % 4 = 0 → issues s r (.vasetWlen n a) (eWords [a])
      (actsOn (rdScal a) fun q => { q with wlen := q.wlen.set n.val (BitVec.ofNat 22 v) n.isLt })) ∧
    (2 ^ 21 ≤ v → vfaults s (.vaset n a) .scratchRange (BitVec.ofNat 64 v) ∧
      vfaults s (.vasetWst n a) .scratchRange (BitVec.ofNat 64 v)) ∧
    (2 ^ 21 < v → vfaults s (.vasetWlen n a) .scratchRange (BitVec.ofNat 64 v)) ∧
    (v < 2 ^ 21 → v % 4 ≠ 0 → vfaults s (.vasetWst n a) .misaligned (BitVec.ofNat 64 v) ∧
      vfaults s (.vasetWlen n a) .misaligned (BitVec.ofNat 64 v)) ∧
    (let p := (x.v.a.get n).toNat
     let st := (x.v.wst.get n).toNat
     let ln := (x.v.wlen.get n).toNat
     let o := (x.scal a).toInt
     (ln = 0 → 0 ≤ p + o → p + o < 2 ^ 21 → issues s r (.vaadd n a) (eWords [a])
       (actsOn (rdScal a) fun q => { q with a := q.a.set n.val (BitVec.ofNat 21 (p + o).toNat) n.isLt })) ∧
     (ln = 0 → p + o < 0 ∨ 2 ^ 21 ≤ p + o → vfaults s (.vaadd n a) .scratchRange (BitVec.ofInt 64 (p + o))) ∧
     (ln ≠ 0 → st + ln ≤ 2 ^ 21 → st ≤ p → p < st + ln → issues s r (.vaadd n a) (eWords [a])
       (actsOn (rdScal a) fun q =>
         { q with a := q.a.set n.val (BitVec.ofNat 21 (st + ((p - st : Int) + o) % ln).toNat) n.isLt })) ∧
     (ln ≠ 0 → 2 ^ 21 < st + ln ∨ p < st ∨ st + ln ≤ p →
       vfaults s (.vaadd n a) .scratchRange (BitVec.ofInt 64 (p + o))))

/-- R155-R158: VTRD reads a granted FULL tile from its offsets, VTREL gives the tile back, and the moves and broadcasts
write elements, a row or a column to every position. -/
def Sys2Proof.Claims.VectorMoves : Prop :=
  ∀ (s : State) (r : Run) (d a : Reg) (m : Fin 8) (ty : Ty) (n : Nat) (e f : ESrc) (v : VSrc) (k : Fin 8),
    (s.core s.cur).vec.run = some r → (view s r).need ty = .ok n →
    let x := view s r
    let w := 8 * n
    let src (c : VSrc) := x.src c w n
    issues s r (.vmov d v m ty) (vWords [v]) (x.lanes d n 2 m (x.rdSrc v w n) (src v)) ∧
    issues s r (.vmovIns d e f ty) (eWords [e, f]) (oneCycle (rdScal e ++ rdScal f)
      [vwrite (x.s + 2) (.v d) w [((x.scal f).toNat % (4096 / n), (x.scal e).toNat)]]) ∧
    issues s r (.vmovExt k a f ty) (eWords [f])
      (setsE x (rdScal f ++ [⟨.v a, eltBits w ((x.scal f).toNat % (4096 / n)) 1, w, 0⟩]) k 2
        (elt (x.reg a w 0) w ((x.scal f).toNat % (4096 / n)))) ∧
    issues s r (.vsplat d e m ty) (eWords [e]) (x.lanes d n 2 m (rdScal e) fun _ => (x.scal e).toNat % 2 ^ w) ∧
    issues s r (.vsplatRow d a m ty) 1 (x.lanes d n 2 m [⟨.v a, eltBits w 0 x.cols, w, n⟩]
      fun p => src (.reg a) (p % x.cols)) ∧
    issues s r (.vsplatCol d a m ty) 1 (x.lanes d n 2 m
      [⟨.v a, (List.range x.rows).foldl (fun acc q => acc ||| eltBits w (q * x.cols) 1) 0, w, n⟩]
      fun p => src (.reg a) (p / x.cols * x.cols)) ∧
    ∀ t : Fin 4,
      let r0 := (x.scal f).toNat % 128
      let c0 := (x.scal f).toNat / 2 ^ 16 % 128
      let fits := x.scal f &&& ~~~0x7F007F = 0 ∧ r0 + x.rows ≤ 128 ∧ c0 + x.cols ≤ 128
      (¬fits → vfaults s (.vtrd d t f m ty) .vshapeInvalid 0) ∧
      (fits → r.grant.getLsbD t.val = false ∨ (s.core s.cur).full.get t = false →
        vfaults s (.vtrd d t f m ty) .tileProtocol 0) ∧
      (fits → r.grant.getLsbD t.val = true → (s.core s.cur).full.get t = true →
        issues s r (.vtrd d t f m ty) (eWords [f]) (x.lanes d n 6 m (rdScal f) fun p =>
          memNat ((s.core s.cur).tiles.get t) (4 * (128 * (r0 + p / x.cols) + (c0 + p % x.cols))) 4)) ∧
      (r.grant.getLsbD t.val = false → vfaults s (.vtrel t) .tileProtocol 0) ∧
      (r.grant.getLsbD t.val = true → ∃ q, exec (.vtrel t) s = .next q ∧ (q.core s.cur).full =
        (s.core s.cur).full.set t.val false t.isLt ∧ (q.core s.cur).vec.next = x.s + 1 ∧
        (q.core s.cur).vec.run = some { r with pos := r.pos + 1, grant := r.grant &&& ~~~(1#4 <<< t.val) })

/-- R170-R173: VEND ends the iteration, VEOP marks the token's last one when its mask is empty, VTOKR reads a field of
the token, VLIT sets or adjusts a scalar, and VNOP issues alone. -/
def Sys2Proof.Claims.VectorControl : Prop :=
  ∀ (s : State) (r : Run) (d : Fin 8) (a : ESrc), (s.core s.cur).vec.run = some r →
    let x := view s r
    (∃ t, exec .vend s = .next t ∧
      (r.eop = false → r.iter + 1 < r.tok.trip → (t.core s.cur).vec.run = some { r with pos := 0, iter := r.iter + 1 } ∧
        (t.core s.cur).vec.next = x.s + 1) ∧
      (r.eop = true ∨ r.tok.trip ≤ r.iter + 1 → (t.core s.cur).vec.run = none ∧ (t.core s.cur).vec.next = x.s + 2)) ∧
    issues s r .vnop 1 (actsOn [] id) ∧
    (∀ p ∈ tokenFields r, issues s r (.vtokr d p.1) 1 (setsE x [] d 1 p.2)) ∧
    issues s r (.veop d) 1 { oneCycle [⟨.vm d, lowBits x.count, 1, 0⟩] [] with
      run := fun q => if ∃ p, p < x.count ∧ (x.v.vmAt d x.s).getLsbD p = true then q else { q with eop := true } } ∧
    issues s r (.vlit d a) (eWords [a]) (setsE x (rdScal a) d 1 (x.scal a).toNat) ∧
    issues s r (.vlitAdd d a) (eWords [a]) (setsE x (rdScal (.reg d) ++ rdScal a) d 1
      (((x.v.eAt d x.s).toNat + (x.scal a).toNat) % 2 ^ 32)) ∧
    issues s r (.vlitSub d a) (eWords [a]) (setsE x (rdScal (.reg d) ++ rdScal a) d 1
      (((x.v.eAt d x.s).toInt - (x.scal a).toInt) % 2 ^ 32).toNat)

/-- R145-R147, R170-R173: shape, pointers, literals and the end of an iteration. -/
def Obligations.VectorShaping : Prop :=
  Sys2Proof.Claims.VectorPointers ∧ Sys2Proof.Claims.VectorControl

/-- R187-R192: VPERM, VXPOSE, VSLIDE and VHAD write, at each enabled position, an element or a transform of the whole
source; VXPOSE needs a square shape and VHAD columns that its blocks divide. VCHK compares the digest of the register's
first bytes and, in the cycle after it has read them, raises TESTBAR_MISMATCH with the digest computed. -/
def Sys2Proof.Claims.VectorPermutes : Prop :=
  ∀ (s : State) (r : Run) (d a : Reg) (b : VSrc) (e : ESrc) (m : Fin 8) (ty : Ty) (n : Nat),
    (s.core s.cur).vec.run = some r →
    let x := view s r
    let whole (lat : Nat) (reads : List VRead) (f : Nat → Nat) : VEff :=
      cycles (x.cyc n) (x.rdReg a (8 * n) n ++ x.rdMask m n ++ reads)
        (x.wholeWrites (.v d) (8 * n) n lat ((x.enabled m n).map fun p => (p, f p)))
    let src := x.src (.reg a) (8 * n) n
    (x.need ty = .ok n →
      (∀ p ∈ moveOps x d a b e m ty, issues s r p.1 p.2.1 (whole p.2.2.1 p.2.2.2.1 fun q =>
        ((p.2.2.2.2 q).map src).getD 0)) ∧
      (x.rows = x.cols → issues s r (.vxpose d a m ty) 1 (whole 4 [] fun p => src (p % x.cols * x.cols + p / x.cols))) ∧
      (x.rows ≠ x.cols → vfaults s (.vxpose d a m ty) .vshapeInvalid 0) ∧
      (∀ (nrm : Bool) (k : Fin 8), x.cols % 2 ^ k.val ≠ 0 → vfaults s (.vhad d a m ty nrm k) .vshapeInvalid 0) ∧
      ∀ (nrm : Bool) (k : Fin 8), x.cols % 2 ^ k.val = 0 → issues s r (.vhad d a m ty nrm k) 1 (whole 6 [] fun p =>
        hadOut (ffOf ty) (if nrm then -((k.val / 2 : Nat) : Int) else 0) (p % 2 ^ k.val)
          ((List.range (2 ^ k.val)).map fun j => (ffOf ty).decode (src (p / 2 ^ k.val * 2 ^ k.val + j))))) ∧
    (let w := 8 * ewBytes x.ew
     let bytes := (List.range (x.count * ewBytes x.ew)).map fun i => x.reg a w (ewBytes x.ew) / 2 ^ (8 * i) % 256
     let digest := crc32c bytes
     let reads := x.rdReg a w (ewBytes x.ew) ++ rdScal e
     (x.pendingHit reads = false → digest = x.scal e → issues s r (.vchk a e) (eWords [e])
       (cycles (x.cyc (ewBytes x.ew) + 1) reads [])) ∧
     (x.pendingHit reads = false → digest ≠ x.scal e → exec (.vchk a e) s =
       .next (s.vecFault .testbarMismatch (digest.setWidth 64) (x.cyc (ewBytes x.ew)))) ∧
     (x.pendingHit reads = true → vfaults s (.vchk a e) .pendingRead 0) ∧
     ∀ k : Fin 8, issues s r (.vchkRd k a) 1 (cycles (x.cyc (ewBytes x.ew) + 1) (x.rdReg a w (ewBytes x.ew))
       (x.scalWrite k (x.cyc (ewBytes x.ew) + 1) digest.toNat)))

/-- R155-R158, R187-R192: moves, broadcasts, permutations and digests. -/
def Obligations.VectorRearranging : Prop :=
  Sys2Proof.Claims.VectorMoves ∧ Sys2Proof.Claims.VectorPermutes

/-! ### The vector engine: reductions, searches, scans, normalisation, softmax (R176-R186) -/

namespace Sys2Proof.Claims

/-- The groups of the directions .row and .col, each with its result position (R176). -/
def plainGroups (x : VX) : List (Dir × List VGroup) :=
  [(.row, (List.range x.rows).map fun r => ((List.range x.cols).map fun c => r * x.cols + c, r * x.cols)),
   (.col, (List.range x.cols).map fun c => ((List.range x.rows).map fun r => r * x.cols + c, c))]

abbrev GCtor := Reg → Reg → ESrc → Fin 8 → Ty → Dir → Instr

/-- The reductions with their operations on codes of a TYPE and the identity (R180). -/
def redOps (ty : Ty) : List (GCtor × GCtor × (Nat → Nat → Nat) × Nat) :=
  let w := ty.bits
  let f := ffOf ty
  let fl (op : FVal → FVal → FVal) (a b : Nat) := f.encode .rne 0 (op (f.decode a) (f.decode b))
  if ty.isInt then
    [(.vredAdd, .vscanAdd, fun a b => (a + b) % 2 ^ w, 0),
     (.vredMax, .vscanMax, fun a b => if intOf false w a < intOf false w b then b else a, 2 ^ (w - 1)),
     (.vredMin, .vscanMin, fun a b => if intOf false w b < intOf false w a then b else a, 2 ^ (w - 1) - 1)]
  else
    [(.vredAdd, .vscanAdd, fl (fAdd .rne), 0), (.vredMax, .vscanMax, fl fMax, f.encode .rne 0 (.inf true)),
     (.vredMin, .vscanMin, fl fMin, f.encode .rne 0 (.inf false))]

/-- A latency of Table 05-6: two cycles more in a segmented direction. -/
def lat (g : Dir) (n : Nat) : Nat := if g.segmented then n + 2 else n

/-- What a reduction of whole registers of n-byte elements comes to that writes these registers. -/
def grouped (x : VX) (a : Reg) (b : ESrc) (m : Fin 8) (g : Dir) (n l : Nat) (e7 : Bool)
    (writes : List (Reg × List (Nat × Nat))) : VEff :=
  cycles (x.cyc n)
    (x.rdReg a (8 * n) n ++ x.rdMask m n ++ (if g.segmented then rdScal b else []) ++ (if e7 then rdScal (.reg 7) else []))
    (writes.flatMap fun q => x.wholeWrites (.v q.1) (8 * n) n (lat g l) q.2)

/-- VNORM and VSMAX with their latencies, what they give for a group from e7 and its participants' codes, and for VSMAX
in direction .sk a +0 at every other enabled position of the row (R184-R186). -/
def normOps (ty : Ty) : List (GCtor × Nat × (W32 → List Nat → List Nat) × Bool) :=
  [(.vnormMs, 24, normList true ty, false), (.vnormRms, 24, normList false ty, false), (.vsmax, 28, smaxList ty, true)]

/-- The participants of a group (R136, R176). -/
def parts (x : VX) (m : Fin 8) (n : Nat) (q : VGroup) : List Nat := q.1.filter fun p => (x.eff m n).testBit p

/-- What VRED, VSCAN and VRIDX come to over these groups (R179-R182): VRED writes, where vm0 is set, the Tree of each
group's participants, VSCAN the running Tree, and VRIDX the index and the value of the greatest or least. -/
def reduces (s : State) (r : Run) (d a : Reg) (b : ESrc) (m : Fin 8) (ty : Ty) (n : Nat) (g : Dir) (gs : List VGroup) :
    Prop :=
  let x := view s r
  let src := x.src (.reg a) (8 * n) n
  let results := gs.filter fun q => (x.v.vm.get 0).getLsbD q.2
  (∀ p ∈ redOps ty, issues s r (p.1 d a b m ty g) (eWords [b])
    (grouped x a b m g n 8 false [(d, results.map fun q => (q.2, tree p.2.2.1 p.2.2.2 ((parts x m n q).map src)))])) ∧
  (∀ p ∈ redOps ty, issues s r (p.2.1 d a b m ty g) (eWords [b])
    (grouped x a b m g n 10 false [(d, gs.flatMap fun q => (parts x m n q).zip
      ((List.range (parts x m n q).length).map fun i => tree p.2.2.1 0 (((parts x m n q).map src).take (i + 1))))])) ∧
  (n = 4 → ∀ isMax : Bool,
    let found := results.map fun q => (q.2, idxPick isMax ty ((parts x m n q).map fun p => (p, src p)))
    issues s r (if isMax then .vridxMax d a b m ty g else .vridxMin d a b m ty g) (eWords [b])
      (grouped x a b m g n 8 false [
        (d, found.map fun q => (q.1, (q.2.map fun c => idxOf x.cols g (x.scal b) c.1).getD 0xFFFFFFFF)),
        (d + 1, found.map fun q => (q.1, (q.2.map Prod.snd).getD (redIdent (if isMax then .max else .min) ty)))]))

/-- What VNORM and VSMAX come to over these groups (R183-R186): the participants of each rewritten from e7; VSMAX in
direction .sk writes +0 at the enabled positions of the row outside its group. -/
def normalises (s : State) (r : Run) (d a : Reg) (b : ESrc) (m : Fin 8) (ty : Ty) (n : Nat) (g : Dir)
    (gs : List VGroup) : Prop :=
  let x := view s r
  let row (q : VGroup) := (List.range x.cols).map fun c => q.2 + c
  ∀ p ∈ normOps ty, issues s r (p.1 d a b m ty g) (eWords [b])
    (grouped x a b m g n p.2.1 true [(d, gs.flatMap fun q =>
      (parts x m n q).zip (p.2.2.1 (x.v.eAt 7 x.s) ((parts x m n q).map (x.src (.reg a) (8 * n) n))) ++
        if p.2.2.2 && g == .sk then
          ((row q).filter fun c => !q.1.contains c && (x.eff m n).testBit c).map fun c => (c, 0)
        else [])])

end Sys2Proof.Claims

/-- R176-R182: VRED, VSCAN and VRIDX over the rows and the columns, which need no condition but the TYPE; in a segmented
direction over the groups that a record places, or RAGGED_TABLE; VRIDX of other than 4-byte elements raises
FORMAT_INVALID. -/
def Sys2Proof.Claims.VectorGroups : Prop :=
  ∀ (s : State) (r : Run) (d a : Reg) (b : ESrc) (m : Fin 8) (ty : Ty) (g : Dir) (n : Nat),
    (s.core s.cur).vec.run = some r → (view s r).need ty = .ok n →
    let x := view s r
    (∀ p ∈ plainGroups x, x.groups p.1 (x.scal b) = .ok p.2 ∧ reduces s r d a b m ty n p.1 p.2) ∧
    (∀ e, x.groups g (x.scal b) = .error e → ∀ p ∈ redOps ty,
      vfaults s (p.1 d a b m ty g) e.1 e.2 ∧ vfaults s (p.2.1 d a b m ty g) e.1 e.2) ∧
    (∀ gs, x.groups g (x.scal b) = .ok gs → reduces s r d a b m ty n g gs) ∧
    (n ≠ 4 → vfaults s (.vridxMax d a b m ty g) .formatInvalid 0 ∧ vfaults s (.vridxMin d a b m ty g) .formatInvalid 0)

/-- R183-R186: VNORM and VSMAX over the rows and the columns, and over the groups of a segmented direction. -/
def Sys2Proof.Claims.VectorNormalise : Prop :=
  ∀ (s : State) (r : Run) (d a : Reg) (b : ESrc) (m : Fin 8) (ty : Ty) (g : Dir) (n : Nat) (gs : List VGroup),
    (s.core s.cur).vec.run = some r → (view s r).need ty = .ok n →
    (∀ p ∈ plainGroups (view s r), normalises s r d a b m ty n p.1 p.2) ∧
    ((view s r).groups g ((view s r).scal b) = .ok gs → normalises s r d a b m ty n g gs)

/-- R176-R186: groups, reductions, scans, normalisation and softmax. -/
def Obligations.VectorReductions : Prop :=
  Sys2Proof.Claims.VectorGroups ∧ Sys2Proof.Claims.VectorNormalise

/-! ### The vector engine: memory (R147-R154), landing (R139, R140), frames -/

namespace Sys2Proof.Claims

/-- A memory form at issue: its words, the element bytes that set its cycles, what it reads, its data (of a store), the
outcome of its address checks; and, where the condition ready holds, its positions with their offsets from the pointer
and its post-increment. -/
structure MemForm where
  i : Instr
  words : Nat
  wI : Nat
  reads : List VRead
  data : Nat → Nat
  res : VRes (List VPlace × Option Nat)
  ready : Prop
  offs : List (Nat × Int × Option Bool)
  inc : Option Int

/-- A record in the token's slot k places the rows from row0 on that these positions lie in (R151). -/
def rowsFit (x : VX) (k : Nat) (row0 : Nat) (on : List Nat) : Prop :=
  ∃ rec q, x.record k = .ok rec ∧ rec.placeable row0 = true ∧ seqOf rec.bnd rec.rows row0 = some q ∧
    ∀ p ∈ on, p / x.cols < seqEnd rec.bnd q - row0

/-- The offsets of an indexed access (R153). -/
def indexOffs (x : VX) (c : VSrc) (m : Fin 8) (wb : Nat) (sc : Bool) : List (Nat × Int × Option Bool) :=
  (x.enabled m (max wb 4)).map fun q =>
    (q, (BitVec.ofNat 32 (x.src c 32 (max wb 4) q)).toInt * (if sc then (wb : Int) else 1), none)

def indexRes (x : VX) (a : Fin 8) (c : VSrc) (m : Fin 8) (ty : Ty) (wb : Nat) (sc : Bool) :
    VRes (List VPlace × Option Nat) :=
  if x.packed ty then .error (.formatInvalid, 0) else if 1024 < x.count then .error (.vshapeInvalid, 0)
  else x.resolve a wb (indexOffs x c m wb sc) none

/-- The stores (R150, R151, R153). -/
def storeForms (x : VX) (v : VSrc) (a : Fin 8) (b : ESrc) (c : VSrc) (m : Fin 8) (ty : Ty) (wb : Nat) (p : Fin 4)
    (pf sc : Bool) (k : Fin 4) : List MemForm :=
  let pk := x.packed ty
  let stride := (x.scal b).toInt
  let rb := x.rowBytes pk wb
  let on := x.enabled m wb
  let reads := x.rdSrc v (8 * wb) wb ++ x.rdMask m wb ++ rdScal b
  let wI := max wb 4
  let inc := x.postInc p pk wb stride
  let incR := x.postInc (if pf then 3 else 0) pk wb rb
  [⟨.vst v a b m ty p, eWords [b] + v.words.length, wb, reads, x.src v (8 * wb) wb,
     x.resolve a wb (x.strided pk wb stride on) inc, True, x.strided pk wb stride on, inc⟩,
   ⟨.vstRagged v a b m ty pf k, eWords [b] + v.words.length, wb, reads, x.src v (8 * wb) wb,
     (x.raggedCheck a k.val (x.scal b).toNat rb on).bind fun l => x.resolve a wb (x.strided pk wb rb l) incR,
     rowsFit x k.val (x.scal b).toNat on, x.strided pk wb rb on, incR⟩,
   ⟨.vscat v a c m ty sc, vWords [v, c], wI, x.rdSrc v (8 * wb) wI ++ x.rdSrc c 32 wI ++ x.rdMask m wI,
     x.src v (8 * wb) wI, indexRes x a c m ty wb sc, pk = false ∧ x.count ≤ 1024, indexOffs x c m wb sc, none⟩]

/-- The loads (R149, R151-R153). -/
def loadForms (x : VX) (d : Reg) (a : Fin 8) (b : ESrc) (c : VSrc) (m : Fin 8) (ty : Ty) (wb : Nat) (p : Fin 4)
    (pf sc : Bool) (k : Fin 4) : List MemForm :=
  let pk := x.packed ty
  let stride := (x.scal b).toInt
  let rb := x.rowBytes pk wb
  let on := x.enabled m wb
  let wI := max wb 4
  let row := x.strided pk wb 0 on
  let inc := x.postInc p pk wb stride
  let incR := x.postInc (if pf then 3 else 0) pk wb rb
  let none' (_ : Nat) := 0
  [⟨.vld d a b m ty p, eWords [b], wb, x.rdMask m wb ++ rdScal b, none',
     x.resolve a wb (x.strided pk wb stride on) inc, True, x.strided pk wb stride on, inc⟩,
   ⟨.vldRagged d a b m ty pf k, eWords [b], wb, x.rdMask m wb ++ rdScal b, none',
     (x.raggedCheck a k.val (x.scal b).toNat rb on).bind fun l => x.resolve a wb (x.strided pk wb rb l) incR,
     rowsFit x k.val (x.scal b).toNat on, x.strided pk wb rb on, incR⟩,
   ⟨.vldb d a m ty, 1, wb, x.rdMask m wb, none', x.resolve a wb row none, True, row, none⟩,
   ⟨.vldbPf d a m ty, 1, wb, x.rdMask m wb, none', x.resolve a wb row (some rb), True, row, some rb⟩,
   ⟨.vgath d a c m ty sc, vWords [c], wI, x.rdSrc c 32 wI ++ x.rdMask m wI, none', indexRes x a c m ty wb sc,
     pk = false ∧ x.count ≤ 1024, indexOffs x c m wb sc, none⟩]

/-- Without a window, every position and the incremented pointer lie in the scratchpad, and every position is aligned
(R147, R142). -/
def inScratch (x : VX) (a : Fin 8) (wb : Nat) (offs : List (Nat × Int × Option Bool)) (inc : Option Int) : Prop :=
  let p : Int := (x.v.a.get a).toNat
  x.v.wlen.get a = 0 ∧
    (∀ q ∈ offs, 0 ≤ p + q.2.1 ∧ p + q.2.1 < 2 ^ 21 ∧ (p + q.2.1) % wb = 0) ∧
    ∀ o ∈ inc, 0 ≤ p + o ∧ p + o < 2 ^ 21

/-- The places of positions with their offsets from the pointer. -/
def placesAt (x : VX) (a : Fin 8) (offs : List (Nat × Int × Option Bool)) : List VPlace :=
  offs.map fun q => ⟨q.1, (((x.v.a.get a).toNat : Int) + q.2.1).toNat, q.2.2⟩

/-- The pointer after a post-increment (R147). -/
def advanced (x : VX) (a : Fin 8) (inc : Option Int) : Option Nat :=
  inc.map fun o => (((x.v.a.get a).toNat : Int) + o).toNat

/-- A memory instruction has issued with these writes in flight: its words are put to the banks in cycles after its
issue cycles, the engine goes on after those, the pointer is advanced, and nothing else has changed. -/
structure MemIssued (s t : State) (r : Run) (f : MemForm) (a : Fin 8) (l : List VPlace) (next : Option Nat)
    (writes : List VWrite) : Prop where
  others : ∀ c, c ≠ s.cur → t.core c = s.core c
  memory : t.mem = s.mem ∧ t.hostMem = s.hostMem
  core : (t.core s.cur).scratch = (s.core s.cur).scratch ∧ (t.core s.cur).eccHard = (s.core s.cur).eccHard ∧
    (t.core s.cur).stem = (s.core s.cur).stem
  run : (t.core s.cur).vec.run = some { r with pos := r.pos + f.words } ∧
    (t.core s.cur).vec.next = (view s r).s + (view s r).cyc f.wI
  regs : (t.core s.cur).vec.v = (view s r).v.v ∧ (t.core s.cur).vec.vm = (view s r).v.vm ∧
    (t.core s.cur).vec.e = (view s r).v.e ∧ (t.core s.cur).vec.shape = (view s r).v.shape ∧
    (t.core s.cur).vec.wst = (view s r).v.wst ∧ (t.core s.cur).vec.wlen = (view s r).v.wlen
  pend : (t.core s.cur).vec.pend = writes.foldl (fun l p => pendInsert p l) (view s r).v.pend
  pointer : (t.core s.cur).vec.a = match next with
    | some n => (view s r).v.a.set a.val (BitVec.ofNat 21 n) a.isLt
    | none => (view s r).v.a
  banks : ∀ q ∈ (t.core s.cur).vec.svc, q ∈ (view s r).v.svc ∨
    (view s r).s + (view s r).cyc f.wI ≤ q.time ∧ ∃ p ∈ l, q.word = p.addr / 4 * 4

/-- Every word that core c's banks have to serve has been served. -/
def served (t : State) (c : CoreId) : State := t.serveAll c (t.core c).vec.svc.length

/-- What service of a core's words leaves as it was. -/
structure ServedKept (t u : State) (c : CoreId) : Prop where
  others : ∀ c', c' ≠ c → (u.core c').scratch = (t.core c').scratch ∧ (u.core c').stem.x = (t.core c').stem.x ∧
    (u.core c').vec = (t.core c').vec
  memory : u.mem = t.mem ∧ u.hostMem = t.hostMem
  stem : (u.core c).stem.x = (t.core c).stem.x ∧ (u.core c).stem.pc = (t.core c).stem.pc ∧
    (u.core c).stem.status = (t.core c).stem.status
  regs : (u.core c).vec.v = (t.core c).vec.v ∧ (u.core c).vec.vm = (t.core c).vec.vm ∧
    (u.core c).vec.e = (t.core c).vec.e ∧ (u.core c).vec.run = (t.core c).vec.run ∧
    (u.core c).vec.next = (t.core c).vec.next
  banks : (u.core c).vec.svc = []

/-- No word that a place lies in is uncorrectable. -/
def readable (k : Core) (l : List VPlace) : Prop := ∀ q ∈ l, k.hardAt (q.addr / 4 * 4) 4 = false

/-- The write in flight of a load once its words are served: the elements of its places, at their positions, seen 12
cycles after the last service cycle (R149). -/
def loadedWrite (k : Core) (d : Reg) (wb : Nat) (l : List VPlace) (w : VWrite) : Prop :=
  w.target = .v d ∧ ∀ b < 32768, w.mask.getLsbD b = (l.any fun q => decide (q.p = b / (8 * wb))) ∧
    ∀ q ∈ l, q.p = b / (8 * wb) → w.data.getLsbD b = (placeVal k.scratch wb q).testBit (b % (8 * wb))

/-- What the words of a completed vector store leave: each bit of its places from the data, every other bit as it was,
and the pointer as the issue left it. -/
structure VStored (s t u : State) (wb : Nat) (data : Nat → Nat) (l : List VPlace) : Prop where
  bits : readable (s.core s.cur) l → ∀ i, (u.core s.cur).scratchBit i =
    match lastPlace wb l i with
    | some q => (data q.p).testBit (i - q.firstBit)
    | none => (s.core s.cur).scratchBit i
  kept : ∀ i, lastPlace wb l i = none → (u.core s.cur).scratchBit i = (s.core s.cur).scratchBit i
  pointer : readable (s.core s.cur) l → (u.core s.cur).vec.a = (t.core s.cur).vec.a

/-- A register of the vector engine as cycle t sees it. -/
def seen (v : Vec) (d : VTarget) (t : Nat) : VReg :=
  match d with
  | .v r => v.vAt r t
  | .vm m => v.vmAt m t
  | .e n => (v.eAt n t).setWidth 32768

/-- What an issued load with these places comes to. -/
def loads (s : State) (r : Run) (d : Reg) (a : Fin 8) (wb : Nat) (f : MemForm) (l : List VPlace) (next : Option Nat) :
    Prop :=
  ∃ t writes, exec f.i s = .next t ∧ MemIssued s t r f a l next writes ∧
    (∀ w ∈ writes, w.target = .v d ∧ (view s r).s + (view s r).cyc f.wI + 11 ≤ w.time) ∧ (writes = [] ↔ l = []) ∧
    ((view s r).v.svc = [] → ServedKept t (served t s.cur) s.cur ∧
      (∀ w ∈ writes, (∀ q ∈ (t.core s.cur).vec.svc, q.time + 12 ≤ w.time) ∧
        ∃ q ∈ (t.core s.cur).vec.svc, q.time + 12 = w.time) ∧
      ((served t s.cur).core s.cur).scratch = (s.core s.cur).scratch ∧
      (readable (s.core s.cur) l → ((served t s.cur).core s.cur).vec.a = (t.core s.cur).vec.a ∧
        ∀ w0 ∈ writes, ∃ w ∈ ((served t s.cur).core s.cur).vec.pend, w.time = w0.time ∧
          loadedWrite (s.core s.cur) d wb l w))

/-- What an issued store with these places comes to. -/
def stores (s : State) (r : Run) (a : Fin 8) (wb : Nat) (f : MemForm) (l : List VPlace) (next : Option Nat) : Prop :=
  ∃ t, exec f.i s = .next t ∧ MemIssued s t r f a l next [] ∧
    ((view s r).v.svc = [] → ServedKept t (served t s.cur) s.cur ∧ VStored s t (served t s.cur) wb f.data l)

end Sys2Proof.Claims

/-- R147-R149, R151-R154: a load whose positions lie in the scratchpad, aligned, issues; its words are read by their
banks after its issue cycles, and its positions are seen 12 cycles after the last service cycle with the elements of
their places. A check of its addresses that fails raises its fault. The first uncorrectable word that a bank reads is
held as a fault of its address, and the load writes nothing. -/
def Obligations.VectorLoads : Prop :=
  (∀ (s : State) (r : Run) (d : Reg) (a : Fin 8) (b : ESrc) (c : VSrc) (m : Fin 8) (ty : Ty) (wb : Nat) (p : Fin 4)
    (pf sc : Bool) (k : Fin 4), (s.core s.cur).vec.run = some r → (view s r).need ty = .ok wb →
    let x := view s r
    ∀ f ∈ loadForms x d a b c m ty wb p pf sc k,
      (∀ e, f.res = .error e → vfaults s f.i e.1 e.2) ∧
      (f.ready → inScratch x a wb f.offs f.inc → x.pendingHit f.reads = false →
        loads s r d a wb f (placesAt x a f.offs) (advanced x a f.inc)) ∧
      ∀ l next, f.res = .ok (l, next) →
        (x.pendingHit f.reads = true → vfaults s f.i .pendingRead 0) ∧
        (x.pendingHit f.reads = false → loads s r d a wb f l next)) ∧
  ∀ (s : State) (c : CoreId) (q : Svc) (rest : List Svc), (s.core c).vec.svc = q :: rest → q.op.reads = true →
    q.told = false → (s.core c).hardAt q.word 4 = true →
    let u := s.serveWord c
    (u.core c).vec.ecc = (s.core c).vec.ecc ++ [⟨.eccUncorrectable, BitVec.ofNat 64 q.word, q.loc, q.time⟩] ∧
    (u.core c).scratch = (s.core c).scratch ∧
    (∀ w, w ∈ (u.core c).vec.pend ↔ w ∈ (s.core c).vec.pend ∧ w.load ≠ some q.id) ∧
    ∀ n old new, q.ptr = some (n, old, new) → (s.core c).vec.a.get n = new → (u.core c).vec.a.get n = old

/-- R147, R148, R150, R151, R153, R154 of the stores: a store whose positions lie in the scratchpad, aligned, and, with
SHCHK, outside every valid shape record, issues; its words, once the banks have served them, leave each bit of its
places as the last position that has it gives it, and every other bit of the scratchpad as it was; a check that fails
raises its fault, a byte of a valid shape record SHAPE_STALE. -/
def Obligations.VectorStores : Prop :=
  ∀ (s : State) (r : Run) (v c : VSrc) (a : Fin 8) (b : ESrc) (m : Fin 8) (ty : Ty) (wb : Nat) (p : Fin 4)
    (pf sc : Bool) (k : Fin 4), (s.core s.cur).vec.run = some r → (view s r).need ty = .ok wb →
    let x := view s r
    ∀ f ∈ storeForms x v a b c m ty wb p pf sc k,
      let free (l : List VPlace) := statusShchk (s.core s.cur).stem.status = false ∨
        ∀ q ∈ l, (s.core s.cur).inSlot q.addr wb = false
      (∀ e, f.res = .error e → vfaults s f.i e.1 e.2) ∧
      (f.ready → inScratch x a wb f.offs f.inc → free (placesAt x a f.offs) → x.pendingHit f.reads = false →
        stores s r a wb f (placesAt x a f.offs) (advanced x a f.inc)) ∧
      ∀ l next, f.res = .ok (l, next) →
        (free l → (x.pendingHit f.reads = false → stores s r a wb f l next) ∧
          (x.pendingHit f.reads = true → vfaults s f.i .pendingRead 0)) ∧
        (statusShchk (s.core s.cur).stem.status = true → ∀ l1 q l2, l = l1 ++ q :: l2 →
          (∀ q' ∈ l1, (s.core s.cur).inSlot q'.addr wb = false) → (s.core s.cur).inSlot q.addr wb = true →
          vfaults s f.i .shapeStale (BitVec.ofNat 64 q.addr))

/-! ### The vector engine: when results are seen (R139, R140) -/

namespace Sys2Proof.Claims

/-- The bits of a register of the vector engine. -/
def VTarget.width : VTarget → Nat
  | .v _ => 32768
  | .vm _ => 4096
  | .e _ => 32

/-- A bit of a register itself, without the writes in flight. -/
def landedBit (v : Vec) (d : VTarget) (b : Nat) : Bool :=
  match d with
  | .v r => (v.v.get r).getLsbD b
  | .vm m => (v.vm.get m).getLsbD b
  | .e n => (v.e.get n).getLsbD b

/-- Of writes in issue order, the one that bit b of register d holds at cycle t: the one that became visible last, of
those of one cycle the last issued (R140). -/
def onTop (l : List VWrite) (d : VTarget) (t b : Nat) : Option VWrite :=
  l.foldl (fun acc p =>
    if p.target = d ∧ p.time ≤ t ∧ p.mask.getLsbD b = true then
      match acc with
      | some q => if q.time ≤ p.time then some p else some q
      | none => some p
    else acc) none

def ByTime (l : List VWrite) : Prop := l.Pairwise fun p q => p.time ≤ q.time

/-- Position and value that bit b of a register of w-bit elements shows at cycle t, when position p shows from
the cycle that time gives. -/
def shown (vals : List (Nat × Nat)) (w t b : Nat) (time : Nat → Nat) : Option (Nat × Nat) :=
  vals.find? fun q => decide (q.1 = b / w ∧ time q.1 ≤ t)

end Sys2Proof.Claims

/-- R139 and R140: after an instruction has issued, each bit of a register reads at a cycle as the write that became
visible last by then, of one cycle the last issued; writes land without changing what is read; and the positions of
a result show at s + K(p) + L, or, whole, at s + n - 1 + L. -/
def Obligations.VectorLanding : Prop :=
  (∀ (s : State) (r : Run) (words : Nat) (e : VEff), (s.core s.cur).vec.run = some r → e.vec = id → e.state = id →
    let x := view s r
    ByTime x.v.pend →
    let u := x.issue words e s
    ByTime (u.core s.cur).vec.pend ∧
    ∀ d t b, b < VTarget.width d → (seen (u.core s.cur).vec d t).getLsbD b =
      match onTop (x.v.pend ++ e.writes) d t b with
      | some p => p.data.getLsbD b
      | none => landedBit x.v d b) ∧
  (∀ (v : Vec) (t0 t : Nat) (d : VTarget) (b : Nat), ByTime v.pend → t0 ≤ t → b < VTarget.width d →
    (seen (v.retire t0) d t).getLsbD b = (seen v d t).getLsbD b ∧ ByTime (v.retire t0).pend) ∧
  (∀ (x : VX) (d : VTarget) (w wI lat : Nat) (vals : List (Nat × Nat)) (t b : Nat), 0 < w → b < VTarget.width d →
    (vals.map (·.1)).Nodup → (∀ q ∈ vals, q.1 < x.count) →
    (onTop (x.sliceWrites d w wI lat vals) d t b).map (fun p => p.data.getLsbD b) =
      (shown vals w t b fun p => x.s + p * wI / 512 + lat).map (fun q => q.2.testBit (b % w)) ∧
    (onTop (x.wholeWrites d w wI lat vals) d t b).map (fun p => p.data.getLsbD b) =
      (shown vals w t b fun _ => x.s + x.cyc wI - 1 + lat).map (fun q => q.2.testBit (b % w)))

/-! ### The vector engine: the frame of its instructions -/

namespace Sys2Proof.Claims

/-- What any vector instruction at issue leaves: every other core, this core's memories but the scratchpad, its stem,
its matrix engine and shape slots, host memory, and memory but for the error log of a fault that is logged; and every
register of the vector engine itself, but for what has landed by the first issue cycle and what writes in flight bring. -/
structure VKept (s t : State) (writes : List VWrite) : Prop where
  others : ∀ c, c ≠ s.cur → t.core c = s.core c
  stores : (t.core s.cur).imem = (s.core s.cur).imem ∧ (t.core s.cur).seg = (s.core s.cur).seg ∧
    (t.core s.cur).tiles = (s.core s.cur).tiles ∧ (t.core s.cur).moulds = (s.core s.cur).moulds ∧
    (t.core s.cur).full = (s.core s.cur).full
  scratch : (t.core s.cur).scratch = (s.core s.cur).scratch
  stem : (t.core s.cur).stem = (s.core s.cur).stem
  engines : (t.core s.cur).mat = (s.core s.cur).mat ∧ (t.core s.cur).slots = (s.core s.cur).slots ∧
    (t.core s.cur).probes = (s.core s.cur).probes
  hosts : t.hostMem = s.hostMem
  memory : t.mem = s.mem ∨ (t.core s.cur).vec.found ≠ none
  lands : (t.core s.cur).vec.v = (s.core s.cur).vec.v ∧ (t.core s.cur).vec.vm = (s.core s.cur).vec.vm ∧
      (t.core s.cur).vec.e = (s.core s.cur).vec.e ∧ (t.core s.cur).vec.pend = (s.core s.cur).vec.pend ∨
    let v := (s.core s.cur).vec.retire (s.core s.cur).vec.next
    (t.core s.cur).vec.v = v.v ∧ (t.core s.cur).vec.vm = v.vm ∧ (t.core s.cur).vec.e = v.e ∧
      ∀ p, p ∈ (t.core s.cur).vec.pend → p ∈ v.pend ∨ p ∈ writes
  shape : (t.core s.cur).vec.shape = (s.core s.cur).vec.shape ∧ (t.core s.cur).vec.a = (s.core s.cur).vec.a ∧
    (t.core s.cur).vec.wst = (s.core s.cur).vec.wst ∧ (t.core s.cur).vec.wlen = (s.core s.cur).vec.wlen
  queue : (t.core s.cur).vec.queue = (s.core s.cur).vec.queue ∧ (t.core s.cur).vec.taken = (s.core s.cur).vec.taken ∧
    (t.core s.cur).vec.held = (s.core s.cur).vec.held ∧ (t.core s.cur).vec.ecc = (s.core s.cur).vec.ecc

end Sys2Proof.Claims

/-- The frame of the vector instructions, to be read with the statements that say with which effect each issues: one
whose effect changes registers of the vector engine alone, a load or a store without a post-increment as it issues, and
a fault, all keep what VKept lists. -/
def Obligations.VectorFrame : Prop :=
  (∀ (s : State) (c : Cause) (v : Word) (late : Nat), (s.core s.cur).vec.run ≠ none →
    VKept s (s.vecFault c v late) []) ∧
  (∀ (s t : State) (r : Run) (i : Instr) (words : Nat) (e : VEff), (s.core s.cur).vec.run = some r →
    issues s r i words e → e.state = id →
    (∀ v : Vec, (e.vec v) = { v with gens := (e.vec v).gens }) → exec i s = .next t → VKept s t e.writes) ∧
  (∀ (s t : State) (r : Run) (i : Instr) (words : Nat) (d : Reg) (wb wI : Nat) (a : Fin 8) (reads : List VRead)
    (l : List VPlace), (s.core s.cur).vec.run = some r →
    let e := (view s r).load d wb wI a reads l none
    issues s r i words e → exec i s = .next t → VKept s t e.writes ∧ ∀ w ∈ e.writes, w.target = .v d) ∧
  (∀ (s t : State) (r : Run) (i : Instr) (words wb wI : Nat) (a : Fin 8) (reads : List VRead) (data : Nat → Nat)
    (l : List VPlace) (e : VEff), (s.core s.cur).vec.run = some r →
    (view s r).store wb wI a reads data l none = .ok e → issues s r i words e → exec i s = .next t → VKept s t [])

/-! ### The sequencers: scalar instructions (R37, R225-R232, R270) -/

namespace Sys2Proof.Claims

/-- The integer instructions of the sequencers over the signed operands (R229). -/
def percoSigned : List (Ctor3 × (Nat → Int → Int → Int)) :=
  [(.percoAdd, fun _ x y => x + y), (.percoSub, fun _ x y => x - y), (.percoMul, fun _ x y => x * y),
   (.percoMin, fun _ x y => min x y), (.percoMax, fun _ x y => max x y)]

/-- The same over the unsigned operands. -/
def percoUnsigned : List (Ctor3 × (Nat → Nat → Nat → Nat)) :=
  [(.percoAnd, fun _ x y => x &&& y), (.percoOr, fun _ x y => x ||| y), (.percoXor, fun _ x y => x ^^^ y),
   (.percoShl, fun n x y => x * 2 ^ (y % n)), (.percoShr, fun n x y => x / 2 ^ (y % n)),
   (.percoMinUnsigned, fun _ x y => min x y), (.percoMaxUnsigned, fun _ x y => max x y)]

/-- The conditional branches of the sequencers (R231). -/
def percoBranches : List ((Src → Src → BitVec 16 → Instr) × (Word → Word → Prop)) :=
  [(.percoBeq, fun a b => a = b), (.percoBne, fun a b => a ≠ b), (.percoBlt, fun a b => a.toInt < b.toInt),
   (.percoBge, fun a b => b.toInt ≤ a.toInt)]

/-- The address after the instruction of the current sequencer with these sources. -/
def pAfter (s : State) (l : List Src) : Word := s.curSeqr.pc + BitVec.ofNat 64 (4 * (1 + litWords l))

/-- The current sequencer completes an instruction: it goes on at npc, by the back-edge tests, and is f of what it was. -/
def pDone (s : State) (f : Seqr → Seqr) (npc : Word) : Host.Outcome State Fault Refusal :=
  .next (s.modSeq s.curDie s.curSeq fun q => (f q).advance false npc)

/-- It takes a branch or J to t. -/
def pJumps (s : State) (t : Word) : Host.Outcome State Fault Refusal :=
  .next (s.modSeq s.curDie s.curSeq fun q => q.advance true t)

/-- It completes with v in g register d; g0 discards it. -/
def pSets (s : State) (d : Reg) (v npc : Word) : Host.Outcome State Fault Refusal :=
  pDone s (fun q => if d = 0 then q else { q with g := q.g.set d.val v d.isLt }) npc

/-- It meets a program fault at its instruction. -/
def pFaults (s : State) (c : Cause) (acc : Option Access) (va : Word) : Host.Outcome State Fault Refusal :=
  .next (s.progFault s.curDie s.curSeq c acc va 0 id)

/-- The address of LD and ST (R230). -/
def pAddr (s : State) (a : Src) (size : BitVec 2) (ofs : BitVec 10) : Nat :=
  let v := (s.curSeqr.src a + BitVec.ofInt 64 (ofs.toInt * nBytes size)).toNat % 16384
  v - v % nBytes size

/-- No 8-byte word of the runner store in n bytes from a on is uncorrectable. -/
def pSound (s : State) (a n : Nat) : Prop := ∀ w ∈ s.curSeqr.storeBad, a + n ≤ w ∨ w + 8 ≤ a

/-- Instructions of the sequencers that write at most the register listed with them. -/
def percoRegisterOnly (d : Reg) (a b : Src) (ty : Ty) (v : LiVal) (o : BitVec 16) (o26 : BitVec 26) (size : BitVec 2)
    (ofs : BitVec 10) (r : BitVec 12) : List (Instr × List Reg) :=
  percoSigned.map (fun p => (p.1 d a b ty, [d])) ++ percoUnsigned.map (fun p => (p.1 d a b ty, [d])) ++
  percoBranches.map (fun p => (p.1 a b o, [])) ++
  [(.percoLi d v, [d]), (.percoLd d a size ofs, [d]), (.percoJ o26, []), (.percoCall o26, []), (.percoRet, []),
   (.percoLoop a o, []), (.percoSysrd d r, [d]), (.percoNop, [])]

/-- What such an instruction leaves: every core, memory, every other sequencer and runner die, and of its own
sequencer all but the registers listed, the PC and the loop and return stacks. -/
structure PKept (s t : State) (w : List Reg) : Prop where
  cores : t.cores = s.cores
  memory : t.mem = s.mem ∧ t.hostMem = s.hostMem ∧ t.pkg = s.pkg
  dies : ∀ d, d ≠ s.curDie → t.runner d = s.runner d
  seqs : ∀ n, n ≠ s.curSeq → t.seqr s.curDie n = s.seqr s.curDie n
  boxes : (t.runner s.curDie).boxes = (s.runner s.curDie).boxes ∧ (t.runner s.curDie).insts = (s.runner s.curDie).insts ∧
    (t.runner s.curDie).startq = (s.runner s.curDie).startq ∧ (t.runner s.curDie).tlb = (s.runner s.curDie).tlb
  regs : ∀ r, r ∉ w → t.curSeqr.getG r = s.curSeqr.getG r
  store : t.curSeqr.store = s.curSeqr.store ∧ t.curSeqr.wdog = s.curSeqr.wdog ∧ t.curSeqr.tag = s.curSeqr.tag ∧
    t.curSeqr.running = s.curSeqr.running

end Sys2Proof.Claims

/-- R229: the ALU of the sequencers computes as R92 gives, at each integer width; LI as R94; a TYPE that is no integer
is FORMAT_INVALID. -/
def Obligations.PercoAlu : Prop :=
  ∀ (s : State) (d : Reg) (a b : Src) (ty : Ty),
    let q := s.curSeqr
    (∀ n, intWidth ty = some n →
      (∀ p ∈ percoSigned, exec (p.1 d a b ty) s =
        pSets s d (signed n (p.2 n (low n (q.src a)) (low n (q.src b)))) (pAfter s [a, b])) ∧
      ∀ p ∈ percoUnsigned, exec (p.1 d a b ty) s =
        pSets s d (signed n (p.2 n (lowU n (q.src a)) (lowU n (q.src b)))) (pAfter s [a, b])) ∧
    (intWidth ty = none → ∀ c ∈ percoSigned.map (·.1) ++ percoUnsigned.map (·.1),
      exec (c d a b ty) s = pFaults s .formatInvalid none 0) ∧
    (∀ i : BitVec 16, exec (.percoLi d (.imm i)) s = pSets s d (i.signExtend 64) (pAfter s [])) ∧
    ∀ v : W32, exec (.percoLi d (.lit v)) s = pSets s d (v.signExtend 64) (q.pc + 8)

/-- R225 and R230: LD and ST reach the sequencer's own runner store at their address modulo 16,384, its low bits below
the size cleared; ST writes the low bytes of D and no other byte of the store. A load of an
uncorrectable word ends the program (R412). -/
def Obligations.PercoStore : Prop :=
  ∀ (s : State) (d : Reg) (x a : Src) (size : BitVec 2) (ofs : BitVec 10),
    let q := s.curSeqr
    let p := pAddr s a size ofs
    (pSound s p (nBytes size) → exec (.percoLd d a size ofs) s =
      pSets s d ((BitVec.ofNat (8 * nBytes size) (memNat q.store p (nBytes size))).signExtend 64) (pAfter s [a])) ∧
    (¬pSound s p (nBytes size) → ∃ t, exec (.percoLd d a size ofs) s = .next t ∧ t.curSeqr.running = false ∧
      t.curSeqr.g = q.g) ∧
    ((∀ w ∈ q.storeBad, p + nBytes size ≤ w ∨ w + 8 ≤ p ∨ p ≤ w ∧ w + 8 ≤ p + nBytes size) →
      ∃ t, exec (.percoSt x a size ofs) s = .next t ∧
      (∀ i, i < nBytes size → (memGet t.curSeqr.store (p + i)).toNat = (q.src x).toNat / 256 ^ i % 256) ∧
      (∀ c, c < p ∨ p + nBytes size ≤ c → memGet t.curSeqr.store c = memGet q.store c) ∧
      t = s.modSeq s.curDie s.curSeq fun q => ({ q with
        store := t.curSeqr.store
        storeBad := q.storeBad.filter fun w => !(decide (p ≤ w) && decide (w + 8 ≤ p + nBytes size)) } :
          Seqr).advance false (pAfter s [x, a])) ∧
    p + nBytes size ≤ 16384 ∧ p % nBytes size = 0

/-- R231 and R232: a branch compares all 64 bits, CALL pushes the address of the next word on the 8-entry return stack
and RET pops it, LOOP starts one of two loops, and a taken branch or J pops the loops that do not hold its target. -/
def Sys2Proof.Claims.PercoFlow : Prop :=
  ∀ (s : State),
    let q := s.curSeqr
    let at4 (n : Int) : Word := q.pc + BitVec.ofInt 64 (4 * n)
    (∀ (x y : Src) (ofs : BitVec 16), ∀ p ∈ percoBranches,
      (p.2 (q.src x) (q.src y) → exec (p.1 x y ofs) s = pJumps s (at4 ofs.toInt)) ∧
      (¬p.2 (q.src x) (q.src y) → exec (p.1 x y ofs) s = pDone s id (pAfter s [x, y]))) ∧
    (∀ ofs : BitVec 26, exec (.percoJ ofs) s = pJumps s (at4 ofs.toInt) ∧
      (q.rets.length < 8 → exec (.percoCall ofs) s =
        pDone s (fun q => { q with rets := pAfter s [] :: q.rets }) (at4 ofs.toInt)) ∧
      (8 ≤ q.rets.length → exec (.percoCall ofs) s = pFaults s .callDepth none 0)) ∧
    (∀ a rest, q.rets = a :: rest → exec .percoRet s = pDone s (fun q => { q with rets := rest }) a) ∧
    (q.rets = [] → exec .percoRet s = pFaults s .callDepth none 0) ∧
    (∀ (a : Src) (imm : BitVec 16),
      let n : W32 := (q.src a).setWidth 32
      let start := q.pc.toNat + 4 * (1 + litWords [a])
      let fin : Int := q.pc.toNat + 4 * imm.toInt
      (fin ≤ start → exec (.percoLoop a imm) s = pFaults s .reservedField none 0) ∧
      (start < fin → n = 0 → exec (.percoLoop a imm) s = pDone s id (at4 imm.toInt)) ∧
      (start < fin → n ≠ 0 → q.loops.length = 2 → exec (.percoLoop a imm) s = pFaults s .loopDepth none 0) ∧
      (start < fin → n ≠ 0 → fin < 2 ^ 64 → ∀ h : q.loops.length < 2, exec (.percoLoop a imm) s =
        .next (s.modSeq s.curDie s.curSeq fun _ => ({ q with
          lc := q.lc.set q.loops.length n
          loops := ⟨start, fin.toNat⟩ :: q.loops } : Seqr).advance false (pAfter s [a])))) ∧
    exec .percoNop s = pDone s id (pAfter s [])

/-- R98 and R232 on the sequencers: how an instruction goes on at npc. A taken branch or J first pops the loops whose
START to END does not hold npc; at the END of the innermost loop its count, if 0 or 1, pops it and the test repeats,
else the count goes down by one and the PC is its START. -/
def Sys2Proof.Claims.PercoBackEdge : Prop :=
  ∀ (q : Seqr) (npc : Word), q.loops.length ≤ 2 →
    (q.loops = [] → ∀ jump, (q.advance jump npc).pc = npc ∧ (q.advance jump npc).loops = [] ∧
      (q.advance jump npc).lc = q.lc) ∧
    ∀ l ls, q.loops = l :: ls → ∀ h : ls.length < 2,
      (¬(l.start ≤ npc.toNat ∧ npc.toNat ≤ l.fin) →
        q.advance true npc = ({ q with loops := ls } : Seqr).advance true npc) ∧
      (l.start ≤ npc.toNat ∧ npc.toNat ≤ l.fin → q.advance true npc = q.advance false npc) ∧
      (npc.toNat ≠ l.fin → (q.advance false npc).pc = npc ∧ (q.advance false npc).loops = l :: ls ∧
        (q.advance false npc).lc = q.lc) ∧
      (npc.toNat = l.fin → q.lc[ls.length].toNat ≤ 1 →
        q.advance false npc = ({ q with loops := ls } : Seqr).advance false npc) ∧
      (npc.toNat = l.fin → 1 < q.lc[ls.length].toNat →
        (q.advance false npc).pc = BitVec.ofNat 64 l.start ∧ (q.advance false npc).loops = l :: ls ∧
        (q.advance false npc).lc = q.lc.set ls.length (q.lc[ls.length] - 1))

/-- R98, R231 and R232: the branches, calls, returns and loops of the sequencers, and how an instruction goes on at
the END of a loop. -/
def Obligations.PercoControl : Prop :=
  Sys2Proof.Claims.PercoFlow ∧ Sys2Proof.Claims.PercoBackEdge

/-- The frame of the sequencers' scalar instructions: when the program goes on, nothing changes but the destination,
the PC and the loop and return stacks. -/
def Obligations.PercoFrame : Prop :=
  ∀ (s t : State) (d : Reg) (a b : Src) (ty : Ty) (v : LiVal) (o : BitVec 16) (o26 : BitVec 26) (size : BitVec 2)
    (ofs : BitVec 10) (r : BitVec 12), ∀ p ∈ percoRegisterOnly d a b ty v o o26 size ofs r, exec p.1 s = .next t →
      t.curSeqr.running = true → t.curSeqr.susp = none → PKept s t p.2

/-- R227, R348, R355, R357: a program fault suspends the program at its instruction under the next record identifier,
with the record in its context's ring, or in the die's overflow store while the ring is full; with no usable context the
program ends, and with no room for the record, or 512 suspended works, it stalls at the instruction. -/
def Obligations.PercoFaults : Prop :=
  ∀ (s : State) (d : DieId) (n : Fin 16) (c : Cause) (acc : Option Access) (va sub : Word),
    let q := s.seqr d n
    let t := s.progFault d n c acc va sub id
    let full (e : CtxEntry) : Bool := s.fqFull e || (s.runner d).overflow.any fun x => x.ctx == q.tag.ctx
    let record : FaultRec := ⟨s.pkg.recid, q.tag.ctx, 1, s.accessCode acc, false, c, va, 0, 0, q.pc, sub, q.tag.origin, d⟩
    (∀ d' n', (d' ≠ d ∨ n' ≠ n) → t.seqr d' n' = s.seqr d' n') ∧
    (s.ctxEntry q.tag.ctx = none →
      t.seqr d n = { q with running := false, wait := none, waitSince := none, susp := none }) ∧
    ∀ e, s.ctxEntry q.tag.ctx = some e →
      (512 ≤ (s.runner d).suspended ∨ (full e = true ∧ 256 ≤ (s.runner d).overflow.length) → t = s) ∧
      ((s.runner d).suspended < 512 → (full e = true → (s.runner d).overflow.length < 256) →
        t.seqr d n = { q with susp := some s.pkg.recid, waitSince := none }) ∧
      ((s.runner d).suspended < 512 → full e = false → causeLogged c = false →
        t = ((s.writeFault e record).modPkg fun p => { p with recid := s.pkg.recid + 1 }).modSeq d n fun q =>
          { q with susp := some s.pkg.recid, waitSince := none })

/-! ### The sequencers: moves, collectives, synchronisation, system instructions (R49, R226-R228, R238, R255-R270) -/

namespace Sys2Proof.Claims

/-- What a write of bytes at a target of this package leaves: those bytes there, every other byte of every memory, and
the registers of every core and of every sequencer but the current one. -/
structure Written (s u : State) (t : Target) (bs : List Byte) : Prop where
  scratch : ∀ c b, memGet (u.core c).scratch b =
    if t.scratch = true ∧ c = t.core ∧ t.addr ≤ b ∧ b < t.addr + bs.length then bs.getD (b - t.addr) 0
    else memGet (s.core c).scratch b
  memory : ∀ b, memGet u.mem b =
    if t.scratch = false ∧ t.addr ≤ b ∧ b < t.addr + bs.length then bs.getD (b - t.addr) 0 else memGet s.mem b
  hosts : u.hostMem = s.hostMem
  cores : ∀ c, (u.core c).stem.x = (s.core c).stem.x ∧ (u.core c).stem.pc = (s.core c).stem.pc ∧
    (u.core c).stem.status = (s.core c).stem.status ∧ (u.core c).vec = (s.core c).vec ∧ (u.core c).mat = (s.core c).mat
  seqs : ∀ d n, (d ≠ s.curDie ∨ n ≠ s.curSeq) → u.seqr d n = s.seqr d n

/-- The current program waits. -/
def pWaits (s : State) : Host.Outcome State Fault Refusal := .next (s.progWait s.curDie s.curSeq)

/-- One cached leaf e of the current program's context covers va; it allows the access, and its target lies in this
package, in the function's cores or in memory that exists, on a route (R352). -/
def leafHere (s : State) (e : TlbEntry) (va : Word) (acc : Access) : Prop :=
  let tag := s.curSeqr.tag
  let t := e.target va.toNat
  (s.runner s.curDie).tlb.filter (fun x => x.ctx == tag.ctx && decide (x.base ≤ va.toNat) &&
      decide (va.toNat < x.base + x.size)) = [e] ∧
    permOk e.perms tag.sup acc = true ∧ e.pkg.toNat = s.pkg.pkgid.toNat ∧
    (e.scratch = true → s.pkg.vfHas tag.vf t.core.val = true ∧ s.pkg.coreExists t.core = true) ∧
    (e.scratch = false → t.addr < s.pkg.capacity) ∧ s.reaches s.curDie t = true

/-- A request at va has its home t in this package, translated in s1: by a cached leaf, which changes nothing, or by
any translation that succeeds. -/
def homeIs (s : State) (va : Word) (acc : Access) (t : Target) (s1 : State) : Prop :=
  (∃ e, leafHere s e va acc ∧ t = e.target va.toNat ∧ s1 = s) ∨
    (s.translate s.curDie s.curSeqr.tag va.toNat acc = .ok t s1 ∧ s1.isLocal t = true ∧ s1.reaches s.curDie t = true)

/-- The home has the same word of an earlier remote atomic of the program still to perform (R327). -/
def sameWordAhead (s : State) (t : Target) : Prop :=
  ∃ p ∈ (s.runner s.curDie).posted, p.prog = s.curSeqr.prog ∧ p.target.pkg = t.pkg ∧ p.target.scratch = t.scratch ∧
    p.target.core = t.core ∧ p.target.addr / 8 = t.addr / 8

/-- Every earlier box of the current program has written (R255). -/
def released (s : State) : Prop :=
  ∀ b ∈ (s.runner s.curDie).boxes, b.agent = .prog s.curDie s.curSeqr.prog → b.part = .credit ∨ b.part = .credited

/-- The remote atomics of the sequencers with their results (Table 03-4, R258). -/
def percoAtomics : List (Ctor3 × ((n : Nat) → BitVec n → BitVec n → BitVec n → BitVec n)) :=
  [(.percoRatomAdd, fun _ o b _ => o + b), (.percoRatomAnd, fun _ o b _ => o &&& b),
   (.percoRatomOr, fun _ o b _ => o ||| b), (.percoRatomXor, fun _ o b _ => o ^^^ b),
   (.percoRatomMin, fun _ o b _ => if o.toInt ≤ b.toInt then o else b),
   (.percoRatomMax, fun _ o b _ => if b.toInt ≤ o.toInt then o else b),
   (.percoRatomMinu, fun _ o b _ => if o.toNat ≤ b.toNat then o else b),
   (.percoRatomMaxu, fun _ o b _ => if b.toNat ≤ o.toNat then o else b), (.percoRatomSwap, fun _ _ b _ => b),
   (.percoRatomCas, fun _ o b c => if o = c then b else o)]

/-- The move commands with the KIND their descriptor must have (R228, Table 07-7). -/
def moveCmds : List ((Src → Bool → Instr) × Nat) :=
  [(.copy, 1), (.gath, 2), (.scat, 3), (.xpose, 4), (.conv, 5), (.infl, 6), (.mcast, 7), (.red, 8), (.fill, 9)]

/-- n bytes at a 128-byte aligned address of the runner store, sound. -/
def structAt (s : State) (a : Word) (n : Nat) : Prop :=
  a.toNat % 128 = 0 ∧ a.toNat + n ≤ 16384 ∧ pSound s a.toNat n

/-- The destination list of an MCAST in the runner store of a sequencer (R250); no other box has one. -/
def listed (q : Seqr) (b : Desc) : List (Word × Word) :=
  if bxKind b = 7 ∧ bxCount b ≠ 0 then (List.range (mcastCount b)).map fun i =>
    (memW64 q.store ((bxAux0 b).toNat + 16 * i), memW64 q.store ((bxAux0 b).toNat + 16 * i + 8)) else []

/-- A descriptor meets every check of R238 and R245-R254, its destinations being l. -/
def accepted (s : State) (r : BoxRoute) (vf : Nat) (b : Desc) (l : List (Word × Word)) : Prop :=
  bxFieldsOk r b = true ∧ bxFormatsOk b = true ∧ bxShapeOk r b [] = true ∧ bxShapeOk r b l = true ∧
    s.bxCoresOk vf b l = true ∧ bxOverlap b l = false

/-- The privileged instructions of the sequencers (R49). -/
def percoPrivileged (d : Reg) (a b : Src) (sup wr : Bool) (r : BitVec 12) : List Instr :=
  [.tlbinv a b, .tlbinvCtx a b, .tlbinvAll, .mapchk d a b sup wr, .resume d a, .resumeDrop d a, .killctx d a] ++
    (if r.toNat ≤ 4 then [.percoSyswr a r] else [])

end Sys2Proof.Claims

/-- R255-R259, R265, R327 at a home in this package: SEMADD, SEMWAIT and RATOM change the word at A in one step once no
earlier request stands there, a RATOM with D = g0 is left to perform and the program goes on, FENCE waits for the boxes
of its classes, WAKEA writes nothing, and PUBLISH waits for its flip. -/
def Obligations.PercoSync : Prop :=
  ∀ (s s1 : State) (d : Reg) (a b : Src) (sc : Scope) (t : Target),
    let q := s.curSeqr
    let va := q.src a
    let n := ((q.src b).setWidth 32).toNat
    let word := leNat (s1.homeBytes t 4)
    let on (q : Seqr) : Seqr := q.advance false (pAfter s [a, b])
    (q.wait = none → va.toNat % 4 = 0 → homeIs s va .combine t s1 →
      (s1.homeFree t 4 = true → s1.homeReadBad t 4 = none →
        (released s → s1.homeWriteBad t 4 = none → word + n < 2 ^ 32 → ∃ u, exec (.semadd a b sc) s = .next u ∧
          Written s1 u t (leBytes 4 (word + n)) ∧ u.curSeqr = on q) ∧
        (released s → 2 ^ 32 ≤ word + n → exec (.semadd a b sc) s = pFaults s .semOverflow (some .combine) va) ∧
        (n ≤ word → 0 < n → ∃ u, exec (.percoSemwait a b sc) s = .next u ∧ Written s1 u t (leBytes 4 (word - n)) ∧
          u.curSeqr = on q) ∧
        (word < n → exec (.percoSemwait a b sc) s = .next (s1.progWait s.curDie s.curSeq))) ∧
      (s1.homeFree t 4 = false → (released s → exec (.semadd a b sc) s = pWaits s) ∧
        (0 < n → exec (.percoSemwait a b sc) s = pWaits s))) ∧
    (q.wait = none → va.toNat % 4 = 0 → n = 0 → exec (.percoSemwait a b sc) s = pDone s id (pAfter s [a, b])) ∧
    (q.wait = none → ¬released s → exec (.semadd a b sc) s = pWaits s ∧ exec (.publish a b sc) s = pWaits s) ∧
    (q.wait = none → va.toNat % 4 ≠ 0 →
      (released s → exec (.semadd a b sc) s = pFaults s .semRange (some .combine) va) ∧
      exec (.percoSemwait a b sc) s = pFaults s .semRange (some .combine) va) ∧
    ((∀ x ∈ (s.runner s.curDie).boxes, x.agent = .prog s.curDie q.prog → va.getLsbD (bxClass x.desc) = true →
        bxClass x.desc < 16 → x.part = .credit ∨ x.part = .credited) →
      exec (.percoFence a sc) s = pDone s id (pAfter s [a])) ∧
    (∀ x ∈ (s.runner s.curDie).boxes, x.agent = .prog s.curDie q.prog → va.getLsbD (bxClass x.desc) = true →
        bxClass x.desc < 16 → x.part ≠ .credit → x.part ≠ .credited → exec (.percoFence a sc) s = pWaits s) ∧
    (∀ ty w, (ty = .i32 ∧ w = 4 ∨ ty = .i64 ∧ w = 8) → ∀ p ∈ percoAtomics.zipIdx,
      let old := leNat (s1.homeBytes t w)
      (q.wait = none → va.toNat % w = 0 → homeIs s va .combine t s1 →
        (d ≠ 0 → ¬sameWordAhead s t → s1.homeFree t w = true → s1.homeReadBad t w = none →
          ∃ u, exec (p.1.1 d a b ty) s = .next u ∧ Written s1 u t (leBytes w (p.1.2 (8 * w) (BitVec.ofNat _ old)
            ((q.src b).setWidth _) ((q.getG d).setWidth _)).toNat) ∧
            u.curSeqr = on (q.setG d ((BitVec.ofNat (8 * w) old).signExtend 64))) ∧
        (d ≠ 0 → sameWordAhead s t ∨ s1.homeFree t w = false → exec (p.1.1 d a b ty) s = pWaits s) ∧
        (d = 0 → ∃ u, exec (p.1.1 d a b ty) s = .next u ∧ Written s1 u t [] ∧ u.curSeqr = on q ∧
          (u.runner s.curDie).posted = (s.runner s.curDie).posted ++
            [⟨(s.runner s.curDie).postedNext, q.prog, q.tag, p.2, w, va, q.src b, q.pc, t, false, none⟩])) ∧
      (q.wait = none → va.toNat % w ≠ 0 → exec (p.1.1 d a b ty) s = pFaults s .atomicMisaligned (some .combine) va) ∧
      (∀ v, q.wait = some (.answered v) → exec (p.1.1 d a b ty) s =
        pSets s d ((v.setWidth (8 * w)).signExtend 64) (pAfter s [a, b]))) ∧
    (released s → homeIs s va .read t s1 → s1.homeFree t 1 = true → ∃ u, exec (.wakea a sc) s = .next u ∧
      Written s1 u t [] ∧ (∀ w ∈ (u.runner (s1.watchDie t)).watches, w.onLine t.scratch t.core t.addr 1 = false) ∧
      u.curSeqr = q.advance false (pAfter s [a])) ∧
    (¬released s → exec (.wakea a sc) s = pWaits s) ∧
    (q.wait = none → released s → va.toNat % 64 ≠ 0 →
      exec (.publish a b sc) s = pFaults s .atomicMisaligned (some .combine) va) ∧
    (q.wait = none → released s → va.toNat % 64 = 0 → homeIs s va .combine t s1 → s1.homeFree t 64 = true →
      exec (.publish a b sc) s = .next ((s1.modSeq s.curDie s.curSeq fun q =>
        { q with wait := some (.flip t ((s.curSeqr.src b).setWidth 32) va) }).progWait s.curDie s.curSeq)) ∧
    (∀ v, q.wait = some (.answered v) → exec (.publish a b sc) s = pDone s id (pAfter s [a, b]) ∧
      exec (.semadd a b sc) s = pDone s id (pAfter s [a, b]) ∧
      (n ≤ v.toNat % 2 ^ 32 → exec (.percoSemwait a b sc) s = pDone s id (pAfter s [a, b])))

/-- R228, R233, R238, R244-R254, R260-R263: a move command reads its descriptor from the runner store, refuses one of
another KIND or one that breaks the checks of R238, and queues a box; with .sy the program waits for it. NEST starts an
instance, SEQST reads its state, and ABORT of an instance that does not run does nothing. -/
def Obligations.PercoMoves : Prop :=
  ∀ (s : State) (d : Reg) (a : Src) (sy : Bool),
    let q := s.curSeqr
    let die := s.curDie
    let va := q.src a
    let b : Desc := BitVec.ofNat 1024 (memNat q.store va.toNat 128)
    let rc : Rec := BitVec.ofNat 2048 (memNat q.store va.toNat 256)
    (q.wait = none → ∀ p ∈ moveCmds,
      (va.toNat % 128 ≠ 0 ∨ 16384 < va.toNat + 128 → exec (p.1 a sy) s = pFaults s .boxInvalid none 0) ∧
      (structAt s va 128 → bxKind b ≠ p.2 → exec (p.1 a sy) s = pFaults s .boxInvalid none 0) ∧
      (structAt s va 128 → bxKind b = p.2 → ∀ c, s.boxCheck die (.seq s.curSeq) q.tag.vf b = .error c →
        exec (p.1 a sy) s = pFaults s c none 0) ∧
      (structAt s va 128 → bxKind b = p.2 → accepted s (.seq s.curSeq) q.tag.vf b (listed q b) →
        (p.2 = 7 → pSound s (bxAux0 b).toNat (16 * mcastCount b)) →
        (256 ≤ (s.runner die).queued → exec (p.1 a sy) s = pWaits s) ∧
        ((s.runner die).queued < 256 → ∃ u x, exec (p.1 a sy) s = .next u ∧
          (u.runner die).boxes = (s.runner die).boxes ++ [x] ∧ x.desc = b ∧ x.mid = s.pkg.moveid ∧ x.tag = q.tag ∧
          x.agent = .prog die q.prog ∧ x.dests = listed q b ∧ x.state = .queued ∧ u.pkg.moveid = s.pkg.moveid + 1 ∧
          u.cores = s.cores ∧ u.mem = s.mem ∧
          u.curSeqr = if sy then { q with
            wait := some (.box s.pkg.moveid), waitSince := some (q.waitSince.getD (s.runner die).cycle) }
            else q.advance false (pAfter s [a])))) ∧
    (∀ mid, q.wait = some (.box mid) → ∀ p ∈ moveCmds, exec (p.1 a sy) s =
      if ((s.runner die).box mid).isSome then pWaits s else pDone s id (pAfter s [a])) ∧
    (q.wait = none → structAt s va 256 →
      (rcOk rc = false ∨ (s.boxCheck die .walker q.tag.vf (rcTemplate rc)).isOk = false →
        exec (.nest a sy) s = pFaults s .boxInvalid none 0) ∧
      (rcOk rc = true → accepted s .walker q.tag.vf (rcTemplate rc) [] →
        (((s.runner die).instOf q.tag.ctx (rcSeq rc)).isSome = true →
          exec (.nest a sy) s = pFaults s .collectiveSeq none 0) ∧
        (((s.runner die).instOf q.tag.ctx (rcSeq rc)).isSome = false →
          (16 ≤ (s.runner die).insts.length → exec (.nest a sy) s = pWaits s) ∧
          ((s.runner die).insts.length < 16 → let t := s.startInst die q s.curSeq rc
            exec (.nest a sy) s = .next (if sy = true ∧ ((t.runner die).inst s.pkg.instNext).isSome = true then
              (t.modCurSeq fun q => { q with wait := some (.inst s.pkg.instNext) }).progWait die s.curSeq
              else t.modCurSeq fun q => q.advance false (pAfter s [a])))))) ∧
    (∀ id, q.wait = some (.inst id) → exec (.nest a sy) s =
      if ((s.runner die).inst id).isSome then pWaits s else pDone s (fun q => q) (pAfter s [a])) ∧
    exec (.seqst d a) s = pSets s d ((s.runner die).instState q.tag.ctx (va.setWidth 32)) (pAfter s [a]) ∧
    ((∀ i, (s.runner die).instOf q.tag.ctx (va.setWidth 32) = some i → i.state ≠ 1) → exec (.abort d a) s =
      pSets s d ((s.runner die).instState q.tag.ctx (va.setWidth 32)) (pAfter s [a])) ∧
    (∀ i, (s.runner die).instOf q.tag.ctx (va.setWidth 32) = some i → i.state = 1 →
      (∀ t, s.abortInst die i = .ok t → exec (.abort d a) s = .next ((t.modCurSeq fun q =>
        q.setG d ((s.runner die).instState s.curSeqr.tag.ctx (va.setWidth 32))).modCurSeq fun q =>
          q.advance false (pAfter s [a]))) ∧
      (∀ c x, s.abortInst die i = .bad c x →
        exec (.abort d a) s = pFaults s c (some .read) (BitVec.ofNat 64 x)))

/-- R49, R226, R227, R266-R268, R270: the privileged instructions fault in a user program; TRAP suspends the program
after itself, HALT ends it, SYSRD and SYSWR reach the system registers, TLBINV drops translations on all four dies,
MAPCHK answers 0 or a cause, RESUME continues suspended work, and KILLCTX waits for its drain; a second one of a context
waits for the first and answers 0. -/
def Obligations.PercoSystem : Prop :=
  ∀ (s : State) (d : Reg) (a b : Src) (sup wr : Bool) (r : BitVec 12) (imm : BitVec 16),
    let q := s.curSeqr
    let die := s.curDie
    let ctx : BitVec 16 := (q.src b).setWidth 16
    let va := (q.src a).toNat
    let kctx : BitVec 16 := (q.src a).setWidth 16
    let regs : List Word := [BitVec.ofNat 64 (2 ^ 20 * s.curSeq.val + 2 ^ 16 * die.val + if q.tag.sup then 1 else 0),
      BitVec.ofNat 64 (s.runner die).cycle, q.tag.ctx.setWidth 64,
      BitVec.ofNat 64 ((s.runner die).boxes.countP (fun x => x.agent == .prog die q.prog &&
        !(x.part == .credit || x.part == .credited)) % 2 ^ 16), q.wdog]
    (q.tag.sup = false → ∀ i ∈ percoPrivileged d a b sup wr r, exec i s = pFaults s .privViolation none 0) ∧
    exec (.percoTrap imm) s = .next (s.progFault die s.curSeq .userTrap none 0 (imm.setWidth 64) fun q =>
      q.advance false (q.pc + 4)) ∧
    exec .percoHalt s = .next (s.modSeq die s.curSeq fun q =>
      { q with running := false, wait := none, waitSince := none, susp := none }) ∧
    (∀ h : r.toNat < regs.length, exec (.percoSysrd d r) s = pSets s d regs[r.toNat] (pAfter s [])) ∧
    (4 < r.toNat → exec (.percoSysrd d r) s = pFaults s .reservedField none 0 ∧
      exec (.percoSyswr a r) s = pFaults s .reservedField none 0) ∧
    (q.tag.sup = true →
      (r.toNat < 4 → exec (.percoSyswr a r) s = pFaults s .privViolation none 0) ∧
      (r.toNat = 4 → exec (.percoSyswr a r) s =
        pDone s (fun q => { q with wdog := (s.curSeqr.src a).setWidth 32 |>.setWidth 64 }) (pAfter s [a])) ∧
      (∀ p ∈ ([(.tlbinv a b, fun e => e.holds ctx va, fun w => w.ctx == ctx &&
            (w.lvl == 4 || (decide (w.base ≤ va) && decide (va < w.base + w.size))), fun c => c == ctx, 1 + litWords [a, b]),
          (.tlbinvCtx a b, fun e => e.ctx == ctx, fun w => w.ctx == ctx, fun c => c == ctx, 1 + litWords [a, b]),
          (.tlbinvAll, fun _ => true, fun _ => true, fun _ => true, 1)] :
            List (Instr × (TlbEntry → Bool) × (WalkEntry → Bool) × (BitVec 16 → Bool) × Nat)),
        ∃ u, exec p.1 s = .next u ∧ (∀ x, (u.runner x).tlb = (s.runner x).tlb.filter (fun e => !p.2.1 e) ∧
            (u.runner x).walks = (s.runner x).walks.filter fun w => !p.2.2.1 w) ∧
          u.mem = s.mem ∧ (s.requestsOut p.2.2.2.1 = false → u.curSeqr = q.advance false (q.after p.2.2.2.2)) ∧
          (s.requestsOut p.2.2.2.1 = true → u.curSeqr.pc = q.pc)) ∧
      (∀ c, s.lookup die ctx va = .bad c →
        exec (.mapchk d a b sup wr) s = pSets s d (BitVec.ofNat 64 c.code) (pAfter s [a, b])) ∧
      (s.lookup die ctx va = .noCtx →
        exec (.mapchk d a b sup wr) s = pSets s d 62 (pAfter s [a, b])) ∧
      (∀ e, (s.runner die).tlb.filter (fun x => x.ctx == ctx && decide (x.base ≤ va) && decide (va < x.base + x.size)) =
          [e] → exec (.mapchk d a b sup wr) s =
        pSets s d (if permOk e.perms sup (if wr then .write else .read) then 0 else 37) (pAfter s [a, b])) ∧
      (∀ e fill, s.lookup die ctx va = .leaf e fill → exec (.mapchk d a b sup wr) s =
        if permOk e.perms sup (if wr then .write else .read) then pSets (s.modRunner die fill) d 0 (pAfter s [a, b])
        else pSets s d 37 (pAfter s [a, b])) ∧
      (s.work ((q.src a).setWidth 32) = none → exec (.resume d a) s = pSets s d 1 (pAfter s [a]) ∧
        exec (.resumeDrop d a) s = pSets s d 1 (pAfter s [a])) ∧
      (∀ x n, s.work ((q.src a).setWidth 32) = some (.prog x n) → (x ≠ die ∨ n ≠ s.curSeq) →
        (∃ u, exec (.resume d a) s = .next u ∧
          u.seqr x n = { s.seqr x n with susp := none, waitSince := none } ∧
          u.curSeqr = (q.setG d 0).advance false (pAfter s [a])) ∧
        ∃ u, exec (.resumeDrop d a) s = .next u ∧ u.seqr x n = (s.seqr x n).ended ∧
          u.curSeqr = (q.setG d 0).advance false (pAfter s [a])) ∧
      (∀ v, q.wait = some (.answered v) → exec (.killctx d a) s = pSets s d v (pAfter s [a])) ∧
      (q.wait = none → (∀ k ∈ s.pkg.kills, k.ctx ≠ kctx) → ∃ u, exec (.killctx d a) s = .next u ∧
        ⟨die, s.curSeq, kctx, 0, 0, .prog, .halting, [], [], false⟩ ∈ u.pkg.kills ∧
        (u.seqr die s.curSeq).wait = some (.drain 0)) ∧
      (q.wait = none → (∃ k ∈ s.pkg.kills, k.ctx = kctx) → exec (.killctx d a) s =
        .next ((s.modSeq die s.curSeq fun q => { q with wait := some (.drain 0) }).progWait die s.curSeq)) ∧
      (∀ n, q.wait = some (.drain n) → exec (.killctx d a) s =
        if s.pkg.kills.any (fun k => k.ctx == kctx) then pWaits s else pSets s d 0 (pAfter s [a])))

/-! ### What the engines of a core do by themselves (R28, R111, R121, R132, R154, R200, R210, R213-R220, R279, R287-R291, R323) -/

namespace Sys2Proof.Claims

/-- The watch of core c in this package. -/
def watchOf (s : State) (c : CoreId) : Watch → Bool := fun w => w.core == c && w.pkg.toNat == s.pkg.pkgid.toNat

/-- The head command of core c's matrix engine may go on (R210, R291). -/
def matGoes (s : State) (c : CoreId) (e : MEntry) (rest : List MEntry) (p : MPhase) : Prop :=
  (s.core c).mat.queue = e :: rest ∧ (s.core c).mat.phase = p ∧ (s.core c).matMayGo = true

end Sys2Proof.Claims

/-- R28: a word that no table assigns raises ILLEGAL_OPCODE with no other effect: a trap of the stem, a fault of the
vector engine, a fault of the program. -/
def Obligations.UnassignedWords : Prop :=
  ∀ (s : State) (w : W32),
    exec (.unassignedEncoding .stem w) s = .next (s.stemTrap (decodeEngine w) .illegalOpcode (w.setWidth 64)) ∧
    exec (.unassignedEncoding .vector w) s = .next (s.vecFault .illegalOpcode (w.setWidth 64)) ∧
    exec (.unassignedEncoding .perco w) s = pFaults s .illegalOpcode none 0

/-- R111, R121, R132, R154, R279, R289-R291, R323: what the stem and the vector engine of a core do between
instructions, each event where it can happen: a token starts, an uncorrectable word of a load is found, a vector fault is
reported and the stem takes it, a wait ends in WATCHDOG, a WAITA is installed, times out and is answered, a remote atomic
performs and replies, a bank serves a request, a corrected word is written back. -/
def Obligations.CoreEvents : Prop :=
  ∀ (s : State) (c : CoreId),
    let k := s.core c
    let die := dieOf c
    let now := s.cycles.get die
    (∀ tok rest, k.vec.queue = tok :: rest → k.phase = .running → k.vec.run = none → k.vec.clear = true → k.vec.ecc = [] →
      (∀ q ∈ k.vec.svc, k.vec.tokenCycle tok ≤ q.time) → ∃ u, exec (.tokenStart c) s = .next u ∧
      (u.core c).vec.queue = rest ∧ (u.core c).stem = k.stem ∧ u.mem = s.mem ∧
      (tok.trip = 0 → (u.core c).vec.run = none) ∧
      (tok.trip ≠ 0 → ∃ r, (u.core c).vec.run = some r ∧ r.tok = tok ∧ r.iter = 0 ∧ r.pos = 0 ∧
        r.buf = segWords k.seg tok.ent.toNat)) ∧
    (∀ f, earliestFault k.vec.ecc = some f → k.vec.held = none → k.vec.taken = false →
      (∀ g, k.vec.found = some g → f.time < g.time) →
      exec (.vectorLoadEcc c) s = .next (((s.modCore c fun k => k.setVec { k.vec with
        found := some f, ecc := k.vec.found.toList ++ k.vec.ecc.erase f }).tellFault c f).passTo die f.time)) ∧
    (∀ f, k.vec.found = some f → k.vec.svc = [] → k.vec.eccDue = false → ∃ u,
      exec (.vectorFaultReport c) s = .next u ∧ (u.core c).stem.vfault = f.loc ∧
      (u.core c).vec.found = none ∧ (u.core c).vec.run = none ∧
      (u.core c).vec.held = some { f with time := max (max f.time k.vec.lastWrite) now } ∧
      (u.core c).stem.x = k.stem.x ∧ (u.core c).stem.pc = k.stem.pc ∧ u.mem = s.mem) ∧
    (∀ e f, k.nextFault = some (e, f) → k.mayTrap = true → ∃ u, exec (.engineFaultTrap c) s = .next u ∧
      (u.core c).stem.trapcause = trapCauseWord e f.cause ∧ (u.core c).stem.trapval = f.val ∧
      (u.core c).stem.trappc = k.stem.pc.setWidth 64 ∧ (u.core c).stem.pc = k.stem.trapvec.setWidth 16 ∧
      (u.core c).stem.status = statusMode k.stem.status true (statusSup k.stem.status) ∧
      (u.core c).stem.x = k.stem.x ∧ u.mem = s.mem) ∧
    (∀ t g, k.stem.waitSince = some t → k.grain = some g → k.phase = .running → statusWdog k.stem.status = true →
      g.wdog ≠ 0 → 1024 * g.wdog.toNat < now - t.toNat →
      exec (.watchdog c) s = .next { ({ s with cur := c } : State).stemTrap .stem .watchdog 0 with cur := s.cur }) ∧
    (∀ q, k.stem.waita = some q →
      (q.phase = .replying → exec (.waitaReply c) s = .next (s.setWaita c fun w => { w with phase := .replied })) ∧
      (q.phase = .atHome → q.timeout ≠ 0 → q.timeout.toNat ≤ (BitVec.ofNat 64 now - q.sent).toNat →
        s.dies.toList.any (fun r => r.watches.any (watchOf s c)) = true →
        exec (.waitaTimeout c) s = .next (s.fireAll (watchOf s c))) ∧
      (q.phase = .travelling → k.watchWaits q = true → exec (.watchInstall c) s = .next s) ∧
      (q.phase = .travelling → k.watchWaits q = false → s.translate die (s.coreTag c) q.va.toNat .read = .noCtx →
        exec (.watchInstall c) s = .next ((s.internalCheck die q.ctx).setWaita c fun w =>
          { w with phase := .replying, seen := s.free 3 })) ∧
      (∀ cause, q.phase = .travelling → k.watchWaits q = false →
        s.translate die (s.coreTag c) q.va.toNat .read = .bad cause →
        exec (.watchInstall c) s = .next (s.waitaFault c q cause)) ∧
      (∀ t s1, q.phase = .travelling → k.watchWaits q = false →
        s.translate die (s.coreTag c) q.va.toNat .read = .ok t s1 → s1.isLocal t = true →
        let n := if q.wide then 8 else 4
        let old := BitVec.ofNat 64 (leNat (s1.homeBytes t n))
        s1.homeReadBad t n = none →
        (old ≠ q.expected → exec (.watchInstall c) s =
          .next (s1.setWaita c fun w => { w with phase := .replying, seen := old })) ∧
        (2048 ≤ (s1.runner (s1.watchDie t)).watches.length → exec (.watchInstall c) s =
          .next (s1.setWaita c fun w => { w with phase := .replying, seen := old })) ∧
        (old = q.expected → (s1.runner (s1.watchDie t)).watches.length < 2048 → exec (.watchInstall c) s =
          .next (((s1.noteRead t n).modRunner (s1.watchDie t) (addWatch ⟨t, q.wide, q.expected, s1.pkg.pkgid.setWidth 12, c,
            q.ctx, q.va, 0, 0, 0, 0⟩)).setWaita c fun w => { w with phase := .atHome, target := some t })))) ∧
    (∀ (i : Nat) r t, (s.ratomsOf c)[i]? = some r → r.target = some t → r.phase = .atHome → s.isLocal t = true →
      ratomFirst (s.ratomsOf c) r = true → s.homeFree t (if r.wide then 8 else 4) = true →
      (s.pkg.killed.contains r.tag.ctx = true → exec (.ratomAtHome c i) s = .next (s.ratomReply c r (s.free 3))) ∧
      (s.pkg.killed.contains r.tag.ctx = false → ∀ s1 old,
        s.atomicAt t (if r.wide then 8 else 4) r.op r.b r.c = .ok (s1, old) →
        exec (.ratomAtHome c i) s = .next (s1.ratomReply c r old))) ∧
    (∀ (i : Nat) r, k.stem.ratoms[i]? = some r → r.phase = .replied → ∃ u, exec (.ratomReply c i) s = .next u ∧
      (u.core c).stem.ratoms = k.stem.ratoms.filter (fun q => q.id ≠ r.id) ∧
      (u.core c).getX r.d = (if r.d = 0 then 0 else
        if r.wide then r.old else (r.old.setWidth 32).signExtend 64) ∧ u.mem = s.mem) ∧
    (∀ (b : Fin 128) r, headAt b.val [] k.bankq = some r → exec (.bankSideService c b) s =
      .next (((s.modCore c fun k => { k with bankq := k.bankq.erase r }).serve r
        ⟨s.pkg.pkgid.setWidth 12, true, c, r.addr⟩).getD s)) ∧
    (∀ wd : Nat, wd ∈ k.eccFix → exec (.eccWriteback c wd) s = .next (s.modCore c fun k =>
      { k with eccFix := k.eccFix.filter (· ≠ wd), eccSoft := k.eccSoft.filter (· ≠ wd) }))

/-- R200, R210, R213-R220, R288, R293: the matrix engine takes its commands in order. A wait subtracts its count or
goes on; a command starts, computes its chunks, writes its tile once it is EMPTY, and does its signal; a strike is
logged, and recovered from; what a command of no chunk does. -/
def Obligations.MatrixEvents : Prop :=
  ∀ (s : State) (c : CoreId) (e : MEntry) (rest : List MEntry),
    let k := s.core c
    (k.mat.queue = e :: rest → k.matMayStart = true →
      (e.wait = none → exec (.matrixCommandStart c) s = .next (s.matBegin c)) ∧
      (∀ p, e.wait = some p → k.hardAt p.addr 4 = true →
        exec (.matrixCommandStart c) s = .next (s.matEcc c p.addr 0)) ∧
      (∀ p, e.wait = some p → k.hardAt p.addr 4 = false → (p.count = 0 ∨ k.banksFree p.addr 4 = true) →
        (k.read p.addr 4 < p.count.toNat → exec (.matrixCommandStart c) s = .next s) ∧
        (p.count.toNat ≤ k.read p.addr 4 → ∃ t, s.matWait c p = some t ∧
          exec (.matrixCommandStart c) s = .next (t.matBegin c)))) ∧
    (∀ n j, matGoes s c e rest (.chunks n) → mJob e k.mat.rowMask k.mat.bounds = some j → k.phase = .running →
      let m := s.operands k
      j.bad k m n = none → (k.chunkDone j m n).mat.phase ≠ .signal →
      exec (.mmaChunk c) s = .next (s.modCore c fun k => k.chunkDone j m n)) ∧
    (∀ n j, matGoes s c e rest (.chunks n) → mJob e k.mat.rowMask k.mat.bounds = some j → k.phase = .running →
      let m := s.operands k
      (∀ b, j.bad k m n = some b → exec (.mmaChunk c) s = .next (s.matBad c b n)) ∧
      (j.bad k m n = none → (k.chunkDone j m n).mat.phase = .signal →
        exec (.mmaChunk c) s = .next ((s.modCore c fun k => k.chunkDone j m n).matSignal c))) ∧
    (∀ t out n j, matGoes s c e rest (.emit t out n) → mJob e k.mat.rowMask k.mat.bounds = some j → k.phase = .running →
      (k.full.get t = true → exec (.tileEmit c) s = .next s) ∧
      (k.full.get t = false → j.marksOnly = false →
        let put := s.modCore c fun k => k.setTile t (copyRegion (sizM j.size) (sizN j.size) (k.tiles.get t) out)
        (mChunk j.mods = true → n < j.chunks →
          exec (.tileEmit c) s = .next (put.modMat c fun m => { m with phase := .chunks n })) ∧
        (mChunk j.mods = false ∨ j.chunks ≤ n → exec (.tileEmit c) s = .next (put.matSignal c))) ∧
      (k.full.get t = false → j.marksOnly = true → exec (.tileEmit c) s = .next
        ((s.modCore c fun k => k.setTile t (k.tiles.get t)).matSignal c))) ∧
    (∀ t m z n, matGoes s c e rest (.chunks n) → e.cmd = .memit t m z →
      k.phase = .running → (k.full.get t = true → exec (.tileEmit c) s = .next s) ∧
      (k.full.get t = false → exec (.tileEmit c) s = .next ((s.modCore c fun k =>
        let k := k.setTile t (k.moulds.get m)
        if z then { k with moulds := k.moulds.set m.val [] m.isLt } else k).matSignal c))) ∧
    (matGoes s c e rest .signal → exec (.matrixCommandComplete c) s = .next (s.matSignal c)) ∧
    (∀ n, matGoes s c e rest (.chunks n) → e.sig = none →
      let done (f : Core → Core) : Host.Outcome State Fault Refusal :=
        .next ((s.modCore c f).modMat c Mat.finish)
      (∀ m, e.cmd = .mclr m → exec (.matrixCommandComplete c) s =
        done fun k => { k with moulds := k.moulds.set m.val [] m.isLt }) ∧
      (∀ m a, e.cmd = .mtld m a → k.hardAt a 65536 = false →
        exec (.matrixCommandComplete c) s = done fun k => k.loadMould m a) ∧
      (∀ m a, e.cmd = .mtst m a → exec (.matrixCommandComplete c) s = .next ((s.storeMould c m a).matSignal c)) ∧
      (∀ x, e.cmd = .mtbar x (barDigest x) → exec (.matrixCommandComplete c) s = done id) ∧
      (∀ x y, e.cmd = .mtbar x y → barDigest x ≠ y →
        exec (.matrixCommandComplete c) s = .next (s.matFault c .testbarMismatch (barDigest x).toNat 0)) ∧
      (∀ g v, e.cmd = .mfmt g v → exec (.matrixCommandComplete c) s =
        done fun k => k.setStem { k.stem with gfmt := k.stem.gfmt.set g.val v g.isLt })) ∧
    (∀ n x y, matGoes s c e rest (.chunks n) → e.cmd = .mtbar x y →
      (k.mat.barStruck = true → exec (.mouldParity c) s =
        .next ((s.logCore c .mouldParity 0).matFault c .replayExhausted 0 0)) ∧
      (k.mat.barStruck = false → exec (.mouldParity c) s =
        .next ((s.logCore c .mouldParity 0).modMat c fun m => { m with barStruck := true }))) ∧
    (∀ n sp ctl a z mods m, matGoes s c e rest (.chunks n) → e.cmd = .mma sp ctl a z mods → mChunk mods = false →
      e.cmd.mould = some m → exec (.mouldParity c) s = .next ((s.logCore c .mouldParity 0).replayWindow c e m))

/-! ### What a runner die does by itself (R226-R228, R236-R254, R262, R287, R355, R358, R363, R364, R375) -/

/-- R124, R226, R227, R233, R236-R238, R244, R256, R262, R355, R358, R363, R364: what the dies' runners do between
instructions, each event where it can happen: a start or a post is taken, a program that waits too long is suspended, a
box starts, moves elements and completes, an instance emits a box, a header flips, a kill is drained, an overflow record
is posted, a memory request is served, a probe slot is filled. -/
def Obligations.RunnerEvents : Prop :=
  ∀ (s : State) (d : DieId),
    let r := s.runner d
    (∀ st rest n, r.startq = st :: rest → r.idleSeq st.services = some n → s.pkg.draining st.tag.ctx = false →
      (s.ctxEntry st.tag.ctx).isSome = true → st.entry.toNat % 4 = 0 → ∃ u, exec (.sequencerStart d) s = .next u ∧
        (u.seqr d n).running = true ∧ (u.seqr d n).pc = st.entry ∧ (u.seqr d n).getG 1 = st.arg ∧
        (u.seqr d n).getG 2 = st.g2 ∧ (u.seqr d n).tag = { st.tag with sup := st.services } ∧
        (u.seqr d n).wait = none ∧ (u.seqr d n).loops = [] ∧ (u.seqr d n).rets = [] ∧
        (u.runner d).startq = rest ∧ u.mem = s.mem) ∧
    (∀ n t, (s.seqr d n).waitSince = some t → (s.seqr d n).running = true → (s.seqr d n).susp = none →
      ((s.seqr d n).wdog.setWidth 32).toNat ≠ 0 → 1024 * ((s.seqr d n).wdog.setWidth 32).toNat < r.cycle - t →
      exec (.percoWatchdog d n) s = .next (s.progFault d n .watchdog none 0 0 id)) ∧
    (∀ c hi p, (s.core c).posts.find? (fun p => p.hi == hi) = some p → s.postDie c hi = some d →
      (s.pkg.draining p.ctx = true → exec (.postAccept c hi) s = .next (s.modCore c (dropPost p.num))) ∧
      (s.pkg.draining p.ctx = false →
      (p.isBox = false → 64 ≤ r.startq.length → exec (.postAccept c hi) s = .next s) ∧
      (p.isBox = false → r.startq.length < 64 → ∃ u, exec (.postAccept c hi) s = .next u ∧ u.mem = s.mem ∧
        (u.runner d).startq = r.startq ++ [⟨p.entry, p.arg, BitVec.ofNat 64 c.val, p.tag c, false, p.grain⟩]) ∧
      (p.isBox = true → 256 ≤ r.queued → exec (.postAccept c hi) s = .next s) ∧
      (p.isBox = true → r.queued < 256 → (s.ctxEntry p.ctx).isSome = true → ∀ l, s.boxCheck d (.xfer c) p.vf p.desc = .ok l →
        ∃ u x, exec (.postAccept c hi) s = .next u ∧ u.mem = s.mem ∧ (u.runner d).boxes = r.boxes ++ [x] ∧
          x.desc = p.desc ∧ x.mid = s.pkg.moveid ∧ x.agent = .core c ∧ x.tag = p.tag c ∧ x.dests = l ∧ x.state = .queued))) ∧
    (∀ mid x, r.box mid = some x →
      (x.state = .queued → r.engines < 64 → s.boxMayStart d x = true → x.checked = false →
        let s1 := s.modBox d mid fun b => { b with state := .running }
        (bxCount x.desc = 0 → exec (.boxStart d mid) s = .next (s1.startedBox d mid fun z => { z with part := .credit })) ∧
        (bxCount x.desc ≠ 0 → bxPack x.desc = true →
          exec (.boxStart d mid) s = .next (s1.checkPack d { x with state := .running })) ∧
        (bxCount x.desc ≠ 0 → bxPack x.desc = false → bxKind x.desc = 6 →
          exec (.boxStart d mid) s = .next (s1.checkTable d { x with state := .running })) ∧
        (bxCount x.desc ≠ 0 → bxPack x.desc = false → bxKind x.desc ≠ 6 →
          exec (.boxStart d mid) s = .next (s1.startedBox d mid id))) ∧
      (x.state = .queued → r.engines < 64 → s.boxMayStart d x = false → exec (.boxStart d mid) s = .next s) ∧
      (x.state = .running → x.checked = true → x.outs = 0 →
        (x.part = .mask → exec (.boxElement d mid) s = .next (s.writeMask d x)) ∧
        (x.part = .elements → (bxKind x.desc = 2 ∨ bxKind x.desc = 3) → x.idx = none →
          exec (.boxElement d mid) s = .next (s.listEntry d x)) ∧
        (x.part = .elements → (bxKind x.desc ≠ 2 ∧ bxKind x.desc ≠ 3) ∨ x.idx.isSome = true →
          (∀ t, s.elemReady d x = .error t → exec (.boxElement d mid) s = .next t) ∧
          (∀ t, s.elemReady d x = .ok t → exec (.boxElement d mid) s = .next (t.elementAt d x) ∧
            (bxKind x.desc = 9 → exec (.boxElement d mid) s =
              .next (t.putElem d x ((bxAux1 x.desc).toNat % 2 ^ bxDw x.desc) 0))))) ∧
      (x.state = .running → x.part = .credit → x.outs = 0 →
        (bxCredit x.desc = 0 → exec (.boxComplete d mid) s = .next (s.removeBox d mid)) ∧
        (bxCredit x.desc ≠ 0 → exec (.boxComplete d mid) s = .next (match x.inst with
          | some id => (s.sendCredit d x).settleInst d id
          | none => s.sendCredit d x)))) ∧
    (∀ l1 rc l2 e, r.overflow = l1 ++ rc :: l2 → (∀ x ∈ l1, ∃ e, s.ctxEntry x.ctx = some e ∧ s.fqFull e = true) →
      s.fqFull e = false → s.ctxEntry rc.ctx = some e → exec (.overflowRecordPost d) s =
        .next ((s.modRunner d fun k => { k with overflow := k.overflow.erase rc }).writeFault e rc)) ∧
    (∀ (i : Nat) x s1 bs l, r.insts[i]? = some x → x.state = 1 → x.susp = none → x.point < rcTotal x.bits → r.queued < 256 →
      s.readVa d x.tag (rcRanktab x.bits + BitVec.ofNat 64 (8 * rcPeer x.bits x.point)) 8 = .bytes s1 bs →
      s1.boxCheck d .walker x.tag.vf (rcBox x.bits x.point (BitVec.ofNat 64 (leNat bs))).1 = .ok l →
      exec (.walkerEmit d i) s = .next ((s1.addBox d fun mid =>
        { Box.fresh mid 0 (rcBox x.bits x.point (BitVec.ofNat 64 (leNat bs))).1 x.tag (.inst x.id) none [] [] with
          hdr := (rcBox x.bits x.point (BitVec.ofNat 64 (leNat bs))).2, seq := x.seq, inst := some x.id }).modInst d x.id
            fun y => { y with point := y.point + 1, emitted := y.emitted + 1 })) ∧
    (∀ n t sq va, (s.seqr d n).wait = some (.flip t sq va) → (s.seqr d n).running = true → (s.seqr d n).susp = none →
      s.homeFree t 64 = true →
      (∀ h, s.header t = .at_ h → exec (.publishFlip d n) s = .next
        ((if h.pseq = sq then s else s.setHead t sq !h.sel).modSeq d n fun q => { q with wait := some (.answered 0) })) ∧
      (s.header t = .unfit → exec (.publishFlip d n) s = .next ((s.progUnfit d n va).getD s))) ∧
    (∀ n k, s.pkg.kills.filter (fun k => k.die == d && k.seqn == n) = [k] →
      (k.stage = .halting → exec (.killctxDrainDone d n) s =
        .next (if (∀ c g, (s.core c).grain = some g → g.ctx ≠ k.ctx) then s.openRounds k else s)) ∧
      (k.stage = .rounds → k.rounds.all (s.outcomeIn k.ctx) = true →
        exec (.killctxDrainDone d n) s = .next (s.beginDrain k)) ∧
      (k.stage = .rounds → k.rounds.all (s.outcomeIn k.ctx) = false → exec (.killctxDrainDone d n) s = .next s) ∧
      (∀ x rest, k.stage = .draining → k.toSend = x :: rest →
        exec (.killctxDrainDone d n) s = .next ((s.sendKill k x.1 x.2 rest).getD s)) ∧
      (k.stage = .draining → k.toSend = [] → exec (.killctxDrainDone d n) s =
        .next (if s.requestsOut (fun c => c == k.ctx) then s else ((s.killRecord k.die k.ctx).modPkg fun p => { p with
          kills := p.kills.erase k
          killed := if k.left then p.killed else p.killed.filter (· ≠ k.ctx)
          rounds := if k.left then p.rounds else p.rounds.filter fun r => r.ctx ≠ k.ctx }).killOver k)) ∧
      (k.stage = .rounds → exec (.roundDrainTimeout d n) s =
        .next (if 64000000 ≤ r.cycle - k.since then s.beginDrain k else s))) ∧
    (∀ k, ∀ x ∈ allDies, ((s.beginDrain k).runner x).boxes = (s.runner x).boxes.filter (fun b => b.tag.ctx != k.ctx) ∧
      ((s.beginDrain k).runner x).watches = (s.runner x).watches.filter (fun w => w.ctx != k.ctx) ∧
      ((s.beginDrain k).runner x).fills = (s.runner x).fills.filter (fun f => f.tag.ctx != k.ctx)) ∧
    (∀ pk ctx, (s.pkg.yrbase.getLsbD 0 = true → ∃ u, exec (.killMessage pk ctx) s = .next u ∧ ctx ∈ u.pkg.killed ∧
        (∀ x ∈ s.pkg.killed, x ∈ u.pkg.killed) ∧ u.mem = s.mem ∧ u.cores = s.cores ∧ u.dies = s.dies) ∧
      (s.pkg.yrbase.getLsbD 0 = false → exec (.killMessage pk ctx) s = .next s)) ∧
    (∀ (i : Nat) q, r.hbmq[i]? = some q →
      (s.servable r.cycle r.hbmq i = false → exec (.hbmRequest d i) s = .next s) ∧
      (s.servable r.cycle r.hbmq i = true → let s1 := s.modRunner d fun k => { k with hbmq := k.hbmq.eraseIdx i }
        ((∀ t, q.deadline = some t → r.cycle ≤ t) → exec (.hbmRequest d i) s =
          .next ((s1.serve q ⟨s.pkg.pkgid.setWidth 12, false, 0, q.addr⟩).getD s)) ∧
        (∀ t, q.deadline = some t → t < r.cycle → exec (.hbmRequest d i) s =
          .next (((s1.logCause d ⟨4, s.pkg.chanOf q.addr, d, false⟩ .deadlineMissed (BitVec.ofNat 64 q.dclass)
            q.tag.ctx).serve q ⟨s.pkg.pkgid.setWidth 12, false, 0, q.addr⟩).getD s))) ∧
      (∀ t, q.deadline = some t → t ≤ r.cycle + 64 → ∃ u, exec (.deadlineUrgent d i) s = .next u ∧
        (u.runner d).hbmq = r.hbmq.set i { q with urgent := true } ∧ u.mem = s.mem)) ∧
    (∀ (i : Nat) f, r.fills[i]? = some f → f.susp = none → f.run = true ∨ r.engines < 64 →
      (s.pkg.draining f.tag.ctx = true → exec (.probeFillComplete d i) s = .next (s.modFill d i fun _ => none)) ∧
      (s.pkg.draining f.tag.ctx = false → ∀ t s1,
        (s.modFill d i fun f => some { f with run := true }).translate d f.tag f.va.toNat .read = .ok t s1 →
        s1.isLocal t = true → s1.reaches d t = true → s1.homeFree t 2048 = true →
        (s1.core f.core).banksFree ((s1.core f.core).slotBase f.slot.val) 2048 = true → s1.homeReadBad t 2048 = none →
        exec (.probeFillComplete d i) s =
          .next (((s1.noteRead t 2048).modFill d i fun _ => none).fillSlot f (s1.homeBytes t 2048))))

/-! ### The scheduler and pre-emption (R29, R295-R318) -/

/-- R29, R295-R318: what the scheduler and pre-emption do, each event where it can happen: an entry of a mapped queue
is read, a record becomes ready, a grain is placed and starts, a record ends, a spilled record enters the pool, a core
is asked to stop, halts, and is saved and restored; a slot is mapped, unmapped and notified, and CHILDQ is written. -/
def Obligations.SchedulerEvents : Prop :=
  ∀ (s : State) (k : Fin 64) (c : CoreId) (id : Nat) (d : DieId),
    let p := s.pkg
    let q := p.slots.get k
    let now := s.cycles.get (dieOf c)
    (q.mapped = true → q.dead = false → p.dying (descCtx q.desc) = false → q.wakepend = true ∨ q.look = true →
      p.held k < 16 → s.memBad (q.phys + 0x10) 4 = false →
      s.memBad (q.phys + 0x18) 4 = false →
      let rd := memW32 s.mem (q.phys + 0x10)
      let wr := memW32 s.mem (q.phys + 0x18)
      let va := (descWord q.desc 0).toNat + 128 * (rd.toNat % 2 ^ descLog q.desc)
      (rd = wr → exec (.queueEntryRead k) s = .next (s.modSlot k fun q => { q with wakepend := false, look := false })) ∧
      (rd ≠ wr → ∀ s1 bs, s.serviceRead ⟨descCtx q.desc, descVf q.desc, true, none⟩ va 128 = .ok (s1, bs) →
        let b : BitVec 1024 := BitVec.ofNat 1024 (leNat bs)
        (nestKind b = 1 → 64 ≤ (s1.runner 0).startq.length → exec (.queueEntryRead k) s = .next s1) ∧
        (nestKind b ≠ 1 ∨ (s1.runner 0).startq.length < 64 → exec (.queueEntryRead k) s =
          .next ((s1.writeMem (q.phys + 0x10) (leBytes 4 (rd + 1).toNat)).takeEntry k q.desc b))) ∧
      (rd ≠ wr → ∀ e, s.serviceRead ⟨descCtx q.desc, descVf q.desc, true, none⟩ va 128 = .error e →
        exec (.queueEntryRead k) s = .next (s.queueInvalid k (fnOf (descVf q.desc))))) ∧
    (∀ n, s.nest id = some n → n.state = .waiting →
      (∀ t, nestWaits n.bits n.tag [0, 1, 2, 3] s = .ok (t, true) → exec (.nestReady id) s =
        .next (t.modNest id fun n => { n with state := .ready })) ∧
      (∀ t, nestWaits n.bits n.tag [0, 1, 2, 3] s = .ok (t, false) → exec (.nestReady id) s = .next t) ∧
      (∀ e, nestWaits n.bits n.tag [0, 1, 2, 3] s = .error e → exec (.nestReady id) s =
        .next ((s.serviceCause e n.ctx).modNest id fun n => { (n.withCause e).noMore with state := .done }))) ∧
    (∀ n, s.nest id = some n → s.coresOf id = [] → n.saved = [] → n.total ≤ n.next → n.state ≠ .waiting →
      (p.dying n.ctx = false → exec (.nestDone id) s = .next ((s.finishNest n).getD s)) ∧
      (p.dying n.ctx = true → exec (.nestDone id) s = .next s)) ∧
    (∀ n t, s.offerOrder.findSome? (fun n => (s.tryPlace n).map fun t => (n, t)) = some (n, t) →
      exec .grainDispatch s = .next (t.modPkg fun p => { p with rr := p.rr.setIfInBounds n.prio.toNat n.id })) ∧
    (s.offerOrder = [] → exec .grainDispatch s = .next s) ∧
    (∀ g n, (s.core c).grain = some g → s.nest g.nest = some n → (s.core c).phase = .starting →
      s.ctxEntry g.ctx = none → exec (.grainStart c) s = .next (s.startRefused c g)) ∧
    (∀ g n s1 s2 si vi, (s.core c).grain = some g → s.nest g.nest = some n → (s.core c).phase = .starting →
      (s.ctxEntry g.ctx).isSome = true →
      imageCopy n.tag (nestStext n.bits) (nestStlen n.bits) (nestReload n.bits) ((s.core c).switchTo g.ctx).stext s =
        .ok (s1, si) →
      imageCopy n.tag (nestVtext n.bits) (nestVtlen n.bits) (nestReload n.bits) ((s.core c).switchTo g.ctx).vtext s1 =
        .ok (s2, vi) → ∃ u, exec (.grainStart c) s = .next u ∧ (u.core c).phase = (if s.peersStop c then .stopping else .running) ∧
        (∀ i : Fin 4, (u.core c).getX ⟨i.val + 1, by omega⟩ = (g.idx.get i).setWidth 64) ∧
        (u.core c).getX 5 = BitVec.ofNat 64 c.val ∧ (u.core c).getX 6 = nestArgs n.bits ∧
        (u.core c).stem.pc = nestEntry n.bits ∧ (u.core c).stem.status = statusStart g.prio g.sup ∧
        (u.core c).stem.ctxid = g.ctx ∧ u.mem = s2.mem) ∧
    (let a := p.spillBase d + 256 * ((p.spillRd d).toNat % 2 ^ p.spillLog d)
      let w := memW64 s.mem (a + 0x80)
      let b : BitVec 1024 := BitVec.ofNat 1024 (memNat s.mem a 128)
      p.spillLog d ≠ 0 → p.spillWr d ≠ p.spillRd d → s.memBad a 256 = false →
      let ctx : BitVec 16 := w.extractLsb' 32 16
      (p.spillRd d ∈ p.spillGone.get d → ∃ u, exec (.spillEntryTaken d) s = .next u ∧
        u.pkg.nests = p.nests ∧ u.pkg.spillRd d = p.spillRd d + 1 ∧ u.mem = s.mem ∧ u.cores = s.cores) ∧
      (p.spillRd d ∉ p.spillGone.get d → p.dying ctx = true → exec (.spillEntryTaken d) s = .next s) ∧
      (p.spillRd d ∉ p.spillGone.get d → p.dying ctx = false → (s.ctxEntry ctx).isSome = true →
        p.poolRoom d (w.getLsbD 0) = false → exec (.spillEntryTaken d) s = .next s) ∧
      (p.spillRd d ∉ p.spillGone.get d → p.dying ctx = false → (s.ctxEntry ctx).isSome = true →
        p.poolRoom d (w.getLsbD 0) = true → ∃ u x, exec (.spillEntryTaken d) s = .next u ∧ u.pkg.nests = p.nests ++ [x] ∧
        x.bits = b ∧ x.ctx = ctx ∧ x.prio = (p.spillPrio.get d).headD (nestPrio b) ∧ x.state = .waiting ∧ x.next = 0 ∧ x.sup = w.getLsbD 8 ∧
        x.pool = some d ∧ u.pkg.spillRd d = p.spillRd d + 1 ∧ u.mem = s.mem ∧ u.cores = s.cores)) ∧
    (∀ x v, s.preemptor = some (x, v) →
      exec (.preemptRequest c) s = .next (if (s.together v).contains c then s.requestStop (some x.id) (s.together v)
        else s)) ∧
    (∀ g, (s.core c).grain = some g →
      ((s.core c).phase = .stopping → (s.core c).stem.stq = [] → (s.core c).vec.stopped = true → (s.core c).mat.stopped = true →
        (∀ e, s.pkg.ending.find? (fun e => e.1 == g.ctx) = some e →
          exec (.coreHalted c) s = .next ((s.haltCore c).endGrain c fun n => n.withCause e.2)) ∧
        (s.pkg.ending.find? (fun e => e.1 == g.ctx) = none →
          exec (.coreHalted c) s = .next ((s.haltCore c).abortGrain g))) ∧
      (∀ n t, (s.core c).phase = .halted → s.fillsLanded c = true → s.grainInsts g = [] → s.nest g.nest = some n →
        writeSections n.tag (saveAt g c 0) (s.sections (s.core c) (nestSaveKib n.bits)) s = .ok t →
        exec (.saveComplete c) s = .next ((t.modCore c Core.vacated).modNest g.nest fun n =>
          { n with saved := n.saved ++ [⟨c, (s.core c).kept, .preempt, s.ticks, (s.core c).scratch, []⟩] })) ∧
      (∀ n e, (s.core c).phase = .halted → s.fillsLanded c = true → s.grainInsts g = [] → s.nest g.nest = some n →
        writeSections n.tag (saveAt g c 0) (s.sections (s.core c) (nestSaveKib n.bits)) s = .error e →
        exec (.saveComplete c) s = .next s) ∧
      (∀ n, (s.core c).phase = .restoring → s.nest g.nest = some n →
        (p.dying g.ctx = true → exec (.restoreComplete c) s =
          .next ((s.modCore c fun k => { k with phase := .idle, grain := none }).modNest g.nest fun n =>
            (dropSaved c g.num n).settle)) ∧
        (∀ x t first regs tiles moulds imem seg scratch, p.dying g.ctx = false →
          n.saved.find? (fun x => x.core == c && x.state.grain.any fun h => h.num == g.num) = some x →
          readSections n.tag (saveAt g c 0) [(0, 0x10000), (0x010000, 0x20000), (0x030000, 0x40000),
            (0x070000, 0x20000), (0x090000, 0x10000), (0x0A0000, 0x10000), (0x0B0000, 1024 * nestSaveKib n.bits)] s =
              .ok (t, [first, regs, tiles, moulds, imem, seg, scratch]) →
          exec (.restoreComplete c) s = .next ((t.modCore c fun k =>
            { k.restored (if first = openBytes x.tick then x.state else s.reread x.state) now (nestSaveKib n.bits) regs
                tiles moulds imem seg (memOver scratch x.late) with phase := s.phaseAtStart c }).modNest g.nest fun n =>
              (dropSaved c g.num n).settle)))) ∧
    (p.memready = true →
      exec (.slotMap k) s = .next (s.mapSlot k) ∧
      (∃ u, exec (.slotUnmap k) s = .next u ∧ (u.pkg.slots.get k).mapped = false ∧ u.mem = s.mem) ∧
      (∀ f v, f = 0 ∨ p.slotFn k = f → exec (.notify f k v) s = .next (s.notifySlot k v)) ∧
      (∀ f v, f ≠ 0 → p.slotFn k ≠ f → exec (.notify f k v) s = .next s) ∧
      (∀ v : Word, p.spillWr d = p.spillRd d → ∃ u, exec (.childqWrite d v) s = .next u ∧
        u.pkg.childq.get d = v &&& 0xFFFFFFFFFFFFF01F ∧ u.pkg.childidx.get d = 0 ∧ u.mem = s.mem) ∧
      (∀ v : Word, p.spillWr d ≠ p.spillRd d → exec (.childqWrite d v) s = .next s))

/-! ### Links and windows between packages (R395-R411) -/

/-- R396-R398, R405, R409: the flits of a link direction. A flit in order is delivered and owes an acknowledgement, an
earlier one owes one again, a later one is discarded, a damaged one is answered with a NAK, and the second NAK of one
number starts a retraining, and so it is with a damaged flit that carried acknowledgements of the reverse direction,
which are lost; acknowledgements free the replay buffer, a NAK and a timeout send it again; a retraining
leaves the direction narrower, or down; a port that goes down takes its links with it. -/
def Sys2Proof.Claims.LinkDirections : Prop :=
  ∀ (s : State) (l : LinkId) (up : Bool),
    let x := s.pkg.link l up
    let now := s.linkNow l up
    (∀ f p rest, x.retrain = false → x.lanes ≠ 0 → x.wire = (f, p) :: rest →
      (x.naked = some x.expected → exec (.flitReceived l up true) s =
        .next (s.setLink l up { x with wire := [], back := x.back ++ [.nak x.expected], retrain := true })) ∧
      (x.naked ≠ some x.expected → exec (.flitReceived l up true) s =
        .next (s.setLink l up { x with
          wire := rest, back := x.back ++ [.nak x.expected], naked := some x.expected })) ∧
      (f = x.expected → exec (.flitReceived l up false) s = .next ((s.setLink l up { x with
          wire := rest, expected := x.expected + 1, owed := true, naked := none }).arrive l up p)) ∧
      (f ≠ x.expected → fseqBelow f x.expected = true → exec (.flitReceived l up false) s =
        .next (s.setLink l up { x with wire := rest, owed := true })) ∧
      (f ≠ x.expected → fseqBelow f x.expected = false → exec (.flitReceived l up false) s =
        .next (s.setLink l up { x with wire := rest }))) ∧
    (x.retrain = false → x.lanes ≠ 0 → x.wire = [] →
      let y := s.pkg.link l (!up)
      exec (.flitReceived l up false) s = .next s ∧
      (y.back = [] → exec (.flitReceived l up true) s = .next s) ∧
      (∀ b rest, y.back = b :: rest → exec (.flitReceived l up true) s =
        .next ((s.setLink l up x.failed).setLink l (!up) { y with back := rest }))) ∧
    (∀ f rest, s.pkg.backOpen l up = true → x.back = .ack f :: rest →
      let y := { x with back := rest }.free f
      exec (.ackReceived l up) s = .next (s.setLink l up (y.pump (bufSize l) now y.waiting.length))) ∧
    (∀ f rest, s.pkg.backOpen l up = true → x.back = .nak f :: rest → x.retrain = false →
      let z := ({ x with back := rest }.free f).resendAll now
      exec (.nakReceived l up) s = .next (s.setLink l up (z.pump (bufSize l) now z.waiting.length))) ∧
    (s.pkg.backOpen l up = false → exec (.ackReceived l up) s = .next s ∧ exec (.nakReceived l up) s = .next s ∧
      exec (.ackFlitSend l up) s = .next s) ∧
    (x.owed = true → s.pkg.backOpen l up = true → exec (.ackFlitSend l up) s =
      .next (s.setLink l up { x with owed := false, back := x.back ++ [.ack x.expected] })) ∧
    (x.owed = false → exec (.ackFlitSend l up) s = .next s) ∧
    (∀ b rest, x.buf = b :: rest → x.retrain = false → x.lanes ≠ 0 →
      (b.sent + resendAfter l ≤ now → exec (.replayTimeout l up) s = .next (s.setLink l up (x.resendAll now))) ∧
      (now < b.sent + resendAfter l → exec (.replayTimeout l up) s = .next s)) ∧
    (x.retrain = true → lanesAfter l x.failing = x.lanes → x.lanes ≠ 0 →
      let t := s.retireLanes l up x.lanes
      exec (.retrainDone l up) s = .next (t.setLink l up (x.resume x.lanes (bufSize l) (t.linkNow l up)))) ∧
    (x.retrain = true → lanesAfter l x.failing ≠ x.lanes → lanesAfter l x.failing ≠ 0 →
      let t := s.retireLanes l up (lanesAfter l x.failing)
      exec (.retrainDone l up) s = .next ((t.setLink l up (x.resume (lanesAfter l x.failing) (bufSize l)
        (t.linkNow l up))).linkEvent l up (linkUnit l) 1 (lanesAfter l x.failing) false)) ∧
    (x.retrain = true → lanesAfter l x.failing = 0 → l.val < 96 → exec (.retrainDone l up) s =
      .next ((((s.retireLanes l up 0).setLink l up { x with lanes := 0, retrain := false }).dropDirection l up).afterLoss
        s.pkg)) ∧
    (∀ p, exec (.yunanPortDown p) s = .next (s.portDown p))

/-- R406-R411: the windows to other packages, while the pod's routing is on. A request for another package is
discarded; one of the window's epoch arrives (the expected one performs, an earlier one is answered again, a later one
is answered with a NAK), a newer epoch discards the result table, and an older one is refused; a NAK and a timeout
send unanswered requests again, and after two tries on every live route the window closes; the close tells which
requests have performed, and a reply ends its request. -/
def Sys2Proof.Claims.SequenceWindows : Prop :=
  ∀ (s : State) (d : DieId) (pkg : BitVec 12) (sd : DieId) (ep : BitVec 8),
    let now := (s.runner d).cycle
    (∀ (q : FarReq), s.podOn = true →
      (q.dst.toNat ≠ s.pkg.pkgid.toNat → exec (.farEndRequest d q) s =
        .next (s.logFar d ⟨7, 0, d, false⟩ .internalCheck 0 q.ctx (q.src.setWidth 16))) ∧
      (q.dst.toNat = s.pkg.pkgid.toNat → (s.runner d).farWin q.src q.sdie = none →
        exec (.farEndRequest d q) s = .next (s.farPlaced d ⟨q.src, q.sdie, q.epoch, 0, [], none, true⟩ q)) ∧
      (∀ w, q.dst.toNat = s.pkg.pkgid.toNat → (s.runner d).farWin q.src q.sdie = some w →
        (q.epoch = w.epoch → w.freed = false →
          (q.wseq = w.expected → exec (.farEndRequest d q) s = .next (s.farEqual d w q)) ∧
          (q.wseq ≠ w.expected → wseqBelow q.wseq w.expected = true →
            exec (.farEndRequest d q) s = .next (s.farBehind d w q)) ∧
          (q.wseq ≠ w.expected → wseqBelow q.wseq w.expected = false →
            (w.lastNak = none → exec (.farEndRequest d q) s =
              .next ((s.setFar d { w with lastNak := some now }).farReply d q 18 w.expected (.ok 0))) ∧
            (∀ t, w.lastNak = some t → exec (.farEndRequest d q) s =
              .next (if now < t + 4096 then s
                else (s.setFar d { w with lastNak := some now }).farReply d q 18 w.expected (.ok 0))))) ∧
        (q.epoch = w.epoch → w.freed = true → exec (.farEndRequest d q) s = .next (s.farPlaced d w q)) ∧
        (q.epoch ≠ w.epoch → (q.epoch - w.epoch).toNat < 128 → exec (.farEndRequest d q) s =
          .next (s.farPlaced d { w with epoch := q.epoch, expected := 0, results := [] } q)) ∧
        (q.epoch ≠ w.epoch → 128 ≤ (q.epoch - w.epoch).toNat → exec (.farEndRequest d q) s =
          .next (s.farReply d q 17 q.wseq (.ok 0))))) ∧
    (s.podOn = false → (∀ q, exec (.farEndRequest d q) s = .next s) ∧ (∀ ws, exec (.endToEndNak d pkg ws) s = .next s) ∧
      (∀ e results, exec (.closeReply d pkg e results) s = .next s) ∧
      (∀ ws val po, exec (.endToEndReply d pkg ws val po) s = .next s) ∧ exec (.windowClose d pkg sd ep) s = .next s) ∧
    (∀ w, (s.runner d).win pkg = some w →
      (s.podOn = true → w.closing = none → ∀ ws, let again (o : FarOut) : Bool := decide ((o.ws - ws).toNat < 256)
        exec (.endToEndNak d pkg ws) s = .next ((w.out.filter again).foldl (fun t o => t.yunanOut w.route (reqMsg o.req))
          (s.putWin d { w with out := w.out.map fun o => if again o then { o with sent := now } else o }))) ∧
      (∀ o rest, w.out = o :: rest → w.closing = none →
        (o.sent + retryLimit ≤ now →
          (∀ r, ({ w with tried := w.route :: w.tried }).nextRoute (s.liveRoutes d w.pkg) = some r →
            exec (.windowRetryTimeout d pkg) s = .next (s.resendWin d { w with tried := w.route :: w.tried } r)) ∧
          (({ w with tried := w.route :: w.tried }).nextRoute (s.liveRoutes d w.pkg) = none →
            exec (.windowRetryTimeout d pkg) s = .next (s.beginClose d { w with tried := w.route :: w.tried }))) ∧
        (now < o.sent + retryLimit → exec (.windowRetryTimeout d pkg) s = .next s)) ∧
      (w.out = [] → w.placed = true → w.closing = none → exec (.windowRetryTimeout d pkg) s = .next (s.closeIdle d w)) ∧
      (∀ t, w.closing = some t →
        (t + closeLimit ≤ now → exec (.closeTimeout d pkg) s = .next (s.closeWin d w fun _ => .cause .linkTimeout)) ∧
        (now < t + closeLimit → exec (.closeTimeout d pkg) s = .next s) ∧
        (s.podOn = true → ∀ e results, exec (.closeReply d pkg e results) s = .next (s.closeWin d w fun o =>
          if wseqBelow o.ws e then
            match results.find? fun r => r.1 == o.ws with
            | some r => farAnswer o.req r.2 false
            | none => .value (if farAcked o.req then 0 else s.free (5 + o.ws.toNat % 256))
          else .cause .peerUnreachable))) ∧
      (s.podOn = true → ∀ ws o val po t, w.out.find? (fun o => o.ws == ws) = some o →
        (s.modWin d pkg fun w => { w with out := w.out.filter fun x => x.ws != ws, tried := [] }).tell d o
          (farAnswer o.req val po) = some t → exec (.endToEndReply d pkg ws val po) s = .next t) ∧
      (s.podOn = true → ∀ ws val po, w.out.find? (fun o => o.ws == ws) = none →
        exec (.endToEndReply d pkg ws val po) s = .next s)) ∧
    (s.podOn = true → ∀ w, (s.runner d).farWin pkg sd = some w →
      (w.epoch = ep → exec (.windowClose d pkg sd ep) s =
        .next ((s.setFar d { w with epoch := ep + 1, expected := 0, results := [], freed := true }).yunanSend d
          ⟨s.pkg.pkgid.setWidth 12, pkg, d, ep, 16, 1, 0, w.expected, (s.runner d).eack pkg sd, w.expected.setWidth 64,
            false⟩)) ∧
      (w.epoch ≠ ep → exec (.windowClose d pkg sd ep) s = .next s))

/-- R395-R398, R401-R411: the links and the sequence windows. -/
def Obligations.LinkEvents : Prop :=
  Sys2Proof.Claims.LinkDirections ∧ Sys2Proof.Claims.SequenceWindows

/-! ### Abort rounds, monitors and resets (R371-R378, R415-R419, R424-R426) -/

/-- R371-R378: the rounds that abort an instance. A request opens a round, a settle reaches each rank's header once, a
stop ends emission on a die, the outcome follows when every settle is answered, and each die takes it: an instance that
aborts becomes aborted with a record, or committed, and complete at the outcome's second delivery. -/
def Obligations.RoundEvents : Prop :=
  ∀ (s : State) (d : DieId) (ctx : BitVec 16) (sq : W32) (rank : Nat),
    (∀ (q : AbortReq) e, s.ctxEntry q.ctx = some e →
      ((s.pkg.round q.ctx q.seq).isSome = true → exec (.abortRequest q) s = .next s) ∧
      ((s.pkg.round q.ctx q.seq).isSome = false → ∃ u, exec (.abortRequest q) s = .next u ∧
        u.pkg.rounds = s.pkg.rounds ++ [AbortRound.fresh q e.vf] ∧ u.mem = s.mem ∧ u.dies = s.dies ∧ u.cores = s.cores)) ∧
    (∀ r t s1, s.pkg.round ctx sq = some r → r.outcome = 0 → rank < r.ranktab.length → r.unreached.contains rank = false →
      r.replies.any (fun p => p.1 == rank) = false → s.pkg.killed.contains ctx = false → s.settling r rank = false →
      s.translate 0 r.tag (r.header rank).toNat .combine = .ok t s1 →
      (s1.isLocal t = true → s1.reaches 0 t = true → s1.homeFree t 64 = true →
        exec (.settle ctx sq rank) s = .next (s1.settleAt r rank t)) ∧
      (s1.isLocal t = false → ∀ s2, s1.sendFar 0 t.pkg (.round ctx sq rank) (farReq 7 r.tag t 0 0 (sq.setWidth 64) 0) =
        .sent s2 → exec (.settle ctx sq rank) s = .next s2)) ∧
    (∀ i, (s.runner d).instOf ctx sq = some i → exec (.stop d ctx sq) s = .next ((s.modRound ctx sq fun r =>
      if r.stopped.contains d then r else { r with stopped := d :: r.stopped }).stopInst d i.id)) ∧
    (∀ r, s.pkg.round ctx sq = some r → r.outcome = 0 →
      (r.settledAll = true → exec (.abortOutcome ctx sq) s = .next (s.modRound ctx sq fun r => { r with
        told := [], outcome := if r.source.isNone then 1 else if r.pending.isEmpty then 3 else 2 })) ∧
      (r.settledAll = false → exec (.abortOutcome ctx sq) s = .next s)) ∧
    (∀ r so, s.pkg.round ctx sq = some r → r.source = some so → r.outcome = 2 → r.pending.contains rank = true →
      r.unreached.contains rank = false → s.pkg.killed.contains ctx = false → s.flipping r rank = false →
      (r.copies.any (fun c => c.1 == rank) = false → (s.runner 0).queued < 256 →
        exec (.repairFlip ctx sq rank) s = .next (s.startRepair r so rank)) ∧
      (r.copies.any (fun c => c.1 == rank) = true →
        r.copies.any (fun c => c.1 == rank && ((s.runner 0).box c.2).isSome) = false →
        exec (.repairFlip ctx sq rank) s = .next (s.flipBack r rank))) ∧
    (∀ i, (s.runner d).instOf ctx sq = some i → i.state = 1 → ∀ o, exec (.outcomeReceived d ctx sq o) s = .next s) ∧
    (∀ i, s.outcomeDue d ctx sq 1 = true → (s.runner d).instOf ctx sq = some i → i.state = 2 →
      exec (.outcomeReceived d ctx sq 1) s = .next ((s.modRound ctx sq fun r => { r with told := d :: r.told }).modInst d
        i.id fun i => { i with state := 4 })) ∧
    (∀ i, s.outcomeDue d ctx sq 2 = true → (s.runner d).instOf ctx sq = some i →
      (i.state = 2 → exec (.outcomeReceived d ctx sq 2) s = .next (s.modInst d i.id fun i => { i with state := 4 })) ∧
      (i.state = 4 → exec (.outcomeReceived d ctx sq 2) s =
        .next ((s.modRound ctx sq fun r => { r with told := d :: r.told }).endInst d i 5))) ∧
    (∀ i u, s.outcomeDue d ctx sq 0 = true → (s.runner d).instOf ctx sq = some i → i.state = 2 →
      ((s.modRound ctx sq fun r => { r with told := d :: r.told }).endInst d i 3).abortRecord d ctx sq i.tag.origin = some u →
      exec (.outcomeReceived d ctx sq 0) s = .next u) ∧
    (∀ o, s.outcomeDue d ctx sq o = true → (s.runner d).instOf ctx sq = none →
      (s.runner d).past.find? (fun p => p.ctx == ctx && p.seq == sq) = none → exec (.outcomeReceived d ctx sq o) s =
        .next ((s.modRound ctx sq fun r => { r with told := d :: r.told }).modRunner d (remember ⟨ctx, sq, 3 + o.val, 0⟩))) ∧
    (∀ o, s.outcomeDue d ctx sq o = false → exec (.outcomeReceived d ctx sq o) s = .next s)

/-- R415-R419, R424, R425: worn units are retired, a die at 105 °C and a rail out of range are reported once until
they recover, the clock steps down by 50 MHz a millisecond while throttled and back to 1,300 MHz after 10 ms, MEMREADY
follows the configuration record, and a reset ends all work: every core and sequencer is as Tables 01-9 to 01-17 and
07-1 leave it, and main memory is cleared by a cold reset and kept by a warm one that keeps L. -/
def Obligations.MonitorEvents : Prop :=
  ∀ (s : State),
    (∀ u : UnitRef, u.kind.val = 0 → ∀ h : u.unit < 272, ∀ c,
      s.coreWorn ⟨0, u.unit, ⟨u.unit / 68 % 4, by omega⟩, true⟩ = some c → exec (.automaticRetirement u) s =
        .next (s.retireQuad ⟨0, u.unit, ⟨u.unit / 68 % 4, by omega⟩, true⟩ c)) ∧
    (∀ u : UnitRef, u.kind.val = 4 → 64 ≤ s.pkg.rowsOf u.unit → exec (.automaticRetirement u) s =
      .next (s.retireChannel u.unit .hbmPoison)) ∧
    (∀ die : Fin 8, ∀ t ∈ s.pkg.dieTemps die, 16 * 105 ≤ t → s.pkg.hot.contains die = false → exec (.thermal die) s =
      .next (((s.modPkg fun p => { p with hot := die :: p.hot }).logCause (reporterOf die) (dieUnit die) .thermal 0
        0xFFFF).hostEvent 0 .thermal die.val)) ∧
    (∀ die : Fin 8, s.pkg.hot.contains die = true → exec (.thermal die) s = .next s) ∧
    (∀ die : Fin 8, (∀ t ∈ s.pkg.dieTemps die, t < 16 * 95) → ∃ u, exec (.thermalRecovery die) s = .next u ∧
      die ∉ u.pkg.hot ∧ u.mem = s.mem ∧ u.cores = s.cores ∧ u.dies = s.dies) ∧
    (∀ rail : Fin 32, s.pkg.railBad rail = true → s.pkg.badRails.contains rail = false → exec (.voltage rail) s =
      .next (((s.modPkg fun p => { p with badRails := rail :: p.badRails }).logCause 0 ⟨7, rail.val, 0, false⟩ .voltage
        (BitVec.ofNat 64 rail.val) 0xFFFF).hostEvent 0 .voltage rail.val)) ∧
    (∀ rail : Fin 32, s.pkg.railBad rail = false → ∃ u, exec (.voltageRecovery rail) s = .next u ∧
      rail ∉ u.pkg.badRails ∧ u.mem = s.mem ∧ u.cores = s.cores ∧ u.dies = s.dies) ∧
    (∃ u, exec .clockStep s = .next u ∧ u.mem = s.mem ∧ u.cores = s.cores ∧ u.dies = s.dies ∧
      (s.pkg.throttled = true → u.pkg.clknow.toNat = s.pkg.clknow.toNat - 50 ∧ u.pkg.coolMs = 0) ∧
      (s.pkg.throttled = false → u.pkg.clknow.toNat = if 9 ≤ s.pkg.coolMs ∧ s.pkg.clknow.toNat < 1300 then
        min 1300 (s.pkg.clknow.toNat + 50) else s.pkg.clknow.toNat)) ∧
    (s.pkg.memready = false → s.pkg.fwFailed = false → ∃ u, exec .memready s = .next u ∧ u.pkg.memready = true ∧
      u.mem = s.writeConf.mem) ∧
    (s.pkg.memready = true → exec .memready s = .next s) ∧
    (∃ u, exec .coldReset s = .next u ∧ u = s.resetAs true ∧ u.cores = Vector.replicate 256 Core.reset ∧
      u.cycles = Vector.replicate 4 0 ∧ (∀ d n, u.seqr d n = Seqr.reset) ∧ u.mem = []) ∧
    (∃ u, exec .warmReset s = .next u ∧ u = s.resetAs false ∧ u.cores = Vector.replicate 256 Core.reset ∧
      u.cycles = Vector.replicate 4 0 ∧ (∀ d n, u.seqr d n = Seqr.reset) ∧
      (s.pkg.livech = ~~~ s.pkg.heart.checked.chans → u.mem = s.mem))

/-! ### The host (R414, R419-R429) -/

/-- R421-R424: a doorbell one above LASTC reads the entry of the submission ring, 64 bytes at SBASE; with its own HSEQ
it is accepted, and one that no function may submit completes at once with status 0x100 + its cause; a torn or stale
entry waits for another doorbell; CACK acknowledges, lets held completions out, and rings the doorbell. The queues of a
virtual function do nothing while the firmware has failed its checks. -/
def Sys2Proof.Claims.HostQueues : Prop :=
  ∀ (s : State) (f : Fin 17) (v : W32) (w : Word),
    (s.pkg.queueAlive f = true → (s.pkg.fns.get f).accepted = none → (s.pkg.fns.get f).slog2n ≠ 0 →
      (s.pkg.fns.get f).heldc = [] → v = (s.pkg.fns.get f).lastc + 1 → (s.pkg.fwFailed = false ∨ f = 0) →
      (∀ ws, ws = s.subEntry (s.pkg.fns.get f) v →
        ((ws.headD 0).setWidth 32 = v → s.pkg.refusal f ws = none → exec (.doorbell f v) s =
          .next (s.modFn f fun h => { h with doorbell := v, lastc := v, accepted := some ws })) ∧
        ((ws.headD 0).setWidth 32 = v → ∀ c, s.pkg.refusal f ws = some c → exec (.doorbell f v) s =
          .next ((s.modFn f fun h => { h with doorbell := v, lastc := v, accepted := none }).completion f
            ⟨v, BitVec.ofNat 32 (0x100 + c.code), BitVec.ofNat 32 (s.free 4).toNat⟩)) ∧
        ((ws.headD 0).setWidth 32 ≠ v → exec (.doorbell f v) s =
          .next (s.modFn f fun h => { h with doorbell := h.lastc })))) ∧
    (v = (s.pkg.fns.get f).lastc → s.pkg.queueAlive f = true →
      exec (.doorbell f v) s = .next (s.modFn f fun h => { h with doorbell := v })) ∧
    (s.pkg.queueAlive f = true → exec (.cack f w) s = .next (((s.modFn f fun h => { h with
      cacknow := w.extractLsb' 32 32, doorbell := w.setWidth 32 }).flushFn f).pumpSubs f)) ∧
    (s.pkg.queueAlive f = false → exec (.doorbell f v) s = .next s ∧ exec (.cack f w) s = .next s)

/-- Table 20-4: the accepted submission of a function is performed, and answered with status 0 or with 0x100 + a cause
and its DETAIL. MAPQ translates its queue once and maps the slot; UNMAPQ; SETCTX writes 40 bytes of a context entry;
KILL starts the ending of a context, which halts its cores and then drains
it, and waits while another one ends it; HWREAD writes 64 KiB to the host (free bytes: log 28);
QUARANTINE; WARMRESET completes and resets; FWLOAD writes the bank that was not booted. R426: an FLR of function 0 is a
warm reset. -/
def Sys2Proof.Claims.HostOperations : Prop :=
  ∀ (s : State) (f : Fin 17) (ws : List Word) (k : Fin 64) (ctx : BitVec 16), s.pkg.memready = true →
    (s.submitted f 1 = some ws → s.ownSlot f (subWord ws 1) = .ok k → s.ownCtx f (subWord ws 3) = .ok ctx →
      (∀ t u, s.translate 0 ⟨ctx, f.val, true, none⟩ (subWord ws 2).toNat .read = .ok t u →
        (t.scratch = false → s.isLocal t = true → exec (.mapq f) s =
          .next (((u.modSlot k fun q => { q with slotq := BitVec.ofNat 64 t.addr }).mapSlot k).okHost f)) ∧
        (t.scratch = true ∨ s.isLocal t = false → exec (.mapq f) s = .next (u.refuseHost f .queueInvalid (subWord ws 1)))) ∧
      (∀ c, s.translate 0 ⟨ctx, f.val, true, none⟩ (subWord ws 2).toNat .read = .bad c → exec (.mapq f) s =
        .next (s.refuseHost f c (subWord ws 3)))) ∧
    (∀ c, s.submitted f 1 = some ws → s.ownSlot f (subWord ws 1) = .error c → exec (.mapq f) s =
      .next (s.refuseHost f c (subWord ws 1))) ∧
    (s.submitted f 2 = some ws → s.ownSlot f (subWord ws 1) = .ok k → exec (.unmapq f) s =
      .next ((s.unmapSlot k).okHost f)) ∧
    (∀ pa, s.submitted f 3 = some ws → (subWord ws 1).toNat < 2 ^ 16 → s.ctxPa ((subWord ws 1).setWidth 16) = some pa →
      s.memWriteBad pa 40 = false → ∃ u : State, exec (.setctx f) s = .next (u.okHost f) ∧
        u.mem = memPut s.mem pa ([2, 3, 4, 5, 6].flatMap fun k => leBytes 8 (subWord ws k).toNat) ∧
        (s.pkg.kills = [] → (subWord ws 1).setWidth 16 ∉ u.pkg.killed)) ∧
    (s.submitted f 3 = some ws → 2 ^ 16 ≤ (subWord ws 1).toNat → exec (.setctx f) s =
      .next (s.refuseHost f .queueInvalid (subWord ws 1))) ∧
    (s.submitted f 4 = some ws → (∀ k ∈ s.pkg.kills, k.by_ ≠ .host f) → s.ownCtx f (subWord ws 1) = .ok ctx →
      (s.pkg.killing ctx = false → exec (.kill f) s = .next (s.killStart ctx 0 14 (.host f))) ∧
      (s.pkg.killing ctx = true → exec (.kill f) s = .next s)) ∧
    (∀ c, s.submitted f 4 = some ws → (∀ k ∈ s.pkg.kills, k.by_ ≠ .host f) → s.ownCtx f (subWord ws 1) = .error c →
      exec (.kill f) s = .next (s.refuseHost f c (subWord ws 1))) ∧
    (s.submitted f 5 = some ws → ∃ bytes : List Byte, bytes.length = 65536 ∧ exec (.hwread f) s =
      .next (State.okHost { s with hostMem := memPut s.hostMem (subWord ws 1).toNat bytes } f)) ∧
    (∀ d : Fin 4, s.submitted f 6 = some ws → (subWord ws 1).toNat = d.val →
      (17 ≤ (subWord ws 2).toNat → exec (.quarantine f) s = .next (s.refuseHost f .queueInvalid (subWord ws 2))) ∧
      ((subWord ws 2).toNat < 17 → (s.pkg.quarq.get d).getLsbD (subWord ws 2).toNat = false → exec (.quarantine f) s =
        .next ((s.quarantine d (subWord ws 2).toNat).okHost f))) ∧
    (s.submitted f 7 = some ws → ((s.answerSub f 0 (s.free 4).toNat).pkg.fns.get f).heldc = [] →
      exec (.warmreset f) s = .next ((s.answerSub f 0 (s.free 4).toNat).resetAs false)) ∧
    (∀ img, s.submitted f 8 = some ws → img = memBytes s.hostMem (subWord ws 1).toNat (subWord ws 2).toNat →
      0 < (subWord ws 2).toNat → (subWord ws 2).toNat ≤ 2 ^ 25 → (subWord ws 2).toNat % 4096 = 0 →
      (fwOk img = true → s.pkg.booted = some 0 → exec (.fwload f) s =
        .next ((s.modPkg fun p => { p with flash := p.flash.set 1 img }).okHost f)) ∧
      (fwOk img = false → exec (.fwload f) s = .next (s.refuseHost f .fwAuth (s.free 4)))) ∧
    (s.submitted f 1 = none → s.submitted f 2 = none → s.submitted f 3 = none → exec (.mapq f) s = .next s ∧
      exec (.unmapq f) s = .next s ∧ exec (.setctx f) s = .next s) ∧
    (f ≠ 0 → exec (.flr f) s = .next (s.flrStep f)) ∧ (f = 0 → exec (.flr f) s = .next (s.resetAs false))

/-- R421-R429, Table 20-4: the host queues and the operations submitted through them. -/
def Obligations.HostSubmissions : Prop :=
  Sys2Proof.Claims.HostQueues ∧ Sys2Proof.Claims.HostOperations

/-- R414, R419, R420, R434: what the host's reads and writes do. Main memory is read and written once MEMREADY is set; a
read that meets poison answers poisoned data; a write of part of a poisoned block is not performed and is logged. The
registers of the windows keep the bits their tables name; VFCORES and VFSLOTS of a function with a context in use wait
for its next reset; PKGID is ignored while YRBASE.EN is 1; a write to any other offset does nothing. -/
def Obligations.HostWindows : Prop :=
  ∀ (s : State) (pa n : Nat) (bytes : List Byte) (v : Word), s.pkg.memready = true →
    (pa + n ≤ s.pkg.capacity → s.memBad pa n = false → exec (.hostRead pa n) s =
      .next (s.modPkg fun p => { p with hostReply := memBytes s.mem pa n, hostPoison := false })) ∧
    (pa + n ≤ s.pkg.capacity → s.memBad pa n = true → exec (.hostRead pa n) s =
      .next (s.modPkg fun p => { p with hostReply := [], hostPoison := true })) ∧
    (pa + bytes.length ≤ s.pkg.capacity → s.memWriteBad pa bytes.length = false →
      exec (.hostWrite pa bytes) s = .next (s.writeMem pa bytes)) ∧
    (pa + bytes.length ≤ s.pkg.capacity → s.memWriteBad pa bytes.length = true → exec (.hostWrite pa bytes) s =
      .next (s.logCause (s.pkg.dieOfPa pa) ⟨4, s.pkg.chanOf pa, s.pkg.dieOfPa pa, false⟩ .hbmPoison
        (BitVec.ofNat 64 pa) 0xFFFF)) ∧
    (s.pkg.capacity < pa + n → exec (.hostRead pa n) s = .next s) ∧
    (∃ u, exec (.pkgidWrite v) s = .next u ∧ u.pkg.pkgid = (if s.pkg.yrbase.getLsbD 0 then s.pkg.pkgid else v &&& 0xFFF) ∧
      u.mem = s.mem ∧ u.cores = s.cores ∧ u.dies = s.dies) ∧
    (1200 ≤ v.toNat % 65536 → v.toNat % 65536 ≤ 2600 → exec (.registerWrite 0 0x20400 v) s =
      .next (s.modPkg fun p => { p with plimit := v.setWidth 16 })) ∧
    (2600 < v.toNat % 65536 → exec (.registerWrite 0 0x20400 v) s = .next s) ∧
    (∀ f : Fin 17, f ≠ 0 → ∃ u, exec (.registerWrite 0 (0x30000 + 64 * f.val) v) s = .next u ∧
      (u.pkg.fns.get f).vfcoresNext = v &&& 0xFFFFFFFF ∧
      (u.pkg.fns.get f).vfcores = (if s.fnInUse f then (s.pkg.fns.get f).vfcores else v &&& 0xFFFFFFFF) ∧
      u.mem = s.mem ∧ u.cores = s.cores ∧ u.dies = s.dies) ∧
    (exec (.registerWrite 0 0x100000 v) s = .next (s.modPkg fun p => { p with mmuctx := v &&& 0x0000FFFFFFC0001F })) ∧
    (∀ k : Fin 64, exec (.registerWrite 0 (0x400000 + 0x1000 * k.val) v) s =
      .next (s.modSlot k fun q => { q with slotq := v })) ∧
    (∀ d : Fin 4, exec (.registerWrite 0 (0x100060 + 8 * d.val) v) s =
      .next (s.modRunner d fun r => { r with ywbaseNext := v &&& 0x0000FFFFFFFF001F })) ∧
    (∀ off, 0x440000 ≤ off → exec (.registerWrite 0 off v) s = .next s) ∧
    (∀ f : Fin 17, ∀ off, f ≠ 0 → 0x1000 ≤ off → exec (.registerWrite f off v) s = .next s)

/-- R428: the responder of function 0. GET_VERSION is always answered, with versions 1.2 and 1.3, and starts anew; a
request of another version, one before the algorithms are agreed, or one for another certificate slot, is answered ERROR
with no other effect; a session of KEY_EXCHANGE is complete after FINISH; GET_MEASUREMENTS answers the four blocks. The
codes of the answers are SPDM's own (the model's: log 31), their bodies are opaque (log 14). -/
def Obligations.SpdmEvents : Prop :=
  ∀ (s : State) (q : SpdmReq),
    (∃ u, exec (.getVersion q) s = .next u ∧ u.pkg.spdm = ⟨0, false, [], [BitVec.ofNat 8 q.version, 0x04, 0x02, 0x12, 0x13],
      s.pkg.spdm.asked + 1⟩ ∧ u.mem = s.mem ∧ u.cores = s.cores ∧ u.dies = s.dies ∧ u.hostMem = s.hostMem) ∧
    (q.version = 0x12 ∨ q.version = 0x13 →
      (∃ u, exec (.getCapabilities q) s = .next u ∧ u.pkg.spdm = { s.pkg.spdm with
        version := q.version, asked := s.pkg.spdm.asked + 1
        reply := [BitVec.ofNat 8 q.version, 0x61] ++ Config.crypto 0x61 (spdmBytes q) }) ∧
      (q.extAsym = true → ∃ u, exec (.negotiateAlgorithms q) s = .next u ∧ u.pkg.spdm = { s.pkg.spdm with
        algorithms := true, asked := s.pkg.spdm.asked + 1
        reply := [BitVec.ofNat 8 q.version, 0x63] ++ Config.crypto 0x63 (spdmBytes q) }) ∧
      (q.extAsym = false → exec (.negotiateAlgorithms q) s = .next (s.spdmError q)) ∧
      (s.pkg.spdm.algorithms = true →
        (exec (.getDigests q) s = .next (s.spdmAnswer q 0x01 (Config.crypto 0x01 (spdmBytes q))) ∧
        exec (.challenge q) s = .next (s.spdmAnswer q 0x03 (Config.crypto 0x03 (spdmBytes q))) ∧
        exec (.getMeasurements q) s = .next (s.spdmAnswer q 0x60 (Config.crypto 0x10 [] ++
          Config.crypto 0x11 (s.pkg.booted.elim [] fun b => s.pkg.flash.get b) ++
          Config.crypto 0x12 s.pkg.heart.measured ++ leBytes 4 s.pkg.heart.cls.toNat ++ Config.crypto 0x60 (spdmBytes q)))) ∧
        (q.param % 256 = 0 → exec (.getCertificate q) s =
          .next (s.spdmAnswer q 0x02 (Config.crypto 0x02 (spdmBytes q)))) ∧
        (∃ u, exec (.keyExchange q) s = .next u ∧
          u.pkg.spdm.sessions = (q.session, false) :: s.pkg.spdm.sessions.filter (fun x => x.1 != q.session) ∧
          u.pkg.spdm.reply = [BitVec.ofNat 8 q.version, 0x64] ++ Config.crypto 0x64 (spdmBytes q)) ∧
        ((s.pkg.spdm.sessions.any fun x => x.1 == q.session) = true → ∃ u, exec (.finish q) s = .next u ∧
          (∀ x ∈ u.pkg.spdm.sessions, x.1 = q.session → x.2 = true) ∧
          u.pkg.spdm.reply = [BitVec.ofNat 8 q.version, 0x65] ++ Config.crypto 0x65 (spdmBytes q)))) ∧
    (q.version ≠ 0x12 → q.version ≠ 0x13 → exec (.getCapabilities q) s = .next (s.spdmError q) ∧
      exec (.negotiateAlgorithms q) s = .next (s.spdmError q) ∧ exec (.keyExchange q) s = .next (s.spdmError q)) ∧
    (s.pkg.spdm.algorithms = false → exec (.getDigests q) s = .next (s.spdmError q) ∧
      exec (.challenge q) s = .next (s.spdmError q) ∧ exec (.getMeasurements q) s = .next (s.spdmError q) ∧
      exec (.keyExchange q) s = .next (s.spdmError q)) ∧
    (q.param % 256 ≠ 0 → exec (.getCertificate q) s = .next (s.spdmError q)) ∧
    ((s.pkg.spdm.sessions.any fun x => x.1 == q.session) = false → exec (.finish q) s = .next (s.spdmError q)) ∧
    (∃ u, s.spdmError q = u ∧ u.pkg.spdm = { s.pkg.spdm with
      reply := [BitVec.ofNat 8 q.version, 0x7F, 0x07, 0x00], asked := s.pkg.spdm.asked + 1 })

/-! ### The whole machine -/

/-- R28: MAJOR 0x00 and MAJOR 0x3F are unassigned in every map, so the all-zero word and the all-ones word raise
ILLEGAL_OPCODE in every stream. -/
def Obligations.UnassignedMajors : Prop :=
  ∀ (st : Strm) (w : W32) (rest : List W32),
    (w.toNat / 2 ^ 26 = 0x00 ∨ w.toNat / 2 ^ 26 = 0x3F → decode st (w :: rest) = .bad .illegalOpcode) ∧
    decode st [0x00000000] = .bad .illegalOpcode ∧ decode st [0xFFFFFFFF] = .bad .illegalOpcode

/-- Words written out from Tables 01-1 to 01-7, 03-1, 04-2, 05-1, 06-1 and 07-4 decode to the instructions they stand
for: a register form, a 32-bit and a 64-bit literal (R21), a branch, a load, a matrix command, vector words, and Perco
words; and words with a reserved field, a missing literal or an unaccepted type raise their cause (R22-R27). -/
def Obligations.DecodeSamples : Prop :=
  decode .stem [0x04A63B40] = .ok (.add 5 (.reg 6) (.reg 7) .i32) 1 ∧
  decode .stem [0x04A6FB41, 0x80000000] = .ok (.sub 5 (.reg 6) (.lit32 0x80000000) .i32) 2 ∧
  decode .stem [0x04A6FF82, 0x00000001, 0x00000002] = .ok (.mul 5 (.reg 6) (.lit64 0x0000000200000001) .i64) 3 ∧
  decode .stem [0x04A6FB42] = .bad .badLiteral ∧
  decode .stem [0x04A63803] = .bad .formatInvalid ∧
  decode .stem [0x07E63B40] = .bad .reservedField ∧
  decode .stem [0x0CA68123] = .ok (.beq (.reg 5) (.reg 6) 0x8123) 1 ∧
  decode .stem [0x40A636A5] = .ok (.ld 5 (.reg 6) 3 1 0x2A5) 1 ∧
  decode .stem [0xC8200000] = .ok (.mclr 1) 1 ∧
  decode .stem [0xA4000001] = .ok .halt 1 ∧
  decode .vector [0x68A63800] = .ok (.vmopAnd 5 6 7) 1 ∧
  decode .vector [0xD8000000] = .ok .vend 1 ∧
  decode .perco [0x24000001] = .ok (.percoJ 1) 1 ∧
  decode .perco [0xC4000000] = .ok .percoHalt 1

/-- R21-R27, R50: in each stream, decoding the words of a well-formed instruction, whatever words follow, gives back the
instruction and its length, with every operand at every value that its encoding admits. -/
def Obligations.StemRoundTrip : Prop :=
  ∀ (i : Instr) (rest : List W32), i.stream = some .stem → i.wf = true →
    decode .stem (encode i ++ rest) = .ok i (encode i).length

/-- R21-R27, R50: the same for the vector stream. -/
def Obligations.VectorRoundTrip : Prop :=
  ∀ (i : Instr) (rest : List W32), i.stream = some .vector → i.wf = true →
    decode .vector (encode i ++ rest) = .ok i (encode i).length

/-- R21-R27, R50: the same for the stream of the sequencers. -/
def Obligations.PercoRoundTrip : Prop :=
  ∀ (i : Instr) (rest : List W32), i.stream = some .perco → i.wf = true →
    decode .perco (encode i ++ rest) = .ok i (encode i).length

/-- R21, R27, R50: what a stream decodes is a well-formed instruction of that stream, of one to three words, and those
words are the only ones that encode it: no field of an instruction is ignored. -/
def Obligations.DecodeExact : Prop :=
  ∀ (st : Strm) (ws : List W32) (i : Instr) (n : Nat), decode st ws = .ok i n →
    i.wf = true ∧ i.stream = some st ∧ 1 ≤ n ∧ n ≤ 3 ∧ n ≤ ws.length ∧ encode i = ws.take n

/-- R89, R113, R227, R279, R291: a turn runs the decoded instruction. A stem whose core runs, with no engine fault to
take and no bad word, runs exec of what its words decode to, the first of them kept for TRAPVAL; with one to take, it
takes that fault instead, unless its own instruction traps. A vector engine with a running token and nothing to serve
or report runs what it decodes out of its segment buffer; otherwise it serves a word, reports, or starts a token, in
that order. So does a running program, out of memory; an event that has its turn is exec of it; and with nothing on
the agenda the turn is the arbiter's (the model's choice: log 2). -/
def Obligations.StepRuns : Prop :=
  ∀ (s : State) (rest : List Turn) (i : Instr) (k : Nat),
    (∀ c t, s.agenda = .stem c :: rest → t = { s with agenda := rest, ticks := s.ticks + 1, cur := c } →
      (t.core c).phase = .running → t.pkg.monHalt = false → (t.core c).imemBad = [] → ∀ ws,
      ws = (fetchAddrs (t.core c).stem.pc.toNat).map (t.fetchWord (t.core c)) → decode .stem ws = .ok i k →
      let run := exec i (t.modCore c fun k => k.setStem { k.stem with ir := ws.headD 0 })
      ((t.core c).mayTrap = false → step s = run) ∧
      ((t.core c).mayTrap = true → ∀ u, run = .next u →
        step s = if (u.core c).ownTrap then .next u else exec (.engineFaultTrap c) t)) ∧
    (∀ c t, s.agenda = .vector c :: rest → t = { s with agenda := rest, ticks := s.ticks + 1, cur := c } →
      t.vecMay c = true →
      ((t.core c).svcDue = true → step s = .next (t.serveWord c)) ∧
      ((t.core c).svcDue = false →
        ((t.core c).vec.eccDue = true → step s = exec (.vectorLoadEcc c) t) ∧
        ((t.core c).vec.eccDue = false → (t.core c).vec.found.isSome = true → step s = exec (.vectorFaultReport c) t) ∧
        ((t.core c).vec.eccDue = false → (t.core c).vec.found = none → (t.core c).vec.clear = true →
          ((t.core c).vec.run = none → step s = exec (.tokenStart c) t) ∧
          (∀ r, (t.core c).vec.run = some r → r.pos < r.buf.length → r.bad = [] →
            decode .vector ((r.buf.drop r.pos).take 3) = .ok i k → step s = exec i t)))) ∧
    (∀ d n t t1 w i0 k0 lits u, s.agenda = .seq d n :: rest →
      t = { s with agenda := rest, ticks := s.ticks + 1, curDie := d, curSeq := n } →
      (t.seqr d n).running = true → (t.seqr d n).susp = none →
      t.seqFetchWord d (t.seqr d n).tag (t.seqr d n).pc = .word w t1 → decode .perco [w, 0, 0] = .ok i0 k0 →
      t1.seqFetchLits d (t.seqr d n).tag (k0 - 1) ((t.seqr d n).pc + 4) = .ok lits u →
      decode .perco (w :: lits) = .ok i k → step s = exec i u) ∧
    (s.agenda = .event i :: rest → isEvent i = true →
      step s = exec i { s with agenda := rest, ticks := s.ticks + 1 }) ∧
    (s.agenda = [] → step s = takeTurn (Config.arbiter s.ticks) { s with ticks := s.ticks + 1 })

/-- R29, R35, R55, R57, R74, R425: what a cold reset leaves: every core idle with its registers at their reset values
(FMT0 to FMT7 the preset words of Table 02-4), its stores empty and within its limits, every sequencer idle, and every
memory in its canonical form. -/
def Obligations.ResetState : Prop :=
  State.reset.MemOk ∧
  ∀ (c : CoreId) (d : DieId) (n : Fin 16),
    (State.reset.core c).inLimits = true ∧ (State.reset.core c).phase = .idle ∧
    (∀ r : Reg, (State.reset.core c).getX r = 0) ∧ (State.reset.core c).stem.pc = 0 ∧
    (State.reset.core c).stem.status = 0x81 ∧ (State.reset.core c).stem.trapvec = 0 ∧
    (State.reset.core c).stem.fmt = #v[0x7A480, 0xFC580, 0x18260, 0x38360, 0x18240, 0x41, 0x7A480, 0x7A480] ∧
    (State.reset.core c).stem.gfmt = #v[8, 8, 8, 8] ∧ (State.reset.core c).vec.shape = 0x0FE7 ∧
    (State.reset.core c).vec.gens = seedGens 0 ∧ (State.reset.core c).full = Vector.replicate 4 false ∧
    (State.reset.seqr d n).running = false ∧ (∀ r : Reg, (State.reset.seqr d n).getG r = 0) ∧
    (State.reset.seqr d n).wdog = 0x10000

/-- R12, R320, R321: whatever the machine is and whatever turn it takes, a step keeps every memory in its canonical
form: main and host memory, the scratchpad, instruction memory, segment store, tiles and moulds of every core, those of
saved grains, and the runner stores. -/
def Obligations.MemoriesKept : Prop :=
  ∀ s t : State, s.MemOk → step s = .next t → t.MemOk
end

