-- ==== Sys2Proof/Laws/Memory.lean ====
section
/-! SUPPORT. The laws of memory: what each operation leaves to be read, and that each keeps the canonical form. -/

namespace Sys2Proof.Machine

/-! ### Reading -/

section
variable (m l : Mem) (x a n : Nat) (bs : List Byte)

theorem memGet_of_not_mem (h : ∀ c ∈ m, c.1 ≠ x) : memGet m x = 0 := by
  induction m with
  | nil => rfl
  | cons c m ih =>
    have h1 := h c (by simp)
    simp only [memGet, if_neg h1]
    exact ih fun c hc => h c (by simp [hc])

theorem memGet_append_left (h : ∀ c ∈ l, c.1 ≠ x) : memGet (m ++ l) x = memGet m x := by
  induction m with
  | nil => simpa [memGet] using memGet_of_not_mem l x h
  | cons c m ih => simp only [List.cons_append, memGet, ih]

theorem memGet_append_right (h : ∀ c ∈ m, c.1 ≠ x) : memGet (m ++ l) x = memGet l x := by
  induction m with
  | nil => rfl
  | cons c m ih =>
    have h1 := h c (by simp)
    simp only [List.cons_append, memGet, if_neg h1]
    exact ih fun c hc => h c (by simp [hc])

theorem memGet_filter (p : Nat → Bool) : memGet (m.filter fun c => p c.1) x = if p x then memGet m x else 0 := by
  induction m with
  | nil => simp [memGet]
  | cons c m ih =>
    by_cases hc : c.1 = x
    · subst hc
      by_cases hp : p c.1
      · simp [memGet, hp]
      · simpa [memGet, hp] using ih
    · by_cases hp : p c.1
      · simp [memGet, hp, hc, ih]
      · simp [memGet, hp, hc, ih]

theorem memCells_cons_zero : memCells a (0 :: bs) = memCells (a + 1) bs := if_pos rfl
theorem memCells_cons {b : Byte} (h : b ≠ 0) : memCells a (b :: bs) = (a, b) :: memCells (a + 1) bs := if_neg h

theorem memCells_mem : ∀ {bs : List Byte} {a : Nat} {c : Host.Cell}, c ∈ memCells a bs → a ≤ c.1 ∧ c.1 < a + bs.length ∧ c.2 ≠ 0
  | [], _, _, h => by simp [memCells] at h
  | b :: bs, a, c, h => by
    by_cases hb : b = 0
    · subst hb
      rw [memCells_cons_zero] at h
      obtain ⟨h1, h2, h3⟩ := memCells_mem h
      exact ⟨by omega, by simp only [List.length_cons]; omega, h3⟩
    · rw [memCells_cons _ _ hb] at h
      rcases List.mem_cons.mp h with rfl | h
      · exact ⟨Nat.le_refl _, by simp, hb⟩
      · obtain ⟨h1, h2, h3⟩ := memCells_mem h
        exact ⟨by omega, by simp only [List.length_cons]; omega, h3⟩

theorem memGet_memCells : ∀ (bs : List Byte) (a : Nat),
    memGet (memCells a bs) x = if a ≤ x ∧ x < a + bs.length then bs.getD (x - a) 0 else 0
  | [], a => by simp [memCells, memGet]
  | b :: bs, a => by
    have ih := memGet_memCells bs (a + 1)
    by_cases hx : x = a
    · subst hx
      have h0 : memGet (memCells (x + 1) bs) x = 0 :=
        memGet_of_not_mem _ _ fun c hc => by have := memCells_mem hc; omega
      by_cases hb : b = 0
      · subst hb; rw [memCells_cons_zero, h0]; simp
      · rw [memCells_cons _ _ hb]; simp [memGet]
    · have hstep : memGet (memCells a (b :: bs)) x = memGet (memCells (a + 1) bs) x := by
        by_cases hb : b = 0
        · subst hb; rw [memCells_cons_zero]
        · rw [memCells_cons _ _ hb]; simp only [memGet, if_neg (Ne.symm hx)]
      rw [hstep, ih]
      by_cases hr : a + 1 ≤ x ∧ x < a + 1 + bs.length
      · rw [if_pos hr, if_pos (by simp only [List.length_cons]; omega)]
        obtain ⟨k, hk⟩ : ∃ k, x - a = k + 1 := ⟨x - a - 1, by omega⟩
        simp [hk, show x - (a + 1) = k by omega]
      · rw [if_neg hr, if_neg (by simp only [List.length_cons]; omega)]

/-- A byte after a write: the byte written, or what stood there. -/
theorem memGet_memPut :
    memGet (memPut m a bs) x = if a ≤ x ∧ x < a + bs.length then bs.getD (x - a) 0 else memGet m x := by
  have hlo := memGet_filter m x fun k => decide (k < a)
  have hhi := memGet_filter m x fun k => decide (a + bs.length ≤ k)
  have hc := memGet_memCells x bs a
  simp only [memPut, List.append_assoc]
  by_cases h1 : x < a
  · rw [memGet_append_left, hlo, if_pos (by simpa using h1), if_neg (by omega)]
    · intro c hc
      rcases List.mem_append.mp hc with h | h
      · have := memCells_mem h; omega
      · simp at h; omega
  · rw [memGet_append_right]
    · by_cases h2 : x < a + bs.length
      · rw [memGet_append_left, hc]
        · rw [if_pos (by omega), if_pos (by omega)]
        · intro c h; simp at h; omega
      · rw [memGet_append_right, hhi, if_pos (by simp; omega), if_neg (by omega)]
        · intro c h; have := memCells_mem h; omega
    · intro c h; simp at h; omega

theorem memGet_memPut_out (h : x < a ∨ a + bs.length ≤ x) : memGet (memPut m a bs) x = memGet m x := by
  rw [memGet_memPut, if_neg (by omega)]

/-- A byte after bytes of another memory were copied over it. -/
theorem memGet_memBlit (src : Mem) (b : Nat) :
    memGet (memBlit m b src a n) x = if b ≤ x ∧ x < b + n then memGet src (x - b + a) else memGet m x := by
  have hlo := memGet_filter m x fun k => decide (k < b)
  have hhi := memGet_filter m x fun k => decide (b + n ≤ k)
  have hkey : ∀ c ∈ (src.filter fun c => decide (a ≤ c.1) && decide (c.1 < a + n)).map fun c => (c.1 - a + b, c.2),
      b ≤ c.1 ∧ c.1 < b + n := by
    intro c hc
    simp only [List.mem_map, List.mem_filter, Bool.and_eq_true, decide_eq_true_eq] at hc
    obtain ⟨q, ⟨_, h1, h2⟩, rfl⟩ := hc
    simp only; omega
  have hmid : ∀ s : Mem, b ≤ x → x < b + n →
      memGet ((s.filter fun c => decide (a ≤ c.1) && decide (c.1 < a + n)).map fun c => (c.1 - a + b, c.2)) x
        = memGet s (x - b + a) := by
    intro s h1 h2
    induction s with
    | nil => rfl
    | cons c s ih =>
      by_cases hc : a ≤ c.1 ∧ c.1 < a + n
      · simp only [List.filter_cons, hc, decide_true, Bool.and_self, if_true, List.map_cons, memGet, ih]
        by_cases he : c.1 - a + b = x
        · rw [if_pos he, if_pos (by omega)]
        · rw [if_neg he, if_neg (by omega)]
      · have hf : (decide (a ≤ c.1) && decide (c.1 < a + n)) = false := by simpa using hc
        simp only [List.filter_cons, hf, Bool.false_eq_true, if_false, memGet, ih]
        rw [if_neg (by omega)]
  simp only [memBlit, List.append_assoc]
  by_cases h1 : x < b
  · rw [memGet_append_left, hlo, if_pos (by simpa using h1), if_neg (by omega)]
    · intro c hc
      rcases List.mem_append.mp hc with h | h
      · have := hkey c h; omega
      · simp at h; omega
  · rw [memGet_append_right]
    · by_cases h2 : x < b + n
      · rw [memGet_append_left, hmid src (by omega) h2, if_pos (by omega)]
        intro c h; simp at h; omega
      · rw [memGet_append_right, hhi, if_pos (by simp; omega), if_neg (by omega)]
        · intro c h; have := hkey c h; omega
    · intro c h; simp at h; omega

/-- A byte after a run of bytes became zero. -/
theorem memGet_memClear : memGet (memClear m a n) x = if a ≤ x ∧ x < a + n then 0 else memGet m x := by
  have hlo := memGet_filter m x fun k => decide (k < a)
  have hhi := memGet_filter m x fun k => decide (a + n ≤ k)
  simp only [memClear]
  by_cases h1 : x < a
  · rw [memGet_append_left, hlo, if_pos (by simpa using h1), if_neg (by omega)]
    · intro c h; simp at h; omega
  · rw [memGet_append_right, hhi]
    · by_cases h2 : a + n ≤ x
      · rw [if_pos (by simpa using h2), if_neg (by omega)]
      · rw [if_neg (by simpa using h2), if_pos (by omega)]
    · intro c h; simp at h; omega

@[simp] theorem memBytes_length : (memBytes m a n).length = n := by simp [memBytes]

/-- The bytes just written are read back. -/
theorem memBytes_memPut : memBytes (memPut m a bs) a bs.length = bs := by
  apply List.ext_getElem (by simp)
  intro i h1 h2
  simp only [memBytes, List.getElem_map, List.getElem_range, memGet_memPut]
  rw [if_pos (by omega)]
  simp [h2]

/-- Bytes that a write does not touch are read as before. -/
theorem memBytes_memPut_out (h : x + n ≤ a ∨ a + bs.length ≤ x) :
    memBytes (memPut m a bs) x n = memBytes m x n := by
  simp only [memBytes]
  apply List.map_congr_left
  intro i hi
  have := List.mem_range.mp hi
  exact memGet_memPut_out _ _ _ _ (by omega)

end

/-! ### Little-endian values (R12) -/

@[simp] theorem leBytes_length : ∀ n v, (leBytes n v).length = n
  | 0, _ => rfl
  | n + 1, v => by simp [leBytes, leBytes_length n]

theorem leNat_leBytes : ∀ n v, leNat (leBytes n v) = v % 256 ^ n
  | 0, v => by simp [leBytes, leNat, Nat.mod_one]
  | n + 1, v => by
    rw [leBytes, leNat, leNat_leBytes n, BitVec.toNat_ofNat, show 256 ^ (n + 1) = 256 * 256 ^ n by rw [Nat.pow_succ, Nat.mul_comm],
      Nat.mod_mul]

theorem leNat_lt : ∀ bs : List Byte, leNat bs < 256 ^ bs.length
  | [] => by simp [leNat]
  | b :: bs => by
    have h1 := leNat_lt bs
    have h2 := b.isLt
    simp only [leNat, List.length_cons, Nat.pow_succ]
    omega

/-- A value just written is read back, modulo its width. -/
theorem memNat_memPut (m : Mem) (a n v : Nat) : memNat (memPut m a (leBytes n v)) a n = v % 256 ^ n := by
  have h := memBytes_memPut m a (leBytes n v)
  rw [leBytes_length] at h
  rw [memNat, h, leNat_leBytes]

theorem memNat_memPut_out (m : Mem) (a x n : Nat) (bs : List Byte) (h : x + n ≤ a ∨ a + bs.length ≤ x) :
    memNat (memPut m a bs) x n = memNat m x n := by rw [memNat, memNat, memBytes_memPut_out _ _ _ _ _ h]

/-! ### The canonical form -/

theorem Mem.wf_iff : ∀ m : Mem, Mem.wf m = true ↔ m.Pairwise (fun c e => c.1 < e.1) ∧ ∀ c ∈ m, c.2 ≠ 0
  | [] => by simp [Mem.wf]
  | (a, b) :: m => by
    simp only [Mem.wf, Bool.and_eq_true, bne_iff_ne, List.all_eq_true, decide_eq_true_eq, Mem.wf_iff m,
      List.pairwise_cons, List.forall_mem_cons]
    tauto

theorem memCells_pairwise : ∀ (bs : List Byte) (a : Nat), (memCells a bs).Pairwise fun c e => c.1 < e.1
  | [], _ => by simp [memCells]
  | b :: bs, a => by
    simp only [memCells]
    split
    · exact memCells_pairwise bs _
    · exact List.pairwise_cons.mpr ⟨fun c hc => by have := memCells_mem hc; simp only; omega, memCells_pairwise bs _⟩

@[simp] theorem Mem.wf_nil : Mem.wf [] = true := rfl

theorem Mem.wf_memCells (a : Nat) (bs : List Byte) : Mem.wf (memCells a bs) = true :=
  (Mem.wf_iff _).mpr ⟨memCells_pairwise bs a, fun _ hc => (memCells_mem hc).2.2⟩

/-- A write keeps the canonical form. -/
theorem Mem.wf_memPut {m : Mem} (h : Mem.wf m = true) (a : Nat) (bs : List Byte) : Mem.wf (memPut m a bs) = true := by
  obtain ⟨hp, hz⟩ := (Mem.wf_iff m).mp h
  refine (Mem.wf_iff _).mpr ⟨?_, ?_⟩
  · simp only [memPut, List.pairwise_append]
    refine ⟨⟨hp.filter _, memCells_pairwise bs a, ?_⟩, hp.filter _, ?_⟩
    · intro c hc e he
      have := memCells_mem he
      simp at hc; omega
    · intro c hc e he
      simp at he
      rcases List.mem_append.mp hc with h | h
      · simp at h; omega
      · have := memCells_mem h; omega
  · intro c hc
    simp only [memPut, List.mem_append, List.mem_filter] at hc
    rcases hc with (h | h) | h
    · exact hz c h.1
    · exact (memCells_mem h).2.2
    · exact hz c h.1

/-- A copy between memories keeps it. -/
theorem Mem.wf_memBlit {m src : Mem} (h : Mem.wf m = true) (h' : Mem.wf src = true) (b a n : Nat) :
    Mem.wf (memBlit m b src a n) = true := by
  obtain ⟨hp, hz⟩ := (Mem.wf_iff m).mp h
  obtain ⟨hp', hz'⟩ := (Mem.wf_iff src).mp h'
  have hkey : ∀ c ∈ (src.filter fun c => decide (a ≤ c.1) && decide (c.1 < a + n)).map fun c => (c.1 - a + b, c.2),
      b ≤ c.1 ∧ c.1 < b + n ∧ c.2 ≠ 0 := by
    intro c hc
    simp only [List.mem_map, List.mem_filter, Bool.and_eq_true, decide_eq_true_eq] at hc
    obtain ⟨q, ⟨hq, h1, h2⟩, rfl⟩ := hc
    exact ⟨by simp only; omega, by simp only; omega, hz' q hq⟩
  refine (Mem.wf_iff _).mpr ⟨?_, ?_⟩
  · simp only [memBlit, List.pairwise_append]
    refine ⟨⟨hp.filter _, ?_, ?_⟩, hp.filter _, ?_⟩
    · refine List.pairwise_map.mpr ((hp'.filter _).imp_of_mem ?_)
      intro c e hc he hlt
      simp at hc he
      simp only; omega
    · intro c hc e he
      have := hkey e he
      simp at hc; omega
    · intro c hc e he
      simp at he
      rcases List.mem_append.mp hc with h | h
      · simp at h; omega
      · have := hkey c h; omega
  · intro c hc
    simp only [memBlit, List.mem_append] at hc
    rcases hc with (h | h) | h
    · exact hz c (List.mem_filter.mp h).1
    · exact (hkey c h).2.2
    · exact hz c (List.mem_filter.mp h).1

theorem Mem.wf_memClear {m : Mem} (h : Mem.wf m = true) (a n : Nat) : Mem.wf (memClear m a n) = true := by
  obtain ⟨hp, hz⟩ := (Mem.wf_iff m).mp h
  refine (Mem.wf_iff _).mpr ⟨?_, ?_⟩
  · simp only [memClear, List.pairwise_append]
    refine ⟨hp.filter _, hp.filter _, ?_⟩
    intro c hc e he
    simp at hc he; omega
  · intro c hc
    simp only [memClear, List.mem_append, List.mem_filter] at hc
    rcases hc with h | h <;> exact hz c h.1

theorem memGet_eq_of_mem {m : Mem} (h : Mem.wf m = true) {c : Host.Cell} (hc : c ∈ m) : memGet m c.1 = c.2 := by
  induction m with
  | nil => simp at hc
  | cons e m ih =>
    obtain ⟨hp, hz⟩ := (Mem.wf_iff _).mp h
    rcases List.mem_cons.mp hc with rfl | hc
    · simp [memGet]
    · have hlt := (List.pairwise_cons.mp hp).1 c hc
      have := ih ((Mem.wf_iff m).mpr ⟨(List.pairwise_cons.mp hp).2, fun x hx => hz x (by simp [hx])⟩) hc
      simp only [memGet, if_neg (show ¬ e.1 = c.1 by omega), this]

/-- Memories in the canonical form that read alike are the same data. -/
theorem Mem.ext_of_wf : ∀ {m l : Mem}, Mem.wf m = true → Mem.wf l = true → (∀ x, memGet m x = memGet l x) → m = l
  | [], [], _, _, _ => rfl
  | [], e :: l, _, h', hx => by
    have h1 := memGet_eq_of_mem h' (c := e) (by simp)
    have h2 := ((Mem.wf_iff _).mp h').2 e (by simp)
    rw [← hx] at h1
    exact absurd h1.symm h2
  | c :: m, [], h, _, hx => by
    have h1 := memGet_eq_of_mem h (c := c) (by simp)
    have h2 := ((Mem.wf_iff _).mp h).2 c (by simp)
    rw [hx] at h1
    exact absurd h1.symm h2
  | c :: m, e :: l, h, h', hx => by
    obtain ⟨hp, hz⟩ := (Mem.wf_iff _).mp h
    obtain ⟨hp', hz'⟩ := (Mem.wf_iff _).mp h'
    have key : ∀ {c e : Host.Cell} {m l : Mem}, Mem.wf (c :: m) = true → Mem.wf (e :: l) = true →
        (∀ x, memGet (c :: m) x = memGet (e :: l) x) → ¬ c.1 < e.1 := by
      intro c e m l h h' hx hlt
      have h1 := memGet_eq_of_mem h (c := c) (by simp)
      have h2 := ((Mem.wf_iff _).mp h).2 c (by simp)
      have hp' := ((Mem.wf_iff _).mp h').1
      rw [hx, memGet_of_not_mem] at h1
      · exact h2 h1.symm
      · intro q hq
        rcases List.mem_cons.mp hq with rfl | hq
        · omega
        · have := (List.pairwise_cons.mp hp').1 q hq; omega
    have hk : c.1 = e.1 := by
      have h1 := key h h' hx
      have h2 := key h' h fun x => (hx x).symm
      omega
    have hv : c.2 = e.2 := by
      have h1 := memGet_eq_of_mem h (c := c) (by simp)
      have h2 := memGet_eq_of_mem h' (c := e) (by simp)
      rw [hx, hk, h2] at h1
      exact h1.symm
    have hce : c = e := Prod.ext hk hv
    subst hce
    congr 1
    refine Mem.ext_of_wf ((Mem.wf_iff m).mpr ⟨(List.pairwise_cons.mp hp).2, fun x hx => hz x (by simp [hx])⟩)
      ((Mem.wf_iff l).mpr ⟨(List.pairwise_cons.mp hp').2, fun x hx => hz' x (by simp [hx])⟩) fun x => ?_
    by_cases hxc : c.1 = x
    · subst hxc
      rw [memGet_of_not_mem m _ fun q hq => by have := (List.pairwise_cons.mp hp).1 q hq; omega,
        memGet_of_not_mem l _ fun q hq => by have := (List.pairwise_cons.mp hp').1 q hq; omega]
    · have := hx x
      simpa [memGet, hxc] using this

end Sys2Proof.Machine
end

