-- ==== Sys2Proof/Laws/State.lean ====
section
/-! SUPPORT. One lemma for each field and each update of the state, true by computation, so that no later proof unfolds
a record update. -/

namespace Sys2Proof.Machine

section
variable {α : Type} {n : Nat} (v : Vector α n) (i j : Fin n) (a b : α)

theorem vget_set : (v.set i.val a i.isLt).get i = a := by
  change (v.set i.val a i.isLt)[i.val] = a
  simp
theorem vget_set_ne (h : j ≠ i) : (v.set i.val a i.isLt).get j = v.get j := by
  change (v.set i.val a i.isLt)[j.val] = v[j.val]
  exact Vector.getElem_set_ne i.isLt j.isLt fun e => h (Fin.ext e.symm)
theorem vset_set : (v.set i.val a i.isLt).set i.val b i.isLt = v.set i.val b i.isLt := by simp
theorem vset_get : v.set i.val (v.get i) i.isLt = v := by
  change v.set i.val v[i.val] i.isLt = v
  simp
end

section
variable (s : State) (c c' : CoreId) (k : Core) (f : Core → Core) (d d' : DieId) (r : Runner) (g : Runner → Runner)
  (p : Package → Package)

/-! ### A core, a runner die, the package -/

@[simp] theorem State.setCore_core : (s.setCore c k).core c = k := vget_set ..
theorem State.setCore_core_ne (h : c' ≠ c) : (s.setCore c k).core c' = s.core c' := vget_set_ne _ _ _ _ h
@[simp] theorem State.setCore_setCore (k' : Core) : (s.setCore c k).setCore c k' = s.setCore c k' := by
  simp [State.setCore]
@[simp] theorem State.setCore_self : s.setCore c (s.core c) = s := by
  simp [State.setCore, State.core, vset_get]

@[simp] theorem State.setCore_agenda : (s.setCore c k).agenda = s.agenda := rfl
@[simp] theorem State.setCore_ticks : (s.setCore c k).ticks = s.ticks := rfl
@[simp] theorem State.setCore_cur : (s.setCore c k).cur = s.cur := rfl
@[simp] theorem State.setCore_curDie : (s.setCore c k).curDie = s.curDie := rfl
@[simp] theorem State.setCore_curSeq : (s.setCore c k).curSeq = s.curSeq := rfl
@[simp] theorem State.setCore_dies : (s.setCore c k).dies = s.dies := rfl
@[simp] theorem State.setCore_cycles : (s.setCore c k).cycles = s.cycles := rfl
@[simp] theorem State.setCore_mem : (s.setCore c k).mem = s.mem := rfl
@[simp] theorem State.setCore_hostMem : (s.setCore c k).hostMem = s.hostMem := rfl
@[simp] theorem State.setCore_pkg : (s.setCore c k).pkg = s.pkg := rfl
@[simp] theorem State.setCore_runner : (s.setCore c k).runner d = s.runner d := rfl
@[simp] theorem State.modCore_core : (s.modCore c f).core c = f (s.core c) := by simp [State.modCore]
theorem State.modCore_core_ne (h : c' ≠ c) : (s.modCore c f).core c' = s.core c' := s.setCore_core_ne c c' _ h
theorem State.modCore_eq : s.modCore c f = s.setCore c (f (s.core c)) := rfl
@[simp] theorem State.modCore_agenda : (s.modCore c f).agenda = s.agenda := rfl
@[simp] theorem State.modCore_ticks : (s.modCore c f).ticks = s.ticks := rfl
@[simp] theorem State.modCore_cur : (s.modCore c f).cur = s.cur := rfl
@[simp] theorem State.modCore_curDie : (s.modCore c f).curDie = s.curDie := rfl
@[simp] theorem State.modCore_curSeq : (s.modCore c f).curSeq = s.curSeq := rfl
@[simp] theorem State.modCore_dies : (s.modCore c f).dies = s.dies := rfl
@[simp] theorem State.modCore_cycles : (s.modCore c f).cycles = s.cycles := rfl
@[simp] theorem State.modCore_mem : (s.modCore c f).mem = s.mem := rfl
@[simp] theorem State.modCore_hostMem : (s.modCore c f).hostMem = s.hostMem := rfl
@[simp] theorem State.modCore_pkg : (s.modCore c f).pkg = s.pkg := rfl
@[simp] theorem State.modCore_runner : (s.modCore c f).runner d = s.runner d := rfl

@[simp] theorem State.setRunner_runner : (s.setRunner d r).runner d = r := vget_set ..
theorem State.setRunner_runner_ne (h : d' ≠ d) : (s.setRunner d r).runner d' = s.runner d' := vget_set_ne _ _ _ _ h
@[simp] theorem State.setRunner_setRunner (r' : Runner) : (s.setRunner d r).setRunner d r' = s.setRunner d r' := by
  simp [State.setRunner]
@[simp] theorem State.setRunner_agenda : (s.setRunner d r).agenda = s.agenda := rfl
@[simp] theorem State.setRunner_ticks : (s.setRunner d r).ticks = s.ticks := rfl
@[simp] theorem State.setRunner_cur : (s.setRunner d r).cur = s.cur := rfl
@[simp] theorem State.setRunner_curDie : (s.setRunner d r).curDie = s.curDie := rfl
@[simp] theorem State.setRunner_curSeq : (s.setRunner d r).curSeq = s.curSeq := rfl
@[simp] theorem State.setRunner_cores : (s.setRunner d r).cores = s.cores := rfl
@[simp] theorem State.setRunner_cycles : (s.setRunner d r).cycles = s.cycles := rfl
@[simp] theorem State.setRunner_mem : (s.setRunner d r).mem = s.mem := rfl
@[simp] theorem State.setRunner_hostMem : (s.setRunner d r).hostMem = s.hostMem := rfl
@[simp] theorem State.setRunner_pkg : (s.setRunner d r).pkg = s.pkg := rfl
@[simp] theorem State.setRunner_core : (s.setRunner d r).core c = s.core c := rfl
@[simp] theorem State.modRunner_runner : (s.modRunner d g).runner d = g (s.runner d) := by simp [State.modRunner]
theorem State.modRunner_runner_ne (h : d' ≠ d) : (s.modRunner d g).runner d' = s.runner d' :=
  s.setRunner_runner_ne d d' _ h
@[simp] theorem State.modRunner_agenda : (s.modRunner d g).agenda = s.agenda := rfl
@[simp] theorem State.modRunner_ticks : (s.modRunner d g).ticks = s.ticks := rfl
@[simp] theorem State.modRunner_cur : (s.modRunner d g).cur = s.cur := rfl
@[simp] theorem State.modRunner_curDie : (s.modRunner d g).curDie = s.curDie := rfl
@[simp] theorem State.modRunner_curSeq : (s.modRunner d g).curSeq = s.curSeq := rfl
@[simp] theorem State.modRunner_cores : (s.modRunner d g).cores = s.cores := rfl
@[simp] theorem State.modRunner_cycles : (s.modRunner d g).cycles = s.cycles := rfl
@[simp] theorem State.modRunner_mem : (s.modRunner d g).mem = s.mem := rfl
@[simp] theorem State.modRunner_hostMem : (s.modRunner d g).hostMem = s.hostMem := rfl
@[simp] theorem State.modRunner_pkg : (s.modRunner d g).pkg = s.pkg := rfl
@[simp] theorem State.modRunner_core : (s.modRunner d g).core c = s.core c := rfl

@[simp] theorem State.modPkg_agenda : (s.modPkg p).agenda = s.agenda := rfl
@[simp] theorem State.modPkg_ticks : (s.modPkg p).ticks = s.ticks := rfl
@[simp] theorem State.modPkg_cur : (s.modPkg p).cur = s.cur := rfl
@[simp] theorem State.modPkg_curDie : (s.modPkg p).curDie = s.curDie := rfl
@[simp] theorem State.modPkg_curSeq : (s.modPkg p).curSeq = s.curSeq := rfl
@[simp] theorem State.modPkg_cores : (s.modPkg p).cores = s.cores := rfl
@[simp] theorem State.modPkg_dies : (s.modPkg p).dies = s.dies := rfl
@[simp] theorem State.modPkg_cycles : (s.modPkg p).cycles = s.cycles := rfl
@[simp] theorem State.modPkg_mem : (s.modPkg p).mem = s.mem := rfl
@[simp] theorem State.modPkg_hostMem : (s.modPkg p).hostMem = s.hostMem := rfl
@[simp] theorem State.modPkg_pkg : (s.modPkg p).pkg = p s.pkg := rfl
@[simp] theorem State.modPkg_core : (s.modPkg p).core c = s.core c := rfl
@[simp] theorem State.modPkg_runner : (s.modPkg p).runner d = s.runner d := rfl

@[simp] theorem State.passTo_agenda (t : Nat) : (s.passTo d t).agenda = s.agenda := rfl
@[simp] theorem State.passTo_ticks (t : Nat) : (s.passTo d t).ticks = s.ticks := rfl
@[simp] theorem State.passTo_cur (t : Nat) : (s.passTo d t).cur = s.cur := rfl
@[simp] theorem State.passTo_curDie (t : Nat) : (s.passTo d t).curDie = s.curDie := rfl
@[simp] theorem State.passTo_curSeq (t : Nat) : (s.passTo d t).curSeq = s.curSeq := rfl
@[simp] theorem State.passTo_cores (t : Nat) : (s.passTo d t).cores = s.cores := rfl
@[simp] theorem State.passTo_dies (t : Nat) : (s.passTo d t).dies = s.dies := rfl
@[simp] theorem State.passTo_mem (t : Nat) : (s.passTo d t).mem = s.mem := rfl
@[simp] theorem State.passTo_hostMem (t : Nat) : (s.passTo d t).hostMem = s.hostMem := rfl
@[simp] theorem State.passTo_pkg (t : Nat) : (s.passTo d t).pkg = s.pkg := rfl
@[simp] theorem State.passTo_core (t : Nat) : (s.passTo d t).core c = s.core c := rfl
@[simp] theorem State.passTo_runner (t : Nat) : (s.passTo d' t).runner d = s.runner d := rfl

end

/-! ### The engines of a core -/

section
variable (c : Core) (t : Stem) (v : Vec) (m : Mat) (r : Reg) (w : Word) (n : Nat)

@[simp] theorem Core.setStem_stem : (c.setStem t).stem = t := rfl
@[simp] theorem Core.setStem_vec : (c.setStem t).vec = c.vec := rfl
@[simp] theorem Core.setStem_mat : (c.setStem t).mat = c.mat := rfl
@[simp] theorem Core.setStem_slots : (c.setStem t).slots = c.slots := rfl
@[simp] theorem Core.setStem_tiles : (c.setStem t).tiles = c.tiles := rfl
@[simp] theorem Core.setStem_full : (c.setStem t).full = c.full := rfl
@[simp] theorem Core.setStem_moulds : (c.setStem t).moulds = c.moulds := rfl
@[simp] theorem Core.setStem_scratch : (c.setStem t).scratch = c.scratch := rfl
@[simp] theorem Core.setStem_imem : (c.setStem t).imem = c.imem := rfl
@[simp] theorem Core.setStem_seg : (c.setStem t).seg = c.seg := rfl
@[simp] theorem Core.setStem_eccHard : (c.setStem t).eccHard = c.eccHard := rfl
@[simp] theorem Core.setStem_eccSoft : (c.setStem t).eccSoft = c.eccSoft := rfl
@[simp] theorem Core.setStem_eccFix : (c.setStem t).eccFix = c.eccFix := rfl
@[simp] theorem Core.setStem_eccCount : (c.setStem t).eccCount = c.eccCount := rfl
@[simp] theorem Core.setStem_eccWords : (c.setStem t).eccWords = c.eccWords := rfl
@[simp] theorem Core.setStem_imemBad : (c.setStem t).imemBad = c.imemBad := rfl
@[simp] theorem Core.setStem_segBad : (c.setStem t).segBad = c.segBad := rfl
@[simp] theorem Core.setStem_probes : (c.setStem t).probes = c.probes := rfl
@[simp] theorem Core.setStem_victim : (c.setStem t).victim = c.victim := rfl
@[simp] theorem Core.setStem_bankq : (c.setStem t).bankq = c.bankq := rfl
@[simp] theorem Core.setStem_posts : (c.setStem t).posts = c.posts := rfl
@[simp] theorem Core.setStem_postNum : (c.setStem t).postNum = c.postNum := rfl
@[simp] theorem Core.setStem_marks : (c.setStem t).marks = c.marks := rfl
@[simp] theorem Core.setStem_cancels : (c.setStem t).cancels = c.cancels := rfl
@[simp] theorem Core.setStem_phase : (c.setStem t).phase = c.phase := rfl
@[simp] theorem Core.setStem_grain : (c.setStem t).grain = c.grain := rfl
@[simp] theorem Core.setStem_stopFor : (c.setStem t).stopFor = c.stopFor := rfl
@[simp] theorem Core.setStem_stext : (c.setStem t).stext = c.stext := rfl
@[simp] theorem Core.setStem_vtext : (c.setStem t).vtext = c.vtext := rfl
@[simp] theorem Core.setStem_lastCtx : (c.setStem t).lastCtx = c.lastCtx := rfl
@[simp] theorem Core.setVec_stem : (c.setVec v).stem = c.stem := rfl
@[simp] theorem Core.setVec_vec : (c.setVec v).vec = v := rfl
@[simp] theorem Core.setVec_mat : (c.setVec v).mat = c.mat := rfl
@[simp] theorem Core.setVec_slots : (c.setVec v).slots = c.slots := rfl
@[simp] theorem Core.setVec_tiles : (c.setVec v).tiles = c.tiles := rfl
@[simp] theorem Core.setVec_full : (c.setVec v).full = c.full := rfl
@[simp] theorem Core.setVec_moulds : (c.setVec v).moulds = c.moulds := rfl
@[simp] theorem Core.setVec_scratch : (c.setVec v).scratch = c.scratch := rfl
@[simp] theorem Core.setVec_imem : (c.setVec v).imem = c.imem := rfl
@[simp] theorem Core.setVec_seg : (c.setVec v).seg = c.seg := rfl
@[simp] theorem Core.setVec_eccHard : (c.setVec v).eccHard = c.eccHard := rfl
@[simp] theorem Core.setVec_eccSoft : (c.setVec v).eccSoft = c.eccSoft := rfl
@[simp] theorem Core.setVec_eccFix : (c.setVec v).eccFix = c.eccFix := rfl
@[simp] theorem Core.setVec_eccCount : (c.setVec v).eccCount = c.eccCount := rfl
@[simp] theorem Core.setVec_eccWords : (c.setVec v).eccWords = c.eccWords := rfl
@[simp] theorem Core.setVec_imemBad : (c.setVec v).imemBad = c.imemBad := rfl
@[simp] theorem Core.setVec_segBad : (c.setVec v).segBad = c.segBad := rfl
@[simp] theorem Core.setVec_probes : (c.setVec v).probes = c.probes := rfl
@[simp] theorem Core.setVec_victim : (c.setVec v).victim = c.victim := rfl
@[simp] theorem Core.setVec_bankq : (c.setVec v).bankq = c.bankq := rfl
@[simp] theorem Core.setVec_posts : (c.setVec v).posts = c.posts := rfl
@[simp] theorem Core.setVec_postNum : (c.setVec v).postNum = c.postNum := rfl
@[simp] theorem Core.setVec_marks : (c.setVec v).marks = c.marks := rfl
@[simp] theorem Core.setVec_cancels : (c.setVec v).cancels = c.cancels := rfl
@[simp] theorem Core.setVec_phase : (c.setVec v).phase = c.phase := rfl
@[simp] theorem Core.setVec_grain : (c.setVec v).grain = c.grain := rfl
@[simp] theorem Core.setVec_stopFor : (c.setVec v).stopFor = c.stopFor := rfl
@[simp] theorem Core.setVec_stext : (c.setVec v).stext = c.stext := rfl
@[simp] theorem Core.setVec_vtext : (c.setVec v).vtext = c.vtext := rfl
@[simp] theorem Core.setVec_lastCtx : (c.setVec v).lastCtx = c.lastCtx := rfl
@[simp] theorem Core.setMat_stem : (c.setMat m).stem = c.stem := rfl
@[simp] theorem Core.setMat_vec : (c.setMat m).vec = c.vec := rfl
@[simp] theorem Core.setMat_mat : (c.setMat m).mat = m := rfl
@[simp] theorem Core.setMat_slots : (c.setMat m).slots = c.slots := rfl
@[simp] theorem Core.setMat_tiles : (c.setMat m).tiles = c.tiles := rfl
@[simp] theorem Core.setMat_full : (c.setMat m).full = c.full := rfl
@[simp] theorem Core.setMat_moulds : (c.setMat m).moulds = c.moulds := rfl
@[simp] theorem Core.setMat_scratch : (c.setMat m).scratch = c.scratch := rfl
@[simp] theorem Core.setMat_imem : (c.setMat m).imem = c.imem := rfl
@[simp] theorem Core.setMat_seg : (c.setMat m).seg = c.seg := rfl
@[simp] theorem Core.setMat_eccHard : (c.setMat m).eccHard = c.eccHard := rfl
@[simp] theorem Core.setMat_eccSoft : (c.setMat m).eccSoft = c.eccSoft := rfl
@[simp] theorem Core.setMat_eccFix : (c.setMat m).eccFix = c.eccFix := rfl
@[simp] theorem Core.setMat_eccCount : (c.setMat m).eccCount = c.eccCount := rfl
@[simp] theorem Core.setMat_eccWords : (c.setMat m).eccWords = c.eccWords := rfl
@[simp] theorem Core.setMat_imemBad : (c.setMat m).imemBad = c.imemBad := rfl
@[simp] theorem Core.setMat_segBad : (c.setMat m).segBad = c.segBad := rfl
@[simp] theorem Core.setMat_probes : (c.setMat m).probes = c.probes := rfl
@[simp] theorem Core.setMat_victim : (c.setMat m).victim = c.victim := rfl
@[simp] theorem Core.setMat_bankq : (c.setMat m).bankq = c.bankq := rfl
@[simp] theorem Core.setMat_posts : (c.setMat m).posts = c.posts := rfl
@[simp] theorem Core.setMat_postNum : (c.setMat m).postNum = c.postNum := rfl
@[simp] theorem Core.setMat_marks : (c.setMat m).marks = c.marks := rfl
@[simp] theorem Core.setMat_cancels : (c.setMat m).cancels = c.cancels := rfl
@[simp] theorem Core.setMat_phase : (c.setMat m).phase = c.phase := rfl
@[simp] theorem Core.setMat_grain : (c.setMat m).grain = c.grain := rfl
@[simp] theorem Core.setMat_stopFor : (c.setMat m).stopFor = c.stopFor := rfl
@[simp] theorem Core.setMat_stext : (c.setMat m).stext = c.stext := rfl
@[simp] theorem Core.setMat_vtext : (c.setMat m).vtext = c.vtext := rfl
@[simp] theorem Core.setMat_lastCtx : (c.setMat m).lastCtx = c.lastCtx := rfl

/-! ### A stem register written -/

@[simp] theorem Core.setX_vec : (c.setX r w).vec = c.vec := by unfold Core.setX; split <;> rfl
@[simp] theorem Core.setX_mat : (c.setX r w).mat = c.mat := by unfold Core.setX; split <;> rfl
@[simp] theorem Core.setX_slots : (c.setX r w).slots = c.slots := by unfold Core.setX; split <;> rfl
@[simp] theorem Core.setX_tiles : (c.setX r w).tiles = c.tiles := by unfold Core.setX; split <;> rfl
@[simp] theorem Core.setX_full : (c.setX r w).full = c.full := by unfold Core.setX; split <;> rfl
@[simp] theorem Core.setX_moulds : (c.setX r w).moulds = c.moulds := by unfold Core.setX; split <;> rfl
@[simp] theorem Core.setX_scratch : (c.setX r w).scratch = c.scratch := by unfold Core.setX; split <;> rfl
@[simp] theorem Core.setX_imem : (c.setX r w).imem = c.imem := by unfold Core.setX; split <;> rfl
@[simp] theorem Core.setX_seg : (c.setX r w).seg = c.seg := by unfold Core.setX; split <;> rfl
@[simp] theorem Core.setX_eccHard : (c.setX r w).eccHard = c.eccHard := by unfold Core.setX; split <;> rfl
@[simp] theorem Core.setX_eccSoft : (c.setX r w).eccSoft = c.eccSoft := by unfold Core.setX; split <;> rfl
@[simp] theorem Core.setX_eccFix : (c.setX r w).eccFix = c.eccFix := by unfold Core.setX; split <;> rfl
@[simp] theorem Core.setX_eccCount : (c.setX r w).eccCount = c.eccCount := by unfold Core.setX; split <;> rfl
@[simp] theorem Core.setX_eccWords : (c.setX r w).eccWords = c.eccWords := by unfold Core.setX; split <;> rfl
@[simp] theorem Core.setX_imemBad : (c.setX r w).imemBad = c.imemBad := by unfold Core.setX; split <;> rfl
@[simp] theorem Core.setX_segBad : (c.setX r w).segBad = c.segBad := by unfold Core.setX; split <;> rfl
@[simp] theorem Core.setX_probes : (c.setX r w).probes = c.probes := by unfold Core.setX; split <;> rfl
@[simp] theorem Core.setX_victim : (c.setX r w).victim = c.victim := by unfold Core.setX; split <;> rfl
@[simp] theorem Core.setX_bankq : (c.setX r w).bankq = c.bankq := by unfold Core.setX; split <;> rfl
@[simp] theorem Core.setX_posts : (c.setX r w).posts = c.posts := by unfold Core.setX; split <;> rfl
@[simp] theorem Core.setX_postNum : (c.setX r w).postNum = c.postNum := by unfold Core.setX; split <;> rfl
@[simp] theorem Core.setX_marks : (c.setX r w).marks = c.marks := by unfold Core.setX; split <;> rfl
@[simp] theorem Core.setX_cancels : (c.setX r w).cancels = c.cancels := by unfold Core.setX; split <;> rfl
@[simp] theorem Core.setX_phase : (c.setX r w).phase = c.phase := by unfold Core.setX; split <;> rfl
@[simp] theorem Core.setX_grain : (c.setX r w).grain = c.grain := by unfold Core.setX; split <;> rfl
@[simp] theorem Core.setX_stopFor : (c.setX r w).stopFor = c.stopFor := by unfold Core.setX; split <;> rfl
@[simp] theorem Core.setX_stext : (c.setX r w).stext = c.stext := by unfold Core.setX; split <;> rfl
@[simp] theorem Core.setX_vtext : (c.setX r w).vtext = c.vtext := by unfold Core.setX; split <;> rfl
@[simp] theorem Core.setX_lastCtx : (c.setX r w).lastCtx = c.lastCtx := by unfold Core.setX; split <;> rfl
@[simp] theorem Core.setX_stem_lc : (c.setX r w).stem.lc = c.stem.lc := by unfold Core.setX; split <;> rfl
@[simp] theorem Core.setX_stem_loops : (c.setX r w).stem.loops = c.stem.loops := by unfold Core.setX; split <;> rfl
@[simp] theorem Core.setX_stem_rets : (c.setX r w).stem.rets = c.stem.rets := by unfold Core.setX; split <;> rfl
@[simp] theorem Core.setX_stem_pc : (c.setX r w).stem.pc = c.stem.pc := by unfold Core.setX; split <;> rfl
@[simp] theorem Core.setX_stem_status : (c.setX r w).stem.status = c.stem.status := by unfold Core.setX; split <;> rfl
@[simp] theorem Core.setX_stem_trapcause : (c.setX r w).stem.trapcause = c.stem.trapcause := by unfold Core.setX; split <;> rfl
@[simp] theorem Core.setX_stem_trappc : (c.setX r w).stem.trappc = c.stem.trappc := by unfold Core.setX; split <;> rfl
@[simp] theorem Core.setX_stem_trapval : (c.setX r w).stem.trapval = c.stem.trapval := by unfold Core.setX; split <;> rfl
@[simp] theorem Core.setX_stem_trapvec : (c.setX r w).stem.trapvec = c.stem.trapvec := by unfold Core.setX; split <;> rfl
@[simp] theorem Core.setX_stem_trapscr : (c.setX r w).stem.trapscr = c.stem.trapscr := by unfold Core.setX; split <;> rfl
@[simp] theorem Core.setX_stem_vfault : (c.setX r w).stem.vfault = c.stem.vfault := by unfold Core.setX; split <;> rfl
@[simp] theorem Core.setX_stem_ctxid : (c.setX r w).stem.ctxid = c.stem.ctxid := by unfold Core.setX; split <;> rfl
@[simp] theorem Core.setX_stem_seed : (c.setX r w).stem.seed = c.stem.seed := by unfold Core.setX; split <;> rfl
@[simp] theorem Core.setX_stem_pwindow : (c.setX r w).stem.pwindow = c.stem.pwindow := by unfold Core.setX; split <;> rfl
@[simp] theorem Core.setX_stem_gfmt : (c.setX r w).stem.gfmt = c.stem.gfmt := by unfold Core.setX; split <;> rfl
@[simp] theorem Core.setX_stem_fmt : (c.setX r w).stem.fmt = c.stem.fmt := by unfold Core.setX; split <;> rfl
@[simp] theorem Core.setX_stem_ratoms : (c.setX r w).stem.ratoms = c.stem.ratoms := by unfold Core.setX; split <;> rfl
@[simp] theorem Core.setX_stem_ratomNext : (c.setX r w).stem.ratomNext = c.stem.ratomNext := by unfold Core.setX; split <;> rfl
@[simp] theorem Core.setX_stem_ratomFence : (c.setX r w).stem.ratomFence = c.stem.ratomFence := by unfold Core.setX; split <;> rfl
@[simp] theorem Core.setX_stem_stq : (c.setX r w).stem.stq = c.stem.stq := by unfold Core.setX; split <;> rfl
@[simp] theorem Core.setX_stem_ir : (c.setX r w).stem.ir = c.stem.ir := by unfold Core.setX; split <;> rfl
@[simp] theorem Core.setX_stem_waitSince : (c.setX r w).stem.waitSince = c.stem.waitSince := by unfold Core.setX; split <;> rfl
@[simp] theorem Core.setX_stem_waita : (c.setX r w).stem.waita = c.stem.waita := by unfold Core.setX; split <;> rfl
@[simp] theorem Core.setX_stem_bars : (c.setX r w).stem.bars = c.stem.bars := by unfold Core.setX; split <;> rfl
@[simp] theorem Core.setX_stem_stale : (c.setX r w).stem.stale = c.stem.stale := by unfold Core.setX; split <;> rfl
@[simp] theorem Core.setX_stem_deferred : (c.setX r w).stem.deferred = c.stem.deferred := by unfold Core.setX; split <;> rfl
@[simp] theorem Core.setX_zero : c.setX 0 w = c := rfl
@[simp] theorem Core.getX_zero : c.getX 0 = 0 := rfl
theorem Core.getX_setX (h : r ≠ 0) : (c.setX r w).getX r = w := by
  simp [Core.getX, Core.setX, h, vget_set]
theorem Core.getX_setX_ne {q : Reg} (h : q ≠ r) : (c.setX r w).getX q = c.getX q := by
  unfold Core.setX
  split
  · rfl
  · simp only [Core.getX, Core.setStem_stem, vget_set_ne _ _ _ _ h]

/-! ### The next PC recorded -/

@[simp] theorem Core.goto_vec : (c.goto n).vec = c.vec := rfl
@[simp] theorem Core.goto_mat : (c.goto n).mat = c.mat := rfl
@[simp] theorem Core.goto_slots : (c.goto n).slots = c.slots := rfl
@[simp] theorem Core.goto_tiles : (c.goto n).tiles = c.tiles := rfl
@[simp] theorem Core.goto_full : (c.goto n).full = c.full := rfl
@[simp] theorem Core.goto_moulds : (c.goto n).moulds = c.moulds := rfl
@[simp] theorem Core.goto_scratch : (c.goto n).scratch = c.scratch := rfl
@[simp] theorem Core.goto_imem : (c.goto n).imem = c.imem := rfl
@[simp] theorem Core.goto_seg : (c.goto n).seg = c.seg := rfl
@[simp] theorem Core.goto_eccHard : (c.goto n).eccHard = c.eccHard := rfl
@[simp] theorem Core.goto_eccSoft : (c.goto n).eccSoft = c.eccSoft := rfl
@[simp] theorem Core.goto_eccFix : (c.goto n).eccFix = c.eccFix := rfl
@[simp] theorem Core.goto_eccCount : (c.goto n).eccCount = c.eccCount := rfl
@[simp] theorem Core.goto_eccWords : (c.goto n).eccWords = c.eccWords := rfl
@[simp] theorem Core.goto_imemBad : (c.goto n).imemBad = c.imemBad := rfl
@[simp] theorem Core.goto_segBad : (c.goto n).segBad = c.segBad := rfl
@[simp] theorem Core.goto_probes : (c.goto n).probes = c.probes := rfl
@[simp] theorem Core.goto_victim : (c.goto n).victim = c.victim := rfl
@[simp] theorem Core.goto_bankq : (c.goto n).bankq = c.bankq := rfl
@[simp] theorem Core.goto_posts : (c.goto n).posts = c.posts := rfl
@[simp] theorem Core.goto_postNum : (c.goto n).postNum = c.postNum := rfl
@[simp] theorem Core.goto_marks : (c.goto n).marks = c.marks := rfl
@[simp] theorem Core.goto_cancels : (c.goto n).cancels = c.cancels := rfl
@[simp] theorem Core.goto_phase : (c.goto n).phase = c.phase := rfl
@[simp] theorem Core.goto_grain : (c.goto n).grain = c.grain := rfl
@[simp] theorem Core.goto_stopFor : (c.goto n).stopFor = c.stopFor := rfl
@[simp] theorem Core.goto_stext : (c.goto n).stext = c.stext := rfl
@[simp] theorem Core.goto_vtext : (c.goto n).vtext = c.vtext := rfl
@[simp] theorem Core.goto_lastCtx : (c.goto n).lastCtx = c.lastCtx := rfl
@[simp] theorem Core.goto_stem_x : (c.goto n).stem.x = c.stem.x := rfl
@[simp] theorem Core.goto_stem_rets : (c.goto n).stem.rets = c.stem.rets := rfl
@[simp] theorem Core.goto_stem_status : (c.goto n).stem.status = c.stem.status := rfl
@[simp] theorem Core.goto_stem_trapcause : (c.goto n).stem.trapcause = c.stem.trapcause := rfl
@[simp] theorem Core.goto_stem_trappc : (c.goto n).stem.trappc = c.stem.trappc := rfl
@[simp] theorem Core.goto_stem_trapval : (c.goto n).stem.trapval = c.stem.trapval := rfl
@[simp] theorem Core.goto_stem_trapvec : (c.goto n).stem.trapvec = c.stem.trapvec := rfl
@[simp] theorem Core.goto_stem_trapscr : (c.goto n).stem.trapscr = c.stem.trapscr := rfl
@[simp] theorem Core.goto_stem_vfault : (c.goto n).stem.vfault = c.stem.vfault := rfl
@[simp] theorem Core.goto_stem_ctxid : (c.goto n).stem.ctxid = c.stem.ctxid := rfl
@[simp] theorem Core.goto_stem_seed : (c.goto n).stem.seed = c.stem.seed := rfl
@[simp] theorem Core.goto_stem_pwindow : (c.goto n).stem.pwindow = c.stem.pwindow := rfl
@[simp] theorem Core.goto_stem_gfmt : (c.goto n).stem.gfmt = c.stem.gfmt := rfl
@[simp] theorem Core.goto_stem_fmt : (c.goto n).stem.fmt = c.stem.fmt := rfl
@[simp] theorem Core.goto_stem_ratoms : (c.goto n).stem.ratoms = c.stem.ratoms := rfl
@[simp] theorem Core.goto_stem_ratomNext : (c.goto n).stem.ratomNext = c.stem.ratomNext := rfl
@[simp] theorem Core.goto_stem_ratomFence : (c.goto n).stem.ratomFence = c.stem.ratomFence := rfl
@[simp] theorem Core.goto_stem_stq : (c.goto n).stem.stq = c.stem.stq := rfl
@[simp] theorem Core.goto_stem_ir : (c.goto n).stem.ir = c.stem.ir := rfl
@[simp] theorem Core.goto_stem_bars : (c.goto n).stem.bars = c.stem.bars := rfl
@[simp] theorem Core.goto_stem_stale : (c.goto n).stem.stale = c.stem.stale := rfl
@[simp] theorem Core.goto_stem_parity : (c.goto n).stem.parity = c.stem.parity := rfl
@[simp] theorem Core.goto_stem_deferred : (c.goto n).stem.deferred = c.stem.deferred := rfl
@[simp] theorem Core.goto_getX : (c.goto n).getX r = c.getX r := rfl

/-! ### A trap taken -/

section
variable (e : Engine) (cause : Cause) (pc : BitVec 16) (loc : Option Word)

@[simp] theorem Core.trapEntry_vec : (c.trapEntry e cause w pc loc).vec = c.vec := rfl
@[simp] theorem Core.trapEntry_mat : (c.trapEntry e cause w pc loc).mat = c.mat := rfl
@[simp] theorem Core.trapEntry_slots : (c.trapEntry e cause w pc loc).slots = c.slots := rfl
@[simp] theorem Core.trapEntry_tiles : (c.trapEntry e cause w pc loc).tiles = c.tiles := rfl
@[simp] theorem Core.trapEntry_full : (c.trapEntry e cause w pc loc).full = c.full := rfl
@[simp] theorem Core.trapEntry_moulds : (c.trapEntry e cause w pc loc).moulds = c.moulds := rfl
@[simp] theorem Core.trapEntry_scratch : (c.trapEntry e cause w pc loc).scratch = c.scratch := rfl
@[simp] theorem Core.trapEntry_imem : (c.trapEntry e cause w pc loc).imem = c.imem := rfl
@[simp] theorem Core.trapEntry_seg : (c.trapEntry e cause w pc loc).seg = c.seg := rfl
@[simp] theorem Core.trapEntry_eccHard : (c.trapEntry e cause w pc loc).eccHard = c.eccHard := rfl
@[simp] theorem Core.trapEntry_eccSoft : (c.trapEntry e cause w pc loc).eccSoft = c.eccSoft := rfl
@[simp] theorem Core.trapEntry_eccFix : (c.trapEntry e cause w pc loc).eccFix = c.eccFix := rfl
@[simp] theorem Core.trapEntry_eccCount : (c.trapEntry e cause w pc loc).eccCount = c.eccCount := rfl
@[simp] theorem Core.trapEntry_eccWords : (c.trapEntry e cause w pc loc).eccWords = c.eccWords := rfl
@[simp] theorem Core.trapEntry_imemBad : (c.trapEntry e cause w pc loc).imemBad = c.imemBad := rfl
@[simp] theorem Core.trapEntry_segBad : (c.trapEntry e cause w pc loc).segBad = c.segBad := rfl
@[simp] theorem Core.trapEntry_probes : (c.trapEntry e cause w pc loc).probes = c.probes := rfl
@[simp] theorem Core.trapEntry_victim : (c.trapEntry e cause w pc loc).victim = c.victim := rfl
@[simp] theorem Core.trapEntry_bankq : (c.trapEntry e cause w pc loc).bankq = c.bankq := rfl
@[simp] theorem Core.trapEntry_posts : (c.trapEntry e cause w pc loc).posts = c.posts := rfl
@[simp] theorem Core.trapEntry_postNum : (c.trapEntry e cause w pc loc).postNum = c.postNum := rfl
@[simp] theorem Core.trapEntry_marks : (c.trapEntry e cause w pc loc).marks = c.marks := rfl
@[simp] theorem Core.trapEntry_cancels : (c.trapEntry e cause w pc loc).cancels = c.cancels := rfl
@[simp] theorem Core.trapEntry_phase : (c.trapEntry e cause w pc loc).phase = c.phase := rfl
@[simp] theorem Core.trapEntry_grain : (c.trapEntry e cause w pc loc).grain = c.grain := rfl
@[simp] theorem Core.trapEntry_stopFor : (c.trapEntry e cause w pc loc).stopFor = c.stopFor := rfl
@[simp] theorem Core.trapEntry_stext : (c.trapEntry e cause w pc loc).stext = c.stext := rfl
@[simp] theorem Core.trapEntry_vtext : (c.trapEntry e cause w pc loc).vtext = c.vtext := rfl
@[simp] theorem Core.trapEntry_lastCtx : (c.trapEntry e cause w pc loc).lastCtx = c.lastCtx := rfl
@[simp] theorem Core.trapEntry_stem_x : (c.trapEntry e cause w pc loc).stem.x = c.stem.x := rfl
@[simp] theorem Core.trapEntry_stem_lc : (c.trapEntry e cause w pc loc).stem.lc = c.stem.lc := rfl
@[simp] theorem Core.trapEntry_stem_loops : (c.trapEntry e cause w pc loc).stem.loops = c.stem.loops := rfl
@[simp] theorem Core.trapEntry_stem_rets : (c.trapEntry e cause w pc loc).stem.rets = c.stem.rets := rfl
@[simp] theorem Core.trapEntry_stem_pc : (c.trapEntry e cause w pc loc).stem.pc = c.stem.trapvec.setWidth 16 := rfl
@[simp] theorem Core.trapEntry_stem_status : (c.trapEntry e cause w pc loc).stem.status = statusMode c.stem.status true (statusSup c.stem.status) := rfl
@[simp] theorem Core.trapEntry_stem_trapcause : (c.trapEntry e cause w pc loc).stem.trapcause = trapCauseWord e cause := rfl
@[simp] theorem Core.trapEntry_stem_trappc : (c.trapEntry e cause w pc loc).stem.trappc = pc.setWidth 64 := rfl
@[simp] theorem Core.trapEntry_stem_trapval : (c.trapEntry e cause w pc loc).stem.trapval = w := rfl
@[simp] theorem Core.trapEntry_stem_trapvec : (c.trapEntry e cause w pc loc).stem.trapvec = c.stem.trapvec := rfl
@[simp] theorem Core.trapEntry_stem_trapscr : (c.trapEntry e cause w pc loc).stem.trapscr = c.stem.trapscr := rfl
@[simp] theorem Core.trapEntry_stem_vfault : (c.trapEntry e cause w pc loc).stem.vfault = loc.getD c.stem.vfault := rfl
@[simp] theorem Core.trapEntry_stem_ctxid : (c.trapEntry e cause w pc loc).stem.ctxid = c.stem.ctxid := rfl
@[simp] theorem Core.trapEntry_stem_seed : (c.trapEntry e cause w pc loc).stem.seed = c.stem.seed := rfl
@[simp] theorem Core.trapEntry_stem_pwindow : (c.trapEntry e cause w pc loc).stem.pwindow = c.stem.pwindow := rfl
@[simp] theorem Core.trapEntry_stem_gfmt : (c.trapEntry e cause w pc loc).stem.gfmt = c.stem.gfmt := rfl
@[simp] theorem Core.trapEntry_stem_fmt : (c.trapEntry e cause w pc loc).stem.fmt = c.stem.fmt := rfl
@[simp] theorem Core.trapEntry_stem_ratoms : (c.trapEntry e cause w pc loc).stem.ratoms = c.stem.ratoms := rfl
@[simp] theorem Core.trapEntry_stem_ratomNext : (c.trapEntry e cause w pc loc).stem.ratomNext = c.stem.ratomNext := rfl
@[simp] theorem Core.trapEntry_stem_ratomFence : (c.trapEntry e cause w pc loc).stem.ratomFence = c.stem.ratomFence := rfl
@[simp] theorem Core.trapEntry_stem_stq : (c.trapEntry e cause w pc loc).stem.stq = c.stem.stq := rfl
@[simp] theorem Core.trapEntry_stem_ir : (c.trapEntry e cause w pc loc).stem.ir = c.stem.ir := rfl
@[simp] theorem Core.trapEntry_stem_waitSince : (c.trapEntry e cause w pc loc).stem.waitSince = none := rfl
@[simp] theorem Core.trapEntry_stem_waita : (c.trapEntry e cause w pc loc).stem.waita = c.stem.waita := rfl
@[simp] theorem Core.trapEntry_stem_bars : (c.trapEntry e cause w pc loc).stem.bars = c.stem.bars := rfl
@[simp] theorem Core.trapEntry_stem_stale : (c.trapEntry e cause w pc loc).stem.stale = c.stem.stale := rfl
@[simp] theorem Core.trapEntry_stem_parity : (c.trapEntry e cause w pc loc).stem.parity = c.stem.parity := rfl
@[simp] theorem Core.trapEntry_stem_deferred : (c.trapEntry e cause w pc loc).stem.deferred = c.stem.deferred := rfl
@[simp] theorem Core.trapEntry_getX : (c.trapEntry e cause w pc loc).getX r = c.getX r := rfl
end

end

/-! ### A sequencer -/

section
variable (s : State) (d : DieId) (n : Fin 16) (f : Seqr → Seqr) (q : Seqr) (r : Reg) (w : Word) (c : CoreId)

@[simp] theorem State.modSeq_seqr : (s.modSeq d n f).seqr d n = f (s.seqr d n) := by
  simp [State.seqr, State.modSeq, vget_set]
@[simp] theorem State.modSeq_core : (s.modSeq d n f).core c = s.core c := rfl
@[simp] theorem State.modSeq_agenda : (s.modSeq d n f).agenda = s.agenda := rfl
@[simp] theorem State.modSeq_ticks : (s.modSeq d n f).ticks = s.ticks := rfl
@[simp] theorem State.modSeq_cur : (s.modSeq d n f).cur = s.cur := rfl
@[simp] theorem State.modSeq_curDie : (s.modSeq d n f).curDie = s.curDie := rfl
@[simp] theorem State.modSeq_curSeq : (s.modSeq d n f).curSeq = s.curSeq := rfl
@[simp] theorem State.modSeq_cores : (s.modSeq d n f).cores = s.cores := rfl
@[simp] theorem State.modSeq_cycles : (s.modSeq d n f).cycles = s.cycles := rfl
@[simp] theorem State.modSeq_mem : (s.modSeq d n f).mem = s.mem := rfl
@[simp] theorem State.modSeq_hostMem : (s.modSeq d n f).hostMem = s.hostMem := rfl
@[simp] theorem State.modSeq_pkg : (s.modSeq d n f).pkg = s.pkg := rfl
@[simp] theorem Seqr.setG_lc : (q.setG r w).lc = q.lc := by unfold Seqr.setG; split <;> rfl
@[simp] theorem Seqr.setG_loops : (q.setG r w).loops = q.loops := by unfold Seqr.setG; split <;> rfl
@[simp] theorem Seqr.setG_rets : (q.setG r w).rets = q.rets := by unfold Seqr.setG; split <;> rfl
@[simp] theorem Seqr.setG_pc : (q.setG r w).pc = q.pc := by unfold Seqr.setG; split <;> rfl
@[simp] theorem Seqr.setG_tag : (q.setG r w).tag = q.tag := by unfold Seqr.setG; split <;> rfl
@[simp] theorem Seqr.setG_wdog : (q.setG r w).wdog = q.wdog := by unfold Seqr.setG; split <;> rfl
@[simp] theorem Seqr.setG_store : (q.setG r w).store = q.store := by unfold Seqr.setG; split <;> rfl
@[simp] theorem Seqr.setG_storeBad : (q.setG r w).storeBad = q.storeBad := by unfold Seqr.setG; split <;> rfl
@[simp] theorem Seqr.setG_running : (q.setG r w).running = q.running := by unfold Seqr.setG; split <;> rfl
@[simp] theorem Seqr.setG_prog : (q.setG r w).prog = q.prog := by unfold Seqr.setG; split <;> rfl
@[simp] theorem Seqr.setG_grain : (q.setG r w).grain = q.grain := by unfold Seqr.setG; split <;> rfl
@[simp] theorem Seqr.setG_wait : (q.setG r w).wait = q.wait := by unfold Seqr.setG; split <;> rfl
@[simp] theorem Seqr.setG_waitSince : (q.setG r w).waitSince = q.waitSince := by unfold Seqr.setG; split <;> rfl
@[simp] theorem Seqr.setG_susp : (q.setG r w).susp = q.susp := by unfold Seqr.setG; split <;> rfl
@[simp] theorem Seqr.setG_zero : q.setG 0 w = q := rfl
@[simp] theorem Seqr.getG_zero : q.getG 0 = 0 := rfl
theorem Seqr.getG_setG (h : r ≠ 0) : (q.setG r w).getG r = w := by simp [Seqr.getG, Seqr.setG, h, vget_set]
theorem Seqr.getG_setG_ne {x : Reg} (h : x ≠ r) : (q.setG r w).getG x = q.getG x := by
  unfold Seqr.setG
  split
  · rfl
  · simp only [Seqr.getG, vget_set_ne _ _ _ _ h]
end

end Sys2Proof.Machine
end

