-- ==== Sys2Proof/Laws/Perco.lean ====
section
/-! SUPPORT. What a sequencer instruction can come to: every outcome of percoRun; changes of one sequencer. -/

namespace Sys2Proof.Machine

section
variable {s t : State} {priv : Bool} {f : Seqr → PRes} {npc va imm : Word} {cause : Cause} {acc : Option Access}

theorem percoRun_done (hp : priv = true → s.curSeqr.tag.sup = true) (hf : f s.curSeqr = .done t npc) :
    percoRun priv s f = .next (t.modCurSeq fun q => q.advance false npc) := by
  cases priv <;> simp_all [percoRun]

theorem percoRun_jump (hp : priv = true → s.curSeqr.tag.sup = true) (hf : f s.curSeqr = .jump t npc) :
    percoRun priv s f = .next (t.modCurSeq fun q => q.advance true npc) := by
  cases priv <;> simp_all [percoRun]

theorem percoRun_fault (hp : priv = true → s.curSeqr.tag.sup = true) (hf : f s.curSeqr = .fault cause acc va) :
    percoRun priv s f = .next (s.progFault s.curDie s.curSeq cause acc va 0 id) := by
  cases priv <;> simp_all [percoRun]

theorem percoRun_trap (hp : priv = true → s.curSeqr.tag.sup = true) (hf : f s.curSeqr = .trap imm) :
    percoRun priv s f =
      .next (s.progFault s.curDie s.curSeq .userTrap none 0 imm fun q => q.advance false (q.after 1)) := by
  cases priv <;> simp_all [percoRun]

theorem percoRun_wait (hp : priv = true → s.curSeqr.tag.sup = true) (hf : f s.curSeqr = .wait t) :
    percoRun priv s f = .next (t.progWait s.curDie s.curSeq) := by
  cases priv <;> simp_all [percoRun]

theorem percoRun_ended (hp : priv = true → s.curSeqr.tag.sup = true) (hf : f s.curSeqr = .ended t) :
    percoRun priv s f = .next (t.endProg s.curDie s.curSeq) := by
  cases priv <;> simp_all [percoRun]

/-- A user program that runs a privileged instruction meets PRIV_VIOLATION (R49). -/
theorem percoRun_user (h : s.curSeqr.tag.sup = false) :
    percoRun true s f = .next (s.progFault s.curDie s.curSeq .privViolation none 0 0 id) := by
  simp [percoRun, h]

theorem percoRun_next (priv : Bool) (s : State) (f : Seqr → PRes) : ∃ t, percoRun priv s f = .next t := ⟨_, rfl⟩

end

/-! ### Changes of one sequencer -/

theorem State.modSeq_eq (s : State) (d : DieId) (n : Fin 16) (f : Seqr → Seqr) : s.modSeq d n f = s.setRunner d { s.runner d with seqs := (s.runner d).seqs.set n.val (f ((s.runner d).seqs.get n)) n.isLt } := rfl
theorem State.modSeq_modSeq (s : State) (d : DieId) (n : Fin 16) (f g : Seqr → Seqr) : (s.modSeq d n f).modSeq d n g = s.modSeq d n fun q => g (f q) := by
  rw [State.modSeq_eq, State.modSeq_eq, State.modSeq_eq, State.setRunner_setRunner, State.setRunner_runner]
  dsimp only
  rw [vget_set, vset_set]
theorem State.modSeq_congr {s : State} {d : DieId} {n : Fin 16} {f g : Seqr → Seqr} (h : f (s.seqr d n) = g (s.seqr d n)) : s.modSeq d n f = s.modSeq d n g := by
  have h' : f ((s.runner d).seqs.get n) = g ((s.runner d).seqs.get n) := h
  rw [State.modSeq_eq, State.modSeq_eq, h']


theorem State.modSeq_id (s : State) (d : DieId) (n : Fin 16) : s.modSeq d n id = s := by
  rw [State.modSeq_eq]
  have h : (s.runner d).seqs.set n.val (id ((s.runner d).seqs.get n)) n.isLt = (s.runner d).seqs := by
    apply Vector.ext; intro i hi; rw [Vector.getElem_set]; split
    · subst_vars; rfl
    · rfl
  rw [h]
  unfold State.setRunner
  have : s.dies.set d.val { s.runner d with seqs := (s.runner d).seqs } d.isLt = s.dies := by
    apply Vector.ext; intro i hi; rw [Vector.getElem_set]; split
    · subst_vars; rfl
    · rfl
  rw [this]

theorem State.modSeq_seqr_ne (s : State) (d : DieId) (n : Fin 16) (f : Seqr → Seqr) (d' : DieId) (n' : Fin 16) (h : d' ≠ d ∨ n' ≠ n) : (s.modSeq d n f).seqr d' n' = s.seqr d' n' := by
  unfold State.modSeq State.seqr
  by_cases hd : d' = d
  · subst hd
    rw [State.modRunner_runner]
    exact vget_set_ne _ _ _ _ (h.resolve_left (by simp))
  · rw [State.modRunner_runner_ne _ _ _ _ hd]

end Sys2Proof.Machine
end

