-- ==== Sys2Proof/Laws/Stem.lean ====
section
/-! SUPPORT. What a stem instruction can come to: every outcome of stemRun, and its completion when its registers are
free and the next PC is plain. -/

namespace Sys2Proof.Machine

section
variable {s t : State} {reads writes : List Reg} {f : Core → Res} {npc : Nat} {cause : Cause} {val : Word}

/-- With its registers free an instruction comes to what its meaning gives. -/
theorem stemRun_free (h : s.regsFree reads writes) :
    stemRun reads writes s f = match f (s.core s.cur) with
      | .done t npc => .next (t.complete npc)
      | .trap cause val => .next (s.stemTrap .stem cause val)
      | .ecc a n =>
        .next (((s.modCore s.cur fun k => k.noteHard a n).logCore s.cur .eccUncorrectable (BitVec.ofNat 64 a)).stemTrap
          .stem .eccUncorrectable (BitVec.ofNat 64 a))
      | .mtrap cause val => .next (s.stemTrap .matrix cause val)
      | .wait t => .next t.keepWaiting
      | .stop t => .next t := by
  obtain ⟨h1, h2⟩ := h
  have e1 : reads.any (s.core s.cur).stem.isPending = false := by
    simp only [List.any_eq_false]; intro r hr; simp [h1 r (by simp [hr])]
  have e2 : writes.any (s.core s.cur).stem.isPending = false := by
    simp only [List.any_eq_false]; intro r hr; simp [h1 r (by simp [hr])]
  have e3 : reads.any (s.core s.cur).stem.parity.contains = false := by
    simp only [List.any_eq_false]; intro r hr; simpa using h2 r hr
  cases hf : f (s.core s.cur) <;> simp only [stemRun, e1, e2, e3, hf, Bool.or_self, Bool.false_eq_true, if_false]

/-- The next PC inside instruction memory, SSTEP 0: only the PC, the loops and the end of a wait change. -/
theorem State.complete_plain (h : npc < 0x10000) (hs : statusSstep (t.core t.cur).stem.status = false) :
    t.complete npc = t.modCore t.cur fun c => c.goto npc := by
  have h' : ¬ 0x10000 ≤ npc := by omega
  simp only [State.complete, h', if_false]
  simp [hs]

theorem stemRun_done (h : s.regsFree reads writes) (hf : f (s.core s.cur) = .done t npc) (hn : npc < 0x10000)
    (hs : statusSstep (t.core t.cur).stem.status = false) :
    stemRun reads writes s f = .next (t.modCore t.cur fun c => c.goto npc) := by
  rw [stemRun_free h, hf]
  simp only [State.complete_plain hn hs]

/-- A completion that leaves the current core k. -/
theorem stemRun_core {k : Core} (h : s.regsFree reads writes) (hf : f (s.core s.cur) = .done (s.setCore s.cur k) npc)
    (hn : npc < 0x10000) (hs : statusSstep k.stem.status = false) :
    stemRun reads writes s f = .next (s.stemDone k npc) := by
  rw [stemRun_done h hf hn (by simpa using hs)]
  simp [State.modCore, State.stemDone]

/-- A completion with no effect but the next PC. -/
theorem stemRun_same (h : s.regsFree reads writes) (hf : f (s.core s.cur) = .done s npc) (hp : s.plain npc) :
    stemRun reads writes s f = .next (s.stemDone (s.core s.cur) npc) := by
  rw [stemRun_done h hf hp.1 hp.2]
  rfl

theorem stemRun_trap (h : s.regsFree reads writes) (hf : f (s.core s.cur) = .trap cause val) :
    stemRun reads writes s f = .next (s.stemTrap .stem cause val) := by
  rw [stemRun_free h, hf]

theorem stemRun_mtrap (h : s.regsFree reads writes) (hf : f (s.core s.cur) = .mtrap cause val) :
    stemRun reads writes s f = .next (s.stemTrap .matrix cause val) := by
  rw [stemRun_free h, hf]

theorem stemRun_wait (h : s.regsFree reads writes) (hf : f (s.core s.cur) = .wait t) :
    stemRun reads writes s f = .next t.keepWaiting := by
  rw [stemRun_free h, hf]

theorem stemRun_stop (h : s.regsFree reads writes) (hf : f (s.core s.cur) = .stop t) :
    stemRun reads writes s f = .next t := by
  rw [stemRun_free h, hf]

/-- Every outcome of a stem instruction is a next state, and one of these. -/
theorem stemRun_cases : ∃ u, stemRun reads writes s f = .next u ∧
    (u = s.keepWaiting ∨ u = s.stemTrap .stem .eccUncorrectable 0 ∨
      (∃ t npc, f (s.core s.cur) = .done t npc ∧ u = t.complete npc) ∨
      (∃ c v, f (s.core s.cur) = .trap c v ∧ u = s.stemTrap .stem c v) ∨
      (∃ a n, f (s.core s.cur) = .ecc a n ∧
        u = ((s.modCore s.cur fun k => k.noteHard a n).logCore s.cur .eccUncorrectable (BitVec.ofNat 64 a)).stemTrap
          .stem .eccUncorrectable (BitVec.ofNat 64 a)) ∨
      (∃ c v, f (s.core s.cur) = .mtrap c v ∧ u = s.stemTrap .matrix c v) ∨
      (∃ t, f (s.core s.cur) = .wait t ∧ u = t.keepWaiting) ∨ ∃ t, f (s.core s.cur) = .stop t ∧ u = t) := by
  simp only [stemRun]
  split
  · exact ⟨_, rfl, .inl rfl⟩
  split
  · exact ⟨_, rfl, .inr (.inl rfl)⟩
  cases hf : f (s.core s.cur) <;> refine ⟨_, rfl, ?_⟩ <;> simp

theorem stemRun_next (reads writes : List Reg) (s : State) (f : Core → Res) :
    ∃ t, stemRun reads writes s f = .next t :=
  let ⟨u, h, _⟩ := stemRun_cases (s := s) (reads := reads) (writes := writes) (f := f)
  ⟨u, h⟩

end

end Sys2Proof.Machine
end

