-- ==== Sys2Proof/Laws/Watch.lean ====
section
/-! SUPPORT. What firing watches can change: the replies of waiting stems and the watch tables, and nothing else; with it,
what a scratchpad write and a stem trap leave. -/

namespace Sys2Proof.Machine

/-- A core with another WAITA request and other cancellations to send. -/
abbrev Core.withWaita (k : Core) (w : Option Waita) (l : List Waita) : Core :=
  { k with stem := { k.stem with waita := w }, cancels := l }

/-- Two states that differ at most in the WAITA requests of stems, the watch tables, and what cores and runner dies have
still to send about them. -/
structure SameButWatches (s t : State) : Prop where
  agenda : t.agenda = s.agenda
  ticks : t.ticks = s.ticks
  cur : t.cur = s.cur
  curDie : t.curDie = s.curDie
  curSeq : t.curSeq = s.curSeq
  cycles : t.cycles = s.cycles
  mem : t.mem = s.mem
  hostMem : t.hostMem = s.hostMem
  pkg : t.pkg = s.pkg
  core : ∀ c, ∃ w l, t.core c = (s.core c).withWaita w l
  runner : ∀ d, ∃ l m, t.runner d = { s.runner d with watches := l, messages := m }

theorem Core.withWaita_self (k : Core) : k.withWaita k.stem.waita k.cancels = k := rfl

theorem SameButWatches.refl (s : State) : SameButWatches s s :=
  ⟨rfl, rfl, rfl, rfl, rfl, rfl, rfl, rfl, rfl, fun _ => ⟨_, _, (Core.withWaita_self _).symm⟩, fun _ => ⟨_, _, rfl⟩⟩

theorem SameButWatches.trans {s t u : State} (h : SameButWatches s t) (k : SameButWatches t u) : SameButWatches s u := by
  refine ⟨k.agenda.trans h.agenda, k.ticks.trans h.ticks, k.cur.trans h.cur, k.curDie.trans h.curDie,
    k.curSeq.trans h.curSeq, k.cycles.trans h.cycles, k.mem.trans h.mem, k.hostMem.trans h.hostMem, k.pkg.trans h.pkg,
    fun c => ?_, fun d => ?_⟩
  · obtain ⟨w, l, hw⟩ := h.core c; obtain ⟨v, m, hv⟩ := k.core c
    exact ⟨v, m, by rw [hv, hw]⟩
  · obtain ⟨w, l, hw⟩ := h.runner d; obtain ⟨v, m, hv⟩ := k.runner d
    exact ⟨v, m, by rw [hv, hw]⟩

theorem sameBut_withWaita (s : State) (c : CoreId) (w : Core → Option Waita) (l : Core → List Waita) :
    SameButWatches s (s.modCore c fun k => k.withWaita (w k) (l k)) := by
  refine ⟨rfl, rfl, rfl, rfl, rfl, rfl, rfl, rfl, rfl, fun e => ?_, fun _ => ⟨_, _, rfl⟩⟩
  by_cases h : e = c
  · subst h; exact ⟨_, _, State.modCore_core ..⟩
  · exact ⟨_, _, (State.modCore_core_ne _ _ _ _ h).trans (Core.withWaita_self _).symm⟩

theorem sameBut_watches (s : State) (f : Runner → List Watch) :
    SameButWatches s { s with dies := s.dies.map fun r => { r with watches := f r } } :=
  ⟨rfl, rfl, rfl, rfl, rfl, rfl, rfl, rfl, rfl, fun _ => ⟨_, _, (Core.withWaita_self _).symm⟩, fun d =>
    ⟨_, (s.runner d).messages, Vector.getElem_map ..⟩⟩

theorem sameBut_message (s : State) (d : DieId) (m : FarMsg) :
    SameButWatches s (s.modRunner d fun r => { r with messages := r.messages ++ [m] }) := by
  refine ⟨rfl, rfl, rfl, rfl, rfl, rfl, rfl, rfl, rfl, fun _ => ⟨_, _, (Core.withWaita_self _).symm⟩, fun e => ?_⟩
  by_cases h : e = d
  · subst h; exact ⟨(s.runner e).watches, _, by rw [State.modRunner_runner]⟩
  · exact ⟨_, _, State.modRunner_runner_ne _ _ _ _ h⟩

theorem sameBut_watchReply (s : State) (w : Watch) : SameButWatches s (s.watchReply w) := by
  unfold State.watchReply
  split
  · exact sameBut_withWaita s w.core (fun k => k.stem.waita.map fun q =>
      if s.watchBad w then { q with phase := .travelling } else { q with phase := .replying, seen := s.watchWord w })
      (fun k => k.cancels)
  · exact sameBut_message ..

theorem sameBut_replies (l : List Watch) : ∀ s, SameButWatches s (l.foldl State.watchReply s) := by
  induction l with
  | nil => exact fun s => .refl s
  | cons w l ih => exact fun s => (sameBut_watchReply s w).trans (ih _)

theorem sameBut_fireOn (s : State) (d : DieId) (f : Watch → Bool) : SameButWatches s (s.fireOn d f) := by
  unfold State.fireOn
  simp only
  split
  · refine SameButWatches.trans ?_ (sameBut_replies _ _)
    refine ⟨rfl, rfl, rfl, rfl, rfl, rfl, rfl, rfl, rfl, fun _ => ⟨_, _, (Core.withWaita_self _).symm⟩, fun e => ?_⟩
    by_cases h : e = d
    · subst h; exact ⟨(s.runner e).watches.filter fun w => !f w, (s.runner e).messages, by simp⟩
    · exact ⟨_, _, State.setRunner_runner_ne _ _ _ _ h⟩
  · exact .refl s

theorem sameBut_fireAll (s : State) (f : Watch → Bool) : SameButWatches s (s.fireAll f) :=
  (((sameBut_fireOn ..).trans (sameBut_fireOn ..)).trans (sameBut_fireOn ..)).trans (sameBut_fireOn ..)

theorem sameBut_writeScratch (s : State) (c : CoreId) (a : Nat) (bs : List Byte) :
    SameButWatches (s.modCore c fun k => k.write a bs) (s.writeScratch c a bs) := sameBut_fireOn ..

theorem sameBut_cancelWaita (s : State) (c : CoreId) : SameButWatches s (s.cancelWaita c) := by
  unfold State.cancelWaita
  split
  · exact .refl s
  · rename_i q _
    exact (sameBut_withWaita s c (fun _ => none) fun k => if s.watchAway q then k.cancels ++ [q] else k.cancels).trans
      (sameBut_watches _ _)

/-! ### What a trap of the stem's own instruction leaves -/

section
variable (s : State) (e : Engine) (cause : Cause) (val : Word)

theorem sameBut_stemTrap : ∃ u, SameButWatches s u ∧
    ((s.stemTrap e cause val) = u.modCore s.cur fun c =>
      let c' := c.trapEntry e cause val c.stem.pc none
      if c.vec.held.isSome || c.mat.held.isSome then c'.setStem { c'.stem with deferred := true } else c') :=
  ⟨s.cancelWaita s.cur, sameBut_cancelWaita s s.cur, rfl⟩

/-- R32: the registers that a trap of the stem writes. -/
theorem stemTrap_registers :
    let k := (s.core s.cur).stem
    let k' := ((s.stemTrap e cause val).core s.cur).stem
    k'.status = statusMode k.status true (statusSup k.status) ∧ k'.trapcause = trapCauseWord e cause ∧
      k'.trappc = k.pc.setWidth 64 ∧ k'.trapval = val ∧ k'.vfault = k.vfault ∧ k'.pc = k.trapvec.setWidth 16 := by
  obtain ⟨u, hu, h⟩ := sameBut_stemTrap s e cause val
  obtain ⟨w, l, hw⟩ := hu.core s.cur
  rw [h]
  simp only [State.modCore_core, hw]
  split <;> simp [Core.trapEntry]

end

end Sys2Proof.Machine
end

