-- ==== Sys2Proof/Laws/Report.lean ====
section
/-! SUPPORT. What reports keep: a logged cause, a fault record and a write of memory leave every sequencer as it is. -/

namespace Sys2Proof.Machine

/-- Two states with the same current sequencer and the same sequencers. -/
structure SameSeqs (s t : State) : Prop where
  die : t.curDie = s.curDie
  seq : t.curSeq = s.curSeq
  seqs : ∀ d n, t.seqr d n = s.seqr d n
theorem SameSeqs.refl (s : State) : SameSeqs s s := ⟨rfl, rfl, fun _ _ => rfl⟩
theorem SameSeqs.trans {s t u : State} (h : SameSeqs s t) (k : SameSeqs t u) : SameSeqs s u := ⟨k.die.trans h.die, k.seq.trans h.seq, fun d n => (k.seqs d n).trans (h.seqs d n)⟩
theorem sameSeqs_watch {s t : State} (h : SameButWatches s t) : SameSeqs s t := by
  refine ⟨h.curDie, h.curSeq, fun d n => ?_⟩
  obtain ⟨l, m, e⟩ := h.runner d
  show (t.runner d).seqs.get n = _
  rw [e]; rfl
theorem sameSeqs_runner (s : State) (d : DieId) (f : Runner → Runner) (h : ∀ r, (f r).seqs = r.seqs) : SameSeqs s (s.modRunner d f) := by
  refine ⟨rfl, rfl, fun d' n => ?_⟩
  show ((s.modRunner d f).runner d').seqs.get n = (s.runner d').seqs.get n
  by_cases hd : d' = d
  · subst hd; rw [State.modRunner_runner, h]
  · rw [State.modRunner_runner_ne _ _ _ _ hd]
theorem sameSeqs_pkg (s : State) (f : Package → Package) : SameSeqs s (s.modPkg f) := ⟨rfl, rfl, fun _ _ => rfl⟩
theorem sameSeqs_mp (s : State) (m : Mem) (p : Package) : SameSeqs s { s with mem := m, pkg := p } := ⟨rfl, rfl, fun _ _ => rfl⟩
theorem sameSeqs_hp (s : State) (m : Mem) (p : Package) : SameSeqs s { s with hostMem := m, pkg := p } := ⟨rfl, rfl, fun _ _ => rfl⟩
theorem sameSeqs_err (s : State) (d : DieId) (r : ErrRec) : SameSeqs s (s.errLog d r) := by
  unfold State.errLog
  extract_lets
  split
  · exact (sameSeqs_runner s d (fun k => { k with lost := k.lost + 1 }) fun _ => rfl).trans (sameSeqs_pkg ..)
  · exact sameSeqs_mp ..
theorem sameSeqs_logFar (s : State) (d : DieId) (u : UnitRef) (c : Cause) (w : Word) (x y : BitVec 16) : SameSeqs s (s.logFar d u c w x y) := by
  unfold State.logFar
  split
  · exact ((sameSeqs_err ..).trans (sameSeqs_pkg ..)).trans (sameSeqs_pkg ..)
  · exact .refl s
theorem sameSeqs_log (s : State) (d : DieId) (u : UnitRef) (c : Cause) (w : Word) (x : BitVec 16) : SameSeqs s (s.logCause d u c w x) := sameSeqs_logFar ..
theorem sameSeqs_mem (s : State) (pa : Nat) (bs : List Byte) : SameSeqs s (s.writeMem pa bs) := by
  unfold State.writeMem
  exact (sameSeqs_mp s (memPut s.mem pa bs) _).trans (sameSeqs_watch (sameBut_fireAll ..))
theorem sameSeqs_fault (s : State) (e : CtxEntry) (r : FaultRec) : SameSeqs s (s.writeFault e r) := by
  unfold State.writeFault
  extract_lets a b
  have h : SameSeqs s b := (sameSeqs_mem ..).trans (sameSeqs_mem ..)
  clear_value b
  split
  · exact h
  · exact h.trans (sameSeqs_mem ..)
theorem sameSeqs_degraded (s : State) (u : UnitRef) (ctx : BitVec 16) (vf : Nat) : SameSeqs s (s.degraded u ctx vf) := by
  unfold State.degraded State.hostEvent State.completion State.flushFn State.modFn
  exact ((sameSeqs_log ..).trans (sameSeqs_pkg ..)).trans (sameSeqs_hp ..)
theorem sameSeqs_met (s : State) (d : DieId) (r : FaultRec) : SameSeqs s (s.metFailed d r) := by
  unfold State.metFailed
  extract_lets f
  split
  · exact .refl s
  split
  · extract_lets
    split
    · exact sameSeqs_degraded ..
    · exact .refl s
  · exact .refl s
theorem sameSeqs_post {s t : State} {d : DieId} {r : FaultRec} {id : W32} (h : s.postFault d r = some (t, id)) : SameSeqs s t ∧ id = s.pkg.recid := by
  unfold State.postFault at h
  extract_lets id' r' cn lg at h
  have hlg : ∀ x, SameSeqs x (lg x) := fun x => (sameSeqs_logFar x _ _ _ _ _ _).trans (sameSeqs_met ..)
  have hcn : ∀ x, SameSeqs x (cn x) := fun x => sameSeqs_pkg x _
  have fin : ∀ {u : State} {i : W32}, (some (u, i) : Option (State × W32)) = some (t, id) → SameSeqs s u → i = s.pkg.recid → SameSeqs s t ∧ id = s.pkg.recid := by
    intro u i h k e
    have h1 := congrArg Prod.fst (Option.some.inj h)
    have h2 := congrArg Prod.snd (Option.some.inj h)
    dsimp only at h1 h2
    subst h1 h2
    exact ⟨k, e⟩
  have hid : id' = s.pkg.recid := rfl
  clear_value lg cn id'
  split at h
  · exact fin h ((sameSeqs_log ..).trans (hcn _)) hid
  · split at h
    · split at h
      · exact fin h (((sameSeqs_runner s d (fun k => { k with overflow := k.overflow ++ [r'] }) fun _ => rfl).trans (hcn _)).trans (hlg _)) hid
      · cases h
    · exact fin h (((sameSeqs_fault ..).trans (hcn _)).trans (hlg _)) hid

theorem State.logFar_none {c : Cause} (s : State) (d : DieId) (u : UnitRef) (w : Word) (x y : BitVec 16) (h : causeLogged c = false) : s.logFar d u c w x y = s := by
  unfold State.logFar; rw [if_neg (by rw [h]; simp)]
theorem State.logCause_none {c : Cause} (s : State) (d : DieId) (u : UnitRef) (w : Word) (x : BitVec 16) (h : causeLogged c = false) : s.logCause d u c w x = s := by
  exact s.logFar_none d u w x 0 h
theorem State.metFailed_none (s : State) (d : DieId) (r : FaultRec) (h : r.cause ≠ .hbmPoison) : s.metFailed d r = s := by
  unfold State.metFailed; exact if_pos h

theorem endProg_curSeqr {s t : State} (h : SameSeqs s t) : (t.endProg s.curDie s.curSeq).curSeqr = s.curSeqr.ended := by
  unfold State.endProg
  show ((t.modSeq _ _ _).seqr t.curDie t.curSeq) = _
  rw [h.die, h.seq, State.modSeq_seqr, h.seqs]; rfl

end Sys2Proof.Machine
end

