-- ==== Sys2Proof/Laws/VecStore.lean ====
section
/-! SUPPORT. What a vector store leaves in the scratchpad, bit by bit: each bit that a place has takes that of the last
such place's code, and every other bit stays (R150, R153). -/

namespace Sys2Proof.Machine

/-! ### Bits of little-endian words -/

theorem leBytes_bit : ∀ (n v i k : Nat) (h : i < (leBytes n v).length), k < 8 →
    (leBytes n v)[i].getLsbD k = v.testBit (8 * i + k)
  | 0, _, _, _, h, _ => absurd h (by simp [leBytes])
  | n + 1, v, 0, k, _, hk => by
    simp only [leBytes, List.getElem_cons_zero, BitVec.getLsbD_ofNat, hk, decide_true, Bool.true_and, Nat.mul_zero, Nat.zero_add]
  | n + 1, v, i + 1, k, h, hk => by
    have h' : i < (leBytes n (v / 256)).length := by simpa [leBytes] using h
    have := leBytes_bit n (v / 256) i k h' hk
    simp only [leBytes, List.getElem_cons_succ]
    rw [this, show v / 256 = v / 2 ^ 8 from rfl, Nat.testBit_div_two_pow]
    congr 1; omega

theorem leNat_bit : ∀ (bs : List Byte) (i k : Nat) (h : i < bs.length), k < 8 →
    (leNat bs).testBit (8 * i + k) = bs[i].getLsbD k
  | b :: bs, 0, k, _, hk => by
    simp only [leNat, List.getElem_cons_zero, Nat.mul_zero, Nat.zero_add]
    rw [show b.toNat + 256 * leNat bs = 2 ^ 8 * leNat bs + b.toNat by omega, Nat.testBit_two_pow_mul_add _ b.isLt]
    simp [hk, BitVec.getLsbD]
  | b :: bs, i + 1, k, h, hk => by
    have := leNat_bit bs i k (by simpa using h) hk
    simp only [leNat, List.getElem_cons_succ]
    rw [show b.toNat + 256 * leNat bs = 2 ^ 8 * leNat bs + b.toNat by omega, Nat.testBit_two_pow_mul_add _ b.isLt]
    rw [if_neg (by omega), show 8 * (i + 1) + k - 8 = 8 * i + k by omega, this]

theorem memNat_bit (m : Mem) (a n i : Nat) (h : i < 8 * n) :
    (memNat m a n).testBit i = (memGet m (a + i / 8)).getLsbD (i % 8) := by
  have h1 : i / 8 < (memBytes m a n).length := by rw [memBytes_length]; omega
  have := leNat_bit (memBytes m a n) (i / 8) (i % 8) h1 (Nat.mod_lt _ (by omega))
  rw [show 8 * (i / 8) + i % 8 = i by omega] at this
  rw [memNat, this]
  simp [memBytes]

/-- A word written: the bits of its four bytes. -/
theorem memPut_bit (m : Mem) (w v i : Nat) (h1 : 8 * w ≤ i) (h2 : i < 8 * w + 32) :
    (memGet (memPut m w (leBytes 4 v)) (i / 8)).getLsbD (i % 8) = v.testBit (i - 8 * w) := by
  have hl : (leBytes 4 v).length = 4 := leBytes_length 4 v
  have hm := memNat_memPut m w 4 v
  have := memNat_bit (memPut m w (leBytes 4 v)) w 4 (i - 8 * w) (by omega)
  rw [show w + (i - 8 * w) / 8 = i / 8 by omega, show (i - 8 * w) % 8 = i % 8 by omega] at this
  rw [← this, hm, show 256 ^ 4 = 2 ^ 32 from rfl, Nat.testBit_mod_two_pow]
  simp; omega

/-! ### The bits of one word that its places take -/

variable {wb w : Nat} {data : Nat → Nat}

/-- A place lies in the word at w. -/
def VPlace.inWord (wb w : Nat) (q : VPlace) : Prop :=
  q.addr / 4 * 4 = w ∧ q.firstBit + q.numBits wb ≤ 8 * w + 32

theorem placeBits_bit {q : VPlace} {code i : Nat} (hq : q.inWord wb w) (hw : w % 4 = 0) (hi : 8 * w ≤ i) :
    (placeBits wb w q code).1.testBit (i - 8 * w) = q.has wb i ∧
      (placeBits wb w q code).2.testBit (i - 8 * w) = (q.has wb i && code.testBit (i - q.firstBit)) ∧
      (placeBits wb w q code).1 < 2 ^ 32 := by
  obtain ⟨h1, h2⟩ := hq
  have h3 : w ≤ q.addr := by omega
  have key : ∀ (n sh : Nat), q.firstBit = 8 * w + sh → q.numBits wb = n → sh + n ≤ 32 →
      ((2 ^ n - 1) <<< sh).testBit (i - 8 * w) = q.has wb i ∧
      ((code % 2 ^ n) <<< sh).testBit (i - 8 * w) = (q.has wb i && code.testBit (i - q.firstBit)) ∧
      (2 ^ n - 1) <<< sh < 2 ^ 32 := by
    intro n sh e1 e2 e3
    have hb : q.has wb i = (decide (sh ≤ i - 8 * w) && decide (i - 8 * w < sh + n)) := by
      simp only [VPlace.has, e1, e2]
      congr 1 <;> rw [decide_eq_decide] <;> omega
    refine ⟨?_, ?_, ?_⟩
    · rw [Nat.testBit_shiftLeft, Nat.testBit_two_pow_sub_one, hb]
      by_cases h : sh ≤ i - 8 * w
      · simp only [ge_iff_le, h, decide_true, Bool.true_and]
        rw [decide_eq_decide]; omega
      · simp [h]
    · rw [Nat.testBit_shiftLeft, Nat.testBit_mod_two_pow, hb, e1]
      by_cases h : sh ≤ i - 8 * w
      · have e : i - 8 * w - sh = i - (8 * w + sh) := by omega
        rw [e]
        simp only [ge_iff_le, h, decide_true, Bool.true_and]
        congr 1
        rw [decide_eq_decide]; omega
      · simp [h]
    · rw [Nat.shiftLeft_eq]
      have : 2 ^ n * 2 ^ sh ≤ 2 ^ 32 := by rw [← Nat.pow_add]; exact Nat.pow_le_pow_right (by omega) (by omega)
      have h4 : 0 < 2 ^ sh := Nat.two_pow_pos sh
      have h5 : (2 ^ n - 1) * 2 ^ sh + 2 ^ sh = 2 ^ n * 2 ^ sh := by
        have := Nat.two_pow_pos n
        rw [← Nat.succ_mul]; congr 1; omega
      omega
  unfold placeBits
  rcases hn : q.nib with _ | hi'
  · simp only []
    refine key (8 * wb) (8 * (q.addr - w)) ?_ ?_ ?_
    · simp [VPlace.firstBit, hn]; omega
    · simp [VPlace.numBits, hn]
    · simp [VPlace.firstBit, VPlace.numBits, hn] at h2; omega
  · simp only []
    have := key 4 (8 * (q.addr - w) + if hi' then 4 else 0) (by simp [VPlace.firstBit, hn]; omega) (by simp [VPlace.numBits, hn])
      (by simp [VPlace.firstBit, VPlace.numBits, hn] at h2; omega)
    cases hi' <;> exact this

theorem lastPlace_append (l : List VPlace) (q : VPlace) (i : Nat) :
    lastPlace wb (l ++ [q]) i = if q.has wb i then some q else lastPlace wb l i := by
  unfold lastPlace
  rw [List.filter_append, List.filter_cons]
  split <;> simp

theorem wordOf_eq (l : List VPlace) : wordOf wb data l w = (l.filter fun q => q.addr / 4 * 4 == w).foldl (fun acc q =>
    ((acc.1 ||| (placeBits wb w q (data q.p)).1),
      (acc.2 &&& (2 ^ 32 - 1 - (placeBits wb w q (data q.p)).1)) ||| (placeBits wb w q (data q.p)).2)) (0, 0) := rfl

theorem wordFold_bit : ∀ (n : Nat) (l : List VPlace), l.length = n → (∀ q ∈ l, q.inWord wb w) → w % 4 = 0 → ∀ i, 8 * w ≤ i → i < 8 * w + 32 →
    let r := l.foldl (fun (acc : Nat × Nat) q => ((acc.1 ||| (placeBits wb w q (data q.p)).1),
      (acc.2 &&& (2 ^ 32 - 1 - (placeBits wb w q (data q.p)).1)) ||| (placeBits wb w q (data q.p)).2)) (0, 0)
    r.1.testBit (i - 8 * w) = (lastPlace wb l i).isSome ∧
      r.2.testBit (i - 8 * w) = ((lastPlace wb l i).map fun q => (data q.p).testBit (i - q.firstBit)).getD false ∧ r.1 < 2 ^ 32 := by
  intro n
  induction n with
  | zero =>
    intro l hl _ _ i _ _
    have : l = [] := List.length_eq_zero_iff.1 hl
    subst this
    simp [lastPlace]
  | succ n ih =>
    intro l hl hin hw i h1 h2
    have hne : l ≠ [] := by intro h; subst h; simp at hl
    have hd : l = l.dropLast ++ [l.getLast hne] := (List.dropLast_append_getLast hne).symm
    generalize l.dropLast = pre at hd
    generalize l.getLast hne = q at hd
    subst hd
    obtain ⟨a1, a2, a3⟩ := ih pre (by simpa using hl) (fun x hx => hin x (by simp [hx])) hw i h1 h2
    obtain ⟨b1, b2, b3⟩ := placeBits_bit (code := data q.p) (hin q (by simp)) hw h1
    simp only [List.foldl_append, List.foldl_cons, List.foldl_nil]
    rw [lastPlace_append]
    have hsub : (2 ^ 32 - 1 - (placeBits wb w q (data q.p)).1).testBit (i - 8 * w) = !(q.has wb i) := by
      have := Nat.testBit_two_pow_sub_succ b3 (i - 8 * w)
      rw [show 2 ^ 32 - 1 - (placeBits wb w q (data q.p)).1 = 2 ^ 32 - ((placeBits wb w q (data q.p)).1 + 1) by omega, this, b1]
      simp; omega
    refine ⟨?_, ?_, ?_⟩
    · rw [Nat.testBit_or, a1, b1]
      cases q.has wb i <;> simp
    · rw [Nat.testBit_or, Nat.testBit_and, a2, b2, hsub]
      cases q.has wb i <;> simp
    · exact Nat.or_lt_two_pow a3 b3

/-- A bit of a word: its mask bit says whether some place has it, and its value is that of the last such place. -/
theorem wordOf_bit {l : List VPlace} (hin : ∀ q ∈ l, q.inWord wb (q.addr / 4 * 4)) (hw : w % 4 = 0) {i : Nat} (h1 : 8 * w ≤ i)
    (h2 : i < 8 * w + 32) :
    (wordOf wb data l w).1.testBit (i - 8 * w) = (lastPlace wb l i).isSome ∧
      (wordOf wb data l w).2.testBit (i - 8 * w) =
        ((lastPlace wb l i).map fun q => (data q.p).testBit (i - q.firstBit)).getD false ∧
      (wordOf wb data l w).1 < 2 ^ 32 := by
  have e : lastPlace wb l i = lastPlace wb (l.filter fun q => q.addr / 4 * 4 == w) i := by
    unfold lastPlace
    rw [List.filter_filter]
    congr 1
    apply List.filter_congr
    intro q hq
    cases hb : q.has wb i
    · simp
    · obtain ⟨h3, h4⟩ := hin q hq
      simp only [VPlace.has, Bool.and_eq_true, decide_eq_true_eq] at hb
      have h5 : 8 * q.addr ≤ q.firstBit := by unfold VPlace.firstBit; omega
      have : q.addr / 4 * 4 = w := by omega
      simp [this]
  rw [e, wordOf_eq]
  refine wordFold_bit _ _ rfl ?_ hw i h1 h2
  intro q hq
  have h3 := List.mem_filter.1 hq
  have h4 : q.addr / 4 * 4 = w := by simpa using h3.2
  have := hin q h3.1
  rw [h4] at this
  exact this

/-! ### One word, and all of them -/

theorem writeScratch_scratch (s : State) (c : CoreId) (a : Nat) (bs : List Byte) :
    ((s.writeScratch c a bs).core c).scratch = memPut (s.core c).scratch a bs ∧
      ((s.writeScratch c a bs).core c).eccHard = wordsOutside (s.core c).eccHard a bs.length := by
  obtain ⟨w, l, h⟩ := (sameBut_writeScratch s c a bs).core c
  rw [h]
  simp only [State.modCore_core]
  exact ⟨rfl, rfl⟩

theorem memPut_other (m : Mem) (w v i : Nat) (h : i < 8 * w ∨ 8 * w + 32 ≤ i) :
    (memGet (memPut m w (leBytes 4 v)) (i / 8)).getLsbD (i % 8) = (memGet m (i / 8)).getLsbD (i % 8) := by
  rw [memGet_memPut_out _ _ _ _ (by rw [leBytes_length]; omega)]

theorem noteSoft_scratch (k : Core) (a n : Nat) : (k.noteSoft a n).scratch = k.scratch ∧ (k.noteSoft a n).eccHard = k.eccHard := by
  unfold Core.noteSoft; split <;> exact ⟨rfl, rfl⟩

theorem storeWord_core (c : CoreId) (s : State) (w m v : Nat) :
    ((storeWord c s (w, m, v)).core c).scratch = (s.core c).scratch ∧ (s.core c).hardAt w 4 = true ∧ m ≠ wholeWord ∨
      ((storeWord c s (w, m, v)).core c).scratch = memPut (s.core c).scratch w (leBytes 4
        (if m = wholeWord then v else ((s.core c).read w 4 &&& (wholeWord - m)) ||| v)) := by
  unfold storeWord
  simp only
  by_cases h1 : m = wholeWord
  · rw [if_pos h1, if_pos h1]; exact .inr (writeScratch_scratch ..).1
  · rw [if_neg h1, if_neg h1]
    split
    · rename_i h2; exact .inl ⟨rfl, h2, h1⟩
    · right
      rw [(writeScratch_scratch ..).1]
      simp only [State.modCore_core, (noteSoft_scratch ..).1, Core.read]

theorem storeWord_hard (c : CoreId) (s : State) (q : Nat × Nat × Nat) (x : Nat)
    (h : (s.core c).hardAt x 4 = false) : ((storeWord c s q).core c).hardAt x 4 = false := by
  have key : ∀ l : List Nat, (∀ w ∈ l, w ∈ (s.core c).eccHard) → wordHit l x 4 = false := by
    intro l hl
    simp only [Core.hardAt, wordHit, List.any_eq_false] at h ⊢
    exact fun w hw => h w (hl w hw)
  unfold storeWord Core.hardAt
  split
  · rw [(writeScratch_scratch ..).2]
    exact key _ fun w hw => (List.mem_filter.1 hw).1
  · split
    · exact h
    · rw [(writeScratch_scratch ..).2]
      refine key _ fun w hw => ?_
      have := (List.mem_filter.1 hw).1
      simpa only [State.modCore_core, (noteSoft_scratch ..).2] using this

/-- Writing one word of a store leaves every bit outside the word, or inside it and not in the mask. -/
theorem storeWord_keep (c : CoreId) (s : State) {w m v i : Nat} (hm : m < 2 ^ 32)
    (hv : 8 * w ≤ i → i < 8 * w + 32 → v.testBit (i - 8 * w) = true → m.testBit (i - 8 * w) = true)
    (h : i < 8 * w ∨ 8 * w + 32 ≤ i ∨ m.testBit (i - 8 * w) = false) :
    ((storeWord c s (w, m, v)).core c).scratchBit i = (s.core c).scratchBit i := by
  unfold Core.scratchBit
  rcases storeWord_core c s w m v with ⟨h1, _⟩ | h1
  · rw [h1]
  · rw [h1]
    by_cases ho : i < 8 * w ∨ 8 * w + 32 ≤ i
    · exact memPut_other _ _ _ _ ho
    · have h2 : 8 * w ≤ i ∧ i < 8 * w + 32 := by omega
      have h3 : m.testBit (i - 8 * w) = false := by
        rcases h with h | h | h
        · omega
        · omega
        · exact h
      rw [memPut_bit _ _ _ _ h2.1 h2.2]
      have hne : m ≠ wholeWord := by
        rintro rfl
        rw [wholeWord, Nat.testBit_two_pow_sub_one] at h3
        simp at h3; omega
      rw [if_neg hne, Nat.testBit_or, Nat.testBit_and, Core.read, memNat_bit _ _ _ _ (by omega)]
      have e1 : (wholeWord - m).testBit (i - 8 * w) = true := by
        have := Nat.testBit_two_pow_sub_succ hm (i - 8 * w)
        rw [show wholeWord - m = 2 ^ 32 - (m + 1) by unfold wholeWord; omega, this, h3]
        simp; omega
      have e2 : v.testBit (i - 8 * w) = false := by
        cases hb : v.testBit (i - 8 * w)
        · rfl
        · rw [hv h2.1 h2.2 hb] at h3; cases h3
      rw [e1, e2, show w + (i - 8 * w) / 8 = i / 8 by omega, show (i - 8 * w) % 8 = i % 8 by omega]
      simp

/-- Writing one word of a store, none of whose words is uncorrectable, gives each bit of the mask its value. -/
theorem storeWord_take (c : CoreId) (s : State) {w m v i : Nat} (hm : m < 2 ^ 32) (h1 : 8 * w ≤ i) (h2 : i < 8 * w + 32)
    (hh : (s.core c).hardAt w 4 = false) (h3 : m.testBit (i - 8 * w) = true) :
    ((storeWord c s (w, m, v)).core c).scratchBit i = v.testBit (i - 8 * w) := by
  unfold Core.scratchBit
  rcases storeWord_core c s w m v with ⟨_, h4, _⟩ | h4
  · rw [hh] at h4; cases h4
  · rw [h4, memPut_bit _ _ _ _ h1 h2]
    split
    · rfl
    · rw [Nat.testBit_or, Nat.testBit_and]
      have := Nat.testBit_two_pow_sub_succ hm (i - 8 * w)
      rw [show wholeWord - m = 2 ^ 32 - (m + 1) by unfold wholeWord; omega, this, h3]
      simp

/-! ### The words of a store -/

/-- The words that a store writes, each with its mask and value. -/
def storeWords (wb : Nat) (data : Nat → Nat) (l : List VPlace) : List (Nat × Nat × Nat) :=
  (ascending (l.map fun q => q.addr / 4 * 4)).map fun w => (w, wordOf wb data l w)

theorem ascending_mem {l : List Nat} {x : Nat} : x ∈ ascending l ↔ x ∈ l := by
  unfold ascending
  rw [List.mem_dedup]
  exact (List.mergeSort_perm l _).mem_iff

theorem ascending_nodup (l : List Nat) : (ascending l).Nodup := List.nodup_dedup _

section
variable (c : CoreId) {l : List VPlace}

/-- A word that a store writes: its mask fits, and a bit of its value is one of its mask. -/
theorem wordOf_ok (hin : ∀ q ∈ l, q.inWord wb (q.addr / 4 * 4)) {w : Nat} (hw : w % 4 = 0) (i : Nat) :
    (wordOf wb data l w).1 < 2 ^ 32 ∧ (8 * w ≤ i → i < 8 * w + 32 →
      (wordOf wb data l w).2.testBit (i - 8 * w) = true → (wordOf wb data l w).1.testBit (i - 8 * w) = true) := by
  refine ⟨(wordOf_bit (data := data) hin hw (Nat.le_refl (8 * w)) (by omega)).2.2, fun h1 h2 h3 => ?_⟩
  obtain ⟨a1, a2, _⟩ := wordOf_bit (data := data) hin hw h1 h2
  rw [a1]
  rw [a2] at h3
  cases hl : lastPlace wb l i
  · rw [hl] at h3; simp at h3
  · rfl

/-- Words other than the one of a bit leave it. -/
theorem storeFold_other (hin : ∀ q ∈ l, q.inWord wb (q.addr / 4 * 4)) (i : Nat) :
    ∀ (ws : List Nat) (s : State), (∀ w ∈ ws, w % 4 = 0 ∧ w ≠ i / 32 * 4) →
      (((ws.map fun w => (w, wordOf wb data l w)).foldl (storeWord c) s).core c).scratchBit i = (s.core c).scratchBit i
  | [], _, _ => rfl
  | w :: ws, s, h => by
    have hw := h w (by simp)
    rw [List.map_cons, List.foldl_cons, storeFold_other hin i ws _ fun w hw => h w (by simp [hw])]
    obtain ⟨h1, h2⟩ := wordOf_ok (data := data) hin hw.1 i
    exact storeWord_keep c s h1 h2 (by omega)

/-- The words of a store, each once: a bit takes the value of the last place that has it, unless its word is
uncorrectable; a bit of no place stays. -/
theorem storeFold_bit (hin : ∀ q ∈ l, q.inWord wb (q.addr / 4 * 4)) (i : Nat) :
    ∀ (ws : List Nat) (s : State), ws.Nodup → (∀ w ∈ ws, w % 4 = 0) →
      (lastPlace wb l i = none ∨ i / 32 * 4 ∈ ws ∧ (s.core c).hardAt (i / 32 * 4) 4 = false) →
      (((ws.map fun w => (w, wordOf wb data l w)).foldl (storeWord c) s).core c).scratchBit i =
        match lastPlace wb l i with
        | some q => (data q.p).testBit (i - q.firstBit)
        | none => (s.core c).scratchBit i
  | [], s, _, _, h => by
    rcases h with h | ⟨h, _⟩
    · rw [h]; rfl
    · cases h
  | w :: ws, s, hd, hm, h => by
    have hw := hm w (by simp)
    obtain ⟨hd1, hd2⟩ := List.nodup_cons.1 hd
    obtain ⟨h1, h2⟩ := wordOf_ok (data := data) hin hw i
    rw [List.map_cons, List.foldl_cons]
    by_cases he : w = i / 32 * 4
    · have hr : 8 * w ≤ i ∧ i < 8 * w + 32 := by omega
      obtain ⟨a1, a2, _⟩ := wordOf_bit (data := data) hin hw hr.1 hr.2
      rw [storeFold_other c hin i ws _ fun x hx => ⟨hm x (by simp [hx]), fun e => hd1 (by rw [he, ← e]; exact hx)⟩]
      cases hl : lastPlace wb l i with
      | none =>
        have hb : (wordOf wb data l w).1.testBit (i - 8 * w) = false := by rw [a1, hl]; rfl
        exact storeWord_keep c s h1 h2 (.inr (.inr hb))
      | some q =>
        rw [hl] at h a1 a2
        have hb : (wordOf wb data l w).1.testBit (i - 8 * w) = true := by rw [a1]; rfl
        rw [storeWord_take c s h1 hr.1 hr.2 ?_ hb, a2]
        · rfl
        · rcases h with h | h
          · cases h
          · rw [he]; exact h.2
    · have hk := storeWord_keep c s (i := i) h1 h2 (by omega)
      rw [storeFold_bit hin i ws _ hd2 (fun x hx => hm x (by simp [hx])) ?_, hk]
      rcases h with h | ⟨h3, h4⟩
      · exact .inl h
      · refine .inr ⟨?_, storeWord_hard c s _ _ h4⟩
        rcases List.mem_cons.1 h3 with h5 | h5
        · exact absurd h5.symm he
        · exact h5

/-- Every bit of the scratchpad after the words of a store (R150, R153, R154). -/
theorem store_bit (s : State) (hin : ∀ q ∈ l, q.inWord wb (q.addr / 4 * 4)) (i : Nat)
    (hh : ∀ q ∈ l, (s.core c).hardAt (q.addr / 4 * 4) 4 = false) :
    (((storeWords wb data l).foldl (storeWord c) s).core c).scratchBit i =
      match lastPlace wb l i with
      | some q => (data q.p).testBit (i - q.firstBit)
      | none => (s.core c).scratchBit i := by
  refine storeFold_bit c hin i _ s (ascending_nodup _) (fun w hw => ?_) ?_
  · obtain ⟨q, _, rfl⟩ := List.mem_map.1 (ascending_mem.1 hw); omega
  · cases hl : lastPlace wb l i with
    | none => exact .inl rfl
    | some q =>
      have hq := List.mem_of_getLast? hl
      obtain ⟨hq1, hq2⟩ := List.mem_filter.1 hq
      obtain ⟨h3, h4⟩ := hin q hq1
      simp only [VPlace.has, Bool.and_eq_true, decide_eq_true_eq] at hq2
      have h5 : 8 * q.addr ≤ q.firstBit := by unfold VPlace.firstBit; omega
      have e : i / 32 * 4 = q.addr / 4 * 4 := by omega
      rw [e]
      exact .inr ⟨ascending_mem.2 (List.mem_map.2 ⟨q, hq1, rfl⟩), hh q hq1⟩

/-- A bit that no place of a store has stays, whatever the check bits. -/
theorem store_keep (s : State) (hin : ∀ q ∈ l, q.inWord wb (q.addr / 4 * 4)) (i : Nat) (hn : lastPlace wb l i = none) :
    (((storeWords wb data l).foldl (storeWord c) s).core c).scratchBit i = (s.core c).scratchBit i := by
  have := storeFold_bit c (data := data) hin i _ s (ascending_nodup (l.map fun q => q.addr / 4 * 4)) (fun w hw => by
    obtain ⟨q, _, rfl⟩ := List.mem_map.1 (ascending_mem.1 hw); omega) (.inl hn)
  rw [hn] at this
  exact this

end

end Sys2Proof.Machine
end

