-- ==== Sys2Proof/Laws/Vector.lean ====
section
/-! SUPPORT. What a vector instruction can come to: every outcome of vecRun. -/

namespace Sys2Proof.Machine

section
variable {s : State} {r : Run} {words : Nat} {f : VX → VRes VEff} {e : VEff}

/-- With no token running nothing issues. -/
theorem vecRun_idle (h : (s.core s.cur).vec.run = none) : vecRun words s f = .next s := by
  simp only [vecRun, h]

theorem vecRun_issue (h : (s.core s.cur).vec.run = some r) (hf : f ((s.core s.cur).issueView r) = .ok e)
    (hp : ((s.core s.cur).issueView r).pendingHit e.reads = false) (hl : e.late = none) :
    vecRun words s f = .next (((s.core s.cur).issueView r).issue words e s) := by
  simp only [Core.issueView] at hf hp
  simp only [vecRun, h, hf, hp, hl, Core.issueView]
  simp

/-- A fault that the instruction finds in its last cycles. -/
theorem vecRun_late {cause : Cause} {val : Word} {k : Nat} (h : (s.core s.cur).vec.run = some r)
    (hf : f ((s.core s.cur).issueView r) = .ok e) (hp : ((s.core s.cur).issueView r).pendingHit e.reads = false)
    (hl : e.late = some (cause, val, k)) : vecRun words s f = .next (s.vecFault cause val k) := by
  simp only [Core.issueView] at hf hp
  simp only [vecRun, h, hf, hp, hl]
  simp

theorem vecRun_pending (h : (s.core s.cur).vec.run = some r) (hf : f ((s.core s.cur).issueView r) = .ok e)
    (hp : ((s.core s.cur).issueView r).pendingHit e.reads = true) :
    vecRun words s f = .next (s.vecFault .pendingRead 0) := by
  simp only [Core.issueView] at hf hp
  simp only [vecRun, h, hf, hp, if_true]

theorem vecRun_error {cause : Cause} {val : Word} (h : (s.core s.cur).vec.run = some r)
    (hf : f ((s.core s.cur).issueView r) = .error (cause, val)) : vecRun words s f = .next (s.vecFault cause val) := by
  simp only [Core.issueView] at hf
  simp only [vecRun, h, hf]

/-- Every outcome of a vector instruction is a next state, and one of these. -/
theorem vecRun_cases : ∃ u, vecRun words s f = .next u ∧
    (u = s ∨ (∃ cause val k, u = s.vecFault cause val k) ∨
      ∃ r e, (s.core s.cur).vec.run = some r ∧ f ((s.core s.cur).issueView r) = .ok e ∧
        u = ((s.core s.cur).issueView r).issue words e s) := by
  cases h : (s.core s.cur).vec.run with
  | none => exact ⟨s, vecRun_idle h, .inl rfl⟩
  | some r =>
    cases hf : f ((s.core s.cur).issueView r) with
    | error q => exact ⟨_, vecRun_error h hf, .inr (.inl ⟨_, _, _, rfl⟩)⟩
    | ok e =>
      cases hp : ((s.core s.cur).issueView r).pendingHit e.reads with
      | true => exact ⟨_, vecRun_pending h hf hp, .inr (.inl ⟨_, _, _, rfl⟩)⟩
      | false => match hl : e.late with
        | some (cause, val, k) => exact ⟨_, vecRun_late h hf hp hl, .inr (.inl ⟨_, _, _, rfl⟩)⟩
        | none => exact ⟨_, vecRun_issue h hf hp hl, .inr (.inr ⟨r, e, rfl, hf, rfl⟩)⟩

theorem vecRun_next (words : Nat) (s : State) (f : VX → VRes VEff) : ∃ t, vecRun words s f = .next t :=
  let ⟨u, h, _⟩ := vecRun_cases (s := s) (words := words) (f := f)
  ⟨u, h⟩

end

end Sys2Proof.Machine
end

