-- ==== Sys2Proof/Laws/Words.lean ====
section
/-! SUPPORT. The fields of a word that is put together in one of the five formats (Tables 01-1 to 01-7), read back. -/

namespace Sys2Proof

/-- A field read out of bits put together: all of it stands in the low part, or in the high part. -/
theorem extract_append_low {n m i w : Nat} (x : BitVec n) (y : BitVec m) (h : i + w ≤ m) :
    (x ++ y).extractLsb' i w = y.extractLsb' i w := by
  apply BitVec.eq_of_getLsbD_eq; intro j hj
  simp only [BitVec.getLsbD_extractLsb', BitVec.getLsbD_append, hj, decide_true, Bool.true_and]
  rw [if_pos (by omega)]
theorem extract_append_high {n m i w : Nat} (x : BitVec n) (y : BitVec m) (h : m ≤ i) :
    (x ++ y).extractLsb' i w = x.extractLsb' (i - m) w := by
  apply BitVec.eq_of_getLsbD_eq; intro j hj
  simp only [BitVec.getLsbD_extractLsb', BitVec.getLsbD_append, hj, decide_true, Bool.true_and]
  rw [if_neg (by omega), show i + j - m = i - m + j by omega]
theorem extract_all {n : Nat} (x : BitVec n) : x.extractLsb' 0 n = x := by
  apply BitVec.eq_of_getLsbD_eq; intro j hj
  simp only [BitVec.getLsbD_extractLsb', hj, decide_true, Bool.true_and, Nat.zero_add]

section
variable (maj : BitVec 6) (d : BitVec 5) (a : BitVec 5) (b : BitVec 5) (w : BitVec 1) (ty : BitVec 4) (sub : BitVec 6)
@[simp] theorem maj_G : wMaj (maj ++ d ++ a ++ b ++ w ++ ty ++ sub) = maj.toNat := by
  rw [wMaj, extract_append_high _ sub (by omega), extract_append_high _ ty (by omega), extract_append_high _ w (by omega), extract_append_high _ b (by omega), extract_append_high _ a (by omega), extract_append_high _ d (by omega), extract_all]
@[simp] theorem d_G : wD (maj ++ d ++ a ++ b ++ w ++ ty ++ sub) = d := by
  rw [wD, extract_append_high _ sub (by omega), extract_append_high _ ty (by omega), extract_append_high _ w (by omega), extract_append_high _ b (by omega), extract_append_high _ a (by omega), extract_append_low _ d (by omega), extract_all]
@[simp] theorem a_G : wA (maj ++ d ++ a ++ b ++ w ++ ty ++ sub) = a := by
  rw [wA, extract_append_high _ sub (by omega), extract_append_high _ ty (by omega), extract_append_high _ w (by omega), extract_append_high _ b (by omega), extract_append_low _ a (by omega), extract_all]
@[simp] theorem b_G : wB (maj ++ d ++ a ++ b ++ w ++ ty ++ sub) = b := by
  rw [wB, extract_append_high _ sub (by omega), extract_append_high _ ty (by omega), extract_append_high _ w (by omega), extract_append_low _ b (by omega), extract_all]
@[simp] theorem w_G : wW (maj ++ d ++ a ++ b ++ w ++ ty ++ sub) = w := by
  rw [wW, extract_append_high _ sub (by omega), extract_append_high _ ty (by omega), extract_append_low _ w (by omega), extract_all]
@[simp] theorem ty_G : wTy (maj ++ d ++ a ++ b ++ w ++ ty ++ sub) = ty := by
  rw [wTy, extract_append_high _ sub (by omega), extract_append_low _ ty (by omega), extract_all]
@[simp] theorem sub_G : wSub (maj ++ d ++ a ++ b ++ w ++ ty ++ sub) = sub := by
  rw [wSub, extract_append_low _ sub (by omega), extract_all]
end

section
variable (maj : BitVec 6) (d : BitVec 5) (a : BitVec 5) (imm : BitVec 16)
@[simp] theorem maj_I : wMaj (maj ++ d ++ a ++ imm) = maj.toNat := by
  rw [wMaj, extract_append_high _ imm (by omega), extract_append_high _ a (by omega), extract_append_high _ d (by omega), extract_all]
@[simp] theorem d_I : wD (maj ++ d ++ a ++ imm) = d := by
  rw [wD, extract_append_high _ imm (by omega), extract_append_high _ a (by omega), extract_append_low _ d (by omega), extract_all]
@[simp] theorem a_I : wA (maj ++ d ++ a ++ imm) = a := by
  rw [wA, extract_append_high _ imm (by omega), extract_append_low _ a (by omega), extract_all]
@[simp] theorem imm_I : wImm (maj ++ d ++ a ++ imm) = imm := by
  rw [wImm, extract_append_low _ imm (by omega), extract_all]
end

section
variable (maj : BitVec 6) (d : BitVec 5) (a : BitVec 5) (cls : BitVec 4) (size : BitVec 2) (ofs : BitVec 10)
@[simp] theorem maj_M : wMaj (maj ++ d ++ a ++ cls ++ size ++ ofs) = maj.toNat := by
  rw [wMaj, extract_append_high _ ofs (by omega), extract_append_high _ size (by omega), extract_append_high _ cls (by omega), extract_append_high _ a (by omega), extract_append_high _ d (by omega), extract_all]
@[simp] theorem d_M : wD (maj ++ d ++ a ++ cls ++ size ++ ofs) = d := by
  rw [wD, extract_append_high _ ofs (by omega), extract_append_high _ size (by omega), extract_append_high _ cls (by omega), extract_append_high _ a (by omega), extract_append_low _ d (by omega), extract_all]
@[simp] theorem a_M : wA (maj ++ d ++ a ++ cls ++ size ++ ofs) = a := by
  rw [wA, extract_append_high _ ofs (by omega), extract_append_high _ size (by omega), extract_append_high _ cls (by omega), extract_append_low _ a (by omega), extract_all]
@[simp] theorem cls_M : wCls (maj ++ d ++ a ++ cls ++ size ++ ofs) = cls := by
  rw [wCls, extract_append_high _ ofs (by omega), extract_append_high _ size (by omega), extract_append_low _ cls (by omega), extract_all]
@[simp] theorem size_M : wSize (maj ++ d ++ a ++ cls ++ size ++ ofs) = size := by
  rw [wSize, extract_append_high _ ofs (by omega), extract_append_low _ size (by omega), extract_all]
@[simp] theorem ofs_M : wOfs (maj ++ d ++ a ++ cls ++ size ++ ofs) = ofs := by
  rw [wOfs, extract_append_low _ ofs (by omega), extract_all]
end

section
variable (maj : BitVec 6) (ofs : BitVec 26)
@[simp] theorem maj_J : wMaj (maj ++ ofs) = maj.toNat := by
  rw [wMaj, extract_append_high _ ofs (by omega), extract_all]
@[simp] theorem ofs_J : wJ (maj ++ ofs) = ofs := by
  rw [wJ, extract_append_low _ ofs (by omega), extract_all]
end

section
variable (maj : BitVec 6) (d : BitVec 5) (a : BitVec 5) (b : BitVec 5) (msel : BitVec 3) (ty : BitVec 4) (sub : BitVec 4)
@[simp] theorem maj_V : wMaj (maj ++ d ++ a ++ b ++ msel ++ ty ++ sub) = maj.toNat := by
  rw [wMaj, extract_append_high _ sub (by omega), extract_append_high _ ty (by omega), extract_append_high _ msel (by omega), extract_append_high _ b (by omega), extract_append_high _ a (by omega), extract_append_high _ d (by omega), extract_all]
@[simp] theorem d_V : wD (maj ++ d ++ a ++ b ++ msel ++ ty ++ sub) = d := by
  rw [wD, extract_append_high _ sub (by omega), extract_append_high _ ty (by omega), extract_append_high _ msel (by omega), extract_append_high _ b (by omega), extract_append_high _ a (by omega), extract_append_low _ d (by omega), extract_all]
@[simp] theorem a_V : wA (maj ++ d ++ a ++ b ++ msel ++ ty ++ sub) = a := by
  rw [wA, extract_append_high _ sub (by omega), extract_append_high _ ty (by omega), extract_append_high _ msel (by omega), extract_append_high _ b (by omega), extract_append_low _ a (by omega), extract_all]
@[simp] theorem b_V : wB (maj ++ d ++ a ++ b ++ msel ++ ty ++ sub) = b := by
  rw [wB, extract_append_high _ sub (by omega), extract_append_high _ ty (by omega), extract_append_high _ msel (by omega), extract_append_low _ b (by omega), extract_all]
@[simp] theorem msel_V : vMsel (maj ++ d ++ a ++ b ++ msel ++ ty ++ sub) = msel := by
  rw [vMsel, extract_append_high _ sub (by omega), extract_append_high _ ty (by omega), extract_append_low _ msel (by omega), extract_all]
@[simp] theorem ty_V : vTyc (maj ++ d ++ a ++ b ++ msel ++ ty ++ sub) = ty := by
  rw [vTyc, extract_append_high _ sub (by omega), extract_append_low _ ty (by omega), extract_all]
@[simp] theorem sub_V : vSub (maj ++ d ++ a ++ b ++ msel ++ ty ++ sub) = sub := by
  rw [vSub, extract_append_low _ sub (by omega), extract_all]
end

end Sys2Proof
end

