-- ==== Sys2Proof/Tests/Slice0.lean ====
section
/-! SUPPORT. Tests: a term that each check of WellFormed refuses, words written out from the encodings of the spec, one
step of a few instructions with results taken from the spec, and a state that meets the hypotheses of each statement. -/

open Sys2Proof Sys2Proof.Machine Sys2Proof.Claims

/-! ### WellFormed refuses (R21-R24, R50, R89, R109, R115, R135, R143, R162, R174) -/

theorem test_wf_two_literals : (Instr.add 1 (.lit32 1) (.lit32 2) .i32).wf = false := by decide
theorem test_wf_literals_of_three : (Instr.mma (.lit32 1) (.reg 1) (.lit32 2) 0).wf = false := by decide
theorem test_wf_vector_literals : (Instr.vadd 1 (.lit 1) (.lit 2) 0 .f32 .rne).wf = false := by decide
theorem test_wf_scalar_literals : (Instr.vmovIns 1 (.lit 1) (.lit 2) .i32).wf = false := by decide
theorem test_wf_store_literals : (Instr.vst (.lit 1) 0 (.lit 2) 0 .i32 0).wf = false := by decide
theorem test_wf_wide_branch : (Instr.beq (.lit64 1) (.reg 1) 0).wf = false := by decide
theorem test_wf_wide_type : (Instr.add 1 (.lit64 1) (.reg 1) .i32).wf = false := by decide
theorem test_wf_float_alu : (Instr.add 1 (.reg 1) (.reg 2) .f32).wf = false := by decide
theorem test_wf_waita_type : (Instr.waita 1 (.reg 1) (.reg 2) .i16 .core).wf = false := by decide
theorem test_wf_ldz_size : (Instr.ldZeroExtending 1 (.reg 1) 0 3 0).wf = false := by decide
theorem test_wf_sysrd_number : (Instr.sysrd 1 0x00C).wf = false := by decide
theorem test_wf_perco_sys_number : (Instr.percoSysrd 1 5).wf = false := by decide
theorem test_wf_token_regs : (Instr.token 30 2 (.reg 1) (.reg 2)).wf = false := by decide
theorem test_wf_vector_int_type : (Instr.vadd 1 (.reg 1) (.reg 2) 0 .i32 .rne).wf = false := by decide
theorem test_wf_mask_zero : (Instr.vmopAnd 0 1 2).wf = false := by decide
theorem test_wf_publish_wide : (Instr.publish (.reg 1) (.lit64 1) .pod).wf = false := by decide
theorem test_wf_syswr_wide : (Instr.syswr (.lit64 1) 0).wf = false := by decide
theorem test_wf_unsegmented_word : (Instr.vredAdd 1 2 (.reg 3) 0 .f32 .row).wf = false := by decide
theorem test_wf_vridx_last : (Instr.vridxMax 30 2 (.reg 0) 0 .f32 .row).wf = false := by decide
theorem test_wf_vrnd_rsr : (Instr.vrnd 1 (.reg 2) 0 .f32 .rsr).wf = false := by decide
theorem test_wf_vhad_zero : (Instr.vhad 1 2 0 .f32 false 0).wf = false := by decide
theorem test_wf_vquant_scale : (Instr.vquant 1 2 1 0 (.fn 3) .rne).wf = false := by decide
theorem test_wf_vdeq_type : (Instr.vdeq 1 2 3 0 .f32).wf = false := by decide
theorem test_wf_vcvt_unsigned : (Instr.vcvt 1 2 .f32 true 0 .i8 false .rne).wf = false := by decide
theorem test_wf_vsel_mask : (Instr.vsel 1 (.reg 2) (.reg 3) 0 .f32).wf = false := by decide
theorem test_wf_vsel_type : (Instr.vsel 1 (.reg 2) (.reg 3) 1 .i64).wf = false := by decide
theorem test_wf_vtrd_type : (Instr.vtrd 1 0 (.reg 0) 0 .f16).wf = false := by decide
theorem test_wf_vcmp_code : (Instr.vcmp 1 (.reg 1) (.reg 2) 0 .i32 false 6).wf = false := by decide

/-! ### One word of every row, written out from the match and the fields of its encoding: destination 5, A 6, B 7 where
the row allows them -/

theorem test_decode_stem_0 : ([
    (0x04A63B40, .add 5 (.reg 6) (.reg 7) .i32),
    (0x04A63B41, .sub 5 (.reg 6) (.reg 7) .i32),
    (0x04A63B42, .mul 5 (.reg 6) (.reg 7) .i32),
    (0x04A63B43, .mulh 5 (.reg 6) (.reg 7) .i32),
    (0x04A63B44, .div 5 (.reg 6) (.reg 7) .i32),
    (0x04A63B45, .rem 5 (.reg 6) (.reg 7) .i32),
    (0x04A63B46, .and 5 (.reg 6) (.reg 7) .i32),
    (0x04A63B47, .or 5 (.reg 6) (.reg 7) .i32),
    (0x04A63B48, .xor 5 (.reg 6) (.reg 7) .i32),
    (0x04A63B49, .shl 5 (.reg 6) (.reg 7) .i32),
    (0x04A63B4A, .shr 5 (.reg 6) (.reg 7) .i32),
    (0x04A63B4B, .sra 5 (.reg 6) (.reg 7) .i32),
    (0x04A63B4C, .min 5 (.reg 6) (.reg 7) .i32),
    (0x04A63B4D, .max 5 (.reg 6) (.reg 7) .i32),
    (0x04A63B4E, .slt 5 (.reg 6) (.reg 7) .i32),
    (0x04A63B4F, .sltu 5 (.reg 6) (.reg 7) .i32),
    (0x04A63B50, .madd 5 (.reg 6) (.reg 7) .i32),
    (0x04A60351, .clz 5 (.reg 6) .i32),
    (0x04A60352, .popc 5 (.reg 6) .i32),
    (0x04A63B63, .mulhUnsigned 5 (.reg 6) (.reg 7) .i32),
    (0x04A63B64, .divUnsigned 5 (.reg 6) (.reg 7) .i32),
    (0x04A63B65, .remUnsigned 5 (.reg 6) (.reg 7) .i32),
    (0x04A63B6C, .minUnsigned 5 (.reg 6) (.reg 7) .i32),
    (0x04A63B6D, .maxUnsigned 5 (.reg 6) (.reg 7) .i32)] : List (W32 × Instr)).all (fun p => decStem p.1 [] == .ok p.2 1) = true := by decide

theorem test_decode_stem_1 : ([
    (0x2C060000, .jr (.reg 6)),
    (0x2C060001, .jrCall (.reg 6)),
    (0x38660000, .mvlc 3 (.reg 6)),
    (0x38A30001, .mvlcRead 5 3),
    (0x48A63B40, .amoAdd 5 (.reg 6) (.reg 7) .i32),
    (0x48A63B41, .amoAnd 5 (.reg 6) (.reg 7) .i32),
    (0x48A63B42, .amoOr 5 (.reg 6) (.reg 7) .i32),
    (0x48A63B43, .amoXor 5 (.reg 6) (.reg 7) .i32),
    (0x48A63B44, .amoMin 5 (.reg 6) (.reg 7) .i32),
    (0x48A63B45, .amoMax 5 (.reg 6) (.reg 7) .i32),
    (0x48A63B46, .amoMinu 5 (.reg 6) (.reg 7) .i32),
    (0x48A63B47, .amoMaxu 5 (.reg 6) (.reg 7) .i32),
    (0x48A63B48, .amoSwap 5 (.reg 6) (.reg 7) .i32),
    (0x74A63B40, .ratomAdd 5 (.reg 6) (.reg 7) .i32),
    (0x74A63B41, .ratomAnd 5 (.reg 6) (.reg 7) .i32),
    (0x74A63B42, .ratomOr 5 (.reg 6) (.reg 7) .i32),
    (0x74A63B43, .ratomXor 5 (.reg 6) (.reg 7) .i32),
    (0x74A63B44, .ratomMin 5 (.reg 6) (.reg 7) .i32),
    (0x74A63B45, .ratomMax 5 (.reg 6) (.reg 7) .i32),
    (0x74A63B46, .ratomMinu 5 (.reg 6) (.reg 7) .i32),
    (0x74A63B47, .ratomMaxu 5 (.reg 6) (.reg 7) .i32),
    (0x74A63B48, .ratomSwap 5 (.reg 6) (.reg 7) .i32),
    (0x74A63B49, .ratomCas 5 (.reg 6) (.reg 7) .i32),
    (0x88060000, .cinv (.reg 6))] : List (W32 × Instr)).all (fun p => decStem p.1 [] == .ok p.2 1) = true := by decide

theorem test_decode_stem_2 : ([
    (0x88000001, .cinvAll),
    (0xA4A00004, .rdcyc 5),
    (0xA4000000, .eret),
    (0xA4000001, .halt),
    (0xA4000002, .nop),
    (0xA4000003, .yield),
    (0xA4000005, .ifence),
    (0xA4000006, .vsync),
    (0xA4000007, .grainend),
    (0x08A08123, .li 5 (.imm 33059)),
    (0x0CA68123, .beq (.reg 5) (.reg 6) 33059),
    (0x10A68123, .bne (.reg 5) (.reg 6) 33059),
    (0x14A68123, .blt (.reg 5) (.reg 6) 33059),
    (0x18A68123, .bge (.reg 5) (.reg 6) 33059),
    (0x1CA68123, .bltu (.reg 5) (.reg 6) 33059),
    (0x20A68123, .bgeu (.reg 5) (.reg 6) 33059),
    (0x26ABCDEF, .j 44813807),
    (0x2AABCDEF, .jal 44813807),
    (0x30000000, .ret),
    (0x34068123, .loop (.reg 6) 33059),
    (0x3C000000, .lbrk),
    (0x40A636A5, .ld 5 (.reg 6) 3 1 677),
    (0x44A636A5, .st (.reg 5) (.reg 6) 3 1 677),
    (0x4CA63B40, .cas 5 (.reg 6) (.reg 7) .i32)] : List (W32 × Instr)).all (fun p => decStem p.1 [] == .ok p.2 1) = true := by decide

theorem test_decode_stem_3 : ([
    (0x50063803, .semwait (.reg 6) (.reg 7) .die),
    (0x54063803, .sempost (.reg 6) (.reg 7) .die),
    (0x58A63B43, .waita 5 (.reg 6) (.reg 7) .i32 .die),
    (0x5C060003, .fence (.reg 6) .die),
    (0x60060003, .bar (.reg 6) .die),
    (0x64A63803, .token 5 3 (.reg 6) (.reg 7)),
    (0x68600000, .twait 3),
    (0x6C060001, .xfer (.reg 6) true),
    (0x70063801, .rcall (.reg 6) (.reg 7) true),
    (0x78A68123, .probe 5 (.reg 6) 33059),
    (0x7C060000, .pwait (.reg 6)),
    (0x80060000, .pin (.reg 6)),
    (0x84060000, .unpin (.reg 6)),
    (0x8C660000, .shld 3 (.reg 6)),
    (0x90600000, .shinv 3),
    (0x94060000, .launch (.reg 6)),
    (0x98008123, .trap 33059),
    (0x9CA00004, .sysrd 5 4),
    (0xA0060004, .syswr (.reg 6) 4),
    (0xA8A636A5, .ldZeroExtending 5 (.reg 6) 3 1 677),
    (0xC0A63803, .mma (.reg 5) (.reg 6) (.reg 7) 3),
    (0xC4A63803, .mmas (.reg 5) (.reg 6) (.reg 7) 3),
    (0xC8200000, .mclr 1),
    (0xCC610001, .memit 3 1 true)] : List (W32 × Instr)).all (fun p => decStem p.1 [] == .ok p.2 1) = true := by decide

theorem test_decode_stem_4 : ([
    (0xD0260000, .mtld 1 (.reg 6)),
    (0xD4260000, .mtst 1 (.reg 6)),
    (0xD8063800, .mtbar (.reg 6) (.reg 7)),
    (0xDC660000, .mfmt 3 (.reg 6)),
    (0xE0000000, .msync),
    (0xE4063803, .mwait (.reg 6) (.reg 7) .die),
    (0xE8063803, .msig (.reg 6) (.reg 7) .die)] : List (W32 × Instr)).all (fun p => decStem p.1 [] == .ok p.2 1) = true := by decide

theorem test_decode_vector_0 : ([
    (0x68A63800, .vmopAnd 5 6 7),
    (0x68A63801, .vmopOr 5 6 7),
    (0x68A63802, .vmopXor 5 6 7),
    (0x68A63803, .vmopAndn 5 6 7),
    (0x68A60004, .vmopNot 5 6),
    (0x68A00005, .vmopOnes 5),
    (0x68A00006, .vmopZeros 5),
    (0x68A60007, .vmopCopy 5 6),
    (0x6CA60000, .vmpop 5 6),
    (0x6CA60001, .vmpopFirst 5 6),
    (0x84A63EAE, .vldRagged 5 6 (.reg 7) 6 .f16 true 2),
    (0x84A63EA2, .vld 5 6 (.reg 7) 6 .f16 2),
    (0x88A63EAE, .vstRagged (.reg 5) 6 (.reg 7) 6 .f16 true 2),
    (0x88A63EA2, .vst (.reg 5) 6 (.reg 7) 6 .f16 2),
    (0x8CA606A0, .vldb 5 6 6 .f16),
    (0x8CA606A3, .vldbPf 5 6 6 .f16),
    (0xA0A606A0, .vmov 5 (.reg 6) 6 .f16),
    (0xA0A638A1, .vmovIns 5 (.reg 6) (.reg 7) .f16),
    (0xA0A638A2, .vmovExt 5 6 (.reg 7) .f16),
    (0xA4A606A0, .vsplat 5 (.reg 6) 6 .f16),
    (0xA4A606A1, .vsplatRow 5 6 6 .f16),
    (0xA4A606A2, .vsplatCol 5 6 6 .f16),
    (0xA8060000, .vshape (.reg 6)),
    (0xA8A00001, .vshapeRd 5)] : List (W32 × Instr)).all (fun p => decVectorChecked p.1 [] == .ok p.2 1) = true := by decide

theorem test_decode_vector_1 : ([
    (0xACA63EA0, .vperm 5 6 (.reg 7) 6 .f16),
    (0xACA63EA1, .vpermRows 5 6 (.reg 7) 6 .f16),
    (0xB4A63EA0, .vslide 5 6 (.reg 7) 6 .f16),
    (0xB4A63EA1, .vslideRot 5 6 (.reg 7) 6 .f16),
    (0xB4A63EA2, .vslideFlat 5 6 (.reg 7) 6 .f16),
    (0xB8A63EC8, .vredAdd 5 6 (.reg 7) 6 .i16 .sr),
    (0xB8A63EC9, .vredMax 5 6 (.reg 7) 6 .i16 .sr),
    (0xB8A63ECA, .vredMin 5 6 (.reg 7) 6 .i16 .sr),
    (0xBCA63ED9, .vridxMax 5 6 (.reg 7) 6 .i32 .sr),
    (0xBCA63EDA, .vridxMin 5 6 (.reg 7) 6 .i32 .sr),
    (0xC0A63EC8, .vscanAdd 5 6 (.reg 7) 6 .i16 .sr),
    (0xC0A63EC9, .vscanMax 5 6 (.reg 7) 6 .i16 .sr),
    (0xC0A63ECA, .vscanMin 5 6 (.reg 7) 6 .i16 .sr),
    (0xC4A63E98, .vnormMs 5 6 (.reg 7) 6 .bf16 .sr),
    (0xC4A63E99, .vnormRms 5 6 (.reg 7) 6 .bf16 .sr),
    (0xD0A60000, .vaset 5 (.reg 6)),
    (0xD0A60001, .vasetWst 5 (.reg 6)),
    (0xD0A60002, .vasetWlen 5 (.reg 6)),
    (0xD0A60003, .vasetRd 5 6),
    (0xE8063800, .vchk 6 (.reg 7)),
    (0xE8A60001, .vchkRd 5 6),
    (0xECA60000, .vlit 5 (.reg 6)),
    (0xECA60001, .vlitAdd 5 (.reg 6)),
    (0xECA60002, .vlitSub 5 (.reg 6))] : List (W32 × Instr)).all (fun p => decVectorChecked p.1 [] == .ok p.2 1) = true := by decide

theorem test_decode_vector_2 : ([
    (0x04A63E93, .vadd 5 (.reg 6) (.reg 7) 6 .bf16 .rup),
    (0x08A63E93, .vsub 5 (.reg 6) (.reg 7) 6 .bf16 .rup),
    (0x0CA63E93, .vmul 5 (.reg 6) (.reg 7) 6 .bf16 .rup),
    (0x10A63E93, .vfma 5 (.reg 6) (.reg 7) 6 .bf16 .rup),
    (0x14A63E90, .vmin 5 (.reg 6) (.reg 7) 6 .bf16),
    (0x18A63E90, .vmax 5 (.reg 6) (.reg 7) 6 .bf16),
    (0x1CA60690, .vexp2 5 (.reg 6) 6 .bf16),
    (0x20A60690, .vlog2 5 (.reg 6) 6 .bf16),
    (0x24A60690, .vrcp 5 (.reg 6) 6 .bf16),
    (0x28A60690, .vrsq 5 (.reg 6) 6 .bf16),
    (0x2CA60690, .vtanh 5 (.reg 6) 6 .bf16),
    (0x30A63ED3, .viadd 5 (.reg 6) (.reg 7) 6 .i32 true true),
    (0x34A63ED3, .visub 5 (.reg 6) (.reg 7) 6 .i32 true true),
    (0x38A63ED6, .vimul 5 (.reg 6) (.reg 7) 6 .i32 true true),
    (0x3CA63ED3, .vimad 5 (.reg 6) (.reg 7) 6 .i32 true true),
    (0x40A63ED0, .vand 5 (.reg 6) (.reg 7) 6 .i32),
    (0x44A63ED0, .vor 5 (.reg 6) (.reg 7) 6 .i32),
    (0x48A63ED0, .vxor 5 (.reg 6) (.reg 7) 6 .i32),
    (0x4CA63ED0, .vshl 5 (.reg 6) (.reg 7) 6 .i32),
    (0x50A63ED0, .vshr 5 (.reg 6) (.reg 7) 6 .i32),
    (0x54A63ED0, .vsra 5 (.reg 6) (.reg 7) 6 .i32),
    (0x58A63ED2, .vimin 5 (.reg 6) (.reg 7) 6 .i32 true),
    (0x5CA63ED2, .vimax 5 (.reg 6) (.reg 7) 6 .i32 true),
    (0x60A63ECB, .vcmp 5 (.reg 6) (.reg 7) 6 .i16 true 3)] : List (W32 × Instr)).all (fun p => decVectorChecked p.1 [] == .ok p.2 1) = true := by decide

theorem test_decode_vector_3 : ([
    (0x64A63EA0, .vsel 5 (.reg 6) (.reg 7) 6 .f16),
    (0x70A6E6A3, .vcvt 5 6 .i16 true 6 .f16 false .rup),
    (0x74A63E33, .vquant 5 6 7 6 (.fn 3) .rup),
    (0x78A63E30, .vdeq 5 6 7 6 (.fn 3)),
    (0x7CA60693, .vrnd 5 (.reg 6) 6 .bf16 .rup),
    (0x80A63E80, .vsacc 5 6 7 6),
    (0x90A63EA1, .vgath 5 6 (.reg 7) 6 .f16 true),
    (0x94A63EA1, .vscat (.reg 5) 6 (.reg 7) 6 .f16 true),
    (0x98A33ED0, .vtrd 5 3 (.reg 7) 6 .i32),
    (0x9C030000, .vtrel 3),
    (0xB0A606A0, .vxpose 5 6 6 .f16),
    (0xC8A63E98, .vsmax 5 6 (.reg 7) 6 .bf16 .sr),
    (0xCCA6069B, .vhad 5 6 6 .bf16 true 3),
    (0xD4A60000, .vaadd 5 (.reg 6)),
    (0xD8000000, .vend),
    (0xDC000000, .vnop),
    (0xE0A00003, .vtokr 5 3),
    (0xE4060000, .veop 6)] : List (W32 × Instr)).all (fun p => decVectorChecked p.1 [] == .ok p.2 1) = true := by decide

theorem test_decode_perco_0 : ([
    (0x04A63B40, .percoAdd 5 (.reg 6) (.reg 7) .i32),
    (0x04A63B41, .percoSub 5 (.reg 6) (.reg 7) .i32),
    (0x04A63B42, .percoMul 5 (.reg 6) (.reg 7) .i32),
    (0x04A63B43, .percoAnd 5 (.reg 6) (.reg 7) .i32),
    (0x04A63B44, .percoOr 5 (.reg 6) (.reg 7) .i32),
    (0x04A63B45, .percoXor 5 (.reg 6) (.reg 7) .i32),
    (0x04A63B46, .percoShl 5 (.reg 6) (.reg 7) .i32),
    (0x04A63B47, .percoShr 5 (.reg 6) (.reg 7) .i32),
    (0x04A63B48, .percoMin 5 (.reg 6) (.reg 7) .i32),
    (0x04A63B49, .percoMax 5 (.reg 6) (.reg 7) .i32),
    (0x04A63B68, .percoMinUnsigned 5 (.reg 6) (.reg 7) .i32),
    (0x04A63B69, .percoMaxUnsigned 5 (.reg 6) (.reg 7) .i32),
    (0x8CA63B40, .percoRatomAdd 5 (.reg 6) (.reg 7) .i32),
    (0x8CA63B41, .percoRatomAnd 5 (.reg 6) (.reg 7) .i32),
    (0x8CA63B42, .percoRatomOr 5 (.reg 6) (.reg 7) .i32),
    (0x8CA63B43, .percoRatomXor 5 (.reg 6) (.reg 7) .i32),
    (0x8CA63B44, .percoRatomMin 5 (.reg 6) (.reg 7) .i32),
    (0x8CA63B45, .percoRatomMax 5 (.reg 6) (.reg 7) .i32),
    (0x8CA63B46, .percoRatomMinu 5 (.reg 6) (.reg 7) .i32),
    (0x8CA63B47, .percoRatomMaxu 5 (.reg 6) (.reg 7) .i32),
    (0x8CA63B48, .percoRatomSwap 5 (.reg 6) (.reg 7) .i32),
    (0x8CA63B49, .percoRatomCas 5 (.reg 6) (.reg 7) .i32),
    (0xA0063800, .tlbinv (.reg 6) (.reg 7)),
    (0xA0063801, .tlbinvCtx (.reg 6) (.reg 7))] : List (W32 × Instr)).all (fun p => decPerco p.1 [] == .ok p.2 1) = true := by decide

theorem test_decode_perco_1 : ([
    (0xA0000002, .tlbinvAll),
    (0xA8A60000, .resume 5 (.reg 6)),
    (0xA8A60001, .resumeDrop 5 (.reg 6)),
    (0x08A08123, .percoLi 5 (.imm 33059)),
    (0x0CA606A5, .percoLd 5 (.reg 6) 1 677),
    (0x10A606A5, .percoSt (.reg 5) (.reg 6) 1 677),
    (0x14A68123, .percoBeq (.reg 5) (.reg 6) 33059),
    (0x18A68123, .percoBne (.reg 5) (.reg 6) 33059),
    (0x1CA68123, .percoBlt (.reg 5) (.reg 6) 33059),
    (0x20A68123, .percoBge (.reg 5) (.reg 6) 33059),
    (0x26ABCDEF, .percoJ 44813807),
    (0x2AABCDEF, .percoCall 44813807),
    (0x2C000000, .percoRet),
    (0x30068123, .percoLoop (.reg 6) 33059),
    (0x40060001, .copy (.reg 6) true),
    (0x44060001, .gath (.reg 6) true),
    (0x48060001, .scat (.reg 6) true),
    (0x4C060001, .xpose (.reg 6) true),
    (0x50060001, .conv (.reg 6) true),
    (0x54060001, .infl (.reg 6) true),
    (0x58060001, .mcast (.reg 6) true),
    (0x5C060001, .red (.reg 6) true),
    (0x60060001, .fill (.reg 6) true),
    (0x64060001, .nest (.reg 6) true)] : List (W32 × Instr)).all (fun p => decPerco p.1 [] == .ok p.2 1) = true := by decide

theorem test_decode_perco_2 : ([
    (0x68A60000, .abort 5 (.reg 6)),
    (0x6C063803, .publish (.reg 6) (.reg 7) .die),
    (0x70A60000, .seqst 5 (.reg 6)),
    (0x80063803, .semadd (.reg 6) (.reg 7) .die),
    (0x84063803, .percoSemwait (.reg 6) (.reg 7) .die),
    (0x88060003, .percoFence (.reg 6) .die),
    (0x90060003, .wakea (.reg 6) .die),
    (0xA4A63803, .mapchk 5 (.reg 6) (.reg 7) true true),
    (0xACA60000, .killctx 5 (.reg 6)),
    (0xC0008123, .percoTrap 33059),
    (0xC4000000, .percoHalt),
    (0xC8000000, .percoNop),
    (0xCCA00004, .percoSysrd 5 4),
    (0xD0060004, .percoSyswr (.reg 6) 4)] : List (W32 × Instr)).all (fun p => decPerco p.1 [] == .ok p.2 1) = true := by decide


/-! ### Witnesses: a state and operands that meet the hypotheses of each statement -/

/-- The machine after reset with core 0, the current core, changed. -/
def withCore (f : Core → Core) : State := State.reset.modCore 0 f

theorem withCore_core (f : Core → Core) : (withCore f).core (withCore f).cur = f Core.reset := by
  have h : State.reset.core 0 = Core.reset := by simp [State.core, State.reset, Vector.get]
  exact (State.modCore_core ..).trans (congrArg f h)

theorem withCore_core0 (f : Core → Core) : (withCore f).core 0 = f Core.reset := withCore_core f

theorem withCore_free (f : Core → Core) (hr : (f Core.reset).stem.ratoms = []) (hp : (f Core.reset).stem.parity = [])
    (reads writes : List Reg) : (withCore f).regsFree reads writes := by
  simp [State.regsFree, withCore_core, Stem.isPending, hr, hp]

theorem withCore_plain (f : Core → Core) (hp : (f Core.reset).stem.pc = 0) (hs : statusSstep (f Core.reset).stem.status = false)
    (n : Nat) (h : n < 100) : (withCore f).plain (((withCore f).core (withCore f).cur).after n) := by
  refine ⟨?_, by rw [withCore_core]; exact hs⟩
  rw [withCore_core, Core.after, hp]
  have : (0 : BitVec 16).toNat = 0 := rfl
  omega

/-- A state of main memory, package and one core that runs: a context is mapped when the package says so. -/
def withAll (f : Core → Core) (g : Package → Package) (m : Mem) : State :=
  { (withCore f).modPkg g with mem := m }

theorem withAll_core (f : Core → Core) (g : Package → Package) (m : Mem) :
    (withAll f g m).core (withAll f g m).cur = f Core.reset := withCore_core f

theorem withAll_free (f : Core → Core) (g : Package → Package) (m : Mem) (hr : (f Core.reset).stem.ratoms = [])
    (hp : (f Core.reset).stem.parity = []) (reads writes : List Reg) : (withAll f g m).regsFree reads writes := by
  simp [State.regsFree, withAll_core, Stem.isPending, hr, hp]

theorem withAll_plain (f : Core → Core) (g : Package → Package) (m : Mem) (hp : (f Core.reset).stem.pc = 0)
    (hs : statusSstep (f Core.reset).stem.status = false) (n : Nat) (h : n < 100) :
    (withAll f g m).plain (((withAll f g m).core (withAll f g m).cur).after n) := by
  refine ⟨?_, by rw [withAll_core]; exact hs⟩
  rw [withAll_core, Core.after, hp]
  have : (0 : BitVec 16).toNat = 0 := rfl
  omega

/-- Context 0, of function 0, with tables of 48 bits from address 0 on; a table of context entries stands at 4 MiB. -/
def mapCtx (p : Package) : Package := { p with mmuctx := 0x400000 }
def ctxBytes : Mem := [(0x400000, 0x01), (0x400001, 0x03), (0x400010, 6)]

/-- The stem registers of a core set as listed. -/
def regsAt (l : List (Reg × Word)) (k : Core) : Core :=
  k.setStem { k.stem with x := l.foldl (fun x p => x.set p.1.val p.2 p.1.isLt) k.stem.x }

/-- Nothing stops a register instruction of the current core with these registers set. -/
theorem withRegs (l : List (Reg × Word)) :
    (∀ reads writes, (withCore (regsAt l)).regsFree reads writes) ∧
    ∀ n, n < 100 → (withCore (regsAt l)).plain (((withCore (regsAt l)).core (withCore (regsAt l)).cur).after n) :=
  ⟨withCore_free _ rfl rfl, withCore_plain _ rfl (show statusSstep 0x81 = false by decide)⟩

theorem withStem (f : Stem → Stem) (hr : (f Stem.reset).ratoms = []) (hp : (f Stem.reset).parity = []) (h0 : (f Stem.reset).pc = 0)
    (hs : statusSstep (f Stem.reset).status = false) :
    (∀ reads writes, (withCore fun k => k.setStem (f k.stem)).regsFree reads writes) ∧
    (∀ n, n < 100 → (withCore fun k => k.setStem (f k.stem)).plain
      (((withCore fun k => k.setStem (f k.stem)).core (withCore fun k => k.setStem (f k.stem)).cur).after n)) ∧
    steps (withCore fun k => k.setStem (f k.stem)) = false :=
  ⟨withCore_free _ hr hp, withCore_plain _ h0 hs, by rw [steps, withCore_core]; exact hs⟩

theorem witness_StemAluResults : let s := withCore (regsAt [])
    s.regsFree [2, 3, 1] [1] ∧ s.plain (after s [.reg 2, .reg 3]) ∧ intWidth .i32 = some 32 ∧ intWidth .f32 = none :=
  ⟨(withRegs _).1 .., (withRegs _).2 1 (by decide), rfl, rfl⟩

theorem witness_StemDivision : let s := withCore (regsAt [(2, 0x80000000), (3, 0xFFFFFFFF)])
    s.regsFree [2, 3] [1] ∧ s.plain (after s [.reg 2, .reg 3]) ∧ low 32 ((s.core s.cur).src (.reg 2)) = -2 ^ 31 ∧
      low 32 ((s.core s.cur).src (.reg 3)) = -1 ∧ low 32 ((s.core s.cur).src (.reg 4)) = 0 :=
  ⟨(withRegs _).1 .., (withRegs _).2 1 (by decide), by rw [withCore_core]; decide, by rw [withCore_core]; decide,
    by rw [withCore_core]; decide⟩

theorem witness_StemLi : let s := withCore (regsAt [])
    s.regsFree [] [1] ∧ s.plain (after s []) ∧ s.plain ((s.core s.cur).after 2) :=
  ⟨(withRegs _).1 .., (withRegs _).2 1 (by decide), (withRegs _).2 2 (by decide)⟩

theorem witness_StemControl : let s := withCore (regsAt [(2, 0xFFFC), (3, 0x10000)])
    s.regsFree [2, 3] [] ∧ steps s = false ∧ s.plain (after s [.reg 2, .reg 3]) ∧ legal 0 ∧ legal 0xFFFC ∧ ¬legal (-4) ∧
      ¬legal 0x10000 ∧ (s.core s.cur).stem.pc.toNat = 0 ∧ ((s.core s.cur).src (.reg 2)).toNat = 0xFFFC ∧
      0xFFFC < ((s.core s.cur).src (.reg 3)).toNat ∧ (s.core s.cur).stem.rets = [] :=
  ⟨(withRegs _).1 .., by rw [steps, withCore_core]; decide, (withRegs _).2 1 (by decide), by unfold legal; decide,
    by unfold legal; decide, by unfold legal; decide, by unfold legal; decide, by rw [withCore_core]; decide, by rw [withCore_core]; decide, by rw [withCore_core]; decide,
    by rw [withCore_core]; decide⟩

/-- A stem with n addresses on its return stack, and loops that end at 8. -/
def nested (rets loops : Nat) (t : Stem) : Stem :=
  { t with rets := List.replicate rets 4, loops := List.replicate loops ⟨4, 8⟩ }

theorem witness_StemControl_full : let s := withCore fun k => k.setStem (nested 16 0 k.stem)
    s.regsFree [] [] ∧ steps s = false ∧ 16 ≤ (s.core s.cur).stem.rets.length :=
  ⟨(withStem (nested 16 0) rfl rfl rfl rfl).1 .., (withStem (nested 16 0) rfl rfl rfl rfl).2.2, by rw [withCore_core]; decide⟩

theorem witness_StemLoops : let s := withCore (regsAt [(2, 5)])
    s.regsFree [2] [] ∧ s.regsFree [3] [] ∧ s.plain (after s [.reg 2]) ∧ steps s = false ∧ after s [.reg 2] = 4 ∧
      ((s.core s.cur).src (.reg 2)).setWidth 32 ≠ 0#32 ∧ ((s.core s.cur).src (.reg 3)).setWidth 32 = 0#32 ∧
      (s.core s.cur).stem.loops.length < 4 ∧ (s.core s.cur).stem.loops = [] :=
  ⟨(withRegs _).1 .., (withRegs _).1 .., (withRegs _).2 1 (by decide), by rw [steps, withCore_core]; decide,
    by rw [after, withCore_core]; decide, by rw [withCore_core]; decide, by rw [withCore_core]; decide,
    by rw [withCore_core]; decide, by rw [withCore_core]; decide⟩

theorem witness_StemLoops_nested : let s := withCore fun k => k.setStem (nested 0 4 k.stem)
    s.regsFree [] [] ∧ steps s = false ∧ (s.core s.cur).stem.loops.length = 4 ∧
      (s.core s.cur).stem.loops = ⟨4, 8⟩ :: List.replicate 3 ⟨4, 8⟩ ∧ (s.core s.cur).stem.lc[3].toNat ≤ 1 :=
  ⟨(withStem (nested 0 4) rfl rfl rfl rfl).1 .., (withStem (nested 0 4) rfl rfl rfl rfl).2.2, by rw [withCore_core]; decide,
    by rw [withCore_core]; decide, by simp only [withCore_core]; decide⟩

/-- Registers at the last word of the scratchpad, past it, and off every alignment. -/
def addrs : List (Reg × Word) := [(2, 0x1FFFF8), (3, 0x200000), (4, 1), (5, 7)]

theorem witness_StemMemory : let s := withCore (regsAt addrs)
    s.regsFree [1, 2] [1] ∧ s.plain (after s [.reg 2]) ∧ (ldAddr s (.reg 2) 3 0).toNat = 0x1FFFF8 ∧
      2 ^ 21 ≤ (ldAddr s (.reg 3) 3 0).toNat ∧ (ldAddr s (.reg 4) 3 0).toNat % nBytes 3 ≠ 0 ∧ ¬heldBack (s.core s.cur) 0 ∧
      (s.core s.cur).loadBad 0x1FFFF8 8 = false ∧ wordPart (s.core s.cur).eccHard 0x1FFFF8 8 = false ∧
      slotsAllow s 0x1FFFF8 8 := by
  refine ⟨(withRegs _).1 .., (withRegs _).2 1 (by decide), by rw [ldAddr, withCore_core]; decide,
    by rw [ldAddr, withCore_core]; decide, by rw [ldAddr, withCore_core]; decide, fun h => ?_, by rw [withCore_core]; decide,
    by rw [withCore_core]; decide, .inl (by rw [withCore_core]; decide)⟩
  rw [withCore_core] at h
  rcases h with ⟨l, c, a, bs, r, l', h, -⟩ | ⟨r, h, -⟩
  · exact absurd h.symm (by simp [regsAt, Core.setStem, Core.reset, Stem.reset])
  · exact absurd h (by simp [regsAt, Core.setStem, Core.reset, Stem.reset])

/-- A core with one store of class 0 to the last word on its way. -/
def storing (k : Core) : Core :=
  regsAt addrs (k.setStem { k.stem with stq := [.store 0 0x1FFFF8 [1, 2, 3, 4, 5, 6, 7, 8] 0] })

theorem witness_StemMemory_held : let s := withCore storing
    s.regsFree [2] [1] ∧ s.plain (after s [.reg 2]) ∧ heldBack (s.core s.cur) 0 ∧ sees s 0x1FFFF8 8 = 0x0807060504030201 :=
  ⟨withCore_free _ rfl rfl .., withCore_plain _ rfl (by decide) 1 (by decide),
    by rw [withCore_core]; exact .inl ⟨[], 0, 0x1FFFF8, _, 0, [], rfl, .inl rfl⟩,
    by unfold sees; rw [withCore_core]; decide⟩

theorem witness_StemPerform : let s := withCore storing
    (s.core 0).stem.stq = [] ++ .store 0 0x1FFFF8 [1, 2, 3, 4, 5, 6, 7, 8] 0 :: [] ∧
      (∀ q ∈ (s.core 0).stem.ratoms, q.phase.performed = true ∨ 0 ≤ q.id) ∧
      wordPart (s.core 0).eccHard 0x1FFFF8 8 = false :=
  ⟨by rw [withCore_core0]; rfl, fun _ _ => .inr (Nat.zero_le _), by rw [withCore_core0]; decide⟩

theorem witness_StemMemory_stale : let s := withCore fun k =>
      { regsAt addrs (k.setStem { k.stem with status := 0xC1 }) with slots := Vector.replicate 4 ⟨0, 0x1FFF80, true⟩ }
    s.regsFree [1, 2] [] ∧ (ldAddr s (.reg 2) 3 0).toNat = 0x1FFFF8 ∧ ¬slotsAllow s 0x1FFFF8 8 :=
  ⟨withCore_free _ rfl rfl .., by rw [ldAddr, withCore_core]; decide, by rw [slotsAllow, withCore_core]; decide⟩

theorem witness_StemAtomics : let s := withCore (regsAt addrs)
    s.regsFree [2, 5, 1] [1] ∧ s.plain (after s [.reg 2, .reg 5]) ∧ intWidth .i64 = some 64 ∧
      ((s.core s.cur).src (.reg 2)).toNat = 0x1FFFF8 ∧ ((s.core s.cur).src (.reg 4)).toNat % 8 ≠ 0 ∧
      2 ^ 21 ≤ ((s.core s.cur).src (.reg 3)).toNat ∧ (s.core s.cur).stem.stq = [] ∧
      (s.core s.cur).hardAt 0x1FFFF8 8 = false ∧ (s.core s.cur).banksFree 0x1FFFF8 8 = true ∧
      stands s 0x1FFFF8 8 = 0 ∧ (s.core s.cur).getX 1 = 0 ∧ (s.core s.cur).getX 5 = 7 :=
  ⟨(withRegs _).1 .., (withRegs _).2 1 (by decide), rfl, by rw [withCore_core]; decide, by rw [withCore_core]; decide,
    by rw [withCore_core]; decide, by rw [withCore_core]; rfl, by rw [withCore_core]; decide, by rw [withCore_core]; decide,
    by rw [stands, withCore_core]; decide, by rw [withCore_core]; decide, by rw [withCore_core]; decide⟩

theorem witness_StemSemaphores : let s := withCore (regsAt addrs)
    s.regsFree [2, 5] [] ∧ s.plain (after s [.reg 2, .reg 5]) ∧ (s.core s.cur).hardAt 0x1FFFF8 4 = false ∧
      (s.core s.cur).stem.stq = [] ∧ (s.core s.cur).stem.ratoms = [] ∧
      (s.core s.cur).banksFree 0x1FFFF8 4 = true ∧ stands s 0x1FFFF8 4 < ((s.core s.cur).src (.reg 5)).toNat % 2 ^ 32 ∧
      ((s.core s.cur).src (.reg 1)).toNat % 2 ^ 32 ≤ stands s 0x1FFFF8 4 :=
  ⟨(withRegs _).1 .., (withRegs _).2 1 (by decide), by rw [withCore_core]; decide, by rw [withCore_core]; rfl,
    by rw [withCore_core]; rfl, by rw [withCore_core]; decide,
    by rw [stands, withCore_core]; decide, by rw [stands, withCore_core]; decide⟩

theorem witness_StemSemaphores_overflow : let s := withCore fun k =>
      { regsAt [(5, 0xFFFFFFFF)] k with scratch := memPut [] 0 (leBytes 4 1) }
    s.regsFree [2, 5] [] ∧ 2 ^ 32 ≤ stands s 0 4 + ((s.core s.cur).src (.reg 5)).toNat % 2 ^ 32 :=
  ⟨withCore_free _ rfl rfl .., by rw [stands, withCore_core]; decide⟩

theorem witness_StemWaiting : let s := withCore (regsAt [(2, 0xFFFF)])
    s.plain (after s [.reg 2]) ∧ s.regsFree [2] [] ∧ s.regsFree [] [1] ∧ (s.core s.cur).mat.pwait = none ∧
      (s.core s.cur).mat.psig = none ∧ s.coreWanted s.cur = false ∧ (s.nestOf s.cur).any Nest.coresident = false :=
  ⟨(withRegs _).2 1 (by decide), (withRegs _).1 .., (withRegs _).1 .., by rw [withCore_core]; rfl,
    by rw [withCore_core]; rfl, by rw [State.coreWanted, withCore_core]; rfl, by rw [State.nestOf, withCore_core]; rfl⟩

/-- A grain of record 0. -/
def grain0 : Grain := ⟨0, 0, #v[0, 0, 0, 0], 0, false, false, 64, 0, 0, 0, 0⟩

/-- The nest record of one level and one grain on core 0, in the first 128 bytes of a scratchpad. -/
def nestBytes : Mem := [(2, 1), (16, 1)]
def nestBits : BitVec 1024 := 1 <<< 16 ||| 1 <<< 128

set_option exponentiation.threshold 1100 in
theorem witness_StemWaiting_barrier :
    let s := withAll (fun k => { k.setStem { k.stem with bars := [⟨0, .die, true⟩] } with grain := some grain0 })
      (fun p => { p with nests := [Nest.fresh 0 (nestBits ||| 1 <<< 29) 0 0 0 false false none none 64 0] }) []
    s.plain (after s [.reg 2]) ∧ s.regsFree [2] [] ∧ (s.nestOf s.cur).any Nest.coresident = true ∧
      (s.core s.cur).stem.bars.any (freed (((s.core s.cur).src (.reg 2)).setWidth 2) .die) = true :=
  ⟨withAll_plain _ _ _ rfl (by decide) 1 (by decide), withAll_free _ _ _ rfl rfl ..,
    by rw [State.nestOf, withAll_core]; decide, by rw [withAll_core]; decide⟩

theorem witness_StemWaita : let s := withCore (regsAt addrs)
    s.regsFree [2, 5, 1] [1] ∧ s.plain (after s [.reg 2, .reg 5]) ∧ ((s.core s.cur).src (.reg 2)).toNat % 8 = 0 ∧
      ((s.core s.cur).src (.reg 4)).toNat % 4 ≠ 0 ∧ (s.core s.cur).stem.waita = none :=
  ⟨(withRegs _).1 .., (withRegs _).2 1 (by decide), by rw [withCore_core]; decide, by rw [withCore_core]; decide,
    by rw [withCore_core]; rfl⟩

theorem witness_StemWaita_replied :
    let s := withCore fun k => k.setStem { k.stem with waita := some ⟨false, 0, 0, 0, 0, 0, .replied, none, none, 5⟩ }
    s.regsFree [2, 5, 1] [1] ∧ s.plain (after s [.reg 2, .reg 5]) ∧ ((s.core s.cur).src (.reg 2)).toNat % 4 = 0 ∧
      ∃ q, (s.core s.cur).stem.waita = some q ∧ q.phase = .replied :=
  ⟨withCore_free _ rfl rfl .., withCore_plain _ rfl (by decide) 1 (by decide),
    by rw [withCore_core]; decide, by rw [withCore_core]; exact ⟨_, rfl, rfl⟩⟩

theorem witness_StemToken : let s := withCore (regsAt [(2, 1), (3, 0x100000000000)])
    s.regsFree [4, 5, 0] [] ∧ s.plain (after s [.reg 4, .reg 5]) ∧ tokenFieldsZero 0 0 ∧ ¬tokenFieldsZero 1 0 ∧
      tokenFieldsZero 0 0x100000000000 ∧ (tokenOf s 0 1 0 0x100000000000).grant.getLsbD 0 = true ∧
      (s.core s.cur).full.get 0 = false ∧ (∀ i : Fin 4, (tokenOf s 0 1 0 0).grant.getLsbD i.val = false) ∧
      (s.core s.cur).stem.stq = [] ∧ (s.core s.cur).vec.queue.length < 64 :=
  ⟨(withRegs _).1 .., (withRegs _).2 1 (by decide), by unfold tokenFieldsZero; decide, by unfold tokenFieldsZero; decide,
    by unfold tokenFieldsZero; decide, by rw [tokenOf, withCore_core]; decide, by rw [withCore_core]; decide,
    by rw [tokenOf, withCore_core]; decide, by rw [withCore_core]; rfl, by rw [withCore_core]; decide⟩

def post0 : Post := ⟨0, false, false, 0, 0, 0, 0, false, 0, none, []⟩

theorem witness_StemPosts : let s := withCore (regsAt [(2, 0x1FFF80), (3, 0x200000), (4, 4)])
    s.regsFree [2, 4] [] ∧ s.plain (after s [.reg 2, .reg 4]) ∧ ((s.core s.cur).src (.reg 2)).toNat % 128 = 0 ∧
      (s.core s.cur).hardAt 0x1FFF80 128 = false ∧ ((s.core s.cur).src (.reg 4)).toNat % 128 ≠ 0 ∧
      ((s.core s.cur).src (.reg 4)).toNat % 4 = 0 ∧ (s.core s.cur).posts.length < 32 ∧ (s.core s.cur).stem.stq = [] :=
  ⟨(withRegs _).1 .., (withRegs _).2 1 (by decide), by rw [withCore_core]; decide, by rw [withCore_core]; decide,
    by rw [withCore_core]; decide, by rw [withCore_core]; decide, by rw [withCore_core]; decide, by rw [withCore_core]; rfl⟩

theorem witness_StemPosts_full : let s := withCore fun k => { k with posts := List.replicate 32 post0 }
    s.regsFree [2, 4] [] ∧ 32 ≤ (s.core s.cur).posts.length :=
  ⟨withCore_free _ rfl rfl .., by rw [withCore_core]; decide⟩

theorem resetLanes (l : LinkId) (up : Bool) : (Package.reset.link l up).lanes ≠ 0 := by
  simp only [Package.link, Package.reset, resetLinks, Vector.get_eq_getElem, Vector.getElem_ofFn, LinkDir.reset]
  split <;> decide

theorem witness_StemRatom : let s := withCore (regsAt addrs)
    s.regsFree [2, 5, 1] [1] ∧ s.plain (after s [.reg 2, .reg 5]) ∧ ((s.core s.cur).src (.reg 2)).toNat % 8 = 0 ∧
      ((s.core s.cur).src (.reg 5)).toNat % 4 ≠ 0 ∧ (s.core s.cur).stem.ratoms.length < 8 ∧
      (s.core s.cur).stem.stq = [] ∧ (s.pkg.link (crownLink (dieOf s.cur) (s.pkg.moduleOf s.cur)) true).lanes ≠ 0 :=
  ⟨(withRegs _).1 .., (withRegs _).2 1 (by decide), by rw [withCore_core]; decide, by rw [withCore_core]; decide,
    by rw [withCore_core]; decide, by rw [withCore_core]; rfl, resetLanes _ _⟩

theorem reset_noFill : Core.reset.anyFilling = false := by
  show (Vector.replicate 256 Probe.empty).toList.any _ = false
  rw [Vector.toList_replicate, List.any_replicate]
  rfl

theorem set_noFill (p : Probe) (h : p.state ≠ .filling) :
    ((Vector.replicate 256 Probe.empty).set 0 p).toList.any (fun q => q.state == .filling) = false := by
  rw [Vector.toList_set, Vector.toList_replicate]
  refine List.any_eq_false.2 fun x hx => ?_
  rcases List.mem_or_eq_of_mem_set hx with h1 | h1
  · rw [List.eq_of_mem_replicate h1]; decide
  · rw [h1]; simpa using h

/-- A core whose probe cache is on and holds block 0. -/
def probing (k : Core) : Core :=
  { k.setStem { k.stem with pwindow := 1 } with probes := k.probes.set 0 ⟨0, 0, .valid, false⟩ }

theorem witness_StemSlots : let s := withCore probing
    s.plain (after s [.reg 2]) ∧ s.regsFree [2] [1] ∧ (s.core s.cur).stem.pwindow.getLsbD 0 = true ∧
      holdsFirst (s.core s.cur) 0 0 ∧ (s.core s.cur).anyFilling = false ∧
      slotBase (s.core s.cur) 0 ≤ ((s.core s.cur).src (.reg 2)).toNat :=
  ⟨withCore_plain _ rfl (by decide) 1 (by decide), withCore_free _ rfl rfl ..,
    by rw [withCore_core]; decide,
    by rw [withCore_core]; exact ⟨⟨by decide, by decide, rfl⟩, fun j h => absurd h (by simp)⟩,
    by rw [withCore_core]; exact set_noFill _ (by decide), by rw [withCore_core]; decide⟩

theorem witness_StemSlots_miss : let s := withCore fun k => regsAt [(2, 0x800)] (probing k)
    s.plain (after s [.reg 2]) ∧ s.regsFree [2] [1] ∧ (s.core s.cur).probeVictim = some 0 ∧
      ∀ i, ¬holds (s.core s.cur) 0x800 i := by
  refine ⟨withCore_plain _ rfl (by decide) 1 (by decide), withCore_free _ rfl rfl ..,
    by rw [withCore_core]; decide, fun i h => ?_⟩
  rw [withCore_core] at h
  by_cases hi : i = 0
  · subst hi; exact absurd h.2.1 (by decide)
  · refine h.1 ?_
    show (((Vector.replicate 256 Probe.empty).set 0 ⟨0, 0, .valid, false⟩).get i).state = _
    have : ¬(0 = i.val) := fun e => hi (Fin.ext e.symm)
    simp [Vector.get_eq_getElem, this, Probe.empty]

theorem witness_StemSystem : let s := withCore (regsAt [(2, 8), (3, 0x7FFFFFFFFFFFFFFF), (4, 0x7A480)])
    s.regsFree [2] [1] ∧ s.plain (after s [.reg 2]) ∧ supervisor s = true ∧ statusSstep ((s.core s.cur).src (.reg 2)) = false ∧
      (s.core s.cur).enginesIdle = true ∧ (s.core s.cur).anyFilling = false ∧ gfmtOk ((s.core s.cur).src (.reg 2)) = true ∧
      fmtOk ((s.core s.cur).src (.reg 4)) = true ∧ gfmtOk ((s.core s.cur).src (.reg 3)) = false ∧
      fmtOk ((s.core s.cur).src (.reg 3)) = false :=
  ⟨(withRegs _).1 .., (withRegs _).2 1 (by decide), by rw [supervisor, withCore_core]; decide, by rw [withCore_core]; decide,
    by rw [withCore_core]; decide, by rw [withCore_core]; exact reset_noFill, by rw [withCore_core]; decide,
    by rw [withCore_core]; decide, by rw [withCore_core]; decide, by rw [withCore_core]; decide⟩

theorem witness_StemSystem_user : let s := withCore fun k => k.setStem { k.stem with status := 0x80 }
    s.regsFree [2] [1] ∧ s.plain (after s []) ∧ supervisor s = false :=
  ⟨withCore_free _ rfl rfl .., withCore_plain _ rfl (by decide) 1 (by decide),
    by rw [supervisor, withCore_core]; decide⟩

theorem witness_StemTrapReturn : let s := withCore fun k => k.setStem { k.stem with trappc := 0xFFFC }
    s.regsFree [] [] ∧ supervisor s = true ∧ steps s = false ∧ (s.core s.cur).stem.trappc.toNat ≤ 0xFFFC ∧
      (s.core s.cur).stem.trappc.toNat % 4 = 0 :=
  ⟨withCore_free _ rfl rfl .., by rw [supervisor, withCore_core]; decide, by rw [steps, withCore_core]; decide,
    by rw [withCore_core]; decide, by rw [withCore_core]; decide⟩

set_option maxRecDepth 20000 in
set_option exponentiation.threshold 1100 in
theorem witness_StemLaunchEnd :
    let s := withAll (fun k => { k with scratch := nestBytes, grain := some grain0 }) mapCtx ctxBytes
    s.regsFree [2] [] ∧ s.plain (after s [.reg 2]) ∧ (s.core s.cur).grain = some grain0 ∧
      BitVec.ofNat 1024 (stands s 0 128) = nestBits ∧ (s.core s.cur).hardAt 0 128 = false ∧
      (s.core s.cur).stem.stq = [] ∧ (s.core s.cur).posts = [] ∧ s.pkg.nestOk nestBits = true ∧
      s.pkg.rangeInVf 0 nestBits = true ∧ s.ctxEntry 0 ≠ none ∧
      s.pkg.poolRoom (dieOf s.cur) grain0.child = true ∧ (s.core s.cur).enginesIdle = true ∧
      (s.core s.cur).stem.ratoms = [] ∧ supervisor s = true :=
  ⟨withAll_free _ _ _ rfl rfl .., withAll_plain _ _ _ rfl (by decide) 1 (by decide),
    by rw [withAll_core], by rw [stands, withAll_core]; decide, by rw [withAll_core]; decide, by rw [withAll_core]; rfl,
    by rw [withAll_core]; rfl, by decide, by decide, by decide, by decide, by rw [withAll_core]; decide,
    by rw [withAll_core]; rfl, by rw [supervisor, withAll_core]; decide⟩

theorem witness_MatrixIssue : let s := withCore (regsAt [(2, 0x1F0000), (3, 0x200), (4, 0x80000 <<< 21), (5, 1 <<< 49)])
    s.regsFree [1, 2, 3, 4, 5] [] ∧ s.plain (after s [.reg 1, .reg 4, .reg 1]) ∧ (s.core s.cur).mat.pwait = none ∧
      (s.core s.cur).mat.psig = none ∧ (s.core s.cur).mat.queue.length + (s.core s.cur).mat.kept.length < 16 ∧
      ((s.core s.cur).src (.reg 2)).toNat = 0x1F0000 ∧ gfmtOk ((s.core s.cur).src (.reg 1)) = true ∧
      gfmtOk ((s.core s.cur).src (.reg 3)) = false ∧ mmaOk false (s.core s.cur) (.reg 1) (.reg 4) (.reg 1) 2 ∧
      mmaFields false 0 0 ((s.core s.cur).src (.reg 5)) 2 = false ∧ mmaFields false 0 0 0 2 = true :=
  ⟨(withRegs _).1 .., (withRegs _).2 1 (by decide), by rw [withCore_core]; rfl, by rw [withCore_core]; rfl,
    by rw [withCore_core]; decide, by rw [withCore_core]; decide, by rw [withCore_core]; decide,
    by rw [withCore_core]; decide, by rw [withCore_core, mmaOk]; decide, by rw [withCore_core]; decide, by decide⟩

theorem witness_StemTraps : let s := withCore fun k => k.setStem { k.stem with status := 0x91 }
    s.regsFree [] [1] ∧ after s [] < 0x10000 ∧ steps s = true :=
  ⟨withCore_free _ rfl rfl .., by rw [after, withCore_core]; decide, by rw [steps, withCore_core]; decide⟩

theorem witness_StemTraps_end : let s := withCore fun k => k.setStem { k.stem with pc := 0xFFFC }
    s.regsFree [] [] ∧ after s [] = 0x10000 :=
  ⟨withCore_free _ rfl rfl .., by rw [after, withCore_core]; decide⟩

/-! ### Witnesses: the vector engine -/

/-- A token of one iteration that runs out of a buffer of three words, its shape slots as they are after reset. -/
def run0 : Run :=
  { tok := ⟨0, 1, 0xFFFFFFFF, 0, 0, [], Core.reset.slots, 0⟩, iter := 0, buf := [0, 0, 0], bad := [], pos := 0,
    grant := 1, eop := false, pchk := false }

/-- Core 0 with that token and the engine's registers changed, in a shape of one position of 4 bytes. -/
def vecAt (f : Vec → Vec) (k : Core) : Core := k.setVec { f { k.vec with shape := 0, vm := k.vec.vm.set 0 1 } with run := some run0 }
def withVec (f : Vec → Vec) : State := withCore (vecAt f)

theorem withVec_core (f : Vec → Vec) : (withVec f).core (withVec f).cur = vecAt f Core.reset := withCore_core _
theorem withVec_run (f : Vec → Vec) : ((withVec f).core (withVec f).cur).vec.run = some run0 := by rw [withVec_core]; rfl

/-- The scalar registers at the ends of their ranges: E1 the last byte of the scratchpad, E2 past it, E3 off a word. -/
def scalars (v : Vec) : Vec := { v with e := #v[0, 0x1FFFFF, 0x200000, 0x1FFFFD, 0x1FFFFC, 0xFFFFFFFF, 0x10000, 0x3F800000] }

theorem witness_VectorFloating : let s := withVec scalars
    (s.core s.cur).vec.run = some run0 ∧ (view s run0).need .f32 = .ok 4 ∧ (view s run0).pendingHit [] = false :=
  ⟨withVec_run _, by rw [view, withVec_core]; rfl, by rw [view, withVec_core]; rfl⟩

theorem witness_VectorIntegers : let s := withVec scalars
    intTy .i32 = true ∧ (s.core s.cur).vec.run = some run0 ∧ (view s run0).need .i32 = .ok 4 ∧
      tyEw .f16 = some (1, 2) ∧ 1 ≠ (view s run0).ew ∧ tyEw .i64 = none :=
  ⟨rfl, withVec_run _, by rw [view, withVec_core]; rfl, rfl, by rw [view, withVec_core]; decide, rfl⟩

theorem witness_VectorConverting : let s := withVec scalars
    let x := view s run0
    (s.core s.cur).vec.run = some run0 ∧ x.need .f32 = .ok 4 ∧ Ty.isInt .i32 = true ∧ Ty.isInt .f32 = false ∧
      (Ty.f32 : Ty) ≠ .i64 ∧ x.count * 4 ≤ 4096 ∧ (x.fmts 0).kind ≠ 1 ∧ x.ew = 0 :=
  ⟨withVec_run _, by rw [view, withVec_core]; rfl, rfl, rfl, by decide, by rw [view, withVec_core]; decide,
    by rw [view, withVec_core]; decide, by rw [view, withVec_core]; rfl⟩

/-- A shape of 4,096 positions of one byte, too many for a conversion to 4 bytes, and an integer format entry. -/
theorem witness_VectorConverting_wide :
    let s := withCore fun k => vecAt (fun v => { v with shape := 0x8FFF }) (k.setStem { k.stem with fmt := k.stem.fmt.set 0 0x41 })
    let x := view s run0
    (s.core s.cur).vec.run = some run0 ∧ 4096 < x.count * 4 ∧ (x.fmts 1).kind ≠ 1 ∧ (x.fmts 0).kind = 1 :=
  ⟨by rw [withCore_core]; rfl, by rw [view, withCore_core]; decide, by rw [view, withCore_core]; decide,
    by rw [view, withCore_core]; decide⟩

theorem witness_VectorShaping : let s := withVec scalars
    let x := view s run0
    let v (n : Fin 8) := (x.scal (.reg n)).toNat
    (s.core s.cur).vec.run = some run0 ∧ v 0 < 2 ^ 16 ∧ shapeOk (x.scal (.reg 0)) = true ∧ v 6 = 2 ^ 16 ∧
      v 1 = 2 ^ 21 - 1 ∧ v 2 = 2 ^ 21 ∧ v 2 % 4 = 0 ∧ v 3 < 2 ^ 21 ∧ v 3 % 4 ≠ 0 ∧ v 4 < 2 ^ 21 ∧ v 4 % 4 = 0 ∧
      x.v.wlen.get 0 = 0 ∧ x.v.a.get 0 = 0 ∧ 2 ^ 21 < v 5 ∧ (x.scal (.reg 5)).toInt = -1 :=
  ⟨withVec_run _, by rw [view, withVec_core]; decide, by rw [view, withVec_core]; decide, by rw [view, withVec_core]; decide,
    by rw [view, withVec_core]; decide, by rw [view, withVec_core]; decide, by rw [view, withVec_core]; decide,
    by rw [view, withVec_core]; decide, by rw [view, withVec_core]; decide, by rw [view, withVec_core]; decide,
    by rw [view, withVec_core]; decide, by rw [view, withVec_core]; decide, by rw [view, withVec_core]; decide,
    by rw [view, withVec_core]; decide, by rw [view, withVec_core]; decide⟩

/-- A window of 64 bytes at the scratchpad's end with its pointer at its start, and one that passes the end. -/
def windows (v : Vec) : Vec :=
  { scalars v with
    a := v.a.set 1 0x1FFFC0
    wst := (v.wst.set 1 0x1FFFC0).set 2 0x1FFFC0
    wlen := (v.wlen.set 1 64).set 2 68 }

theorem witness_VectorShaping_windows : let s := withVec windows
    let x := view s run0
    (x.v.wlen.get 1).toNat ≠ 0 ∧ (x.v.wst.get 1).toNat + (x.v.wlen.get 1).toNat = 2 ^ 21 ∧ (x.v.wst.get 1).toNat ≤ (x.v.a.get 1).toNat ∧
      (x.v.a.get 1).toNat < (x.v.wst.get 1).toNat + (x.v.wlen.get 1).toNat ∧ (x.v.wlen.get 2).toNat ≠ 0 ∧
      2 ^ 21 < (x.v.wst.get 2).toNat + (x.v.wlen.get 2).toNat :=
  ⟨by rw [view, withVec_core]; decide, by rw [view, withVec_core]; decide, by rw [view, withVec_core]; decide,
    by rw [view, withVec_core]; decide, by rw [view, withVec_core]; decide, by rw [view, withVec_core]; decide⟩

set_option maxRecDepth 20000 in
set_option exponentiation.threshold 5000 in
theorem witness_VectorRearranging : let s := withCore fun k => { vecAt scalars k with full := k.full.set 0 true }
    let x := view s run0
    (s.core s.cur).vec.run = some run0 ∧ x.need .f32 = .ok 4 ∧ x.rows = x.cols ∧ x.cols % 2 ^ 0 = 0 ∧ x.cols % 2 ^ 1 ≠ 0 ∧
      x.scal (.lit 0x7F007F) &&& ~~~0x7F007F = 0 ∧ 127 + x.rows ≤ 128 ∧ 127 + x.cols ≤ 128 ∧
      x.scal (.lit 0x80) &&& ~~~0x7F007F ≠ 0 ∧ run0.grant.getLsbD 0 = true ∧ run0.grant.getLsbD 1 = false ∧
      (s.core s.cur).full.get 0 = true ∧ crc32c [0, 0, 0, 0] ≠ x.scal (.lit 0) ∧ x.pendingHit [] = false :=
  ⟨by rw [withCore_core]; rfl, by rw [view, withCore_core]; rfl, by rw [view, withCore_core]; rfl,
    by rw [view, withCore_core]; decide, by rw [view, withCore_core]; decide, by decide, by rw [view, withCore_core]; decide,
    by rw [view, withCore_core]; decide, by decide, by decide, by decide, by rw [withCore_core]; decide, by decide,
    by rw [view, withCore_core]; rfl⟩

set_option maxRecDepth 20000 in
set_option exponentiation.threshold 5000 in
theorem witness_VectorReductions : let s := withVec scalars
    (s.core s.cur).vec.run = some run0 ∧ (view s run0).need .f32 = .ok 4 ∧
      (∃ gs, (view s run0).groups .row ((view s run0).scal (.reg 0)) = .ok gs) ∧
      (∃ e, (view s run0).groups .sr ((view s run0).scal (.reg 0)) = .error e) :=
  ⟨withVec_run _, by rw [view, withVec_core]; rfl, by rw [view, withVec_core]; exact ⟨_, rfl⟩,
    by rw [view, withVec_core]; exact ⟨_, rfl⟩⟩

/-- Pointer 0 at the last word of the scratchpad, pointer 1 off a word. -/
def pointers (v : Vec) : Vec := { v with a := (v.a.set 0 0x1FFFFC).set 1 1 }

set_option maxRecDepth 20000 in
set_option exponentiation.threshold 5000 in
theorem witness_VectorLoads : let s := withVec pointers
    let x := view s run0
    (s.core s.cur).vec.run = some run0 ∧ x.need .f32 = .ok 4 ∧ x.v.svc = [] ∧ x.pendingHit [] = false ∧
      inScratch x 0 4 (x.strided false 4 0 (x.enabled 0 4)) none ∧ readable (s.core s.cur) [⟨0, 0x1FFFFC, none⟩] ∧
      (∃ e, x.resolve 1 4 (x.strided false 4 0 (x.enabled 0 4)) none = .error e) ∧
      ∃ l next, x.resolve 0 4 (x.strided false 4 0 (x.enabled 0 4)) none = .ok (l, next) := by
  refine ⟨withVec_run _, by rw [view, withVec_core]; rfl, by rw [view, withVec_core]; rfl, by rw [view, withVec_core]; rfl,
    by rw [view, withVec_core]; unfold inScratch; decide, by rw [withVec_core]; unfold readable; decide,
    by rw [view, withVec_core]; exact ⟨_, rfl⟩, by rw [view, withVec_core]; exact ⟨_, _, rfl⟩⟩

/-- A word of a load that its bank finds uncorrectable, the load having advanced pointer 0. -/
def badWord : Svc := ⟨0, 0, 0, .load 4 [⟨0, 0, none⟩], 0, some (0, 0, 4), false⟩

theorem witness_VectorLoads_bad :
    let s := withCore fun k => { vecAt (fun v => { v with svc := [badWord], a := v.a.set 0 4 }) k with eccHard := [0] }
    (s.core 0).vec.svc = badWord :: [] ∧ badWord.op.reads = true ∧ badWord.told = false ∧
      (s.core 0).hardAt badWord.word 4 = true ∧ (s.core 0).vec.a.get 0 = 4 :=
  ⟨by rw [withCore_core0]; rfl, rfl, rfl, by rw [withCore_core0]; decide, by rw [withCore_core0]; decide⟩

set_option maxRecDepth 20000 in
set_option exponentiation.threshold 5000 in
theorem witness_VectorStores : let s := withVec pointers
    let x := view s run0
    (s.core s.cur).vec.run = some run0 ∧ x.need .f32 = .ok 4 ∧ x.v.svc = [] ∧ x.pendingHit [] = false ∧
      inScratch x 0 4 (x.strided false 4 0 (x.enabled 0 4)) none ∧
      statusShchk (s.core s.cur).stem.status = false ∧ (∃ l next, x.resolve 0 4 (x.strided false 4 0 (x.enabled 0 4)) none = .ok (l, next)) :=
  ⟨withVec_run _, by rw [view, withVec_core]; rfl, by rw [view, withVec_core]; rfl, by rw [view, withVec_core]; rfl,
    by rw [view, withVec_core]; unfold inScratch; decide, by rw [withVec_core]; decide,
    by rw [view, withVec_core]; exact ⟨_, _, rfl⟩⟩

/-- The same with a valid shape record over the last bytes and SHCHK set. -/
theorem witness_VectorStores_stale :
    let s := withCore fun k => { vecAt pointers (k.setStem { k.stem with status := 0xC1 }) with
      slots := Vector.replicate 4 ⟨0, 0x1FFF80, true⟩ }
    statusShchk (s.core s.cur).stem.status = true ∧ (s.core s.cur).inSlot 0x1FFFFC 4 = true :=
  ⟨by rw [withCore_core]; decide, by rw [withCore_core]; decide⟩

theorem witness_VectorLanding : let s := withVec scalars
    (s.core s.cur).vec.run = some run0 ∧ (oneCycle [] []).vec = id ∧ (oneCycle [] []).state = id ∧
      ByTime (view s run0).v.pend ∧ (0 : Nat) < VTarget.width (.e 0) ∧ ([(0, 5)].map (·.1) : List Nat).Nodup ∧
      ∀ q ∈ ([(0, 5)] : List (Nat × Nat)), q.1 < (view s run0).count := by
  refine ⟨withVec_run _, rfl, rfl, ?_, by decide, by decide, ?_⟩
  · rw [view, withVec_core]; exact List.Pairwise.nil
  · rw [view, withVec_core]; decide

theorem issues_of {s : State} {r : Run} {i : Instr} {words : Nat} (f : VX → VRes VEff) {e : VEff}
    (hr : (s.core s.cur).vec.run = some r) (hi : exec i s = vecRun words s f) (hf : f (view s r) = .ok e)
    (hl : e.late = none) : issues s r i words e := by
  have h : f ⟨s.core s.cur, (s.core s.cur).vec.retire (s.core s.cur).vec.next, r, (s.core s.cur).vec.next⟩ = .ok e := hf
  constructor <;> intro hp <;> rw [hi] <;> unfold vecRun <;> dsimp only <;> rw [hr] <;> dsimp only <;> rw [h] <;>
    dsimp only
  · exact (if_neg (show ¬ (view s r).pendingHit e.reads = true by rw [hp]; decide)).trans (by rw [hl]; rfl)
  · exact if_pos hp

/-- A load or a store whose checks pass issues. -/
theorem vldb_issues {s : State} {r : Run} {d : Reg} {l : List VPlace} (hr : (s.core s.cur).vec.run = some r)
    (hn : (view s r).need .f32 = .ok 4)
    (hl : (view s r).resolve 0 4 ((view s r).strided false 4 0 ((view s r).enabled 0 4)) none = .ok (l, none)) :
    issues s r (.vldb d 0 0 .f32) 1 ((view s r).load d 4 4 0 ((view s r).rdMask 0 4) l none) := by
  refine issues_of _ hr (by show execVldb d 0 0 .f32 s = _; unfold execVldb rowLoad; rfl) ?_ rfl
  dsimp only
  rw [hn]
  show (do let r ← VX.resolve _ 0 4 (VX.strided _ false 4 0 _) none; _) = (.ok _ : VRes VEff)
  rw [hl]
  rfl

theorem vst_issues {s : State} {r : Run} {l : List VPlace} {e : VEff} (hr : (s.core s.cur).vec.run = some r)
    (hn : (view s r).need .f32 = .ok 4)
    (hl : (view s r).resolve 0 4 ((view s r).strided false 4 0 ((view s r).enabled 0 4)) none = .ok (l, none))
    (he : (view s r).store 4 4 0 ((view s r).rdSrc (.reg 1) 32 4 ++ (view s r).rdMask 0 4 ++ rdScal (.lit 0))
      ((view s r).src (.reg 1) 32 4) l none = .ok e) (h0 : e.late = none) :
    issues s r (.vst (.reg 1) 0 (.lit 0) 0 .f32 0) 2 e := by
  refine issues_of _ hr (by show execVst (.reg 1) 0 (.lit 0) 0 .f32 0 s = _; unfold execVst; rfl) ?_ h0
  dsimp only
  rw [hn]
  show (do let r ← VX.resolve _ 0 4 (VX.strided _ false 4 0 _) none; _) = _
  rw [hl]
  exact he

set_option maxRecDepth 20000 in
set_option exponentiation.threshold 5000 in
theorem witness_VectorFrame : let s := withVec pointers
    (s.core s.cur).vec.run ≠ none ∧ (issues s run0 .vnop 1 (actsOn [] id) ∧ (actsOn [] id).state = id ∧
      ∃ t, exec .vnop s = .next t) ∧
    (∃ l reads, issues s run0 (.vldb 1 0 0 .f32) 1 ((view s run0).load 1 4 4 0 reads l none) ∧
      ∃ t, exec (.vldb 1 0 0 .f32) s = .next t) ∧
    ∃ l reads data e, (view s run0).store 4 4 0 reads data l none = .ok e ∧
      issues s run0 (.vst (.reg 1) 0 (.lit 0) 0 .f32 0) 2 e ∧ ∃ t, exec (.vst (.reg 1) 0 (.lit 0) 0 .f32 0) s = .next t := by
  have hr : ((withVec pointers).core (withVec pointers).cur).vec.run = some run0 := withVec_run _
  have run {i words e} (h : issues (withVec pointers) run0 i words e) : ∃ t, exec i (withVec pointers) = .next t := by
    cases hp : (view (withVec pointers) run0).pendingHit e.reads with
    | false => exact ⟨_, h.1 hp⟩
    | true => exact ⟨_, h.2 hp⟩
  have h1 : issues (withVec pointers) run0 .vnop 1 (actsOn [] id) := issues_of (fun _ => .ok (actsOn [] id)) hr rfl rfl rfl
  have hn : (view (withVec pointers) run0).need .f32 = .ok 4 := by rw [view, withVec_core]; rfl
  obtain ⟨l, hl⟩ : ∃ l, (view (withVec pointers) run0).resolve 0 4 ((view (withVec pointers) run0).strided false 4 0
      ((view (withVec pointers) run0).enabled 0 4)) none = .ok (l, none) := by rw [view, withVec_core]; exact ⟨_, rfl⟩
  have h0 : statusShchk (view (withVec pointers) run0).c.stem.status = false := by
    show statusShchk ((withVec pointers).core (withVec pointers).cur).stem.status = false
    rw [withVec_core]; decide
  have h2 := vldb_issues (d := 1) hr hn hl
  refine ⟨by rw [hr]; simp, ⟨h1, rfl, run h1⟩, ⟨l, _, h2, run h2⟩, ?_⟩
  have he : ∃ e, (view (withVec pointers) run0).store 4 4 0 ((view (withVec pointers) run0).rdSrc (.reg 1) 32 4 ++
      (view (withVec pointers) run0).rdMask 0 4 ++ rdScal (.lit 0)) ((view (withVec pointers) run0).src (.reg 1) 32 4) l none = .ok e ∧
      e.late = none := by
    unfold VX.store; rw [h0]; exact ⟨_, rfl, rfl⟩
  obtain ⟨e, he, h3⟩ := he
  have h4 := vst_issues hr hn hl he h3
  exact ⟨l, _, _, e, he, h4, run h4⟩

/-! ### Witnesses: the sequencers -/

/-- The machine after reset with runner die 0 changed, and sequencer 0 of it, which is the current one, running. -/
def withDie (f : Seqr → Seqr) (g : Runner → Runner) : State :=
  State.reset.setRunner 0 { g Runner.reset with seqs := Runner.reset.seqs.set 0 { f Seqr.reset with running := true } }

theorem withDie_runner (f : Seqr → Seqr) (g : Runner → Runner) : (withDie f g).runner 0 =
    { g Runner.reset with seqs := Runner.reset.seqs.set 0 { f Seqr.reset with running := true } } := State.setRunner_runner ..

theorem withDie_seqr (f : Seqr → Seqr) (g : Runner → Runner) :
    (withDie f g).curSeqr = { f Seqr.reset with running := true } := by
  show ((withDie f g).runner 0).seqs.get 0 = _
  rw [withDie_runner]
  exact vget_set Runner.reset.seqs 0 _

/-- The g registers of a sequencer set as listed. -/
def gAt (l : List (Reg × Word)) (q : Seqr) : Seqr :=
  { q with g := l.foldl (fun g p => g.set p.1.val p.2 p.1.isLt) q.g }

theorem witness_PercoAlu : intWidth .i8 = some 8 ∧ intWidth .i64 = some 64 ∧ intWidth .f32 = none := ⟨rfl, rfl, rfl⟩

theorem witness_PercoStore : let s := withDie (gAt [(1, 0x3FF8)]) id
    pAddr s (.reg 1) 3 0 = 0x3FF8 ∧ pAddr s (.reg 1) 3 1 = 0 ∧ pSound s 0x3FF8 8 :=
  ⟨by rw [pAddr, withDie_seqr]; decide, by rw [pAddr, withDie_seqr]; decide, by rw [pSound, withDie_seqr]; decide⟩

theorem witness_PercoStore_bad : let s := withDie (fun q => { q with storeBad := [0x3FF8] }) id
    ¬pSound s 0x3FF8 8 ∧ ∀ w ∈ s.curSeqr.storeBad, 0x3FF8 + nBytes 3 ≤ w ∨ w + 8 ≤ 0x3FF8 ∨
      0x3FF8 ≤ w ∧ w + 8 ≤ 0x3FF8 + nBytes 3 :=
  ⟨by rw [pSound, withDie_seqr]; decide, by rw [withDie_seqr]; decide⟩

theorem witness_PercoControl : let s := withDie (gAt [(1, 1), (2, 2)]) id
    let q := s.curSeqr
    q.src (.reg 1) ≠ q.src (.reg 2) ∧ (q.src (.reg 1)).toInt < (q.src (.reg 2)).toInt ∧ q.rets = [] ∧ q.loops.length < 2 ∧
      (q.src (.reg 1)).setWidth 32 ≠ 0#32 ∧ (q.src (.reg 3)).setWidth 32 = 0#32 ∧ q.pc.toNat + 4 < q.pc.toNat + 8 ∧
      (q.pc.toNat : Int) + 8 < 2 ^ 64 :=
  ⟨by rw [withDie_seqr]; decide, by rw [withDie_seqr]; decide, by rw [withDie_seqr]; rfl, by rw [withDie_seqr]; decide,
    by rw [withDie_seqr]; decide, by rw [withDie_seqr]; decide, by rw [withDie_seqr]; decide, by rw [withDie_seqr]; decide⟩

/-- A sequencer with full stacks: 8 returns, and two loops that end at 8, the inner one in its last iteration. -/
def deep (q : Seqr) : Seqr := { q with rets := List.replicate 8 4, loops := [⟨4, 8⟩, ⟨4, 8⟩], lc := #v[2, 1] }

theorem witness_PercoControl_deep : let s := withDie deep id
    let q := s.curSeqr
    8 ≤ q.rets.length ∧ q.rets = 4 :: List.replicate 7 4 ∧ q.loops.length = 2 ∧ q.loops = ⟨4, 8⟩ :: [⟨4, 8⟩] ∧
      q.lc[1].toNat ≤ 1 ∧ 1 < q.lc[0].toNat ∧ (8 : Word).toNat = (⟨4, 8⟩ : Loop).fin ∧ ¬(4 ≤ (12 : Word).toNat ∧ (12 : Word).toNat ≤ 8) :=
  ⟨by rw [withDie_seqr]; decide, by rw [withDie_seqr]; decide, by rw [withDie_seqr]; decide, by rw [withDie_seqr]; decide,
    by simp only [withDie_seqr]; decide, by simp only [withDie_seqr]; decide, by decide, by decide⟩

theorem witness_PercoFrame : let s := withDie id id
    ∃ t, exec .percoNop s = .next t ∧ t.curSeqr.running = true ∧ t.curSeqr.susp = none := by
  refine ⟨_, rfl, ?_, ?_⟩ <;> decide

/-- Runner die 0 with context 0 mapped: a table of context entries in main memory, and a cached leaf of page 0 onto the
scratchpad of core 0. -/
def leaf0 : TlbEntry := ⟨0, 0, 4096, 0, true, 0, 0xF⟩
def mapped (f : Seqr → Seqr) (g : Runner → Runner) : State :=
  { (withDie f fun r => { g r with tlb := [leaf0] }).modPkg mapCtx with mem := ctxBytes }

theorem mapped_seqr (f : Seqr → Seqr) (g : Runner → Runner) : (mapped f g).curSeqr = { f Seqr.reset with running := true } :=
  withDie_seqr f fun r => { g r with tlb := [leaf0] }

set_option maxRecDepth 20000 in
theorem witness_PercoFaults : let s := mapped id id
    (∃ e, s.ctxEntry (s.seqr 0 0).tag.ctx = some e ∧ s.fqFull e = false) ∧ (s.runner 0).suspended < 512 ∧
      causeLogged .pagePermission = false := by
  refine ⟨⟨_, rfl, by decide⟩, by decide, rfl⟩

set_option maxRecDepth 20000 in
/-- Sources at word 0 of the page: a user program needs a leaf with U. -/
theorem witness_PercoSync : let s := mapped (gAt [(2, 1), (3, 0xFFFFFFFF), (4, 1)]) id
    let t : Target := ⟨0, true, 0, 0⟩
    s.curSeqr.wait = none ∧ homeIs s (s.curSeqr.src (.reg 1)) .combine t s ∧ homeIs s (s.curSeqr.src (.reg 1)) .read t s ∧
      s.homeFree t 64 = true ∧ s.homeFree t 4 = true ∧ s.homeReadBad t 4 = none ∧ s.homeWriteBad t 4 = none ∧ released s ∧ ¬sameWordAhead s t ∧
      (s.curSeqr.src (.reg 1)).toNat % 64 = 0 ∧ (s.curSeqr.src (.reg 4)).toNat % 4 ≠ 0 ∧
      leNat (s.homeBytes t 4) < ((s.curSeqr.src (.reg 2)).setWidth 32).toNat ∧
      leNat (s.homeBytes t 4) + ((s.curSeqr.src (.reg 3)).setWidth 32).toNat < 2 ^ 32 := by
  refine ⟨by rw [mapped_seqr]; rfl, .inl ⟨leaf0, ⟨by decide, by decide, by decide, by decide, by decide, by decide⟩, by decide, rfl⟩,
    .inl ⟨leaf0, ⟨by decide, by decide, by decide, by decide, by decide, by decide⟩, by decide, rfl⟩, by decide, by decide, by decide, by decide,
    ?_, ?_, by decide, by decide, by decide, by decide⟩
  · intro b h
    exact absurd h (by rw [show (State.runner _ _).boxes = [] from rfl]; simp)
  · rintro ⟨p, h, -⟩
    exact absurd h (by rw [show (State.runner _ _).posted = [] from rfl]; simp)

set_option maxRecDepth 20000 in
/-- An earlier box that has not written, and an earlier remote atomic on the same word. -/
theorem witness_PercoSync_held :
    let s := mapped id fun r => { r with
      boxes := [Box.fresh 0 0 0 Tag.blank (.prog 0 0) none [] []]
      posted := [⟨0, 0, Tag.blank, 0, 4, 0, 0, 0, ⟨0, true, 0, 0⟩, false, none⟩] }
    ¬released s ∧ sameWordAhead s ⟨0, true, 0, 0⟩ ∧ s.curSeqr.wait = none := by
  refine ⟨fun h => ?_, ⟨_, List.mem_singleton.2 rfl, by decide, by decide, by decide, by decide, by decide⟩, by decide⟩
  exact absurd (h _ (List.mem_singleton.2 rfl) (by decide)) (by decide)

/-- A copy of 64 bytes within the runner's space, and a record of one rank and one point with it as template. -/
def copyBox : Desc := rawCopy 0x1000 0x2000 64
def copyRec : Rec := copyBox.setWidth 2048 <<< 1024 ||| 1 <<< 256 ||| 1 <<< 64 ||| 1 <<< 32
def withStore (n : Nat) (v : Nat) : State := mapped (fun q => { q with store := memPut [] 0 (leBytes n v) }) id

set_option maxRecDepth 50000 in
set_option exponentiation.threshold 2100 in
theorem witness_PercoMoves : let s := withStore 128 copyBox.toNat
    s.curSeqr.wait = none ∧ structAt s 0 128 ∧ BitVec.ofNat 1024 (memNat s.curSeqr.store 0 128) = copyBox ∧ bxKind copyBox = 1 ∧
      accepted s (.seq 0) 0 copyBox [] ∧ (s.runner 0).queued < 256 ∧ (127 : Word).toNat % 128 ≠ 0 := by
  refine ⟨by decide, ⟨by decide, by decide, ?_⟩, ?_, by decide, ⟨by decide, by decide, by decide, by decide, by decide, by decide⟩, by decide, by decide⟩
  · unfold pSound; decide
  · decide

set_option maxRecDepth 50000 in
set_option exponentiation.threshold 2100 in
theorem witness_PercoMoves_nest : let s := withStore 256 copyRec.toNat
    s.curSeqr.wait = none ∧ structAt s 0 256 ∧ BitVec.ofNat 2048 (memNat s.curSeqr.store 0 256) = copyRec ∧ rcOk copyRec = true ∧
      accepted s .walker 0 (rcTemplate copyRec) [] ∧ ((s.runner 0).instOf 0 (rcSeq copyRec)).isSome = false ∧
      (s.runner 0).insts.length < 16 := by
  refine ⟨by decide, ⟨by decide, by decide, ?_⟩, ?_, by decide, ⟨by decide, by decide, by decide, by decide, by decide, by decide⟩, by decide, by decide⟩
  · unfold pSound; decide
  · decide

set_option maxRecDepth 20000 in
theorem witness_PercoSystem : let s := mapped (fun q => gAt [(1, 7), (2, 0x1000)] { q with tag := { q.tag with sup := true } }) id
    let q := s.curSeqr
    q.tag.sup = true ∧ q.wait = none ∧ (s.runner 0).tlb.filter (fun x => x.ctx == 0 && decide (x.base ≤ 0) && decide (0 < x.base + x.size)) = [leaf0] ∧
      s.work ((q.src (.reg 1)).setWidth 32) = none ∧ s.pkg.kills = [] ∧ (s.lookup 0 0 0x1000 matches .bad _) = true ∧
      (s.lookup 0 1 0 matches .noCtx) = true :=
  ⟨by decide, by decide, by decide, by decide, by decide, by decide, by decide⟩

set_option maxRecDepth 20000 in
/-- The program of sequencer 1 suspended under record 7. -/
theorem witness_PercoSystem_work :
    let s := State.reset.modSeq 0 1 fun q => { q with running := true, susp := some 7 }
    s.work 7 = some (.prog 0 1) ∧ ((0 : DieId) ≠ s.curDie ∨ (1 : Fin 16) ≠ s.curSeq) ∧ s.curSeqr.tag.sup = false :=
  ⟨rfl, by decide, by decide⟩

/-! ### Witnesses: the engines of a core -/

def tok0 : Token := ⟨0, 1, 0, 0, 0, [], Vector.replicate 4 Slot.empty, 0⟩
def fault0 : EngFault := ⟨.eccUncorrectable, 0x40, 0, 7⟩

/-- A core whose grain runs, with its vector engine changed. -/
def running (f : Core → Core) : State := withCore fun k => f { k with phase := .running }

set_option maxRecDepth 20000 in
set_option exponentiation.threshold 2100 in
theorem witness_CoreEvents :
    (let k := (running fun k => k.setVec { k.vec with queue := [tok0] }).core 0;
      k.vec.queue = tok0 :: [] ∧ k.phase = .running ∧ k.vec.run = none ∧ k.vec.clear = true ∧ k.vec.ecc = [] ∧
        (∀ q ∈ k.vec.svc, k.vec.tokenCycle tok0 ≤ q.time) ∧ tok0.trip ≠ 0) ∧
    (let k := (running fun k => k.setVec { k.vec with ecc := [fault0] }).core 0;
      earliestFault k.vec.ecc = some fault0 ∧ k.vec.held = none ∧ k.vec.taken = false ∧ k.vec.found = none) ∧
    (let k := (running fun k => k.setVec { k.vec with found := some fault0 }).core 0;
      k.vec.found = some fault0 ∧ k.vec.svc = [] ∧ k.vec.eccDue = false) ∧
    (let k := (running fun k => k.setVec { k.vec with held := some fault0 }).core 0;
      k.nextFault = some (.vector, fault0) ∧ k.mayTrap = true) ∧
    (let s := running fun k => { k with
        grain := some grain0
        stem := { k.stem with waitSince := some 0 } };
      let u := { s with cycles := Vector.replicate 4 70000 };
      (u.core 0).stem.waitSince = some 0 ∧ (u.core 0).grain = some grain0 ∧ (u.core 0).phase = .running ∧
        statusWdog (u.core 0).stem.status = true ∧ grain0.wdog ≠ 0 ∧
        1024 * grain0.wdog.toNat < u.cycles.get (dieOf 0) - (0 : Word).toNat) ∧
    (let s := running fun k => { k with bankq := [⟨0, 0, Tag.blank, .credit, 0, leBytes 4 1, 0, none, false⟩] };
      (headAt 0 [] (s.core 0).bankq).isSome = true) ∧
    (8 ∈ ((running fun k => { k with eccFix := [8] }).core 0).eccFix) := by
  refine ⟨⟨?_, ?_, ?_, ?_, ?_, ?_, ?_⟩, ⟨?_, ?_, ?_, ?_⟩, ⟨?_, ?_, ?_⟩, ⟨?_, ?_⟩, ⟨?_, ?_, ?_, ?_, ?_, ?_⟩, ?_, ?_⟩ <;> decide

/-- A core with a WAITA and a remote atomic, whose word is at the start of the page of `leaf0`. -/
def waiting (p : MsgPhase) : State :=
  { (((running fun k => k.setStem { k.stem with
        waita := some ⟨false, 0, 0, 5, 0, 0, p, none, none, 0⟩
        ratoms := [⟨3, 0, false, 8, 1, 0, Tag.blank, 5, .atHome, some ⟨0, true, 0, 8⟩, none, 0, 0⟩,
          ⟨1, 0, false, 16, 1, 0, Tag.blank, 6, .replied, some ⟨0, true, 0, 16⟩, none, 9, 0⟩] }).modPkg mapCtx).setRunner 0
          { Runner.reset with tlb := [{ leaf0 with perms := 0xF }] }) with mem := ctxBytes }

set_option maxRecDepth 20000 in
theorem witness_CoreEvents_waita :
    (∃ q, ((waiting .replying).core 0).stem.waita = some q ∧ q.phase = .replying) ∧
    (let s := { (waiting .atHome).modRunner 0 (addWatch ⟨⟨0, true, 0, 0⟩, false, 0, 0, 0, 0, 0, 0, 0, 0, 0⟩) with
        cycles := Vector.replicate 4 9 };
      ∃ q, (s.core 0).stem.waita = some q ∧ q.phase = .atHome ∧ q.timeout ≠ 0 ∧
        q.timeout.toNat ≤ (BitVec.ofNat 64 (s.cycles.get (dieOf 0)) - q.sent).toNat ∧
        s.dies.toList.any (fun r => r.watches.any (watchOf s 0)) = true) ∧
    (let s := waiting .travelling;
      let t : Target := ⟨0, true, 0, 0⟩;
      ∃ q, (s.core 0).stem.waita = some q ∧ q.phase = .travelling ∧ (s.core 0).watchWaits q = false ∧
        s.translate 0 (s.coreTag 0) q.va.toNat .read = .ok t s ∧ s.isLocal t = true ∧ s.homeReadBad t 4 = none ∧
        BitVec.ofNat 64 (leNat (s.homeBytes t 4)) = q.expected ∧ (s.runner (s.watchDie t)).watches.length < 2048) := by
  refine ⟨⟨_, rfl, rfl⟩, ⟨_, rfl, ?_, ?_, ?_, ?_⟩, ⟨_, rfl, ?_, ?_, rfl, ?_, ?_, ?_, ?_⟩⟩ <;> decide

set_option maxRecDepth 20000 in
theorem witness_CoreEvents_ratom : let s := waiting .travelling
    (∃ r t, (s.ratomsOf 0)[0]? = some r ∧ r.target = some t ∧ r.phase = .atHome ∧ s.isLocal t = true ∧
      ratomFirst (s.ratomsOf 0) r = true ∧ s.homeFree t 4 = true ∧ s.pkg.killed.contains r.tag.ctx = false ∧
      (s.atomicAt t 4 r.op r.b r.c matches .ok _) = true) ∧
    (∃ r, (s.core 0).stem.ratoms[1]? = some r ∧ r.phase = .replied) := by
  refine ⟨⟨_, _, rfl, rfl, ?_, ?_, ?_, ?_, ?_, ?_⟩, ⟨_, rfl, ?_⟩⟩ <;> decide

/-- A matrix queue with one entry. -/
def matHead (e : MEntry) (p : MPhase) (f : Core → Core) : State :=
  running fun k => f { k with mat := { k.mat with queue := [e], phase := p } }

def entry0 (c : MCmd) (w g : Option Prefix) : MEntry := ⟨c, 0, w, g, Vector.replicate 4 Slot.empty, ⟨8, 0x7A480, 8, 0x7A480⟩⟩

theorem witness_MatrixEvents :
    (let k := (matHead (entry0 (.mclr 0) none none) .waiting id).core 0;
      k.mat.queue = entry0 (.mclr 0) none none :: [] ∧ k.matMayStart = true) ∧
    (let p : Prefix := ⟨64, 0, .core⟩;
      let k := (matHead (entry0 (.mclr 0) (some p) none) .waiting id).core 0;
      k.hardAt p.addr 4 = false ∧ p.count = 0 ∧ p.count.toNat ≤ k.read p.addr 4 ∧ k.matMayStart = true) ∧
    (let p : Prefix := ⟨64, 1, .core⟩;
      let k := (matHead (entry0 (.mclr 0) (some p) none) .waiting id).core 0;
      k.hardAt p.addr 4 = false ∧ k.banksFree p.addr 4 = true ∧ k.read p.addr 4 < p.count.toNat) ∧
    (((matHead (entry0 (.mclr 0) (some ⟨64, 0, .core⟩) none) .waiting fun k => { k with eccHard := [64] }).core 0).hardAt 64 4 = true) ∧
    matGoes (matHead (entry0 (.mclr 0) none none) .signal id) 0 (entry0 (.mclr 0) none none) [] .signal ∧
    matGoes (matHead (entry0 (.memit 1 0 true) none none) (.chunks 0) id) 0 (entry0 (.memit 1 0 true) none none) [] (.chunks 0) ∧
    ((matHead (entry0 (.memit 1 0 true) none none) (.chunks 0) id).core 0).full.get 1 = false ∧
    (entry0 (.mclr 0) none none).sig = none ∧ Core.reset.hardAt 0 65536 = false := by
  refine ⟨⟨rfl, ?_⟩, ⟨?_, ?_, ?_, ?_⟩, ⟨?_, ?_, ?_⟩, ?_, ⟨rfl, rfl, ?_⟩, ⟨rfl, rfl, ?_⟩, ?_, ?_, ?_⟩ <;> decide

/-- An MMA of tile 0 and mould 0 on operands of format preset 0. -/
def mma0 (mods : BitVec 6) (size : Word) : MEntry :=
  ⟨.mma false 0 0 size mods, 0, none, none, Vector.replicate 4 Slot.empty, ⟨0, 0x7A480, 0, 0x7A480⟩⟩

set_option maxRecDepth 20000 in
/-- With 129 elements a row it goes on after chunk 0, with one it goes to its signal, and a strike finds its mould. -/
theorem witness_MatrixEvents_chunks :
    (let e := mma0 0 0x810101;
      let s := matHead e (.chunks 0) id;
      matGoes s 0 e [] (.chunks 0) ∧ (s.core 0).phase = .running ∧ e.cmd.mould = some 0 ∧
        ∃ j, mJob e (s.core 0).mat.rowMask (s.core 0).mat.bounds = some j ∧ j.bad (s.core 0) [] 0 = none ∧
          ((s.core 0).chunkDone j [] 0).mat.phase = .chunks 1) ∧
    (let e := mma0 0 0x010101;
      ∃ j, mJob e 0 [] = some j ∧ (Core.reset.chunkDone j [] 0).mat.phase = .signal) ∧
    (let e := mma0 2 0x810101;
      let s := matHead e (.emit 1 [] 1) id;
      matGoes s 0 e [] (.emit 1 [] 1) ∧ (s.core 0).full.get 1 = false ∧
        ∃ j, mJob e (s.core 0).mat.rowMask (s.core 0).mat.bounds = some j ∧ j.marksOnly = false ∧ mChunk j.mods = true ∧
          1 < j.chunks) := by
  refine ⟨⟨⟨rfl, rfl, ?_⟩, ?_, ?_, _, rfl, ?_, ?_⟩, ⟨_, rfl, ?_⟩, ⟨⟨rfl, rfl, ?_⟩, ?_, _, rfl, ?_, ?_, ?_⟩⟩ <;> decide

/-! ### Witnesses: the runner dies -/

/-- A box of core 0 for the copy above, not yet started; and the same running. -/
def box0 : Box := Box.fresh 0 0 copyBox Tag.blank (.core 0) none [] []
def boxRuns (p : BoxPart) : State :=
  mapped id fun r => { r with boxes := [{ box0 with state := .running, checked := true, part := p }] }
def start0 : Start := ⟨0, 5, 6, Tag.blank, false, none⟩
def record0 : FaultRec := ⟨0, 0, 0, 0, true, .boxInvalid, 0, 0, 0, 0, 0, 0, 0⟩
def post1 (isBox : Bool) : Post := ⟨0, false, isBox, copyBox, 0, 0, 0, false, 0, none, []⟩

set_option maxRecDepth 20000 in
set_option exponentiation.threshold 2100 in
theorem witness_RunnerEvents_programs :
    (let s := mapped id fun r => { r with startq := [start0] };
      (s.runner 0).startq = start0 :: [] ∧ (s.runner 0).idleSeq start0.services = some 1 ∧
        s.pkg.draining start0.tag.ctx = false ∧ (s.ctxEntry start0.tag.ctx).isSome = true ∧ start0.entry.toNat % 4 = 0) ∧
    (let s := mapped (fun q => { q with waitSince := some 0 }) fun r => { r with cycle := 70000000 };
      (s.seqr 0 0).waitSince = some 0 ∧ (s.seqr 0 0).running = true ∧ (s.seqr 0 0).susp = none ∧
        ((s.seqr 0 0).wdog.setWidth 32).toNat ≠ 0 ∧ 1024 * ((s.seqr 0 0).wdog.setWidth 32).toNat < (s.runner 0).cycle - 0) ∧
    (let s := (mapped id id).modCore 0 fun k => { k with posts := [post1 false] };
      ((s.core 0).posts.find? fun p => p.hi == false) = some (post1 false) ∧ (s.postDie 0 false).isSome = true ∧
        s.pkg.draining 0 = false ∧ (post1 false).isBox = false ∧ (s.runner 0).startq.length < 64) ∧
    (let s := (mapped id id).modCore 0 fun k => { k with posts := [post1 true] };
      ((s.core 0).posts.find? fun p => p.hi == false) = some (post1 true) ∧ (post1 true).isBox = true ∧
        (s.runner 0).queued < 256 ∧ (s.ctxEntry 0).isSome = true ∧ (s.boxCheck 0 (.xfer 0) 0 copyBox matches .ok _) = true) := by
  refine ⟨⟨rfl, ?_, ?_, ?_, ?_⟩, ⟨?_, ?_, ?_, ?_, ?_⟩, ⟨?_, ?_, ?_, ?_, ?_⟩, ⟨?_, ?_, ?_, ?_, ?_⟩⟩ <;> decide

set_option maxRecDepth 20000 in
set_option exponentiation.threshold 2100 in
theorem witness_RunnerEvents_boxes :
    (let s := mapped id fun r => { r with boxes := [box0] };
      (s.runner 0).box 0 = some box0 ∧ box0.state = .queued ∧ (s.runner 0).engines < 64 ∧ s.boxMayStart 0 box0 = true ∧
        box0.checked = false ∧ bxCount copyBox ≠ 0 ∧ bxPack copyBox = false ∧ bxKind copyBox ≠ 6) ∧
    (∃ x, ((boxRuns .elements).runner 0).box 0 = some x ∧ x.state = .running ∧ x.checked = true ∧ x.outs = 0 ∧
      x.part = .elements ∧ bxKind x.desc ≠ 2 ∧ bxKind x.desc ≠ 3 ∧ ((boxRuns .elements).elemReady 0 x matches .error _) = true) ∧
    (∃ x, ((boxRuns .credit).runner 0).box 0 = some x ∧ x.state = .running ∧ x.part = .credit ∧ x.outs = 0 ∧ bxCredit x.desc = 0) := by
  refine ⟨⟨?_, ?_, ?_, ?_, ?_, ?_, ?_, ?_⟩, ⟨_, rfl, ?_, ?_, ?_, ?_, ?_, ?_, ?_⟩, ⟨_, rfl, ?_, ?_, ?_, ?_⟩⟩ <;> decide

/-- An instance of one point, before its box. -/
def inst0 (st : Nat) : Inst := ⟨4, copyRec, Tag.blank, 0, none, 0, 3, st, 0, 0, none⟩

set_option maxRecDepth 50000 in
set_option exponentiation.threshold 2100 in
theorem witness_RunnerEvents_instances :
    (let s := mapped id fun r => { r with overflow := [record0] };
      (s.runner 0).overflow = [] ++ record0 :: [] ∧ ∃ e, s.ctxEntry record0.ctx = some e ∧ s.fqFull e = false) ∧
    (let s := mapped id fun r => { r with insts := [inst0 1] };
      (s.runner 0).insts[0]? = some (inst0 1) ∧ (inst0 1).point < rcTotal copyRec ∧ (s.runner 0).queued < 256 ∧
        (s.readVa 0 Tag.blank (rcRanktab copyRec + BitVec.ofNat 64 (8 * rcPeer copyRec 0)) 8 matches .bytes _ _) = true ∧
        (s.boxCheck 0 .walker 0 (rcBox copyRec 0 0).1 matches .ok _) = true) := by
  refine ⟨⟨rfl, _, rfl, ?_⟩, ⟨rfl, ?_, ?_, ?_, ?_⟩⟩ <;> decide

/-- The header of a dual-backed buffer, clean, with nothing published. -/
def headBytes : Mem := memPut [] 0 (leBytes 64 0)
def kill0 (st : KillStage) : Kill := ⟨0, 0, 5, 0, 0, .prog, st, [], [], false⟩

set_option maxRecDepth 50000 in
set_option exponentiation.threshold 2100 in
theorem witness_RunnerEvents_waits :
    (let t : Target := ⟨0, true, 0, 0⟩;
      let s := mapped (fun q => { q with wait := some (.flip t 1 0) }) id;
      (s.seqr 0 0).wait = some (.flip t 1 0) ∧ (s.seqr 0 0).running = true ∧ (s.seqr 0 0).susp = none ∧
        s.homeFree t 64 = true ∧ (s.header t matches .unfit) = true) ∧
    (let s := (mapped id id).modPkg fun p => { p with kills := [kill0 .halting] };
      (s.pkg.kills.filter fun k => k.die == 0 && k.seqn == 0) = [kill0 .halting] ∧ ∀ c g, (s.core c).grain = some g → g.ctx ≠ 5) ∧
    (let s := (mapped id id).modPkg fun p => { p with kills := [kill0 .rounds] };
      (s.pkg.kills.filter fun k => k.die == 0 && k.seqn == 0) = [kill0 .rounds] ∧
        (kill0 .rounds).rounds.all (s.outcomeIn 5) = true) ∧
    (let s := (mapped id id).modPkg fun p => { p with kills := [kill0 .draining] };
      (s.pkg.kills.filter fun k => k.die == 0 && k.seqn == 0) = [kill0 .draining] ∧ (kill0 .draining).toSend = []) ∧
    (let q : HomeReq := ⟨0, 0, Tag.blank, .credit, 0, leBytes 4 1, 0, some 9, false⟩;
      let s := mapped id fun r => { r with hbmq := [q], cycle := 10 };
      (s.runner 0).hbmq[0]? = some q ∧ s.servable (s.runner 0).cycle (s.runner 0).hbmq 0 = true ∧ 9 < (s.runner 0).cycle) ∧
    (let f : Fill := ⟨0, 0, 0, Tag.blank, false, none⟩;
      let t : Target := ⟨0, true, 0, 0⟩;
      let s := mapped id fun r => { r with fills := [f] };
      (s.runner 0).fills[0]? = some f ∧ f.susp = none ∧ (s.runner 0).engines < 64 ∧ s.pkg.draining 0 = false ∧
        (∃ u, (s.modFill 0 0 fun f => some { f with run := true }).translate 0 f.tag 0 .read = .ok t u ∧ u.isLocal t = true ∧
          u.reaches 0 t = true ∧ u.homeFree t 2048 = true ∧ u.homeReadBad t 2048 = none ∧
          (u.core 0).banksFree ((u.core 0).slotBase 0) 2048 = true)) := by
  refine ⟨⟨?_, ?_, ?_, ?_, ?_⟩, ⟨?_, ?_⟩, ⟨?_, ?_⟩, ⟨?_, ?_⟩, ⟨rfl, ?_, ?_⟩, ⟨rfl, rfl, ?_, ?_, _, rfl, ?_, ?_, ?_, ?_, ?_⟩⟩ <;> decide

/-! ### Witnesses: the scheduler -/

def slot0 : QSlot := { QSlot.reset with mapped := true, look := true }
def nest0 (st : NestState) : Nest := ⟨0, 1 <<< 16 ||| 1 <<< 128, 0, 0, false, false, none, some 0, 64, 0, 3, st, 0, 0, false, none, []⟩

/-- The mapped machine with its package changed. -/
def scheduling (g : Package → Package) (f : Core → Core) : State := ((mapped id id).modPkg g).modCore 0 f

/-- A context entry beside a write index of 1 in the queue descriptor at 0. -/
def queueBytes : Mem := (0x18, 1) :: ctxBytes

set_option maxRecDepth 50000 in
set_option exponentiation.threshold 2100 in
theorem witness_SchedulerEvents_queue :
    (let s := scheduling (fun p => { p with slots := p.slots.set 0 slot0 }) id;
      (s.pkg.slots.get 0) = slot0 ∧ slot0.mapped = true ∧ slot0.dead = false ∧ s.pkg.dying (descCtx slot0.desc) = false ∧
        s.pkg.held 0 < 16 ∧ s.memBad (slot0.phys + 0x10) 4 = false ∧ s.memBad (slot0.phys + 0x18) 4 = false ∧
        memW32 s.mem (slot0.phys + 0x10) = memW32 s.mem (slot0.phys + 0x18)) ∧
    (let s := { scheduling (fun p => { p with slots := p.slots.set 0 slot0 }) id with mem := queueBytes };
      memW32 s.mem (slot0.phys + 0x10) ≠ memW32 s.mem (slot0.phys + 0x18) ∧
        (s.serviceRead ⟨descCtx slot0.desc, descVf slot0.desc, true, none⟩ 0 128 matches .ok _) = true) := by
  refine ⟨⟨?_, ?_, ?_, ?_, ?_, ?_, ?_, ?_⟩, ⟨?_, ?_⟩⟩ <;> decide

set_option maxRecDepth 50000 in
set_option exponentiation.threshold 2100 in
theorem witness_SchedulerEvents_records :
    (let s := scheduling (fun p => { p with nests := [nest0 .waiting] }) id;
      s.nest 0 = some (nest0 .waiting) ∧ (nest0 .waiting).state = .waiting ∧
        (nestWaits (nest0 .waiting).bits (nest0 .waiting).tag [0, 1, 2, 3] s matches .ok (_, true)) = true) ∧
    (let n := { nest0 .running with next := 1 };
      let s := scheduling (fun p => { p with nests := [n] }) id;
      s.nest 0 = some n ∧ s.coresOf 0 = [] ∧ n.saved = [] ∧ n.total ≤ n.next ∧ n.state ≠ .waiting ∧ s.pkg.dying n.ctx = false) ∧
    (let s := scheduling id id;
      s.offerOrder = []) ∧
    (let s := scheduling (fun p => { p with nests := [nest0 .ready] }) id;
      (s.offerOrder.findSome? fun n => (s.tryPlace n).map fun t => (n, t)).isSome = true) := by
  refine ⟨⟨?_, ?_, ?_⟩, ⟨?_, ?_, ?_, ?_, ?_, ?_⟩, ?_, ?_⟩ <;> decide

set_option maxRecDepth 50000 in
set_option exponentiation.threshold 2100 in
theorem witness_SchedulerEvents_grains :
    (let s := scheduling (fun p => { p with nests := [nest0 .running] }) fun k => { k with phase := .starting, grain := some grain0 };
      (s.core 0).grain = some grain0 ∧ s.nest grain0.nest = some (nest0 .running) ∧ (s.core 0).phase = .starting ∧
        (s.ctxEntry grain0.ctx).isSome = true ∧
        ∃ s1 si s2 vi, imageCopy (nest0 .running).tag (nestStext (nest0 .running).bits) (nestStlen (nest0 .running).bits)
          (nestReload (nest0 .running).bits) ((s.core 0).switchTo grain0.ctx).stext s = .ok (s1, si) ∧
          imageCopy (nest0 .running).tag (nestVtext (nest0 .running).bits) (nestVtlen (nest0 .running).bits)
            (nestReload (nest0 .running).bits) ((s.core 0).switchTo grain0.ctx).vtext s1 = .ok (s2, vi)) ∧
    (let s := (withCore fun k => { k with phase := .starting, grain := some grain0 }).modPkg fun p => { p with nests := [nest0 .running] };
      (s.core 0).grain = some grain0 ∧ s.nest grain0.nest = some (nest0 .running) ∧ s.ctxEntry grain0.ctx = none) ∧
    (let s := scheduling (fun p => { p with nests := [nest0 .running] }) fun k => { k with phase := .stopping, grain := some grain0 };
      (s.core 0).phase = .stopping ∧ (s.core 0).stem.stq = [] ∧ (s.core 0).vec.stopped = true ∧ (s.core 0).mat.stopped = true ∧
        (s.pkg.ending.find? fun e => e.1 == grain0.ctx) = none) ∧
    (let s := scheduling (fun p => { p with nests := [nest0 .running] }) fun k => { k with phase := .halted, grain := some grain0 };
      (s.core 0).phase = .halted ∧ s.fillsLanded 0 = true ∧ s.grainInsts grain0 = []) ∧
    (let s := scheduling (fun p => { p with nests := [nest0 .running] }) fun k => { k with phase := .restoring, grain := some grain0 };
      (s.core 0).phase = .restoring ∧ s.nest grain0.nest = some (nest0 .running) ∧ s.pkg.dying grain0.ctx = false) := by
  refine ⟨⟨?_, ?_, ?_, ?_, _, _, _, _, rfl, rfl⟩, ⟨?_, ?_, ?_⟩, ⟨?_, ?_, ?_, ?_, ?_⟩, ⟨?_, ?_, ?_⟩, ⟨?_, ?_, ?_⟩⟩ <;> decide

set_option maxRecDepth 50000 in
set_option exponentiation.threshold 2100 in
/-- A spill queue at 1 MiB with one entry, of context 0. -/
theorem witness_SchedulerEvents_spill :
    let s := scheduling (fun p => { p with childq := p.childq.set 0 0x100005, childidx := p.childidx.set 0 0x100000000 }) id
    s.pkg.spillLog 0 ≠ 0 ∧ (s.pkg.spillWr 0 ≠ s.pkg.spillRd 0) ∧ s.pkg.spillRd 0 ∉ s.pkg.spillGone.get 0 ∧ s.pkg.dying 0 = false ∧
      (s.ctxEntry 0).isSome = true ∧ s.pkg.poolRoom 0 false = true ∧
      s.memBad (s.pkg.spillBase 0 + 256 * ((s.pkg.spillRd 0).toNat % 2 ^ s.pkg.spillLog 0)) 256 = false := by
  refine ⟨?_, ?_, ?_, ?_, ?_, ?_, ?_⟩ <;> decide

theorem witness_SchedulerEvents_host : let s := scheduling (fun p => { p with memready := true }) id
    s.pkg.memready = true ∧ s.pkg.spillWr 0 = s.pkg.spillRd 0 ∧ s.pkg.slotFn 0 = 0 := by decide

/-- A leaf of 4 MiB at 8 MiB of main memory. -/
def leafR : TlbEntry := ⟨0, 0, 0x400000, 0, false, 0x800000, 0xF⟩

/-- A grain in a phase, with a saved grain of its record; the leaf is cached. -/
def paged (ph : Phase) (m : Mem) : State :=
  { (scheduling (fun p => { p with nests := [{ nest0 .running with
        saved := [⟨0, { Core.reset with grain := some grain0 }, .preempt, 0, [], []⟩] }] })
      fun k => { k with phase := ph, grain := some grain0 }).modRunner 0 fun r =>
        { r with tlb := [leafR] } with mem := m }

/-- Where the page cached gives a byte its place, within main memory. -/
theorem leafR_addr (va n : Nat) (h : va + n ≤ 0x400000) : (leafR.target va).addr + n ≤ 0xC00000 := by
  simp [TlbEntry.target, leafR]; omega

set_option maxRecDepth 50000 in
set_option exponentiation.threshold 2100 in
theorem paged_capacity (ph : Phase) (m : Mem) : (paged ph m).pkg.capacity = 0x8000000000 := by
  show (paged .idle []).pkg.capacity = _
  decide

set_option maxRecDepth 50000 in
set_option exponentiation.threshold 2100 in
theorem paged_translate (ph : Phase) (m : Mem) (tag : Tag) (hc : tag.ctx = 0) (hs : tag.sup = true) (va : Nat) (h : va < 0x400000)
    (acc : Access) (ha : acc = .read ∨ acc = .write) : (paged ph m).translate 0 tag va acc = .ok (leafR.target va) (paged ph m) := by
  have hf : ((paged ph m).runner 0).tlb.filter (fun e => e.holds 0 va) = [leafR] := by
    rw [show ((paged ph m).runner 0).tlb = [leafR] from rfl]
    simp [TlbEntry.holds, leafR]
    omega
  have hp : permOk leafR.perms tag.sup acc = true := by rw [hs]; obtain rfl | rfl := ha <;> decide
  have hn : ¬(paged ph m).pkg.capacity ≤ (leafR.target va).addr := by
    have := leafR_addr va 1 h
    rw [paged_capacity]; omega
  have hi : (paged ph m).modRunner 0 id = paged ph m := rfl
  simp only [State.translate, State.lookup, hc, hf, leafAccess, hp, show (leafR.target va).scratch = false from rfl, hn, hi]
  simp

theorem paged_local (ph : Phase) (m : Mem) (va : Nat) : (paged ph m).isLocal (leafR.target va) = true := by
  rw [State.isLocal, show (leafR.target va).pkg = 0 from rfl, show (paged ph m).pkg.pkgid = 0 from rfl]; decide

theorem paged_sound (ph : Phase) (m : Mem) (va n : Nat) (h : va + n ≤ 0x400000) :
    (paged ph m).homeReadBad (leafR.target va) n = none ∧ (paged ph m).homeWriteBad (leafR.target va) n = none := by
  have hn : ¬(paged ph m).pkg.capacity < (leafR.target va).addr + n := by
    have := leafR_addr va n h
    rw [paged_capacity]; omega
  constructor <;> simp [State.homeReadBad, State.homeWriteBad, State.memBad, State.memWriteBad, State.chanFailed, hn,
    show (leafR.target va).scratch = false from rfl, show (paged ph m).pkg.poison = [] from rfl,
    show (paged ph m).pkg.failedch = 0 from rfl]

theorem paged_read (ph : Phase) (m : Mem) (tag : Tag) (hc : tag.ctx = 0) (hs : tag.sup = true) (va n : Nat) (h : va + n ≤ 0x400000)
    (hn : 0 < n) : ∃ bs, (paged ph m).serviceRead tag va n = .ok (paged ph m, bs) := by
  simp only [State.serviceRead, paged_translate ph m tag hc hs va (by omega) .read (.inl rfl), paged_local,
    (paged_sound ph m va n h).1, if_true]
  exact ⟨_, rfl⟩

theorem paged_write (ph : Phase) (m : Mem) (tag : Tag) (hc : tag.ctx = 0) (hs : tag.sup = true) (va : Nat) (bs : List Byte)
    (h : va + bs.length ≤ 0x400000) (hv : va < 0x400000) : ∃ m', (paged ph m).serviceWrite tag va bs = .ok (paged ph m') := by
  simp only [State.serviceWrite, paged_translate ph m tag hc hs va hv .write (.inr rfl), paged_local,
    (paged_sound ph m va _ h).2, if_true]
  exact ⟨memPut m (leafR.target va).addr bs, rfl⟩

/-- The page borders of a piece of the record lie within the leaf. -/
abbrev fits (l : List (Nat × Nat)) : Bool := l.all fun p => decide (p.1 + p.2 ≤ 0x400000) && decide (0 < p.2)

theorem paged_image (ph : Phase) (m : Mem) (tag : Tag) (hc : tag.ctx = 0) (hs : tag.sup = true) :
    ∀ l : List (Nat × Nat), fits l = true → ∃ bs, readImage tag l (paged ph m) = .ok (paged ph m, bs)
  | [], _ => ⟨_, rfl⟩
  | p :: l, h => by
    simp only [fits, List.all_cons, Bool.and_eq_true, decide_eq_true_eq] at h
    obtain ⟨bs, h1⟩ := paged_read ph m tag hc hs p.1 p.2 h.1.1 h.1.2
    obtain ⟨cs, h2⟩ := paged_image ph m tag hc hs l h.2
    exact ⟨bs ++ cs, by simp [readImage, h1, h2, Except.map]⟩

theorem paged_readSections (ph : Phase) (m : Mem) (tag : Tag) (hc : tag.ctx = 0) (hs : tag.sup = true) (base : Nat) :
    ∀ l : List (Nat × Nat), (l.all fun o => fits (pagesOf (o.1 + base) o.2)) = true →
      ∃ bs, readSections tag base l (paged ph m) = .ok (paged ph m, bs) ∧ bs.length = l.length
  | [], _ => ⟨_, rfl, rfl⟩
  | o :: l, h => by
    simp only [List.all_cons, Bool.and_eq_true] at h
    obtain ⟨bs, h1⟩ := paged_image ph m tag hc hs _ (by simpa [fits] using h.1)
    obtain ⟨cs, h2, h3⟩ := paged_readSections ph m tag hc hs base l (by simpa [fits] using h.2)
    exact ⟨bs :: cs, by simp [readSections, h1, h2, bind, Except.bind, pure, Except.pure], by simp [h3]⟩

theorem paged_pages (ph : Phase) (tag : Tag) (hc : tag.ctx = 0) (hs : tag.sup = true) :
    ∀ (l : List (Nat × Nat)) (m : Mem) (bs : List Byte), fits l = true →
      ∃ m', writePages tag l bs (paged ph m) = .ok (paged ph m')
  | [], m, _, _ => ⟨m, rfl⟩
  | p :: l, m, bs, h => by
    simp only [fits, List.all_cons, Bool.and_eq_true, decide_eq_true_eq] at h
    obtain ⟨m1, h1⟩ := paged_write ph m tag hc hs p.1 (bs.take p.2) (by have := List.length_take_le p.2 bs; omega) (by omega)
    obtain ⟨m2, h2⟩ := paged_pages ph tag hc hs l m1 (bs.drop p.2) h.2
    exact ⟨m2, by simp [writePages, h1, h2, bind, Except.bind]⟩

theorem paged_writeSections (ph : Phase) (tag : Tag) (hc : tag.ctx = 0) (hs : tag.sup = true) (base : Nat) :
    ∀ (l : List (Nat × Nat × List Byte)) (m : Mem), (∀ o ∈ l, fits (pagesOf (o.1 + base) o.2.1) = true) →
      ∃ m', writeSections tag base l (paged ph m) = .ok (paged ph m')
  | [], m, _ => ⟨m, rfl⟩
  | o :: l, m, h => by
    obtain ⟨m1, h1⟩ := paged_pages ph tag hc hs _ m o.2.2 (h o (by simp))
    obtain ⟨m2, h2⟩ := paged_writeSections ph tag hc hs base l m1 fun x hx => h x (by simp [hx])
    exact ⟨m2, by simp [writeSections, h1, h2, bind, Except.bind]⟩

set_option maxRecDepth 50000 in
set_option exponentiation.threshold 2100 in
theorem witness_SchedulerEvents_restore : let s := paged .restoring ctxBytes
    ∃ n x t first regs tiles moulds imem seg scratch, s.nest grain0.nest = some n ∧
      (n.saved.find? fun x => x.core == 0 && x.state.grain.any fun h => h.num == grain0.num) = some x ∧
      readSections n.tag (saveAt grain0 0 0) [(0, 0x10000), (0x010000, 0x20000), (0x030000, 0x40000),
            (0x070000, 0x20000), (0x090000, 0x10000), (0x0A0000, 0x10000), (0x0B0000, 1024 * nestSaveKib n.bits)] s =
              .ok (t, [first, regs, tiles, moulds, imem, seg, scratch]) := by
  obtain ⟨bs, h1, h2⟩ := paged_readSections .restoring ctxBytes (nest0 .running).tag rfl rfl (saveAt grain0 0 0)
    [(0, 0x10000), (0x010000, 0x20000), (0x030000, 0x40000), (0x070000, 0x20000), (0x090000, 0x10000), (0x0A0000, 0x10000),
      (0x0B0000, 1024 * nestSaveKib (nest0 .running).bits)] (by decide +kernel)
  match bs, h2 with
  | [a, b, c, d, e, f, g], _ => exact ⟨_, _, _, a, b, c, d, e, f, g, rfl, rfl, h1⟩

set_option maxRecDepth 50000 in
set_option exponentiation.threshold 2100 in
theorem witness_SchedulerEvents_save : let s := paged .halted ctxBytes
    (s.core 0).phase = .halted ∧ s.fillsLanded 0 = true ∧ s.grainInsts grain0 = [] ∧
      ∃ n t, s.nest grain0.nest = some n ∧
        writeSections n.tag (saveAt grain0 0 0) (s.sections (s.core 0) (nestSaveKib n.bits)) s = .ok t := by
  obtain ⟨m, h⟩ := paged_writeSections .halted (nest0 .running).tag rfl rfl (saveAt grain0 0 0)
    ((paged .halted ctxBytes).sections ((paged .halted ctxBytes).core 0) (nestSaveKib (nest0 .running).bits)) ctxBytes (by
      intro o ho
      simp only [State.sections, List.mem_cons, List.not_mem_nil, or_false] at ho
      obtain rfl | rfl | rfl | rfl | rfl | rfl | rfl := ho <;> decide +kernel)
  exact ⟨by decide, by decide, by decide, _, _, rfl, h⟩

/-! ### Witnesses: links, windows, rounds, monitors -/

/-- Direction 0 of link 0 changed. -/
def withLink (f : LinkDir → LinkDir) : State := State.reset.setLink 0 true (f (LinkDir.reset 64))

theorem withLink_link (f : LinkDir → LinkDir) : (withLink f).pkg.link 0 true = f (LinkDir.reset 64) := vget_set _ _ _

set_option maxRecDepth 20000 in
theorem witness_LinkEvents_flits : let p : Packet := ⟨0, 0, false, none⟩
    (let x := (withLink fun x => { x with wire := [(0, p)] }).pkg.link 0 true;
      x.retrain = false ∧ x.lanes ≠ 0 ∧ x.wire = (0, p) :: [] ∧ x.naked ≠ some x.expected ∧ (0 : BitVec 12) = x.expected) ∧
    (let x := (withLink fun x => { x with wire := [(0, p)], naked := some 0 }).pkg.link 0 true;
      x.retrain = false ∧ x.lanes ≠ 0 ∧ x.naked = some x.expected) ∧
    (let x := (withLink fun x => { x with wire := [(4, p)], expected := 5 }).pkg.link 0 true;
      x.wire = (4, p) :: [] ∧ (4 : BitVec 12) ≠ x.expected ∧ fseqBelow 4 x.expected = true) ∧
    (let x := (withLink fun x => { x with wire := [(6, p)], expected := 5 }).pkg.link 0 true;
      x.wire = (6, p) :: [] ∧ (6 : BitVec 12) ≠ x.expected ∧ fseqBelow 6 x.expected = false) ∧
    (let s := withLink id;
      (s.pkg.link 0 true).retrain = false ∧ (s.pkg.link 0 true).lanes ≠ 0 ∧ (s.pkg.link 0 true).wire = [] ∧
        (s.pkg.link 0 false).back = [] ∧ (s.pkg.link 0 true).owed = false) ∧
    (let s := withLink fun x => { x with back := [.ack 0], owed := true };
      s.pkg.backOpen 0 true = true ∧ (s.pkg.link 0 true).back = .ack 0 :: [] ∧ (s.pkg.link 0 true).owed = true) ∧
    (let s := withLink fun x => { x with back := [.nak 0] };
      s.pkg.backOpen 0 true = true ∧ (s.pkg.link 0 true).back = .nak 0 :: [] ∧ (s.pkg.link 0 true).retrain = false) ∧
    (let s := withLink fun x => { x with retrain := true };
      s.pkg.backOpen 0 false = false) ∧
    (let s := { withLink fun x => { x with buf := [⟨0, p, 0⟩] } with cycles := Vector.replicate 4 70000 };
      (s.pkg.link 0 true).buf = ⟨0, p, 0⟩ :: [] ∧ (s.pkg.link 0 true).retrain = false ∧ (s.pkg.link 0 true).lanes ≠ 0 ∧
        0 + resendAfter 0 ≤ s.linkNow 0 true) ∧
    (let s := withLink fun x => { x with buf := [⟨0, p, 0⟩] };
      s.linkNow 0 true < 0 + resendAfter 0) := by
  refine ⟨⟨?_, ?_, ?_, ?_, ?_⟩, ⟨?_, ?_, ?_⟩, ⟨?_, ?_, ?_⟩, ⟨?_, ?_, ?_⟩, ⟨?_, ?_, ?_, ?_, ?_⟩, ⟨?_, ?_, ?_⟩, ⟨?_, ?_, ?_⟩, ?_, ⟨?_, ?_, ?_, ?_⟩, ?_⟩ <;> decide

set_option maxRecDepth 20000 in
/-- A retraining that keeps every lane, one that loses lane 3, one that loses a lane of each half. -/
theorem witness_LinkEvents_retrain :
    (let x := (withLink fun x => { x with retrain := true }).pkg.link 0 true;
      x.retrain = true ∧ lanesAfter 0 x.failing = x.lanes ∧ x.lanes ≠ 0) ∧
    (let x := (withLink fun x => { x with retrain := true, failing := 8 }).pkg.link 0 true;
      x.retrain = true ∧ lanesAfter 0 x.failing ≠ x.lanes ∧ lanesAfter 0 x.failing ≠ 0) ∧
    (let x := (withLink fun x => { x with retrain := true, failing := 0x100000008 }).pkg.link 0 true;
      x.retrain = true ∧ lanesAfter 0 x.failing = 0) := by
  refine ⟨⟨?_, ?_, ?_⟩, ⟨?_, ?_, ?_⟩, ⟨?_, ?_⟩⟩ <;> decide

/-- The pod's routing on, and windows of runner die 0. -/
def podded (src : List SrcWin) (far : List FarWin) (now : Nat) : State :=
  { State.reset.modPkg fun p => { p with yrbase := 1 } with
    dies := Vector.replicate 4 { Runner.reset with srcWins := src, farWins := far, cycle := now } }

def req0 (dst : BitVec 12) (ep : BitVec 8) (ws : W32) : FarReq := { (default : FarReq) with dst := dst, epoch := ep, wseq := ws, src := 7 }
def far0 (freed : Bool) (nak : Option Nat) : FarWin := ⟨7, 0, 2, 5, [], nak, freed⟩
def out0 : FarOut := ⟨3, .nobody, req0 9 0 3, 0⟩
def src0 (out : List FarOut) (closing : Option Nat) : SrcWin := ⟨9, 0, 4, out, 0, [], closing⟩

set_option maxRecDepth 20000 in
theorem witness_LinkEvents_far :
    (let s := podded [] [] 0;
      s.podOn = true ∧ (req0 8 0 0).dst.toNat ≠ s.pkg.pkgid.toNat ∧ (req0 0 0 0).dst.toNat = s.pkg.pkgid.toNat ∧
        (s.runner 0).farWin 7 0 = none) ∧
    (let s := podded [] [far0 false none] 0;
      let w := far0 false none;
      (s.runner 0).farWin 7 0 = some w ∧ (req0 0 2 5).epoch = w.epoch ∧ w.freed = false ∧ (req0 0 2 5).wseq = w.expected ∧
        wseqBelow (req0 0 2 4).wseq w.expected = true ∧ wseqBelow (req0 0 2 6).wseq w.expected = false ∧ w.lastNak = none ∧
        (req0 0 3 0).epoch ≠ w.epoch ∧ ((req0 0 3 0).epoch - w.epoch).toNat < 128 ∧
        (req0 0 1 0).epoch ≠ w.epoch ∧ 128 ≤ ((req0 0 1 0).epoch - w.epoch).toNat) ∧
    ((far0 true (some 9)).freed = true ∧ (far0 false (some 9)).lastNak = some 9) ∧ State.reset.podOn = false := by
  refine ⟨⟨?_, ?_, ?_, ?_⟩, ⟨?_, ?_, ?_, ?_, ?_, ?_, ?_, ?_, ?_, ?_, ?_⟩, ⟨?_, ?_⟩, ?_⟩ <;> decide

set_option maxRecDepth 20000 in
theorem witness_LinkEvents_source :
    (let s := podded [src0 [out0] none] [] 65536;
      let w := src0 [out0] none;
      (s.runner 0).win 9 = some w ∧ s.podOn = true ∧ w.closing = none ∧ w.out = out0 :: [] ∧
        out0.sent + retryLimit ≤ (s.runner 0).cycle ∧ (w.out.find? fun o => o.ws == 3) = some out0 ∧
        (w.out.find? fun o => o.ws == 4) = none ∧
        ({ w with tried := w.route :: w.tried } : SrcWin).nextRoute (s.liveRoutes 0 w.pkg) = none ∧
        ((s.modWin 0 9 fun w => { w with out := w.out.filter fun x => x.ws != 3, tried := [] }).tell 0 out0
          (farAnswer out0.req 0 false)).isSome = true) ∧
    (let w : SrcWin := ⟨9, 0, 4, [out0], 0, [], none⟩;
      ({ w with tried := w.route :: w.tried } : SrcWin).nextRoute [0, 1] = some 0) ∧
    (let s := podded [src0 [] none] [] 0;
      (s.runner 0).win 9 = some (src0 [] none) ∧ (src0 [] none).out = [] ∧ (src0 [] none).placed = true) ∧
    (let s := podded [src0 [out0] (some 0)] [] 320000;
      (s.runner 0).win 9 = some (src0 [out0] (some 0)) ∧ (src0 [out0] (some 0)).closing = some 0 ∧ 0 + closeLimit ≤ (s.runner 0).cycle) := by
  refine ⟨⟨?_, ?_, ?_, ?_, ?_, ?_, ?_, ?_, ?_⟩, ?_, ⟨?_, ?_, ?_⟩, ⟨?_, ?_, ?_⟩⟩ <;> decide

/-- An abort round of two ranks in context 0, whose headers stand at 0 and 8. -/
def round0 (replies : List (Nat × Bool)) (copies : List (Nat × W32)) (o : Nat) : AbortRound :=
  ⟨0, 3, 0, [0, 64], 0, 0, 0, replies, [], [], copies, [], o, []⟩
def rounding (r : AbortRound) (st : Nat) : State :=
  (mapped id fun q => { q with insts := [inst0 st] }).modPkg fun p => { p with rounds := [r] }

set_option maxRecDepth 50000 in
set_option exponentiation.threshold 2100 in
theorem witness_RoundEvents_open :
    (let s := mapped id id;
      (s.ctxEntry 0).isSome = true ∧ (s.pkg.round 0 3).isSome = false) ∧
    (let s := rounding (round0 [] [] 0) 1;
      let r := round0 [] [] 0;
      s.pkg.round 0 3 = some r ∧ r.outcome = 0 ∧ 1 < r.ranktab.length ∧ r.unreached.contains 1 = false ∧
        r.replies.any (fun p => p.1 == 1) = false ∧ s.pkg.killed.contains 0 = false ∧ s.settling r 1 = false ∧
        (∃ t u, s.translate 0 r.tag (r.header 1).toNat .combine = .ok t u ∧ u.isLocal t = true ∧ u.reaches 0 t = true ∧
          u.homeFree t 64 = true) ∧
        (s.runner 0).instOf 0 3 = some (inst0 1) ∧ (inst0 1).state = 1 ∧ r.settledAll = false) ∧
    (let r := round0 [(0, true), (1, false)] [] 0;
      (rounding r 2).pkg.round 0 3 = some r ∧ r.settledAll = true ∧ r.source = some 0 ∧ r.pending = [1]) := by
  refine ⟨⟨?_, ?_⟩, ⟨?_, ?_, ?_, ?_, ?_, ?_, ?_, ⟨_, _, rfl, ?_, ?_, ?_⟩, ?_, ?_, ?_⟩, ⟨?_, ?_, ?_, ?_⟩⟩ <;> decide

set_option maxRecDepth 50000 in
set_option exponentiation.threshold 2100 in
theorem witness_RoundEvents_close :
    (let r := round0 [(0, true), (1, false)] [] 2;
      let s := rounding r 2;
      s.pkg.round 0 3 = some r ∧ r.source = some 0 ∧ r.outcome = 2 ∧ r.pending.contains 1 = true ∧ s.flipping r 1 = false ∧
        r.copies.any (fun c => c.1 == 1) = false ∧ (s.runner 0).queued < 256 ∧
        s.outcomeDue 0 0 3 1 = true ∧ s.outcomeDue 0 0 3 0 = false ∧ (s.runner 0).instOf 0 3 = some (inst0 2) ∧ (inst0 2).state = 2) ∧
    (let r := round0 [(0, true), (1, false)] [(1, 77)] 2;
      let s := rounding r 2;
      r.copies.any (fun c => c.1 == 1) = true ∧ r.copies.any (fun c => c.1 == 1 && ((s.runner 0).box c.2).isSome) = false) ∧
    (let s := rounding (round0 [(0, true), (1, false)] [] 3) 4;
      s.outcomeDue 0 0 3 2 = true ∧ (s.runner 0).instOf 0 3 = some (inst0 4) ∧ (inst0 4).state = 4 ∧
        (s.runner 1).instOf 0 3 = none ∧ ((s.runner 1).past.find? fun p => p.ctx == 0 && p.seq == 3) = none ∧
        s.outcomeDue 1 0 3 2 = true) ∧
    (let s := rounding (round0 [(0, false), (1, false)] [] 1) 2;
      s.outcomeDue 0 0 3 0 = true ∧
        (((s.modRound 0 3 fun r => { r with told := 0 :: r.told }).endInst 0 (inst0 2) 3).abortRecord 0 0 3 0).isSome = true) := by
  refine ⟨⟨?_, ?_, ?_, ?_, ?_, ?_, ?_, ?_, ?_, ?_, ?_⟩, ⟨?_, ?_⟩, ⟨?_, ?_, ?_, ?_, ?_, ?_⟩, ⟨?_, ?_⟩⟩ <;> decide

set_option maxRecDepth 20000 in
theorem witness_MonitorEvents :
    (let s := State.reset.modPkg fun p => { p with counts := [(⟨0, 0, 0, true⟩, .testbarMismatch, 2)] };
      s.coreWorn ⟨0, 0, 0, true⟩ = some .testbarMismatch) ∧
    (let s := State.reset.modPkg fun p => { p with badRows := (List.range 64).map fun r => (0, r) };
      64 ≤ s.pkg.rowsOf 0) ∧
    (let s := State.reset.modPkg fun p => { p with temp := Vector.replicate 64 1680 };
      ∃ t ∈ s.pkg.dieTemps 0, 16 * 105 ≤ t ∧ s.pkg.hot.contains 0 = false) ∧
    (∀ t ∈ State.reset.pkg.dieTemps 0, t < 16 * 95) ∧ State.reset.pkg.memready = false ∧ State.reset.pkg.fwFailed = false ∧
      State.reset.pkg.livech = ~~~ State.reset.pkg.heart.checked.chans := by
  refine ⟨?_, ?_, ⟨1680, ?_, ?_, ?_⟩, ?_, ?_, ?_, ?_⟩ <;> decide

/-- A rail at its nominal voltage is good; at nominal 0 one millivolt, and at any other none, is bad. -/
theorem witness_MonitorEvents_rails (rail : Fin 32) :
    (State.reset.modPkg fun p => { p with volt := Vector.replicate 32 (Config.nominalMv rail) }).pkg.railBad rail = false ∧
    (State.reset.modPkg fun p => { p with volt := Vector.replicate 32 (if Config.nominalMv rail = 0 then 1 else 0) }).pkg.railBad rail =
      true := by
  have h (v : BitVec 16) : (State.reset.modPkg fun p => { p with volt := Vector.replicate 32 v }).pkg.railBad rail =
      (decide (((Config.nominalMv rail).toNat : Int) < 20 * (v.toNat - (Config.nominalMv rail).toNat)) ||
        decide (((Config.nominalMv rail).toNat : Int) < 20 * ((Config.nominalMv rail).toNat - v.toNat))) := by
    simp [Package.railBad, Vector.get]
  rw [h, h]
  constructor
  · simp
  · split <;> rename_i h0
    · simp [h0]
    · have : (Config.nominalMv rail).toNat ≠ 0 := fun hz => h0 (BitVec.eq_of_toNat_eq hz)
      simp
      omega

/-! ### Witnesses: the host, the decoder, the step -/

/-- Function 0 with queues, and a page mapped by a leaf, MEMREADY set. -/
def hosted (leaf : TlbEntry) (f : HostFn → HostFn) (m : Mem) : State :=
  { (((mapped id id).modRunner 0 fun r => { r with tlb := [leaf] }).modPkg fun p => { p with memready := true }).modFn 0 f with hostMem := m }

def ring (h : HostFn) : HostFn := { h with slog2n := 1 }

set_option maxRecDepth 50000 in
theorem witness_HostSubmissions_queues :
    (let s := hosted leaf0 ring [];
      s.pkg.queueAlive 0 = true ∧ (s.pkg.fns.get 0).accepted = none ∧ (s.pkg.fns.get 0).slog2n ≠ 0 ∧ (s.pkg.fns.get 0).heldc = [] ∧
        (1 : W32) = (s.pkg.fns.get 0).lastc + 1 ∧ s.pkg.fwFailed = false ∧
        ((s.subEntry (s.pkg.fns.get 0) 1).headD 0).setWidth 32 ≠ 1#32) ∧
    (let s := hosted leaf0 ring [(64, 1), (68, 2)];
      let ws := s.subEntry (s.pkg.fns.get 0) 1;
      (ws.headD 0).setWidth 32 = 1#32 ∧ s.pkg.refusal 0 ws = none) ∧
    (let s := hosted leaf0 ring [(64, 1), (68, 9)];
      let ws := s.subEntry (s.pkg.fns.get 0) 1;
      (ws.headD 0).setWidth 32 = 1#32 ∧ s.pkg.refusal 0 ws = some .queueInvalid) ∧
    (State.reset.modPkg fun p => { p with fwFailed := true }).pkg.queueAlive 1 = false := by
  refine ⟨⟨?_, ?_, ?_, ?_, ?_, ?_, ?_⟩, ⟨?_, ?_⟩, ⟨?_, ?_⟩, ?_⟩ <;> decide

/-- An accepted submission of an operation with three words. -/
def asking (op : Nat) (a b c : Word) (h : HostFn) : HostFn := { h with accepted := some [BitVec.ofNat 64 (op * 2 ^ 32 + 1), a, b, c] }

set_option maxRecDepth 50000 in
theorem witness_HostSubmissions_slots :
    (let s := hosted leafR (asking 1 0 0 0) [];
      s.pkg.memready = true ∧ (∃ ws, s.submitted 0 1 = some ws ∧ s.ownSlot 0 (subWord ws 1) = .ok 0 ∧
        s.ownCtx 0 (subWord ws 3) = .ok 0 ∧ ∃ t u, s.translate 0 ⟨0, 0, true, none⟩ (subWord ws 2).toNat .read = .ok t u ∧
          t.scratch = false ∧ s.isLocal t = true)) ∧
    (let s := hosted leaf0 (asking 1 0 0 0) [];
      ∃ ws t u, s.submitted 0 1 = some ws ∧ s.translate 0 ⟨0, 0, true, none⟩ (subWord ws 2).toNat .read = .ok t u ∧ t.scratch = true) ∧
    (let s := hosted { leaf0 with perms := 8 } (asking 1 0 0 0) [];
      ∃ ws, s.submitted 0 1 = some ws ∧ (s.translate 0 ⟨0, 0, true, none⟩ (subWord ws 2).toNat .read matches .bad .pagePermission) = true) ∧
    (let s := hosted leaf0 (asking 1 64 0 0) [];
      ∃ ws, s.submitted 0 1 = some ws ∧ s.ownSlot 0 (subWord ws 1) = .error .queueInvalid) ∧
    (let s := hosted leaf0 (asking 2 5 0 0) [];
      ∃ ws, s.submitted 0 2 = some ws ∧ s.ownSlot 0 (subWord ws 1) = .ok 5) := by
  refine ⟨⟨?_, _, rfl, rfl, rfl, _, _, rfl, ?_, ?_⟩, ⟨_, _, _, rfl, rfl, ?_⟩, ⟨_, rfl, ?_⟩, ⟨_, rfl, rfl⟩, ⟨_, rfl, rfl⟩⟩ <;> decide

set_option maxRecDepth 50000 in
theorem witness_HostSubmissions_contexts :
    (let s := hosted leaf0 (asking 3 0 0 0) [];
      ∃ ws pa, s.submitted 0 3 = some ws ∧ (subWord ws 1).toNat < 2 ^ 16 ∧ s.ctxPa ((subWord ws 1).setWidth 16) = some pa ∧
        s.memWriteBad pa 40 = false ∧ s.pkg.kills = []) ∧
    (let s := hosted leaf0 (asking 3 0x10000 0 0) [];
      ∃ ws, s.submitted 0 3 = some ws ∧ 2 ^ 16 ≤ (subWord ws 1).toNat) ∧
    (let s := hosted leaf0 (asking 4 0 0 0) [];
      ∃ ws, s.submitted 0 4 = some ws ∧ s.ownCtx 0 (subWord ws 1) = .ok 0 ∧ s.pkg.killing 0 = false ∧ s.pkg.kills = []) ∧
    (let s := hosted leaf0 (asking 4 0x10000 0 0) [];
      ∃ ws, s.submitted 0 4 = some ws ∧ s.ownCtx 0 (subWord ws 1) = .error .queueInvalid) := by
  refine ⟨⟨_, _, rfl, ?_, rfl, ?_, ?_⟩, ⟨_, rfl, ?_⟩, ⟨_, rfl, rfl, ?_, ?_⟩, ⟨_, rfl, rfl⟩⟩ <;> decide

set_option maxRecDepth 50000 in
theorem witness_HostSubmissions_package :
    (∃ ws, (hosted leaf0 (asking 5 0 0 0) []).submitted 0 5 = some ws) ∧
    (let s := hosted leaf0 (asking 6 1 16 0) [];
      ∃ ws, s.submitted 0 6 = some ws ∧ (subWord ws 1).toNat = (1 : Fin 4).val ∧ (subWord ws 2).toNat < 17 ∧
        (s.pkg.quarq.get 1).getLsbD (subWord ws 2).toNat = false) ∧
    (∃ ws, (hosted leaf0 (asking 6 1 17 0) []).submitted 0 6 = some ws ∧ 17 ≤ (subWord ws 2).toNat) ∧
    (∃ ws, (hosted leaf0 (asking 7 0 0 0) []).submitted 0 7 = some ws) ∧
    (∃ ws, (hosted leaf0 (asking 8 0 0x1000 0) []).submitted 0 8 = some ws ∧ 0 < (subWord ws 2).toNat ∧
      (subWord ws 2).toNat ≤ 2 ^ 25 ∧ (subWord ws 2).toNat % 4096 = 0) ∧
    (hosted leaf0 id []).submitted 0 1 = none := by
  refine ⟨⟨_, rfl⟩, ⟨_, rfl, ?_, ?_, ?_⟩, ⟨_, rfl, ?_⟩, ⟨_, rfl⟩, ⟨_, rfl, ?_, ?_, ?_⟩, ?_⟩ <;> decide

set_option maxRecDepth 50000 in
theorem witness_HostWindows :
    (let s := hosted leaf0 id [];
      s.pkg.memready = true ∧ 0 + 8 ≤ s.pkg.capacity ∧ s.memBad 0 8 = false ∧ s.memWriteBad 0 8 = false ∧
        s.pkg.capacity < 2 ^ 40 + 8 ∧ 2600 < (0xFFFF : Word).toNat % 65536 ∧ 1200 ≤ (0x500 : Word).toNat % 65536) ∧
    (let s := (hosted leaf0 id []).modPkg fun p => { p with poison := [0] };
      s.memBad 0 8 = true ∧ s.memWriteBad 0 8 = true) := by
  refine ⟨⟨?_, ?_, ?_, ?_, ?_, ?_, ?_⟩, ⟨?_, ?_⟩⟩ <;> decide

theorem witness_SpdmEvents : let s := State.reset.modPkg fun p => { p with spdm := ⟨0x12, true, [(4, false)], [], 0⟩ }
    s.pkg.spdm.algorithms = true ∧ (s.pkg.spdm.sessions.any fun x => x.1 == 4) = true ∧ State.reset.pkg.spdm.algorithms = false ∧
      (State.reset.pkg.spdm.sessions.any fun x => x.1 == 4) = false := by decide

theorem witness_UnassignedMajors : (0x00ABCDEF : W32).toNat / 2 ^ 26 = 0 ∧ (0xFCABCDEF : W32).toNat / 2 ^ 26 = 0x3F := by decide

theorem witness_StemRoundTrip : (Instr.add 5 (.reg 6) (.lit32 7) .i32).stream = some .stem ∧ (Instr.add 5 (.reg 6) (.lit32 7) .i32).wf = true := by
  decide
theorem witness_VectorRoundTrip : (Instr.vmopAnd 5 6 7).stream = some .vector ∧ (Instr.vmopAnd 5 6 7).wf = true := by decide
theorem witness_PercoRoundTrip : (Instr.percoJ 1).stream = some .perco ∧ (Instr.percoJ 1).wf = true := by decide
theorem witness_DecodeExact : decode .stem [0xA4000001] = .ok .halt 1 := by decide

/-- A stem that runs HALT at word 0, a segment buffer with VEND, and a program with HALT at address 0 of its page. -/
def halting (a : List Turn) : State :=
  { (mapped id id).modCore 0 fun k => { k with
      phase := .running
      imem := memPut [] 0 (leBytes 4 0xA4000001)
      scratch := memPut [] 0 (leBytes 4 0xC4000000)
      vec := { k.vec with run := some ⟨tok0, 0, [0xD8000000], [], 0, 0, false, false⟩ } } with agenda := a }

set_option maxRecDepth 50000 in
set_option exponentiation.threshold 2100 in
theorem witness_StepRuns :
    (let s := halting [.stem 0];
      (s.core 0).phase = .running ∧ s.pkg.monHalt = false ∧ (s.core 0).imemBad = [] ∧ (s.core 0).mayTrap = false ∧
        (decode .stem ((fetchAddrs (s.core 0).stem.pc.toNat).map (s.fetchWord (s.core 0))) = .ok .halt 1)) ∧
    (let s := halting [.vector 0];
      s.vecMay 0 = true ∧ (s.core 0).svcDue = false ∧ (s.core 0).vec.eccDue = false ∧ (s.core 0).vec.found = none ∧
        (s.core 0).vec.clear = true ∧ ∃ r, (s.core 0).vec.run = some r ∧ r.pos < r.buf.length ∧ r.bad = [] ∧
          decode .vector ((r.buf.drop r.pos).take 3) = .ok .vend 1) ∧
    (let s := halting [.seq 0 0];
      (s.seqr 0 0).running = true ∧ (s.seqr 0 0).susp = none ∧
        ∃ w t u, s.seqFetchWord 0 (s.seqr 0 0).tag (s.seqr 0 0).pc = .word w t ∧ decode .perco [w, 0, 0] = .ok .percoHalt 1 ∧
          t.seqFetchLits 0 (s.seqr 0 0).tag 0 ((s.seqr 0 0).pc + 4) = .ok [] u ∧ decode .perco [w] = .ok .percoHalt 1) ∧
    isEvent .grainDispatch = true := by
  refine ⟨⟨?_, ?_, ?_, ?_, ?_⟩, ⟨?_, ?_, ?_, ?_, ?_, _, rfl, ?_, ?_, ?_⟩, ⟨?_, ?_, _, _, _, rfl, ?_, rfl, ?_⟩, ?_⟩ <;> decide

theorem witness_MemoriesKept : let s := { State.reset with agenda := [.event .grainDispatch] }
    s.MemOk ∧ ∃ t, step s = .next t := by
  refine ⟨⟨rfl, rfl, fun c => ?_, fun n hn => (List.not_mem_nil hn).elim, fun d n => ?_⟩, _, rfl⟩
  · rw [show State.core _ c = Core.reset by simp [State.core, State.reset, Vector.get]]; decide
  · rw [show State.seqr _ d n = Seqr.reset by simp [State.seqr, State.runner, State.reset, Runner.reset, Vector.get]]; decide
end

/-! ### Canonical memories: what a step keeps (R12, R320, R321)

Every function that gives a state has one lemma here, `State.MemOk.<name>`, in the order of the model's files: from a
state whose memories are in their canonical form it makes another one. The same holds of the parts of a state
(`Core.MemOk.<name>`, `Runner.MemOk.<name>`, and so on) and of the results that carry a state. -/

namespace Sys2Proof.Machine

-- One theorem after the other: elaborated side by side, so many wait for one another that the threads run out.
set_option Elab.async false

/-! ### The parts of a state -/

/-- The memories of a core are in their canonical form. -/
def Core.MemOk (k : Core) : Prop := k.memOk = true

/-- The runner store of a sequencer is. -/
def Seqr.MemOk (q : Seqr) : Prop := Mem.wf q.store = true

/-- The runner stores of a die are. -/
def Runner.MemOk (r : Runner) : Prop := ∀ n, (r.seqs.get n).MemOk

/-- The memories of a saved grain are. -/
def Saved.MemOk (x : Saved) : Prop := x.state.MemOk ∧ Mem.wf x.image = true

/-- Those of every saved grain of a nest record are. -/
def Nest.MemOk (n : Nest) : Prop := ∀ x ∈ n.saved, x.MemOk

/-- Those of every nest record of the package are. -/
def Package.MemOk (p : Package) : Prop := ∀ n ∈ p.nests, n.MemOk

/-- What a matrix engine holds of memories is: a tile write that waits, and the scratchpad as its command saw it. -/
def Mat.MemOk (m : Mat) : Prop := m.phase.memOk = true ∧ Mem.wf m.seen = true

/-! ### Results that carry a state -/

/-- The value of an option, if there is one, has a property. -/
def AllSome {α : Type} (P : α → Prop) : Option α → Prop
  | none => True
  | some a => P a

/-- The value of a result, if it is no error, has a property. -/
def AllOk {ε α : Type} (P : α → Prop) : Except ε α → Prop
  | .error _ => True
  | .ok a => P a

/-- The state of a pair. -/
def FstOk {β : Type} : State × β → Prop
  | (s, _) => s.MemOk

/-- The state of a result that holds one in either case. -/
def EitherOk : Except State State → Prop
  | .ok s | .error s => s.MemOk

/-- The next state of an outcome. -/
def OutOk : Host.Outcome State Fault Refusal → Prop
  | .next s => s.MemOk
  | _ => True

/-- The state that a stem instruction comes to. -/
def Res.MemOk : Res → Prop
  | .done s _ | .wait s | .stop s => s.MemOk
  | _ => True

/-- The state that a sequencer instruction comes to. -/
def PRes.MemOk : PRes → Prop
  | .done s _ | .jump s _ | .wait s | .ended s => s.MemOk
  | _ => True

/-- The state after a translation. -/
def Tr.MemOk : Tr → Prop
  | .ok _ s => s.MemOk
  | _ => True

/-- What a lookup adds to a die's caches leaves the runner stores in their form. -/
def Lookup.MemOk : Lookup → Prop
  | .leaf _ fill => ∀ r : Runner, r.MemOk → (fill r).MemOk
  | _ => True

/-- The state after a request to another package. -/
def Far.MemOk : Far → Prop
  | .sent s => s.MemOk
  | _ => True

/-- The state after a place has been found. -/
def Located.MemOk : Located → Prop
  | .at_ s _ => s.MemOk
  | _ => True

/-- The state after a fetch of a box. -/
def Fetched.MemOk : Fetched → Prop
  | .bytes s _ | .later s => s.MemOk
  | _ => True

/-- The state after a read of package services. -/
def Got.MemOk : Got → Prop
  | .bytes s _ => s.MemOk
  | _ => True

/-- The state after an abort has been asked for. -/
def Asked.MemOk : Asked → Prop
  | .ok s => s.MemOk
  | _ => True

/-- The state after the fetch of a word of a program. -/
def SeqFetch.MemOk : SeqFetch → Prop
  | .word _ s => s.MemOk
  | _ => True

/-- The state after the fetch of literals. -/
def SeqLits.MemOk : SeqLits → Prop
  | .ok _ s => s.MemOk
  | _ => True

/-- The effect that a vector instruction has on the state at its issue keeps the form. -/
def VEff.MemOk (e : VEff) : Prop := ∀ s : State, s.MemOk → (e.state s).MemOk

section
variable {α β ε : Type} {P : α → Prop} {Q : β → Prop} {a : α} {s : State}

theorem AllSome.of {o : Option α} (h : AllSome P o) (e : o = some a) : P a := by subst e; exact h
theorem AllOk.of {o : Except ε α} (h : AllOk P o) (e : o = .ok a) : P a := by subst e; exact h
theorem FstOk.fst {x : State × β} (h : FstOk x) : x.1.MemOk := h
theorem AllSome.fst {o : Option (State × β)} {b : β} (h : AllSome FstOk o) (e : o = some (s, b)) : s.MemOk := h.of e
theorem AllOk.fst {o : Except ε (State × β)} {b : β} (h : AllOk FstOk o) (e : o = .ok (s, b)) : s.MemOk := h.of e
theorem EitherOk.of {o : Except State State} (h : EitherOk o) (e : o = .ok s) : s.MemOk := by subst e; exact h
theorem EitherOk.of_error {o : Except State State} (h : EitherOk o) (e : o = .error s) : s.MemOk := by subst e; exact h
theorem AllOk.map {x : Except ε β} {f : β → α} (h : AllOk Q x) (hf : ∀ b, Q b → P (f b)) :
    AllOk P (x.map f) := by
  cases x with
  | error c => trivial
  | ok b => exact hf b h
theorem OutOk.of {o : Host.Outcome State Fault Refusal} (h : OutOk o) (e : o = .next s) : s.MemOk := by subst e; exact h
theorem Tr.MemOk.of {r : Tr} {t : Target} (h : r.MemOk) (e : r = .ok t s) : s.MemOk := by subst e; exact h
theorem Lookup.MemOk.of {l : Lookup} {x : TlbEntry} {f : Runner → Runner} {r : Runner} (h : l.MemOk)
    (e : l = .leaf x f) (hr : r.MemOk) : (f r).MemOk := by subst e; exact h r hr
theorem Far.MemOk.of {r : Far} (h : r.MemOk) (e : r = .sent s) : s.MemOk := by subst e; exact h
theorem Located.MemOk.of {r : Located} {l : Spots} (h : r.MemOk) (e : r = .at_ s l) : s.MemOk := by subst e; exact h
theorem Fetched.MemOk.of {r : Fetched} {l : List Byte} (h : r.MemOk) (e : r = .bytes s l) : s.MemOk := by
  subst e; exact h
theorem Fetched.MemOk.of_later {r : Fetched} (h : r.MemOk) (e : r = .later s) : s.MemOk := by subst e; exact h
theorem Got.MemOk.of {r : Got} {l : List Byte} (h : r.MemOk) (e : r = .bytes s l) : s.MemOk := by subst e; exact h
theorem Asked.MemOk.of {r : Asked} (h : r.MemOk) (e : r = .ok s) : s.MemOk := by subst e; exact h
theorem SeqFetch.MemOk.of {r : SeqFetch} {w : W32} (h : r.MemOk) (e : r = .word w s) : s.MemOk := by subst e; exact h
theorem SeqLits.MemOk.of {r : SeqLits} {l : List W32} (h : r.MemOk) (e : r = .ok l s) : s.MemOk := by subst e; exact h

theorem AllSome.map {o : Option β} {f : β → α} (h : AllSome Q o) (hf : ∀ b, Q b → P (f b)) :
    AllSome P (o.map f) := by
  cases o with
  | none => trivial
  | some b => exact hf b h
theorem AllSome.map_any {o : Option β} {f : β → α} (hf : ∀ b, P (f b)) : AllSome P (o.map f) := by
  cases o with
  | none => trivial
  | some b => exact hf b
theorem AllSome.or {o o' : Option α} (h : AllSome P o) (h' : AllSome P o') : AllSome P (o.or o') := by
  cases o with
  | none => exact h'
  | some a => exact h
theorem AllSome.getD {o : Option α} (h : AllSome P o) (ha : P a) : P (o.getD a) := by
  cases o with
  | none => exact ha
  | some b => exact h
theorem AllOk.bind {x : Except ε β} {f : β → Except ε α} (h : AllOk Q x) (hf : ∀ b, Q b → AllOk P (f b)) :
    AllOk P (x >>= f) := by
  cases x with
  | error c => trivial
  | ok b => exact hf b h
theorem AllOk.bind_any {x : Except ε β} {f : β → Except ε α} (hf : ∀ b, AllOk P (f b)) : AllOk P (x >>= f) := by
  cases x with
  | error c => trivial
  | ok b => exact hf b

theorem AllSome.bind {o : Option β} {f : β → Option α} (h : AllSome Q o) (hf : ∀ b, Q b → AllSome P (f b)) :
    AllSome P (o.bind f) := by
  cases o with
  | none => trivial
  | some b => exact hf b h
theorem AllSome.findSome {f : β → Option α} (hf : ∀ b, AllSome P (f b)) : ∀ l : List β, AllSome P (l.findSome? f)
  | [] => trivial
  | b :: l => by
    rw [List.findSome?_cons]
    split
    · rename_i e; exact (hf b).of e
    · exact AllSome.findSome hf l

/-- What every step of a fold keeps, the fold keeps. -/
theorem holds_foldl {f : α → β → α} (hf : ∀ a b, P a → P (f a b)) : ∀ (l : List β) {a : α}, P a → P (l.foldl f a)
  | [], _, h => h
  | b :: l, _, h => holds_foldl hf l (hf _ b h)

/-- The same of a fold whose steps may fail. -/
theorem holds_foldlM {f : α → β → Except ε α} (hf : ∀ a b, P a → AllOk P (f a b)) :
    ∀ (l : List β) {a : α}, P a → AllOk P (l.foldlM f a)
  | [], _, h => h
  | b :: l, _, h => AllOk.bind (hf _ b h) fun _ h' => holds_foldlM hf l h'

theorem State.MemOk.foldl {f : State → β → State} {l : List β} (h : s.MemOk)
    (hf : ∀ t b, t.MemOk → (f t b).MemOk) : (l.foldl f s).MemOk := holds_foldl hf l h
theorem Core.MemOk.foldl {f : Core → β → Core} {l : List β} {k : Core} (h : k.MemOk)
    (hf : ∀ t b, t.MemOk → (f t b).MemOk) : (l.foldl f k).MemOk := holds_foldl hf l h

end

/-! ### The parts again: what each lemma of a part rests on -/

section
variable {s t : State} {k : Core} {r : Runner} {p : Package} {c : CoreId} {d : DieId}

theorem toList_all_wf_iff {n : Nat} (v : Vector Mem n) : v.toList.all Mem.wf = true ↔ ∀ i, Mem.wf (v.get i) = true := by
  rw [List.all_eq_true]
  refine ⟨fun h i => h _ (by simp [Vector.get]), fun h m hm => ?_⟩
  obtain ⟨i, hi, rfl⟩ := List.getElem_of_mem hm
  exact h ⟨i, by simpa using hi⟩

theorem Core.memOk_iff : k.MemOk ↔ Mem.wf k.scratch = true ∧ Mem.wf k.imem = true ∧ Mem.wf k.seg = true ∧
    (∀ i, Mem.wf (k.tiles.get i) = true) ∧ (∀ i, Mem.wf (k.moulds.get i) = true) ∧ k.mat.MemOk := by
  simp only [Core.MemOk, Core.memOk, Bool.and_eq_true, toList_all_wf_iff, Mat.MemOk, and_assoc]

theorem Core.MemOk.scratch (h : k.MemOk) : Mem.wf k.scratch = true := (Core.memOk_iff.mp h).1
theorem Core.MemOk.imem (h : k.MemOk) : Mem.wf k.imem = true := (Core.memOk_iff.mp h).2.1
theorem Core.MemOk.seg (h : k.MemOk) : Mem.wf k.seg = true := (Core.memOk_iff.mp h).2.2.1
theorem Core.MemOk.tiles (h : k.MemOk) (i : Fin 4) : Mem.wf (k.tiles.get i) = true := (Core.memOk_iff.mp h).2.2.2.1 i
theorem Core.MemOk.moulds (h : k.MemOk) (i : Fin 2) : Mem.wf (k.moulds.get i) = true :=
  (Core.memOk_iff.mp h).2.2.2.2.1 i
theorem Core.MemOk.mat (h : k.MemOk) : k.mat.MemOk := (Core.memOk_iff.mp h).2.2.2.2.2

theorem State.MemOk.core (h : s.MemOk) (c : CoreId) : (s.core c).MemOk := h.cores c
theorem State.MemOk.runner (h : s.MemOk) (d : DieId) : (s.runner d).MemOk := h.stores d
theorem State.MemOk.pkg (h : s.MemOk) : s.pkg.MemOk := fun n hn x hx => by
  simpa only [Saved.MemOk, Core.MemOk, Bool.and_eq_true] using h.saved n hn x hx

/-- The form of a state from that of its parts. -/
theorem State.memOk_of (hm : Mem.wf s.mem = true) (hh : Mem.wf s.hostMem = true) (hc : ∀ c, (s.core c).MemOk)
    (hd : ∀ d, (s.runner d).MemOk) (hp : s.pkg.MemOk) : s.MemOk :=
  ⟨hm, hh, hc, fun n hn x hx => by simpa only [Saved.MemOk, Core.MemOk, Bool.and_eq_true] using hp n hn x hx, hd⟩

/-- A state that differs in no memory. -/
theorem State.MemOk.frame (h : s.MemOk) (hm : t.mem = s.mem := by rfl) (hh : t.hostMem = s.hostMem := by rfl)
    (hc : t.cores = s.cores := by rfl) (hd : t.dies = s.dies := by rfl) (hn : t.pkg.nests = s.pkg.nests := by rfl) :
    t.MemOk := by
  refine State.memOk_of (hm ▸ h.main) (hh ▸ h.host) (fun c => ?_) (fun d => ?_) fun n hn' => h.pkg n (hn ▸ hn')
  · rw [State.core, hc]; exact h.core c
  · rw [State.runner, hd]; exact h.runner d

theorem vector_get_set_of {α : Type} {n : Nat} {P : α → Prop} {v : Vector α n} {a : α} (i : Fin n)
    (hv : ∀ j, P (v.get j)) (ha : P a) (j : Fin n) : P ((v.set i.val a i.isLt).get j) := by
  by_cases e : j = i
  · subst e; rw [vget_set]; exact ha
  · rw [vget_set_ne _ _ _ _ e]; exact hv j

theorem vector_get_map_of {α β : Type} {n : Nat} {P : α → Prop} {Q : β → Prop} {v : Vector α n} {f : α → β}
    (hf : ∀ a, P a → Q (f a)) (hv : ∀ i, P (v.get i)) (i : Fin n) : Q ((v.map f).get i) := by
  rw [Vector.get_map]
  exact hf _ (hv i)

theorem vector_get_ofFn_of {α : Type} {n : Nat} {P : α → Prop} {f : Fin n → α} (hf : ∀ i, P (f i)) (i : Fin n) :
    P ((Vector.ofFn f).get i) := by
  rw [Vector.get_ofFn]
  exact hf i

theorem State.MemOk.setCore (h : s.MemOk) (hk : k.MemOk) : (s.setCore c k).MemOk :=
  State.memOk_of h.main h.host (fun c' => vector_get_set_of (P := Core.MemOk) c h.core hk c') h.runner h.pkg

theorem State.MemOk.modCore {f : Core → Core} (h : s.MemOk)
    (hf : ∀ k, k.MemOk → (f k).MemOk := by exact fun _ hk => hk) : (s.modCore c f).MemOk :=
  h.setCore (hf _ (h.core c))

theorem State.MemOk.setRunner (h : s.MemOk) (hr : r.MemOk) : (s.setRunner d r).MemOk :=
  State.memOk_of h.main h.host h.core (fun d' => vector_get_set_of (P := Runner.MemOk) d h.runner hr d') h.pkg

theorem State.MemOk.modRunner {f : Runner → Runner} (h : s.MemOk)
    (hf : ∀ r, r.MemOk → (f r).MemOk := by exact fun _ hr => hr) : (s.modRunner d f).MemOk :=
  h.setRunner (hf _ (h.runner d))

theorem State.MemOk.modPkg {f : Package → Package} (h : s.MemOk)
    (hf : ∀ p, p.MemOk → (f p).MemOk := by exact fun _ hp => hp) : (s.modPkg f).MemOk :=
  State.memOk_of h.main h.host h.core h.runner (hf _ h.pkg)

theorem State.MemOk.passTo {n : Nat} (h : s.MemOk) : (s.passTo d n).MemOk := h.frame

/-- A state whose dies have all been changed, and no other memory. -/
theorem State.MemOk.withDies {f : Runner → Runner} (h : s.MemOk) (hd : t.dies = s.dies.map f := by rfl)
    (hm : t.mem = s.mem := by rfl) (hh : t.hostMem = s.hostMem := by rfl) (hc : t.cores = s.cores := by rfl)
    (hn : t.pkg.nests = s.pkg.nests := by rfl) (hf : ∀ r, r.MemOk → (f r).MemOk := by exact fun _ hr => hr) :
    t.MemOk := by
  refine State.memOk_of (hm ▸ h.main) (hh ▸ h.host) (fun c => ?_) (fun d => ?_) fun n hn' => h.pkg n (hn ▸ hn')
  · rw [State.core, hc]; exact h.core c
  · rw [State.runner, hd]; exact vector_get_map_of hf h.runner d

/-- What firing watches changes holds no memory. -/
theorem State.MemOk.sameBut (h : s.MemOk) (e : SameButWatches s t) : t.MemOk := by
  refine State.memOk_of (e.mem ▸ h.main) (e.hostMem ▸ h.host) (fun c => ?_) (fun d => ?_) (e.pkg ▸ h.pkg)
  · obtain ⟨w, l, hk⟩ := e.core c
    rw [hk]; exact h.core c
  · obtain ⟨l, m, hr⟩ := e.runner d
    rw [hr]; exact h.runner d

/-- A state whose main memory has been changed, and no other memory. -/
theorem State.MemOk.withMem (h : s.MemOk) (hm : Mem.wf t.mem = true) (hh : t.hostMem = s.hostMem := by rfl)
    (hc : t.cores = s.cores := by rfl) (hd : t.dies = s.dies := by rfl) (hn : t.pkg.nests = s.pkg.nests := by rfl) :
    t.MemOk :=
  State.memOk_of hm (hh ▸ h.host) (fun c => by rw [State.core, hc]; exact h.core c)
    (fun d => by rw [State.runner, hd]; exact h.runner d) fun n hn' => h.pkg n (hn ▸ hn')

theorem State.MemOk.withMemHeart {m : Mem} {x : Heartwood} (h : s.MemOk) (hm : Mem.wf m = true) :
    { s with mem := m, pkg := { s.pkg with heart := x } }.MemOk := h.withMem hm

/-- A state whose host memory has been changed, and no other memory. -/
theorem State.MemOk.withHostMem (h : s.MemOk) (hh : Mem.wf t.hostMem = true) (hm : t.mem = s.mem := by rfl)
    (hc : t.cores = s.cores := by rfl) (hd : t.dies = s.dies := by rfl) (hn : t.pkg.nests = s.pkg.nests := by rfl) :
    t.MemOk :=
  State.memOk_of (hm ▸ h.main) hh (fun c => by rw [State.core, hc]; exact h.core c)
    (fun d => by rw [State.runner, hd]; exact h.runner d) fun n hn' => h.pkg n (hn ▸ hn')

theorem Mat.MemOk.phase {m : Mat} (h : m.MemOk) : m.phase.memOk = true := h.1
theorem Mat.MemOk.seen {m : Mat} (h : m.MemOk) : Mem.wf m.seen = true := h.2

theorem Core.MemOk.withMoulds {v : Vector Mem 2} (h : k.MemOk) (hv : ∀ i, Mem.wf (v.get i) = true) :
    { k with moulds := v }.MemOk :=
  Core.memOk_iff.mpr ⟨h.scratch, h.imem, h.seg, h.tiles, hv, h.mat⟩

/-- The moulds of a core of which one has been set. -/
theorem Core.MemOk.mouldsSet {m : Mem} {i : Fin 2} (h : k.MemOk) (hm : Mem.wf m = true) (j : Fin 2) :
    Mem.wf ((k.moulds.set i.val m i.isLt).get j) = true :=
  vector_get_set_of (P := fun m => Mem.wf m = true) i h.moulds hm j

theorem Core.MemOk.withMould {m : Mem} {i : Fin 2} (h : k.MemOk) (hm : Mem.wf m = true) :
    { k with moulds := k.moulds.set i.val m i.isLt }.MemOk := h.withMoulds (h.mouldsSet hm)

theorem Core.MemOk.withPhase {x : Phase} (h : k.MemOk) : { k with phase := x }.MemOk := h
theorem Core.MemOk.setStem {x : Stem} (h : k.MemOk) : (k.setStem x).MemOk := h
theorem Core.MemOk.setVec {x : Vec} (h : k.MemOk) : (k.setVec x).MemOk := h
theorem Core.MemOk.setMat {m : Mat} (h : k.MemOk) (hm : m.MemOk) : (k.setMat m).MemOk :=
  Core.memOk_iff.mpr ⟨h.scratch, h.imem, h.seg, h.tiles, h.moulds, hm⟩

end

/-! ### The parts of a machine after a reset (Machine/State) -/

theorem Mat.memOk_reset : Mat.reset.MemOk := ⟨rfl, rfl⟩

theorem Core.memOk_reset : Core.reset.MemOk := by
  refine Core.memOk_iff.mpr ⟨rfl, rfl, rfl, fun i => ?_, fun i => ?_, Mat.memOk_reset⟩ <;>
    simp [Core.reset, Vector.get, Mem.empty]

theorem Seqr.memOk_reset : Seqr.reset.MemOk := rfl

theorem Runner.memOk_reset : Runner.reset.MemOk := fun n => by
  rw [show Runner.reset.seqs.get n = Seqr.reset by simp [Runner.reset, Vector.get]]
  exact Seqr.memOk_reset

/-! ### A core's memories (Machine/Memory) -/

section
variable {c : Core} {a n : Nat}

theorem Core.MemOk.setX {r : Reg} {v : Word} (h : c.MemOk) : (c.setX r v).MemOk := by
  dsimp only [Core.setX]
  split
  · exact h
  · exact h.setStem

theorem Core.MemOk.noteSoft (h : c.MemOk) : (c.noteSoft a n).MemOk := by
  dsimp only [Core.noteSoft]
  split <;> exact h

theorem Core.MemOk.write {bs : List Byte} (h : c.MemOk) : (c.write a bs).MemOk :=
  Core.memOk_iff.mpr ⟨Mem.wf_memPut h.scratch a bs, h.imem, h.seg, h.tiles, h.moulds, h.mat⟩
theorem Core.MemOk.noteLoad (h : c.MemOk) : (c.noteLoad a n).MemOk := h.foldl fun _ _ hk => hk.noteSoft

end

/-! ### Logs, counts and the completion ring (Machine/Report) -/

section
variable {s : State} {d : DieId} {u : UnitRef} {c : Cause} {ctx : BitVec 16} {f : Fin 17} {wherev : Word}

theorem State.MemOk.errLog {r : ErrRec} (h : s.MemOk) : (s.errLog d r).MemOk := by
  dsimp only [State.errLog]
  split
  · exact h.modRunner.modPkg
  · exact h.withMem (Mem.wf_memPut h.main _ _)

theorem State.MemOk.heartEvent {e : HwEvent} (h : s.MemOk) : (s.heartEvent e).MemOk := h.modPkg
theorem State.MemOk.countEvent (h : s.MemOk) : (s.countEvent u c).MemOk := h.modPkg

theorem State.MemOk.logFar {far : BitVec 16} (h : s.MemOk) : (s.logFar d u c wherev ctx far).MemOk := by
  dsimp only [State.logFar]
  split
  · exact h.errLog.heartEvent.countEvent
  · exact h

theorem State.MemOk.logCause (h : s.MemOk) : (s.logCause d u c wherev ctx).MemOk := h.logFar
theorem State.MemOk.logCore {c : CoreId} {cause : Cause} (h : s.MemOk) : (s.logCore c cause wherev).MemOk :=
  h.logCause

theorem Mem.wf_flushCompletions : ∀ (n : Nat) {m : Mem} {f : HostFn}, Mem.wf m = true →
    Mem.wf (flushCompletions n m f).1 = true
  | 0, _, _, h => h
  | n + 1, _, f, h => by
    dsimp only [flushCompletions]
    split
    · exact h
    · split
      · exact Mem.wf_flushCompletions n (Mem.wf_memPut h _ _)
      · exact h

theorem State.MemOk.flushFn (h : s.MemOk) : (s.flushFn f).MemOk :=
  h.withHostMem (Mem.wf_flushCompletions _ h.host)
theorem State.MemOk.modFn {g : HostFn → HostFn} (h : s.MemOk) : (s.modFn f g).MemOk := h.modPkg
theorem State.MemOk.completion {k : Completion} (h : s.MemOk) : (s.completion f k).MemOk := h.modFn.flushFn
theorem State.MemOk.hostEvent {detail : Nat} (h : s.MemOk) : (s.hostEvent f c detail).MemOk := h.completion
theorem State.MemOk.degraded {vf : Nat} (h : s.MemOk) : (s.degraded u ctx vf).MemOk := h.logCause.hostEvent
theorem State.MemOk.internalCheck (h : s.MemOk) : (s.internalCheck d ctx).MemOk := h.logCause

end

/-! ### Traps and the end of a stem instruction (Machine/Ops) -/

section
variable {s : State} {c : CoreId} {f : Watch → Bool} {a : Nat} {e : Engine} {cause : Cause} {val : Word}

theorem State.MemOk.fireOn {d : DieId} (h : s.MemOk) : (s.fireOn d f).MemOk :=
  h.sameBut (sameBut_fireOn s d f)
theorem State.MemOk.fireAll (h : s.MemOk) : (s.fireAll f).MemOk :=
  h.sameBut (sameBut_fireAll s f)
theorem State.MemOk.scratchWrote {n : Nat} (h : s.MemOk) : (s.scratchWrote c a n).MemOk := h.fireOn
theorem State.MemOk.writeScratch {bs : List Byte} (h : s.MemOk) : (s.writeScratch c a bs).MemOk :=
  (h.modCore (fun _ hk => hk.write)).scratchWrote
theorem Core.MemOk.trapEntry {c : Core} {pc : BitVec 16} {loc : Option Word} (h : c.MemOk) :
    (c.trapEntry e cause val pc loc).MemOk := h.setStem
theorem State.MemOk.cancelWaita (h : s.MemOk) : (s.cancelWaita c).MemOk :=
  h.sameBut (sameBut_cancelWaita s c)

theorem Core.MemOk.eretState {c : Core} (h : c.MemOk) : c.eretState.MemOk := by
  have hm : (if c.mat.taken then { c.mat with taken := false } else c.mat).MemOk := by
    split
    · exact h.mat
    · exact h.mat
  exact Core.memOk_iff.mpr ⟨h.scratch, h.imem, h.seg, h.tiles, h.moulds, hm⟩

theorem State.MemOk.stemTrap (h : s.MemOk) : (s.stemTrap e cause val).MemOk := by
  refine h.cancelWaita.modCore fun _ hk => ?_
  split
  · exact hk.trapEntry.setStem
  · exact hk.trapEntry

theorem State.MemOk.complete {npc : Nat} (h : s.MemOk) : (s.complete npc).MemOk := by
  dsimp only [State.complete]
  split
  · exact h.stemTrap
  · split
    · exact h.modCore.stemTrap
    · exact h.modCore

theorem State.MemOk.keepWaiting (h : s.MemOk) : s.keepWaiting.MemOk := h.modCore

theorem State.MemOk.stemRun {reads writes : List Reg} {f : Core → Res} (h : s.MemOk) (hf : (f (s.core s.cur)).MemOk) :
    OutOk (stemRun reads writes s f) := by
  dsimp only [Machine.stemRun]
  split
  · exact h.keepWaiting
  · split
    · exact h.stemTrap
    · split
      all_goals rename_i e; rw [e] at hf
      · exact State.MemOk.complete hf
      · exact h.stemTrap
      · exact h.modCore.logCore.stemTrap
      · exact h.stemTrap
      · exact State.MemOk.keepWaiting hf
      · exact hf

end

/-! ### Translation, accesses at their homes, fault records (Machine/Mmu) -/

section
variable {s : State} {d : DieId} {va : Nat} {ctx : BitVec 16} {r : FaultRec} {bs : List Byte} {e : TlbEntry}
  {tag : Tag} {acc : Access} {t : Target}

theorem State.MemOk.writeMem {pa : Nat} (h : s.MemOk) : (s.writeMem pa bs).MemOk := by
  refine State.MemOk.fireAll (State.MemOk.withMem h ?_)
  exact Mem.wf_memPut h.main _ _

theorem Runner.MemOk.fillTlb {seen : List WalkEntry} {r : Runner} (h : r.MemOk) : (fillTlb e seen r).MemOk := h

theorem State.MemOk.leafAccess {fill : Runner → Runner} (h : s.MemOk)
    (hfill : ∀ y, y.MemOk → (fill y).MemOk := by exact fun _ hy => hy) :
    (leafAccess s d tag va acc e fill).MemOk := by
  dsimp only [Machine.leafAccess]
  split
  · trivial
  · split
    · trivial
    · split
      · trivial
      · exact h.modRunner fun _ hk => hfill _ hk

theorem Lookup.memOk_walkFor : (s.walkFor d ctx va).MemOk := by
  dsimp only [State.walkFor]
  split
  · trivial
  · split
    · trivial
    · split
      · trivial
      · split
        · trivial
        · exact fun _ hk => hk.fillTlb

theorem Lookup.memOk_lookup : (s.lookup d ctx va).MemOk := by
  dsimp only [State.lookup]
  split
  · exact Lookup.memOk_walkFor
  · exact fun _ hk => hk
  · exact fun _ hk => hk

theorem State.MemOk.rewalk (h : s.MemOk) : (s.rewalk d ctx va).MemOk := by
  dsimp only [State.rewalk]
  split
  · rename_i e1
    exact h.modRunner fun _ hk => Lookup.memOk_walkFor.of e1 hk
  · exact h

theorem State.MemOk.translate (h : s.MemOk) : (s.translate d tag va acc).MemOk := by
  dsimp only [State.translate]
  split
  · trivial
  · trivial
  · rename_i e1
    exact h.leafAccess fun _ hk => Lookup.memOk_lookup.of e1 hk

theorem State.MemOk.noteRead {n : Nat} (h : s.MemOk) : (s.noteRead t n).MemOk := by
  dsimp only [State.noteRead]
  split
  · exact h.modCore fun _ hk => hk.noteSoft
  · exact h

theorem State.MemOk.homeWrite (h : s.MemOk) : (s.homeWrite t bs).MemOk := by
  dsimp only [State.homeWrite]
  split
  · exact h.writeScratch
  · exact h.writeMem

theorem State.MemOk.writeFault {e : CtxEntry} (h : s.MemOk) : (s.writeFault e r).MemOk := by
  dsimp only [State.writeFault]
  split
  · exact h.writeMem.writeMem
  · exact h.writeMem.writeMem.writeMem

theorem State.MemOk.metFailed (h : s.MemOk) : (s.metFailed d r).MemOk := by
  dsimp only [State.metFailed]
  split
  · exact h
  · split
    · split
      · exact h.degraded
      · exact h
    · exact h

theorem State.MemOk.postFault (h : s.MemOk) : AllSome FstOk (s.postFault d r) := by
  dsimp only [State.postFault]
  split
  · exact h.internalCheck.modPkg
  · split
    · split
      · exact h.modRunner.modPkg.logFar.metFailed
      · trivial
    · exact h.writeFault.modPkg.logFar.metFailed

theorem State.MemOk.execOverflowRecordPost (h : s.MemOk) : OutOk (execOverflowRecordPost d s) := by
  dsimp only [Machine.execOverflowRecordPost]
  split
  · exact h
  · split
    · exact h.modRunner.writeFault
    · exact h.modRunner.internalCheck

end

/-! ### Requests to other packages (Machine/Windows) -/

section
variable {s : State} {l : LinkId} {up : Bool} {m : FarMsg} {d : DieId}

theorem State.MemOk.setLink {x : LinkDir} (h : s.MemOk) : (s.setLink l up x).MemOk := h.modPkg
theorem State.MemOk.sendOn {p : Packet} (h : s.MemOk) : (s.sendOn l up p).MemOk := h.setLink
theorem State.MemOk.yunanOut {port : Nat} (h : s.MemOk) : (s.yunanOut port m).MemOk := h.sendOn

theorem State.MemOk.yunanSend (h : s.MemOk) : (s.yunanSend d m).MemOk := by
  dsimp only [State.yunanSend]
  split
  · exact h
  · exact h.yunanOut

theorem State.MemOk.sendFar {pkg : BitVec 12} {o : Owner} {q : FarReq} (h : s.MemOk) :
    (s.sendFar d pkg o q).MemOk := by
  dsimp only [State.sendFar]
  split
  · trivial
  · split
    · trivial
    · exact State.MemOk.yunanOut (h.setRunner (h.runner _))

end

/-! ### The record of the configuration (Machine/ConfRecord) -/

section
variable {s : State}

theorem State.MemOk.writeConf (h : s.MemOk) : s.writeConf.MemOk :=
  h.withMemHeart (Mem.wf_memPut h.main _ _)
theorem State.MemOk.genChanged (h : s.MemOk) : s.genChanged.MemOk := h.modPkg.writeConf

end

/-! ### Packets and links (Machine/Links) -/

section
variable {s : State} {p : Packet} {l : LinkId} {up : Bool} {c : CoreId} {d : DieId} {r : Ratom} {id lanes : Nat}
  {f : List Ratom → List Ratom}

theorem State.MemOk.ringHop {goal : DieId} {m : Nat} (h : s.MemOk) : AllSome State.MemOk (s.ringHop d goal m p) := by
  dsimp only [State.ringHop]
  split
  · split
    · exact AllSome.map_any fun _ => h.sendOn
    · split
      · exact AllSome.map_any fun _ => h.sendOn
      · trivial
  · split
    · exact AllSome.map_any fun _ => h.sendOn
    · split
      · exact AllSome.map_any fun _ => h.sendOn
      · trivial

theorem State.MemOk.downHop (h : s.MemOk) : AllSome State.MemOk (s.downHop d c p) := by
  dsimp only [State.downHop]
  split
  · exact AllSome.map_any fun _ => h.sendOn
  · split
    · exact AllSome.map_any fun _ => h.sendOn
    · trivial

theorem State.MemOk.upHop {hi : Bool} (h : s.MemOk) : AllSome State.MemOk (s.upHop c hi p) := by
  dsimp only [State.upHop]
  split <;> exact (AllSome.map_any (fun _ => h.sendOn)).or (AllSome.map_any (fun _ => h.sendOn))

theorem Core.MemOk.modRatoms {k : Core} (h : k.MemOk) : (k.modRatoms f).MemOk := h.setStem

theorem State.MemOk.modRatoms (h : s.MemOk) : (s.modRatoms c id f).MemOk := by
  dsimp only [State.modRatoms]
  split
  · exact h.modCore
  · refine h.modPkg fun p hp n hn x hx => ?_
    obtain ⟨m, hm, rfl⟩ := List.mem_map.mp hn
    obtain ⟨y, hy, rfl⟩ := List.mem_map.mp hx
    split
    · exact hp m hm y hy
    · exact hp m hm y hy

theorem State.MemOk.setRatom {f : Ratom → Ratom} (h : s.MemOk) : (s.setRatom c id f).MemOk := h.modRatoms
theorem State.MemOk.dropRatom (h : s.MemOk) : (s.dropRatom c id).MemOk := h.modRatoms
theorem State.MemOk.ratomFault {cause : Cause} (h : s.MemOk) : AllSome State.MemOk (s.ratomFault c r cause) :=
  h.postFault.map fun _ hk => hk.fst.setRatom

theorem State.MemOk.lostPacket (h : s.MemOk) : AllSome State.MemOk (s.lostPacket p) := by
  dsimp only [State.lostPacket]
  split
  · exact h
  · split
    · exact h.ratomFault
    · exact h.dropRatom

theorem State.MemOk.forward {t : Target} (h : s.MemOk) : AllSome State.MemOk (s.forward d p t) := by
  dsimp only [State.forward]
  split
  · trivial
  · split
    · split <;> exact h.downHop.or h.ringHop
    · split
      · exact h.setRatom
      · exact h.ringHop

theorem State.MemOk.ratomDropped (h : s.MemOk) : (s.ratomDropped c r).MemOk := h.setRatom

theorem State.MemOk.ratomAtRunner (h : s.MemOk) : AllSome State.MemOk (s.ratomAtRunner d p r) := by
  dsimp only [State.ratomAtRunner]
  split
  · exact h.ratomDropped
  · split
    · exact h.internalCheck.ratomDropped
    · exact h.ratomFault
    · rename_i e1
      split
      · split
        · rename_i e3
          exact (h.translate.of e1).setRatom.forward.of e3
        · exact (h.translate.of e1).setRatom.ratomFault
      · split
        · rename_i e3
          exact (h.translate.of e1).setRatom.sendFar.of e3
        · trivial
        · exact (h.translate.of e1).setRatom.ratomFault

theorem State.MemOk.atRunner (h : s.MemOk) : AllSome State.MemOk (s.atRunner d p) := by
  dsimp only [State.atRunner]
  split
  · exact h
  · split
    · exact h.ratomAtRunner
    · refine AllSome.or ?_ h.lostPacket
      split
      · split
        · trivial
        · split
          · exact h.downHop.or h.ringHop
          · split
            · exact h.downHop
            · exact h.ringHop
      · split
        · exact h.forward
        · exact h.ringHop

theorem State.MemOk.enterDie (h : s.MemOk) : (s.enterDie d p).MemOk := by
  dsimp only [State.enterDie]
  split
  · exact h.modRunner
  · split
    · rename_i e1
      exact h.atRunner.of e1
    · exact h.modRunner

theorem State.MemOk.ingressTurn (h : s.MemOk) : (s.ingressTurn d).MemOk := by
  dsimp only [State.ingressTurn]
  split
  · exact h
  · exact h.modRunner.atRunner.getD h

theorem State.MemOk.atCrown (h : s.MemOk) : (s.atCrown p).MemOk := h.setRatom

theorem State.MemOk.arrive (h : s.MemOk) : (s.arrive l up p).MemOk := by
  dsimp only [State.arrive]
  split
  · exact h
  · split
    · exact h.enterDie
    · exact h.atCrown

theorem State.MemOk.ratomReply {old : Word} (h : s.MemOk) : (s.ratomReply c r old).MemOk := by
  dsimp only [State.ratomReply]
  split
  · split
    · exact (h.setRatom.upHop.or h.setRatom.lostPacket).getD h.setRatom
    · exact h.setRatom.enterDie
  · exact h.setRatom

theorem State.MemOk.malformedFlit (h : s.MemOk) : (s.malformedFlit l up).MemOk := by
  dsimp only [State.malformedFlit]
  split
  · exact h
  · exact h.setLink.logCause

theorem State.MemOk.execFlitReceived {bad : Bool} (h : s.MemOk) : OutOk (execFlitReceived l up bad s) := by
  dsimp only [Machine.execFlitReceived]
  split
  · exact h
  · split
    · split
      · exact h.setLink.setLink
      · exact h
    · split
      · exact h.setLink
      · split
        · exact h.setLink.arrive
        · split <;> exact h.setLink

theorem State.MemOk.execAckFlitSend (h : s.MemOk) : OutOk (execAckFlitSend l up s) := by
  dsimp only [Machine.execAckFlitSend]
  split
  · exact h.setLink
  · exact h

theorem State.MemOk.execAckReceived (h : s.MemOk) : OutOk (execAckReceived l up s) := by
  dsimp only [Machine.execAckReceived]
  split
  · split
    · exact h
    · exact h.setLink
  · exact h

theorem State.MemOk.execNakReceived (h : s.MemOk) : OutOk (execNakReceived l up s) := by
  dsimp only [Machine.execNakReceived]
  split
  · split
    · exact h
    · exact h.setLink
  · exact h

theorem State.MemOk.execReplayTimeout (h : s.MemOk) : OutOk (execReplayTimeout l up s) := by
  dsimp only [Machine.execReplayTimeout]
  split
  · exact h.setLink
  · exact h

theorem State.MemOk.linkEvent {u : UnitRef} {kind : Nat} {ret : Bool} (h : s.MemOk) :
    (s.linkEvent l up u kind lanes ret).MemOk := h.errLog.heartEvent
theorem State.MemOk.retireLanes (h : s.MemOk) : (s.retireLanes l up lanes).MemOk :=
  h.foldl fun _ _ hk => hk.modPkg.linkEvent

theorem State.MemOk.reroute (h : s.MemOk) : (s.reroute l up p).MemOk := by
  refine AllSome.getD ?_ h
  split
  · exact h.upHop.or h.lostPacket
  · exact h.enterDie

theorem State.MemOk.dropDirection (h : s.MemOk) : (s.dropDirection l up).MemOk := by
  dsimp only [State.dropDirection]
  split
  · exact h.setLink.setLink
  · refine State.MemOk.foldl ?_ fun _ _ hk => hk.reroute
    split
    · exact h.setLink.linkEvent.genChanged
    · exact h.setLink.linkEvent

end

/-! ### Stem arithmetic (Machine/StemAlu) -/

section
variable {d : Reg} {s : State} {a b : Src} {ty : Ty} {f : AluFn}

theorem State.MemOk.alu3 {useD : Bool} (h : s.MemOk) : OutOk (alu3 useD f d a b ty s) := by
  refine h.stemRun ?_
  split
  · trivial
  · exact h.setCore (h.core _).setX

theorem State.MemOk.aluDivide (h : s.MemOk) : OutOk (aluDivide f d a b ty s) := by
  refine h.stemRun ?_
  split
  · trivial
  · split
    · trivial
    · exact h.setCore (h.core _).setX

theorem State.MemOk.alu2 (h : s.MemOk) : OutOk (alu2 f d a ty s) := by
  refine h.stemRun ?_
  split
  · trivial
  · exact h.setCore (h.core _).setX

theorem State.MemOk.execAdd (h : s.MemOk) : OutOk (execAdd d a b ty s) := h.alu3
theorem State.MemOk.execSub (h : s.MemOk) : OutOk (execSub d a b ty s) := h.alu3
theorem State.MemOk.execMul (h : s.MemOk) : OutOk (execMul d a b ty s) := h.alu3
theorem State.MemOk.execMulh (h : s.MemOk) : OutOk (execMulh d a b ty s) := h.alu3
theorem State.MemOk.execAnd (h : s.MemOk) : OutOk (execAnd d a b ty s) := h.alu3
theorem State.MemOk.execOr (h : s.MemOk) : OutOk (execOr d a b ty s) := h.alu3
theorem State.MemOk.execXor (h : s.MemOk) : OutOk (execXor d a b ty s) := h.alu3
theorem State.MemOk.execShl (h : s.MemOk) : OutOk (execShl d a b ty s) := h.alu3
theorem State.MemOk.execShr (h : s.MemOk) : OutOk (execShr d a b ty s) := h.alu3
theorem State.MemOk.execSra (h : s.MemOk) : OutOk (execSra d a b ty s) := h.alu3
theorem State.MemOk.execMin (h : s.MemOk) : OutOk (execMin d a b ty s) := h.alu3
theorem State.MemOk.execMax (h : s.MemOk) : OutOk (execMax d a b ty s) := h.alu3
theorem State.MemOk.execSlt (h : s.MemOk) : OutOk (execSlt d a b ty s) := h.alu3
theorem State.MemOk.execSltu (h : s.MemOk) : OutOk (execSltu d a b ty s) := h.alu3
theorem State.MemOk.execMulhUnsigned (h : s.MemOk) : OutOk (execMulhUnsigned d a b ty s) := h.alu3
theorem State.MemOk.execMinUnsigned (h : s.MemOk) : OutOk (execMinUnsigned d a b ty s) := h.alu3
theorem State.MemOk.execMaxUnsigned (h : s.MemOk) : OutOk (execMaxUnsigned d a b ty s) := h.alu3
theorem State.MemOk.execMadd (h : s.MemOk) : OutOk (execMadd d a b ty s) := h.alu3
theorem State.MemOk.execDiv (h : s.MemOk) : OutOk (execDiv d a b ty s) := h.aluDivide
theorem State.MemOk.execRem (h : s.MemOk) : OutOk (execRem d a b ty s) := h.aluDivide
theorem State.MemOk.execDivUnsigned (h : s.MemOk) : OutOk (execDivUnsigned d a b ty s) := h.aluDivide
theorem State.MemOk.execRemUnsigned (h : s.MemOk) : OutOk (execRemUnsigned d a b ty s) := h.aluDivide
theorem State.MemOk.execClz (h : s.MemOk) : OutOk (execClz d a ty s) := h.alu2
theorem State.MemOk.execPopc (h : s.MemOk) : OutOk (execPopc d a ty s) := h.alu2
theorem State.MemOk.execLi {v : LiVal} (h : s.MemOk) : OutOk (execLi d v s) := h.stemRun (h.setCore (h.core _).setX)

end

/-! ### Scratchpad loads, stores and local atomics (Machine/StemMem) -/

section
variable {s : State} {a b : Src} {d : Reg} {ty : Ty} {cls : BitVec 4} {size : BitVec 2} {ofs : BitVec 10} {c : Core}

theorem Res.memOk_withAddr {v : Word} {align : Nat} {bad : Cause} {k : Nat → Res} (hk : ∀ x, (k x).MemOk) :
    (withAddr v align bad k).MemOk := by
  dsimp only [withAddr]
  split
  · trivial
  · split
    · trivial
    · exact hk _

theorem State.MemOk.loadRun {ext : Nat → Word} (h : s.MemOk) : OutOk (loadRun d a cls size ofs ext s) := by
  refine h.stemRun (Res.memOk_withAddr fun _ => ?_)
  split
  · exact h
  · split
    · trivial
    · exact h.setCore (h.core _).noteLoad.setX

theorem State.MemOk.execLd (h : s.MemOk) : OutOk (execLd d a cls size ofs s) := h.loadRun

theorem State.MemOk.execLdZeroExtending (h : s.MemOk) : OutOk (execLdZeroExtending d a cls size ofs s) := by
  dsimp only [Machine.execLdZeroExtending]
  split
  · exact h.stemRun trivial
  · exact h.loadRun

theorem Res.memOk_storeChecks {x n : Nat} {k : Res} (hk : k.MemOk) : (storeChecks c x n k).MemOk := by
  dsimp only [storeChecks]
  split
  · trivial
  · exact hk

theorem Core.MemOk.enqueueStore {p : Nat} {bs : List Byte} (h : c.MemOk) : (c.enqueueStore cls p bs).MemOk :=
  h.setStem

theorem State.MemOk.execSt {x : Src} (h : s.MemOk) : OutOk (execSt x a cls size ofs s) := by
  refine h.stemRun (Res.memOk_withAddr fun _ => (Res.memOk_storeChecks ?_))
  split
  · trivial
  · exact h.setCore (h.core _).enqueueStore

theorem State.MemOk.performStore {c : CoreId} {i : Nat} (h : s.MemOk) : (s.performStore c i).MemOk := by
  dsimp only [State.performStore]
  split
  · split
    · split
      · exact h.modCore.modCore.logCore
      · exact h.modCore.writeScratch
    · exact h
  · exact h

theorem State.MemOk.amoRun {useD : Bool} {f : AmoFn} {writes : Nat → Nat → Core → Bool} (h : s.MemOk) :
    OutOk (amoRun useD f writes d a b ty s) := by
  dsimp only [Machine.amoRun]
  refine h.stemRun ?_
  split
  · trivial
  · refine Res.memOk_withAddr fun _ => ?_
    split
    · exact h
    · split
      · trivial
      · split
        · exact Res.memOk_storeChecks ((h.setCore (h.core _).noteSoft).writeScratch.modCore (fun _ hk => hk.setX))
        · exact h.setCore (h.core _).noteSoft.setX

theorem State.MemOk.execAmoAdd (h : s.MemOk) : OutOk (execAmoAdd d a b ty s) := h.amoRun
theorem State.MemOk.execAmoAnd (h : s.MemOk) : OutOk (execAmoAnd d a b ty s) := h.amoRun
theorem State.MemOk.execAmoOr (h : s.MemOk) : OutOk (execAmoOr d a b ty s) := h.amoRun
theorem State.MemOk.execAmoXor (h : s.MemOk) : OutOk (execAmoXor d a b ty s) := h.amoRun
theorem State.MemOk.execAmoMin (h : s.MemOk) : OutOk (execAmoMin d a b ty s) := h.amoRun
theorem State.MemOk.execAmoMax (h : s.MemOk) : OutOk (execAmoMax d a b ty s) := h.amoRun
theorem State.MemOk.execAmoMinu (h : s.MemOk) : OutOk (execAmoMinu d a b ty s) := h.amoRun
theorem State.MemOk.execAmoMaxu (h : s.MemOk) : OutOk (execAmoMaxu d a b ty s) := h.amoRun
theorem State.MemOk.execAmoSwap (h : s.MemOk) : OutOk (execAmoSwap d a b ty s) := h.amoRun
theorem State.MemOk.execCas (h : s.MemOk) : OutOk (execCas d a b ty s) := h.amoRun

end

/-! ### Synchronisation, coupling, posts, probes and system instructions (Machine/StemSync) -/

section
variable {s : State} {a b : Src} {d : Reg} {ty : Ty} {c : CoreId} {sc : Scope} {q : Waita} {hi : Bool} {cause : Cause}
  {t : Target} {num : BitVec 2} {op i : Nat} {k : Core} {imm : BitVec 16} {sh : Fin 4} {r : BitVec 12}

theorem State.MemOk.execSemwait {_sc : Scope} (h : s.MemOk) : OutOk (execSemwait a b _sc s) := by
  refine h.stemRun (Res.memOk_withAddr fun _ => ?_)
  split
  · exact h
  · split
    · trivial
    · split
      · exact h.setCore (h.core _).noteSoft
      · exact (h.setCore (h.core _).noteSoft).writeScratch

theorem State.MemOk.execSempost {_sc : Scope} (h : s.MemOk) : OutOk (execSempost a b _sc s) := by
  refine h.stemRun (Res.memOk_withAddr fun _ => ?_)
  split
  · exact h
  · split
    · trivial
    · split
      · trivial
      · exact (h.setCore (h.core _).noteSoft).writeScratch

theorem State.MemOk.execWaita {_sc : Scope} (h : s.MemOk) : OutOk (execWaita d a b ty _sc s) := by
  dsimp only [Machine.execWaita]
  refine h.stemRun ?_
  split
  · trivial
  · split
    · split
      · trivial
      · split
        · exact h.setCore (h.core _).setStem
        · split
          · exact h.setCore (h.core _).setX
          · exact h
    · split
      · trivial
      · split
        · exact h.setCore (h.core _).setStem
        · split
          · exact h.setCore (h.core _).setX
          · exact h

theorem State.MemOk.setWaita {f : Waita → Waita} (h : s.MemOk) : (s.setWaita c f).MemOk := h.modCore
theorem State.MemOk.waitaStop (h : s.MemOk) : AllSome State.MemOk (s.waitaStop c q cause) :=
  h.postFault.map fun _ hk => hk.fst.setWaita
theorem State.MemOk.waitaFault (h : s.MemOk) : (s.waitaFault c q cause).MemOk := h.waitaStop.getD h

theorem State.MemOk.watchAt (h : s.MemOk) : (s.watchAt c q t).MemOk := by
  dsimp only [State.watchAt]
  generalize (if q.wide then 8 else 4) = n
  split
  · exact h.waitaFault
  · split
    · exact h.setWaita
    · exact h.noteRead.modRunner.setWaita

theorem State.MemOk.execWatchInstall (h : s.MemOk) : OutOk (execWatchInstall c s) := by
  dsimp only [Machine.execWatchInstall]
  split
  · exact h
  · split
    · exact h
    · split
      · exact h.internalCheck.setWaita
      · exact h.waitaFault
      · rename_i e2
        split
        · exact (h.translate.of e2).watchAt
        · split
          · rename_i e4
            exact ((h.translate.of e2).sendFar.of e4).setWaita
          · exact h.translate.of e2
          · exact (h.translate.of e2).waitaFault

theorem State.MemOk.sendCancel (h : s.MemOk) : (s.sendCancel c).MemOk := by
  dsimp only [State.sendCancel]
  split
  · exact h
  · split
    · exact h.modCore
    · split
      · rename_i e2
        exact h.modCore.sendFar.of e2
      · exact h
      · exact h.modCore

theorem State.MemOk.execWaitaReply (h : s.MemOk) : OutOk (execWaitaReply c s) := by
  dsimp only [Machine.execWaitaReply]
  split
  · split
    · exact h.setWaita
    · exact h
  · exact h

theorem State.MemOk.execWaitaTimeout (h : s.MemOk) : OutOk (execWaitaTimeout c s) := by
  dsimp only [Machine.execWaitaTimeout]
  split
  · exact h
  · split
    · split
      · exact h.fireAll
      · split
        · rename_i e3
          split
          · exact h
          · split
            · rename_i e5
              exact (h.translate.of e3).sendFar.of e5
            · exact h
        · exact h
    · exact h

theorem Core.MemOk.fence {c : Core} {k : BitVec 16} (h : c.MemOk) : (c.fence k sc).MemOk := h

theorem State.MemOk.execFence (h : s.MemOk) : OutOk (execFence a sc s) := by
  refine h.stemRun (h.setCore ?_)
  split
  · exact h.core _
  · exact (h.core _).fence

theorem State.MemOk.execIfence (h : s.MemOk) : OutOk (execIfence s) := h.stemRun (h.setCore (h.core _).setStem)

theorem Core.MemOk.arrive {c : Core} (h : c.MemOk) : (c.arrive num sc).MemOk := by
  dsimp only [Core.arrive]
  split
  · exact h
  · exact h.setStem

theorem State.MemOk.releaseBar {l : List CoreId} (h : s.MemOk) : (s.releaseBar num sc l).MemOk :=
  h.foldl fun _ _ hk => hk.modCore

theorem State.MemOk.execBar (h : s.MemOk) : OutOk (execBar a sc s) := by
  dsimp only [Machine.execBar]
  refine h.stemRun ?_
  split
  · split <;> exact h
  · split
    · trivial
    · split
      · exact h.modCore
      · split
        · exact h
        · split
          · exact (h.modCore (fun _ hk => hk.arrive)).releaseBar.modCore
          · exact h.modCore fun _ hk => hk.arrive

theorem State.MemOk.execToken {d : Fin 32} {n : Fin 5} (h : s.MemOk) : OutOk (execToken d n a b s) := by
  dsimp only [Machine.execToken]
  refine h.stemRun ?_
  split
  · trivial
  · split
    · trivial
    · split
      · exact h
      · exact h.setCore (h.core _).setVec

theorem State.MemOk.execTwait {t : Fin 4} (h : s.MemOk) : OutOk (execTwait t s) := by
  refine h.stemRun ?_
  split <;> exact h

theorem State.MemOk.execVsync (h : s.MemOk) : OutOk (execVsync s) := by
  refine h.stemRun ?_
  split
  · exact h.passTo
  · exact h

theorem State.MemOk.execMsync (h : s.MemOk) : OutOk (execMsync s) := by
  refine h.stemRun ?_
  split
  · trivial
  · split <;> exact h

theorem State.MemOk.post {c : Core} {isBox : Bool} {desc : BitVec 1024} {entry arg : Word} {npc : Nat} (h : s.MemOk)
    (hc : c.MemOk) : (s.post c hi isBox desc entry arg npc).MemOk := by
  dsimp only [State.post]
  split
  · exact h
  · exact h.setCore hc

theorem State.MemOk.execXfer (h : s.MemOk) : OutOk (execXfer a hi s) := by
  refine h.stemRun (Res.memOk_withAddr fun _ => ?_)
  split
  · exact h
  · split
    · trivial
    · exact h.post (h.core _).noteSoft

theorem State.MemOk.execRcall (h : s.MemOk) : OutOk (execRcall a b hi s) := by
  refine h.stemRun ?_
  split
  · trivial
  · exact h.post (h.core _)

theorem State.MemOk.ratomRun (h : s.MemOk) : OutOk (ratomRun op d a b ty s) := by
  refine h.stemRun ?_
  dsimp only
  generalize (if ty = .i64 then 8 else 4) = n
  split
  · trivial
  · split
    · trivial
    · split
      · exact h
      · have h1 := fun x => h.setCore (c := s.cur) ((h.core s.cur).setStem (x := x))
        split
        · rename_i e; exact ((h1 _).upHop.or (h1 _).ratomFault).of e
        · exact h

theorem State.MemOk.execRatomAdd (h : s.MemOk) : OutOk (execRatomAdd d a b ty s) := h.ratomRun
theorem State.MemOk.execRatomAnd (h : s.MemOk) : OutOk (execRatomAnd d a b ty s) := h.ratomRun
theorem State.MemOk.execRatomOr (h : s.MemOk) : OutOk (execRatomOr d a b ty s) := h.ratomRun
theorem State.MemOk.execRatomXor (h : s.MemOk) : OutOk (execRatomXor d a b ty s) := h.ratomRun
theorem State.MemOk.execRatomMin (h : s.MemOk) : OutOk (execRatomMin d a b ty s) := h.ratomRun
theorem State.MemOk.execRatomMax (h : s.MemOk) : OutOk (execRatomMax d a b ty s) := h.ratomRun
theorem State.MemOk.execRatomMinu (h : s.MemOk) : OutOk (execRatomMinu d a b ty s) := h.ratomRun
theorem State.MemOk.execRatomMaxu (h : s.MemOk) : OutOk (execRatomMaxu d a b ty s) := h.ratomRun
theorem State.MemOk.execRatomSwap (h : s.MemOk) : OutOk (execRatomSwap d a b ty s) := h.ratomRun
theorem State.MemOk.execRatomCas (h : s.MemOk) : OutOk (execRatomCas d a b ty s) := h.ratomRun

theorem State.MemOk.atomicAt {n : Nat} {b c : Word} (h : s.MemOk) : AllOk FstOk (s.atomicAt t n op b c) := by
  dsimp only [State.atomicAt]
  split
  · trivial
  · split
    · exact h.noteRead
    · exact h.noteRead.homeWrite

theorem State.MemOk.execRatomAtHome (h : s.MemOk) : OutOk (execRatomAtHome c i s) := by
  dsimp only [Machine.execRatomAtHome]
  split
  · exact h
  · split
    · exact h
    · rename_i r _ _ _ _
      generalize (if r.wide then 8 else 4) = n
      split
      · split
        · exact h.ratomReply
        · split
          · exact h.ratomFault.getD h
          · rename_i e
            exact (h.atomicAt.fst e).ratomReply
      · exact h

theorem Core.MemOk.takeRatom {r : Ratom} (h : k.MemOk) : (k.takeRatom r).MemOk := h.modRatoms.setX

theorem State.MemOk.execRatomReply (h : s.MemOk) : OutOk (execRatomReply c i s) := by
  dsimp only [Machine.execRatomReply]
  split
  · split
    · exact h.modCore fun _ hk => hk.takeRatom
    · exact h
  · exact h

theorem Core.MemOk.setProbe {c : Core} {k : Fin 256} {p : Probe} (h : c.MemOk) : (c.setProbe k p).MemOk := h

theorem State.MemOk.execProbe (h : s.MemOk) : OutOk (execProbe d a imm s) := by
  dsimp only [Machine.execProbe]
  refine h.stemRun ?_
  split
  · trivial
  · split
    · split
      · exact h.setCore (h.core _).setX
      · split
        · exact h.setCore (h.core _).setX
        · trivial
    · split
      · trivial
      · split
        · refine State.MemOk.modRunner (h.setCore (Core.MemOk.setX ?_))
          exact h.core _
        · trivial

theorem State.MemOk.slotRun {f : Core → Fin 256 → Res} (h : s.MemOk) (hf : ∀ k, (f (s.core s.cur) k).MemOk) :
    OutOk (slotRun a s f) := by
  refine h.stemRun ?_
  dsimp only
  split
  · trivial
  · exact hf _

theorem State.MemOk.execPwait (h : s.MemOk) : OutOk (execPwait a s) := by
  refine h.slotRun fun _ => ?_
  split <;> exact h

theorem State.MemOk.execPin (h : s.MemOk) : OutOk (execPin a s) := h.slotRun fun _ => h.setCore (h.core _).setProbe
theorem State.MemOk.execUnpin (h : s.MemOk) : OutOk (execUnpin a s) :=
  h.slotRun fun _ => h.setCore (h.core _).setProbe

theorem State.MemOk.execCinv (h : s.MemOk) : OutOk (execCinv a s) := by
  refine h.stemRun ?_
  split
  · exact h
  · split
    · exact h
    · exact h.setCore (h.core _).setProbe

theorem Core.MemOk.clearProbes {c : Core} (h : c.MemOk) : c.clearProbes.MemOk := h

theorem State.MemOk.execCinvAll (h : s.MemOk) : OutOk (execCinvAll s) := by
  refine h.stemRun ?_
  split
  · exact h
  · exact h.setCore (h.core _).clearProbes

theorem Core.MemOk.withSlots {v : Vector Slot 4} (h : k.MemOk) : { k with slots := v }.MemOk := h

theorem State.MemOk.execShld (h : s.MemOk) : OutOk (execShld sh a s) := by
  refine h.stemRun (Res.memOk_withAddr fun x => ?_)
  dsimp only
  generalize BitVec.ofNat 1024 ((s.core s.cur).read x 128) = bits
  split
  · exact h
  · split
    · trivial
    · split
      · exact h.setCore (h.core _).noteSoft.withSlots
      · trivial

theorem State.MemOk.execShinv (h : s.MemOk) : OutOk (execShinv sh s) := h.stemRun (h.setCore (h.core _))
theorem State.MemOk.execTrap (h : s.MemOk) : OutOk (execTrap imm s) := h.stemRun trivial

theorem State.MemOk.execSysrd (h : s.MemOk) : OutOk (execSysrd d r s) := by
  refine h.stemRun ?_
  split
  · trivial
  · exact h.setCore (h.core _).setX

theorem Core.MemOk.writeSys {c : Core} {r : Nat} {v : Word} (h : c.MemOk) : AllOk Core.MemOk (c.writeSys r v) := by
  dsimp only [Core.writeSys]
  split
  · exact h.setStem
  · exact h.setStem
  · exact h.setStem
  · exact h.setStem
  · exact h.setStem
  · exact h.setStem.setVec
  · split
    · trivial
    · exact h.clearProbes.setStem
  · split
    · split
      · exact h.setStem
      · trivial
    · split
      · exact h.setStem
      · trivial

theorem State.MemOk.execSyswr (h : s.MemOk) : OutOk (execSyswr a r s) := by
  refine h.stemRun ?_
  split
  · trivial
  · split
    · exact h
    · split
      · rename_i e2
        exact h.setCore ((h.core _).writeSys.of e2)
      · trivial

theorem State.MemOk.execRdcyc (h : s.MemOk) : OutOk (execRdcyc d s) := h.stemRun (h.setCore (h.core _).setX)
theorem State.MemOk.execNop (h : s.MemOk) : OutOk (execNop s) := h.stemRun h

theorem State.MemOk.execEret (h : s.MemOk) : OutOk (execEret s) := by
  dsimp only [Machine.execEret]
  refine h.stemRun ?_
  split
  · trivial
  · split
    · trivial
    · exact h.setCore (h.core _).eretState

end

/-! ### Nest records (Machine/Nest) -/

section
variable {s : State} {n : Nest} {id va : Nat} {tag : Tag} {ctx : BitVec 16} {b : BitVec 1024} {c : Cause}

theorem Nest.memOk_fresh {prio : BitVec 4} {vf : Nat} {sup child : Bool} {pool : Option DieId}
    {slot : Option (Fin 64)} {wdog : W32} {saveva : Word} :
    (Nest.fresh id b prio ctx vf sup child pool slot wdog saveva).MemOk := fun _ hx => (List.not_mem_nil hx).elim

theorem State.MemOk.addNest {n : Nat → Nest} (h : s.MemOk) (hn : ∀ i, (n i).MemOk) : (s.addNest n).MemOk := by
  refine h.modPkg fun p hp m hm => ?_
  rcases List.mem_append.mp hm with hm | hm
  · exact hp m hm
  · rw [List.mem_singleton.mp hm]; exact hn _

theorem State.MemOk.modNest {f : Nest → Nest} (h : s.MemOk)
    (hf : ∀ n, n.MemOk → (f n).MemOk := by exact fun _ hn => hn) : (s.modNest id f).MemOk := by
  refine h.modPkg fun p hp n hn => ?_
  obtain ⟨m, hm, rfl⟩ := List.mem_map.mp hn
  split
  · exact hf m (hp m hm)
  · exact hp m hm

theorem Nest.MemOk.withCause (h : n.MemOk) : (n.withCause c).MemOk := h
theorem Nest.memOk_noMore : n.noMore.MemOk := fun _ hx => (List.not_mem_nil hx).elim

theorem Nest.MemOk.settle (h : n.MemOk) : n.settle.MemOk := by
  dsimp only [Nest.settle]
  split <;> exact h

theorem State.MemOk.serviceRead {n : Nat} (h : s.MemOk) : AllOk FstOk (s.serviceRead tag va n) := by
  dsimp only [State.serviceRead]
  split
  · trivial
  · trivial
  · rename_i e
    split
    · split
      · trivial
      · exact (h.translate.of e).noteRead
    · split
      · trivial
      · exact h.translate.of e

theorem State.MemOk.serviceWrite {bs : List Byte} (h : s.MemOk) : AllOk State.MemOk (s.serviceWrite tag va bs) := by
  dsimp only [State.serviceWrite]
  split
  · trivial
  · trivial
  · rename_i e
    split
    · split
      · trivial
      · exact (h.translate.of e).homeWrite
    · split
      · trivial
      · exact h.translate.of e

theorem State.MemOk.serviceAdd (h : s.MemOk) : AllOk State.MemOk (s.serviceAdd tag va) := by
  dsimp only [State.serviceAdd]
  split
  · trivial
  · trivial
  · rename_i e
    split
    · split
      · trivial
      · trivial
      · exact (h.translate.of e).noteRead.homeWrite
    · split
      · trivial
      · exact h.translate.of e

theorem State.MemOk.completionWord (h : s.MemOk) : (s.completionWord n).1.MemOk := by
  dsimp only [State.completionWord]
  split
  · exact h
  · rename_i e
    split
    · exact h.serviceWrite.of e
    · rename_i e1
      exact (h.serviceWrite.of e).serviceAdd.of e1

theorem State.MemOk.finishNest (h : s.MemOk) : AllSome State.MemOk (s.finishNest n) := by
  have h' : (s.modPkg fun p => { p with nests := p.nests.filter fun x => x.id != n.id }).MemOk :=
    h.modPkg fun p hp m hm => hp m (List.mem_of_mem_filter hm)
  have hw := h'.completionWord (n := n)
  dsimp only [State.finishNest]
  split
  · exact h'
  · split
    · rename_i e; rw [e] at hw; exact hw
    · rename_i e; rw [e] at hw
      exact (State.MemOk.postFault hw).map fun _ hx => hx.fst

theorem State.MemOk.savedOf {c : CoreId} {i : Nat} {x : Saved} (h : s.MemOk) (e : s.savedOf c ctx = some (i, x)) :
    x.MemOk := by
  obtain ⟨n, hn, hx⟩ := List.exists_of_findSome?_eq_some e
  split at hx
  · obtain ⟨y, hy, he⟩ := Option.map_eq_some_iff.mp hx
    cases he
    exact h.pkg n hn _ (List.mem_of_find?_eq_some hy)
  · cases hx

theorem Nest.MemOk.dropSaved {c : CoreId} {num : Nat} (h : n.MemOk) : (dropSaved c num n).MemOk :=
  fun x hx => h x (List.mem_of_mem_filter hx)

theorem State.MemOk.execNestDone (h : s.MemOk) : OutOk (execNestDone id s) := by
  dsimp only [Machine.execNestDone]
  split
  · exact h
  · split
    · exact h.finishNest.getD h
    · exact h

theorem State.MemOk.nestWaits {l : List Nat} (h : s.MemOk) : AllOk FstOk (nestWaits b tag l s) := by
  induction l generalizing s with
  | nil => exact h
  | cons k ks ih =>
    dsimp only [Machine.nestWaits]
    split
    · exact ih h
    · split
      · trivial
      · rename_i e
        split
        · exact h.serviceRead.fst e
        · exact ih (h.serviceRead.fst e)

theorem State.MemOk.serviceCause (h : s.MemOk) : (s.serviceCause c ctx).MemOk := h.logCause

theorem State.MemOk.execNestReady (h : s.MemOk) : OutOk (execNestReady id s) := by
  dsimp only [Machine.execNestReady]
  split
  · exact h
  · split
    · split
      · rename_i c _
        exact h.serviceCause.modNest fun n _ => Nest.memOk_noMore (n := n.withCause c)
      · rename_i e
        exact (h.nestWaits.fst e).modNest
      · rename_i e
        exact h.nestWaits.fst e
    · exact h

end

/-! ### The issue of a vector instruction (Machine/VecCore) -/

section
variable {s : State} {cause : Cause} {val : Word} {late words : Nat}

theorem State.MemOk.vecFaultAt {w : Nat} (h : s.MemOk) : (s.vecFaultAt w cause val late).MemOk := by
  refine State.MemOk.logCore (h.modCore fun _ hk => ?_)
  split
  · exact hk
  · exact hk.setVec

theorem State.MemOk.vecFault (h : s.MemOk) : (s.vecFault cause val late).MemOk := h.vecFaultAt
theorem State.MemOk.issue {x : VX} {e : VEff} (h : s.MemOk) (he : e.MemOk) : (x.issue words e s).MemOk :=
  he _ h.modCore.passTo

theorem State.MemOk.vecRun {f : VX → VRes VEff} (h : s.MemOk) (hf : ∀ x, AllOk VEff.MemOk (f x)) :
    OutOk (vecRun words s f) := by
  dsimp only [Machine.vecRun]
  split
  · exact h
  · split
    · exact h.vecFault
    · rename_i e
      split
      · exact h.vecFault
      · split
        · exact h.vecFault
        · exact h.issue ((hf _).of e)

end

/-! ### Sequencer programs (Machine/Perco) -/

section
variable {s : State} {d : Reg} {a b x y : Src} {ty : Ty} {n : Fin 16} {ofs imm : BitVec 16} {q : Seqr} {va sub : Word}
  {f cont : Seqr → Seqr} {cause : Cause} {acc : Option Access} {size : BitVec 2} {r : BitVec 12}

theorem State.MemOk.modSeq {d : DieId} (h : s.MemOk) (hf : ∀ q, q.MemOk → (f q).MemOk := by exact fun _ hq => hq) :
    (s.modSeq d n f).MemOk :=
  h.modRunner fun _ hr i => vector_get_set_of (P := Seqr.MemOk) n hr (hf _ (hr n)) i

theorem Seqr.MemOk.setG {r : Reg} {v : Word} (h : q.MemOk) : (q.setG r v).MemOk := by
  dsimp only [Seqr.setG]
  split <;> exact h

theorem State.MemOk.modCurSeq (h : s.MemOk) (hf : ∀ q, q.MemOk → (f q).MemOk := by exact fun _ hq => hq) :
    (s.modCurSeq f).MemOk := h.modSeq hf

theorem Seqr.MemOk.ended (h : q.MemOk) : q.ended.MemOk := h
theorem State.MemOk.endProg {d : DieId} (h : s.MemOk) : (s.endProg d n).MemOk := h.modSeq

theorem State.MemOk.progStop {d : DieId} (h : s.MemOk)
    (hcont : ∀ y, y.MemOk → (cont y).MemOk := by exact fun _ hy => hy) :
    AllSome State.MemOk (s.progStop d n cause acc va sub cont) := by
  dsimp only [State.progStop]
  split
  · exact h.internalCheck.endProg
  · split
    · trivial
    · exact h.postFault.map fun _ hk => hk.fst.modSeq fun _ hk1 => hcont _ hk1

theorem State.MemOk.progFault {d : DieId} (h : s.MemOk)
    (hcont : ∀ y, y.MemOk → (cont y).MemOk := by exact fun _ hy => hy) :
    (s.progFault d n cause acc va sub cont).MemOk := (h.progStop (fun _ hk => hcont _ hk)).getD h

theorem State.MemOk.progUnfit {d : DieId} (h : s.MemOk) : AllSome State.MemOk (s.progUnfit d n va) := by
  dsimp only [State.progUnfit]
  split
  · exact h.internalCheck.endProg
  · exact h.postFault.map fun _ hk => hk.fst.endProg

theorem State.MemOk.progWait {d : DieId} (h : s.MemOk) : (s.progWait d n).MemOk := h.modSeq

theorem State.MemOk.percoRun {priv : Bool} {f : Seqr → PRes} (h : s.MemOk) (hf : (f s.curSeqr).MemOk) :
    OutOk (percoRun priv s f) := by
  dsimp only [Machine.percoRun]
  split
  · exact h.progFault
  · split
    all_goals rename_i e; rw [e] at hf
    · exact State.MemOk.modCurSeq hf
    · exact State.MemOk.modCurSeq hf
    · exact h.progFault
    · exact h.progFault
    · exact h.internalCheck.endProg
    · exact h.logCause.endProg
    · exact State.MemOk.progWait hf
    · exact State.MemOk.endProg hf

theorem State.MemOk.percoSet {words : Nat} {v : Seqr → Word} (h : s.MemOk) : OutOk (percoSet d words s v) :=
  h.percoRun (h.modCurSeq (fun _ hk => hk.setG))
theorem Seqr.memOk_started {st : Start} {prog : Nat} : (q.started st prog).MemOk := Seqr.memOk_reset

theorem State.MemOk.execSequencerStart {d : DieId} (h : s.MemOk) : OutOk (execSequencerStart d s) := by
  dsimp only [Machine.execSequencerStart]
  split
  · exact h
  · split
    · exact h
    · split
      · exact h.modRunner
      · split
        · exact h.modRunner.internalCheck
        · split
          · split
            · rename_i e5
              exact h.modRunner.postFault.fst e5
            · exact h
          · exact (h.modRunner.modSeq (fun _ _ => Seqr.memOk_started)).modPkg

theorem State.MemOk.execPercoWatchdog {d : DieId} (h : s.MemOk) : OutOk (execPercoWatchdog d n s) := by
  dsimp only [Machine.execPercoWatchdog]
  split
  · exact h
  · split
    · exact h.progFault
    · exact h

theorem State.MemOk.percoAlu {f : AluFn} (h : s.MemOk) : OutOk (percoAlu f d a b ty s) := by
  refine h.percoRun ?_
  split
  · trivial
  · exact h.modCurSeq fun _ hk => hk.setG

theorem State.MemOk.execPercoAdd (h : s.MemOk) : OutOk (execPercoAdd d a b ty s) := h.percoAlu
theorem State.MemOk.execPercoSub (h : s.MemOk) : OutOk (execPercoSub d a b ty s) := h.percoAlu
theorem State.MemOk.execPercoMul (h : s.MemOk) : OutOk (execPercoMul d a b ty s) := h.percoAlu
theorem State.MemOk.execPercoAnd (h : s.MemOk) : OutOk (execPercoAnd d a b ty s) := h.percoAlu
theorem State.MemOk.execPercoOr (h : s.MemOk) : OutOk (execPercoOr d a b ty s) := h.percoAlu
theorem State.MemOk.execPercoXor (h : s.MemOk) : OutOk (execPercoXor d a b ty s) := h.percoAlu
theorem State.MemOk.execPercoShl (h : s.MemOk) : OutOk (execPercoShl d a b ty s) := h.percoAlu
theorem State.MemOk.execPercoShr (h : s.MemOk) : OutOk (execPercoShr d a b ty s) := h.percoAlu
theorem State.MemOk.execPercoMin (h : s.MemOk) : OutOk (execPercoMin d a b ty s) := h.percoAlu
theorem State.MemOk.execPercoMax (h : s.MemOk) : OutOk (execPercoMax d a b ty s) := h.percoAlu
theorem State.MemOk.execPercoMinUnsigned (h : s.MemOk) : OutOk (execPercoMinUnsigned d a b ty s) := h.percoAlu
theorem State.MemOk.execPercoMaxUnsigned (h : s.MemOk) : OutOk (execPercoMaxUnsigned d a b ty s) := h.percoAlu
theorem State.MemOk.execPercoLi {v : LiVal} (h : s.MemOk) : OutOk (execPercoLi d v s) := h.percoSet
theorem Seqr.MemOk.writeStore {a : Nat} {bs : List Byte} (h : q.MemOk) : (q.writeStore a bs).MemOk :=
  Mem.wf_memPut h a bs

theorem State.MemOk.execPercoLd {ofs : BitVec 10} (h : s.MemOk) : OutOk (execPercoLd d a size ofs s) := by
  dsimp only [Machine.execPercoLd]
  refine h.percoRun ?_
  split
  · trivial
  · exact h.modCurSeq fun _ hk => hk.setG

theorem State.MemOk.execPercoSt {ofs : BitVec 10} (h : s.MemOk) : OutOk (execPercoSt x a size ofs s) := by
  dsimp only [Machine.execPercoSt]
  refine h.percoRun ?_
  split
  · trivial
  · exact h.modCurSeq fun _ hk => hk.writeStore

theorem State.MemOk.percoBranch {cond : Word → Word → Bool} (h : s.MemOk) : OutOk (percoBranch cond x y ofs s) := by
  refine h.percoRun ?_
  split <;> exact h

theorem State.MemOk.execPercoBeq (h : s.MemOk) : OutOk (execPercoBeq x y ofs s) := h.percoBranch
theorem State.MemOk.execPercoBne (h : s.MemOk) : OutOk (execPercoBne x y ofs s) := h.percoBranch
theorem State.MemOk.execPercoBlt (h : s.MemOk) : OutOk (execPercoBlt x y ofs s) := h.percoBranch
theorem State.MemOk.execPercoBge (h : s.MemOk) : OutOk (execPercoBge x y ofs s) := h.percoBranch
theorem State.MemOk.execPercoJ {ofs : BitVec 26} (h : s.MemOk) : OutOk (execPercoJ ofs s) := h.percoRun h

theorem State.MemOk.execPercoCall {ofs : BitVec 26} (h : s.MemOk) : OutOk (execPercoCall ofs s) := by
  refine h.percoRun ?_
  split
  · trivial
  · exact h.modCurSeq

theorem State.MemOk.execPercoRet (h : s.MemOk) : OutOk (execPercoRet s) := by
  refine h.percoRun ?_
  split
  · trivial
  · exact h.modCurSeq

theorem State.MemOk.execPercoLoop (h : s.MemOk) : OutOk (execPercoLoop a imm s) := by
  dsimp only [Machine.execPercoLoop]
  refine h.percoRun ?_
  split
  · trivial
  · split
    · exact h
    · split
      · trivial
      · exact h.modCurSeq

theorem State.MemOk.execPercoTrap (h : s.MemOk) : OutOk (execPercoTrap imm s) := h.percoRun trivial
theorem State.MemOk.execPercoHalt (h : s.MemOk) : OutOk (execPercoHalt s) := h.percoRun h
theorem State.MemOk.execPercoNop (h : s.MemOk) : OutOk (execPercoNop s) := h.percoRun h

theorem State.MemOk.execPercoSysrd (h : s.MemOk) : OutOk (execPercoSysrd d r s) := by
  refine h.percoRun ?_
  split
  · trivial
  · exact h.modCurSeq fun _ hk => hk.setG

theorem State.MemOk.execPercoSyswr (h : s.MemOk) : OutOk (execPercoSyswr a r s) := by
  dsimp only [Machine.execPercoSyswr]
  split
  · exact h.percoRun trivial
  · refine h.percoRun ?_
    split
    · exact h.modCurSeq
    · trivial

theorem State.MemOk.execUnassignedEncoding {st : Strm} {w : W32} (h : s.MemOk) :
    OutOk (execUnassignedEncoding st w s) := by
  dsimp only [Machine.execUnassignedEncoding]
  split
  · exact h.stemTrap
  · exact h.vecFault
  · exact h.progFault

end

/-! ### Vector arithmetic (Machine/VecArith) -/

section
variable {s : State} {m : Fin 8} {d sc : Reg} {ty : Ty} {a b : VSrc} {r : Round} {u sat : Bool} {lat : Nat}
  {f : Nat → Nat → Nat → Nat}

theorem State.MemOk.lane1 {f : Nat → Nat} (h : s.MemOk) : OutOk (lane1 d a m ty lat f s) :=
  h.vecRun fun _ => AllOk.bind_any fun _ _ h => h
theorem State.MemOk.lane2 {f : Nat → Nat → Nat} (h : s.MemOk) : OutOk (lane2 d a b m ty lat f s) :=
  h.vecRun fun _ => AllOk.bind_any fun _ _ h => h
theorem State.MemOk.lane3 (h : s.MemOk) : OutOk (lane3 d a b m ty lat f s) :=
  h.vecRun fun _ => AllOk.bind_any fun _ _ h => h
theorem State.MemOk.floatLane {mode : Round} {op : Round → FVal → FVal → FVal} (h : s.MemOk) :
    OutOk (floatLane d a b m ty mode op s) := h.vecRun fun _ => AllOk.bind_any fun _ _ h => h
theorem State.MemOk.execVadd (h : s.MemOk) : OutOk (execVadd d a b m ty r s) := h.floatLane
theorem State.MemOk.execVsub (h : s.MemOk) : OutOk (execVsub d a b m ty r s) := h.floatLane
theorem State.MemOk.execVmul (h : s.MemOk) : OutOk (execVmul d a b m ty r s) := h.floatLane
theorem State.MemOk.execVfma (h : s.MemOk) : OutOk (execVfma d a b m ty r s) :=
  h.vecRun fun _ => AllOk.bind_any fun _ _ h => h
theorem State.MemOk.execVmin (h : s.MemOk) : OutOk (execVmin d a b m ty s) := h.lane2
theorem State.MemOk.execVmax (h : s.MemOk) : OutOk (execVmax d a b m ty s) := h.lane2
theorem State.MemOk.execVexp2 (h : s.MemOk) : OutOk (execVexp2 d a m ty s) := h.lane1
theorem State.MemOk.execVlog2 (h : s.MemOk) : OutOk (execVlog2 d a m ty s) := h.lane1
theorem State.MemOk.execVrcp (h : s.MemOk) : OutOk (execVrcp d a m ty s) := h.lane1
theorem State.MemOk.execVrsq (h : s.MemOk) : OutOk (execVrsq d a m ty s) := h.lane1
theorem State.MemOk.execVtanh (h : s.MemOk) : OutOk (execVtanh d a m ty s) := h.lane1
theorem State.MemOk.execVrnd (h : s.MemOk) : OutOk (execVrnd d a m ty r s) := h.lane1
theorem State.MemOk.intLane (h : s.MemOk) : OutOk (intLane d a b m ty lat f s) := h.lane2
theorem State.MemOk.execViadd (h : s.MemOk) : OutOk (execViadd d a b m ty u sat s) := h.intLane
theorem State.MemOk.execVisub (h : s.MemOk) : OutOk (execVisub d a b m ty u sat s) := h.intLane
theorem State.MemOk.execVimul {h : Bool} (hs : s.MemOk) : OutOk (execVimul d a b m ty h u s) := hs.intLane
theorem State.MemOk.execVimad (h : s.MemOk) : OutOk (execVimad d a b m ty u sat s) := h.lane3
theorem State.MemOk.execVand (h : s.MemOk) : OutOk (execVand d a b m ty s) := h.intLane
theorem State.MemOk.execVor (h : s.MemOk) : OutOk (execVor d a b m ty s) := h.intLane
theorem State.MemOk.execVxor (h : s.MemOk) : OutOk (execVxor d a b m ty s) := h.intLane
theorem State.MemOk.execVshl (h : s.MemOk) : OutOk (execVshl d a b m ty s) := h.intLane
theorem State.MemOk.execVshr (h : s.MemOk) : OutOk (execVshr d a b m ty s) := h.intLane
theorem State.MemOk.execVsra (h : s.MemOk) : OutOk (execVsra d a b m ty s) := h.intLane
theorem State.MemOk.execVimin (h : s.MemOk) : OutOk (execVimin d a b m ty u s) := h.intLane
theorem State.MemOk.execVimax (h : s.MemOk) : OutOk (execVimax d a b m ty u s) := h.intLane
theorem State.MemOk.execVcmp {d c : Fin 8} (h : s.MemOk) : OutOk (execVcmp d a b m ty u c s) :=
  h.vecRun fun _ => AllOk.bind_any fun _ => AllOk.bind_any fun _ _ h => h
theorem State.MemOk.execVsel (h : s.MemOk) : OutOk (execVsel d a b m ty s) :=
  h.vecRun fun _ => AllOk.bind_any fun _ _ h => h
theorem State.MemOk.maskRun {d : Fin 8} {reads : List (Fin 8)} {f : (Fin 8 → Mask) → Mask} (h : s.MemOk) :
    OutOk (maskRun d reads f s) := h.vecRun fun _ _ h => h
theorem State.MemOk.execVmopAnd {d a b : Fin 8} (h : s.MemOk) : OutOk (execVmopAnd d a b s) := h.maskRun
theorem State.MemOk.execVmopOr {d a b : Fin 8} (h : s.MemOk) : OutOk (execVmopOr d a b s) := h.maskRun
theorem State.MemOk.execVmopXor {d a b : Fin 8} (h : s.MemOk) : OutOk (execVmopXor d a b s) := h.maskRun
theorem State.MemOk.execVmopAndn {d a b : Fin 8} (h : s.MemOk) : OutOk (execVmopAndn d a b s) := h.maskRun
theorem State.MemOk.execVmopNot {d a : Fin 8} (h : s.MemOk) : OutOk (execVmopNot d a s) := h.maskRun
theorem State.MemOk.execVmopOnes {d : Fin 8} (h : s.MemOk) : OutOk (execVmopOnes d s) := h.maskRun
theorem State.MemOk.execVmopZeros {d : Fin 8} (h : s.MemOk) : OutOk (execVmopZeros d s) := h.maskRun
theorem State.MemOk.execVmopCopy {d a : Fin 8} (h : s.MemOk) : OutOk (execVmopCopy d a s) := h.maskRun
theorem State.MemOk.mpopRun {d a : Fin 8} {f : List Nat → Nat} (h : s.MemOk) : OutOk (mpopRun d a f s) :=
  h.vecRun fun _ _ h => h
theorem State.MemOk.execVmpop {d a : Fin 8} (h : s.MemOk) : OutOk (execVmpop d a s) := h.mpopRun
theorem State.MemOk.execVmpopFirst {d a : Fin 8} (h : s.MemOk) : OutOk (execVmpopFirst d a s) := h.mpopRun
theorem State.MemOk.execVcvt {a : Reg} {sty : Ty} {su du : Bool} (h : s.MemOk) :
    OutOk (execVcvt d a sty su m ty du r s) := h.vecRun fun _ => AllOk.bind_any fun _ => AllOk.bind_any fun _ _ h => h
theorem State.MemOk.execVquant {a : Reg} (h : s.MemOk) : OutOk (execVquant d a sc m ty r s) :=
  h.vecRun fun _ => AllOk.bind_any fun _ => AllOk.bind_any fun _ _ h => h
theorem State.MemOk.execVdeq {a : Reg} (h : s.MemOk) : OutOk (execVdeq d a sc m ty s) :=
  h.vecRun fun _ => AllOk.bind_any fun _ _ h => h
theorem State.MemOk.execVsacc {a : Reg} (h : s.MemOk) : OutOk (execVsacc d a sc m s) :=
  h.vecRun fun _ => AllOk.bind_any fun _ _ h => h

end

/-! ### Vector loads and stores (Machine/VecMem) -/

section
variable {s : State} {m a : Fin 8} {ty : Ty} {d : Reg} {b : ESrc} {v : VSrc} {pf sc : Bool} {c : CoreId}
  {p k t : Fin 4}

theorem State.MemOk.storeWord {q : Nat × Nat × Nat} (h : s.MemOk) : (storeWord c s q).MemOk := by
  dsimp only [Machine.storeWord]
  split
  · exact h.writeScratch
  · split
    · exact h
    · exact (h.modCore (fun _ hk => hk.noteSoft)).writeScratch

theorem VEff.memOk_store {x : VX} {wb wI : Nat} {n : Fin 8} {reads : List VRead} {data : Nat → Nat} {l : List VPlace}
    {next : Option Nat} : AllOk VEff.MemOk (x.store wb wI n reads data l next) := by
  dsimp only [VX.store]
  split
  · trivial
  · exact fun _ h => h

theorem State.MemOk.serveWord (h : s.MemOk) : (s.serveWord c).MemOk := by
  dsimp only [State.serveWord]
  split
  · exact h
  · split
    · split
      · exact h.modCore.passTo
      · exact h.modCore.passTo.modCore
    · split
      · exact h.modCore.passTo.modCore fun _ hk => hk.noteSoft.setVec
      · exact h.modCore.passTo.storeWord

theorem State.MemOk.execVld (h : s.MemOk) : OutOk (execVld d a b m ty p s) :=
  h.vecRun fun _ => AllOk.bind_any fun _ => AllOk.bind_any fun _ _ h => h
theorem State.MemOk.execVst (h : s.MemOk) : OutOk (execVst v a b m ty p s) :=
  h.vecRun fun _ => AllOk.bind_any fun _ => AllOk.bind_any fun _ => VEff.memOk_store
theorem State.MemOk.execVldRagged (h : s.MemOk) : OutOk (execVldRagged d a b m ty pf k s) :=
  h.vecRun fun _ => AllOk.bind_any fun _ => AllOk.bind_any fun _ => AllOk.bind_any fun _ _ h => h
theorem State.MemOk.execVstRagged (h : s.MemOk) : OutOk (execVstRagged v a b m ty pf k s) :=
  h.vecRun fun _ => AllOk.bind_any fun _ => AllOk.bind_any fun _ => AllOk.bind_any fun _ => VEff.memOk_store
theorem State.MemOk.rowLoad (h : s.MemOk) : OutOk (rowLoad d a m ty pf s) :=
  h.vecRun fun _ => AllOk.bind_any fun _ => AllOk.bind_any fun _ _ h => h
theorem State.MemOk.execVldb (h : s.MemOk) : OutOk (execVldb d a m ty s) := h.rowLoad
theorem State.MemOk.execVldbPf (h : s.MemOk) : OutOk (execVldbPf d a m ty s) := h.rowLoad
theorem State.MemOk.execVgath {b : VSrc} (h : s.MemOk) : OutOk (execVgath d a b m ty sc s) :=
  h.vecRun fun _ => AllOk.bind_any fun _ _ h => h
theorem State.MemOk.execVscat {b : VSrc} (h : s.MemOk) : OutOk (execVscat v a b m ty sc s) :=
  h.vecRun fun _ => AllOk.bind_any fun _ => VEff.memOk_store
theorem State.MemOk.execVtrd (h : s.MemOk) : OutOk (execVtrd d t b m ty s) :=
  h.vecRun fun _ => AllOk.bind_any fun _ => AllOk.bind_any fun _ => AllOk.bind_any fun _ _ h => h

theorem State.MemOk.execVtrel (h : s.MemOk) : OutOk (execVtrel t s) := by
  refine h.vecRun fun _ => AllOk.bind_any fun _ u hu => ?_
  dsimp only
  exact hu.modCore

end

/-! ### Shape, pointers, moves and segment control (Machine/VecMove) -/

section
variable {s : State} {a b : ESrc} {d n m : Fin 8} {ty : Ty}

theorem State.MemOk.execVshape (h : s.MemOk) : OutOk (execVshape a s) :=
  h.vecRun fun _ => AllOk.bind_any fun _ _ h => h
theorem State.MemOk.scalRun {srcs : List ESrc} {f : VX → Nat} (h : s.MemOk) : OutOk (scalRun d srcs f s) :=
  h.vecRun fun _ _ h => h
theorem State.MemOk.execVshapeRd (h : s.MemOk) : OutOk (execVshapeRd d s) := h.scalRun
theorem State.MemOk.asetRun {limit : Nat} {aligned : Bool} {f : Nat → Vec → Vec} (h : s.MemOk) :
    OutOk (asetRun a limit aligned f s) := h.vecRun fun _ => AllOk.bind_any fun _ => AllOk.bind_any fun _ _ h => h
theorem State.MemOk.execVaset (h : s.MemOk) : OutOk (execVaset n a s) := h.asetRun
theorem State.MemOk.execVasetWst (h : s.MemOk) : OutOk (execVasetWst n a s) := h.asetRun
theorem State.MemOk.execVasetWlen (h : s.MemOk) : OutOk (execVasetWlen n a s) := h.asetRun
theorem State.MemOk.execVasetRd {a : Fin 8} (h : s.MemOk) : OutOk (execVasetRd d a s) := h.scalRun
theorem State.MemOk.execVaadd (h : s.MemOk) : OutOk (execVaadd n a s) :=
  h.vecRun fun _ => AllOk.bind_any fun _ _ h => h
theorem State.MemOk.execVmov {d : Reg} {a : VSrc} (h : s.MemOk) : OutOk (execVmov d a m ty s) := h.lane1
theorem State.MemOk.execVmovIns {d : Reg} (h : s.MemOk) : OutOk (execVmovIns d a b ty s) :=
  h.vecRun fun _ => AllOk.bind_any fun _ _ h => h
theorem State.MemOk.execVmovExt {a : Reg} (h : s.MemOk) : OutOk (execVmovExt d a b ty s) :=
  h.vecRun fun _ => AllOk.bind_any fun _ _ h => h
theorem State.MemOk.execVsplat {d : Reg} (h : s.MemOk) : OutOk (execVsplat d a m ty s) :=
  h.vecRun fun _ => AllOk.bind_any fun _ _ h => h
theorem State.MemOk.execVsplatRow {d a : Reg} (h : s.MemOk) : OutOk (execVsplatRow d a m ty s) :=
  h.vecRun fun _ => AllOk.bind_any fun _ _ h => h
theorem State.MemOk.execVsplatCol {d a : Reg} (h : s.MemOk) : OutOk (execVsplatCol d a m ty s) :=
  h.vecRun fun _ => AllOk.bind_any fun _ _ h => h
theorem State.MemOk.execVend (h : s.MemOk) : OutOk (execVend s) := h.vecRun fun _ _ h => h
theorem State.MemOk.execVnop (h : s.MemOk) : OutOk (execVnop s) := h.vecRun fun _ _ h => h
theorem State.MemOk.execVtokr {f : Fin 6} (h : s.MemOk) : OutOk (execVtokr d f s) := h.scalRun
theorem State.MemOk.execVeop {a : Fin 8} (h : s.MemOk) : OutOk (execVeop a s) := h.vecRun fun _ _ h => h
theorem State.MemOk.execVlit (h : s.MemOk) : OutOk (execVlit d a s) := h.scalRun
theorem State.MemOk.litRun {f : W32 → W32 → W32} (h : s.MemOk) : OutOk (litRun d a f s) := h.vecRun fun _ _ h => h
theorem State.MemOk.execVlitAdd (h : s.MemOk) : OutOk (execVlitAdd d a s) := h.litRun
theorem State.MemOk.execVlitSub (h : s.MemOk) : OutOk (execVlitSub d a s) := h.litRun

end

/-! ### Vector reductions and permutations (Machine/VecRed) -/

section
variable {a d : Reg} {s : State} {m : Fin 8} {ty : Ty} {b : ESrc} {g : Dir}

theorem State.MemOk.redRun {op : RedOp} (h : s.MemOk) : OutOk (redRun op d a b m ty g s) :=
  h.vecRun fun _ => AllOk.bind_any fun _ => AllOk.bind_any fun _ _ h => h
theorem State.MemOk.execVredAdd (h : s.MemOk) : OutOk (execVredAdd d a b m ty g s) := h.redRun
theorem State.MemOk.execVredMax (h : s.MemOk) : OutOk (execVredMax d a b m ty g s) := h.redRun
theorem State.MemOk.execVredMin (h : s.MemOk) : OutOk (execVredMin d a b m ty g s) := h.redRun
theorem State.MemOk.idxRun {isMax : Bool} (h : s.MemOk) : OutOk (idxRun isMax d a b m ty g s) :=
  h.vecRun fun _ => AllOk.bind_any fun _ => AllOk.bind_any fun _ => AllOk.bind_any fun _ _ h => h
theorem State.MemOk.execVridxMax (h : s.MemOk) : OutOk (execVridxMax d a b m ty g s) := h.idxRun
theorem State.MemOk.execVridxMin (h : s.MemOk) : OutOk (execVridxMin d a b m ty g s) := h.idxRun

theorem State.MemOk.groupRun {lat : Nat} {e7 : Bool} {f : W32 → List Nat → List Nat}
    {extra : VX → VGroup → List (Nat × Nat)} (h : s.MemOk) : OutOk (groupRun lat d a b m ty g e7 f extra s) :=
  h.vecRun fun _ => AllOk.bind_any fun _ => AllOk.bind_any fun _ _ h => h

theorem State.MemOk.execVscanAdd (h : s.MemOk) : OutOk (execVscanAdd d a b m ty g s) := h.groupRun
theorem State.MemOk.execVscanMax (h : s.MemOk) : OutOk (execVscanMax d a b m ty g s) := h.groupRun
theorem State.MemOk.execVscanMin (h : s.MemOk) : OutOk (execVscanMin d a b m ty g s) := h.groupRun
theorem State.MemOk.execVnormMs (h : s.MemOk) : OutOk (execVnormMs d a b m ty g s) := h.groupRun
theorem State.MemOk.execVnormRms (h : s.MemOk) : OutOk (execVnormRms d a b m ty g s) := h.groupRun
theorem State.MemOk.execVsmax (h : s.MemOk) : OutOk (execVsmax d a b m ty g s) := h.groupRun
theorem State.MemOk.execVhad {nrm : Bool} {k : Fin 8} (h : s.MemOk) : OutOk (execVhad d a m ty nrm k s) :=
  h.vecRun fun _ => AllOk.bind_any fun _ => AllOk.bind_any fun _ _ h => h
theorem State.MemOk.execVperm {b : VSrc} (h : s.MemOk) : OutOk (execVperm d a b m ty s) :=
  h.vecRun fun _ => AllOk.bind_any fun _ _ h => h
theorem State.MemOk.execVpermRows {b : VSrc} (h : s.MemOk) : OutOk (execVpermRows d a b m ty s) :=
  h.vecRun fun _ => AllOk.bind_any fun _ _ h => h
theorem State.MemOk.execVxpose (h : s.MemOk) : OutOk (execVxpose d a m ty s) :=
  h.vecRun fun _ => AllOk.bind_any fun _ => AllOk.bind_any fun _ _ h => h
theorem State.MemOk.slideRun {f : VX → Int → Nat → Option Nat} (h : s.MemOk) : OutOk (slideRun d a b m ty f s) :=
  h.vecRun fun _ => AllOk.bind_any fun _ _ h => h
theorem State.MemOk.execVslide (h : s.MemOk) : OutOk (execVslide d a b m ty s) := h.slideRun
theorem State.MemOk.execVslideRot (h : s.MemOk) : OutOk (execVslideRot d a b m ty s) := h.slideRun
theorem State.MemOk.execVslideFlat (h : s.MemOk) : OutOk (execVslideFlat d a b m ty s) := h.slideRun
theorem State.MemOk.execVchk (h : s.MemOk) : OutOk (execVchk a b s) := h.vecRun fun _ _ h => h
theorem State.MemOk.execVchkRd {d : Fin 8} (h : s.MemOk) : OutOk (execVchkRd d a s) := h.vecRun fun _ _ h => h

end

/-! ### Boxes of the copy engines (Machine/Box) -/

section
variable {s : State} {d : DieId} {c : CoreId} {p : Post}

theorem State.MemOk.modBox {mid : W32} {f : Box → Box} (h : s.MemOk) : (s.modBox d mid f).MemOk := h.modRunner
theorem State.MemOk.addBox {mk : W32 → Box} (h : s.MemOk) : (s.addBox d mk).MemOk := h.modRunner.modPkg

theorem State.MemOk.refusePost {cause : Cause} (h : s.MemOk) : (s.refusePost d c p cause).MemOk := by
  dsimp only [State.refusePost]
  split
  · rename_i e
    exact (h.postFault.fst e).modPkg.modCore
  · exact h

theorem State.MemOk.takePost (h : s.MemOk) : (s.takePost d c p).MemOk := by
  dsimp only [State.takePost]
  split
  · exact h.modCore
  · split
    · split
      · exact h
      · split
        · exact h.modCore.internalCheck
        · split
          · exact h.refusePost
          · exact h.modCore.addBox
    · split
      · exact h
      · exact h.modCore.modRunner

theorem State.MemOk.losePost (h : s.MemOk) : (s.losePost c p).MemOk := by
  dsimp only [State.losePost]
  split
  · exact h.refusePost
  · split
    · rename_i e1
      exact (h.postFault.fst e1).modCore
    · exact h

theorem State.MemOk.execPostAccept {hi : Bool} (h : s.MemOk) : OutOk (execPostAccept c hi s) := by
  dsimp only [Machine.execPostAccept]
  split
  · exact h.takePost
  · exact h.losePost
  · exact h

end

/-! ### Collective instances (Machine/Collect) -/

section
variable {s : State} {d : DieId} {r : Runner} {mid : W32} {id : Nat}

theorem State.MemOk.setHead {t : Target} {pseq : W32} {sel : Bool} (h : s.MemOk) : (s.setHead t pseq sel).MemOk :=
  h.homeWrite
theorem State.MemOk.modInst {f : Inst → Inst} (h : s.MemOk) : (s.modInst d id f).MemOk := h.modRunner
theorem Runner.MemOk.trimPast (h : r.MemOk) : (trimPast r).MemOk := h
theorem Runner.MemOk.remember {p : InstPast} (h : r.MemOk) : (remember p r).MemOk := Runner.MemOk.trimPast h
theorem State.MemOk.endInst {i : Inst} {state : Nat} (h : s.MemOk) : (s.endInst d i state).MemOk :=
  h.modRunner.modRunner

theorem State.MemOk.settleInst (h : s.MemOk) : (s.settleInst d id).MemOk := by
  dsimp only [State.settleInst]
  split
  · exact h
  · split
    · exact h.endInst
    · exact h

theorem State.MemOk.removeBox (h : s.MemOk) : (s.removeBox d mid).MemOk := by
  dsimp only [State.removeBox]
  split
  · exact h.modRunner.settleInst
  · exact h.modRunner

theorem Runner.MemOk.disown (h : r.MemOk) : (disown mid r).MemOk := by
  dsimp only [Machine.disown]
  split <;> exact h

theorem State.MemOk.withdraw (h : s.MemOk) : (s.withdraw d mid).MemOk := by
  refine State.memOk_of h.main h.host (fun c => ?_) (fun d' => ?_) h.pkg
  · refine vector_get_map_of (P := Core.MemOk) (fun k hk => ?_) h.core c
    split
    · exact hk
    · exact hk
  · refine vector_get_set_of (P := Runner.MemOk) d
      (vector_get_map_of (P := Runner.MemOk) (fun r hr => ?_) h.runner) ?_ d'
    · split
      · exact hr
      · exact hr
    · exact Runner.MemOk.disown (h.runner d)

end

/-! ### A copy engine at work (Machine/BoxRun) -/

section
variable {s : State} {d : DieId} {x b : Box} {bs : List Byte} {t : Target} {i n va a space core v : Nat} {mid : W32}
  {acc : Access} {cause : Cause} {op : HomeOp} {k : Core} {f : Fill} {c : CoreId} {r : HomeReq} {mark : Box → Box}
  {sp l : Spots} {whole : Bool} {reads : Reads} {ty : Ty} {hdr : Word}

theorem State.MemOk.locateVa {tag : Tag} {l : List (Nat × Nat)} (h : s.MemOk) :
    (locateVa d tag acc l s sp).MemOk := by
  induction l generalizing s sp with
  | nil => exact h
  | cons p r ih =>
    dsimp only [Machine.locateVa]
    split
    · trivial
    · trivial
    · rename_i e
      split
      · split
        · exact ih (h.translate.of e)
        · trivial
      · exact ih (h.translate.of e)

theorem State.MemOk.locate {a : Int} (h : s.MemOk) : (s.locate d x space core a n acc).MemOk := by
  dsimp only [State.locate]
  split
  · exact h.locateVa
  · exact h
  · split
    · trivial
    · split <;> exact h

theorem State.MemOk.dropBox (h : s.MemOk) : (s.dropBox d mid).MemOk := h.withdraw.removeBox
theorem State.MemOk.boxRecord {ended : Bool} {acc : Option Access} (h : s.MemOk) :
    AllSome FstOk (s.boxRecord d b ended cause acc va) := h.postFault

theorem State.MemOk.boxStop {acc : Option Access} (h : s.MemOk) :
    AllSome State.MemOk (s.boxStop d b cause acc va) := by
  dsimp only [State.boxStop]
  split
  · exact h.internalCheck.dropBox
  · split
    · trivial
    · exact h.boxRecord.map fun _ hk => hk.fst.withdraw.modBox

theorem State.MemOk.boxFault {acc : Option Access} (h : s.MemOk) : (s.boxFault d b cause acc va).MemOk :=
  h.boxStop.getD h

theorem State.MemOk.boxEnded (h : s.MemOk) : AllSome State.MemOk (s.boxEnded d b va) := by
  dsimp only [State.boxEnded]
  split
  · exact h.internalCheck.dropBox
  · exact h.boxRecord.map fun _ hk => hk.fst.dropBox

theorem State.MemOk.boxUnfit (h : s.MemOk) : (s.boxUnfit d b va).MemOk := h.boxEnded.getD h
theorem State.MemOk.boxRefused (h : s.MemOk) : (s.boxRefused d b).MemOk := h.internalCheck.dropBox

theorem State.MemOk.enqueue (h : s.MemOk) : AllSome State.MemOk (s.enqueue d b t op bs) := by
  dsimp only [State.enqueue]
  split
  · split
    · trivial
    · exact h.modCore
  · exact h.modRunner

theorem State.MemOk.fetchSpots {got acc : List Byte} (h : s.MemOk) : (fetchSpots d x whole l got s acc).MemOk := by
  induction l generalizing got s acc with
  | nil => exact h
  | cons p r ih =>
    obtain ⟨sp, n, va⟩ := p
    dsimp only [Machine.fetchSpots]
    split
    · exact ih h
    · split
      · split
        · split
          · exact h
          · split
            · trivial
            · split
              · exact ih h.noteRead
              · exact h.noteRead.modBox
        · split
          · rename_i e; exact (h.enqueue.of e).modBox
          · exact h
      · split
        · rename_i e; exact (h.sendFar.of e).modBox
        · exact h
        · trivial
      · split
        · trivial
        · exact ih h
      · exact ih h
      · exact ih h

theorem State.MemOk.locateAll {l : Reads} (h : s.MemOk) : (locateAll d x acc l s sp).MemOk := by
  induction l generalizing s sp with
  | nil => exact h
  | cons p r ih =>
    obtain ⟨space, core, a, n⟩ := p
    dsimp only [Machine.locateAll]
    split
    · rename_i e; exact ih (h.locate.of e)
    · trivial
    · trivial

theorem State.MemOk.fetch (h : s.MemOk) : (s.fetch d x reads).MemOk := by
  dsimp only [State.fetch]
  split
  · rename_i e
    exact (h.locateAll.of e).fetchSpots
  · trivial
  · trivial

theorem State.MemOk.fetchThen {k : State → List Byte → State} (h : s.MemOk) (hk : ∀ t l, t.MemOk → (k t l).MemOk) :
    (s.fetchThen d x reads k).MemOk := by
  dsimp only [State.fetchThen]
  split
  · rename_i e; exact hk _ _ (h.fetch.of e)
  · rename_i e; exact h.fetch.of_later e
  · exact h.boxFault
  · exact h.boxRefused

theorem State.MemOk.answered (h : s.MemOk) : (s.answered d mid).MemOk := by
  dsimp only [State.answered]
  split
  · exact h
  · split
    · exact h.modBox
    · split
      · exact h.removeBox
      · exact h.modBox

theorem State.MemOk.plainWrite (h : s.MemOk) : AllOk State.MemOk (s.plainWrite t bs) := by
  dsimp only [State.plainWrite]
  split
  · trivial
  · exact h.homeWrite

theorem State.MemOk.nibbleWrite {hi : Bool} (h : s.MemOk) : AllOk State.MemOk (s.nibbleWrite t hi v) := by
  dsimp only [State.nibbleWrite]
  split
  · trivial
  · exact h.plainWrite

theorem State.MemOk.taggedWrite {tag : BitVec 4} {fmt : Word} {nib : Option Bool} (h : s.MemOk) :
    AllOk State.MemOk (s.taggedWrite t tag fmt nib bs) := by
  dsimp only [State.taggedWrite]
  split
  · split
    · exact h.nibbleWrite
    · exact h.plainWrite
  · split
    · split
      · exact h.nibbleWrite
      · exact h.plainWrite
    · trivial
    · split
      · trivial
      · split
        · split
          · exact h.noteRead.nibbleWrite
          · exact h.noteRead.plainWrite
        · exact h.noteRead.plainWrite

theorem State.MemOk.combineAt {op : Nat} (h : s.MemOk) : AllOk State.MemOk (s.combineAt t op ty bs) := by
  dsimp only [State.combineAt]
  split
  · trivial
  · exact h.noteRead.plainWrite

theorem State.MemOk.semAddAt (h : s.MemOk) : AllOk State.MemOk (s.semAddAt t n) := by
  dsimp only [State.semAddAt]
  split
  · trivial
  · split
    · trivial
    · exact h.noteRead.plainWrite

theorem State.MemOk.perform (h : s.MemOk) : AllOk State.MemOk (s.perform t op bs) := by
  dsimp only [State.perform]
  split
  · exact h.taggedWrite
  · exact h.taggedWrite
  · exact h.combineAt
  · exact h.semAddAt
  · exact h

theorem Core.MemOk.onImage {m : Mem} (h : k.MemOk) (hm : Mem.wf m = true) : (k.onImage m).MemOk :=
  Core.memOk_iff.mpr ⟨hm, h.imem, h.seg, h.tiles, h.moulds, h.mat⟩

theorem Nest.MemOk.setImage {n : Nest} {y : Saved} (h : n.MemOk) (hy : y.MemOk) :
    Nest.MemOk { n with saved := n.saved.map fun z => if z.core = c then y else z } := fun z hz => by
  obtain ⟨x, hx, rfl⟩ := List.mem_map.mp hz
  split
  · exact hy
  · exact h x hx

theorem State.MemOk.performSaved (h : s.MemOk) : AllOk State.MemOk (s.performSaved r t) := by
  dsimp only [State.performSaved]
  split
  · exact h.perform
  · rename_i id x e
    have hx : x.MemOk := by
      split at e
      · exact h.savedOf e
      · cases e
    split
    · trivial
    · rename_i u e'
      have hu : u.MemOk := (State.MemOk.perform (h.modCore fun _ hk => hk.onImage hx.2)).of e'
      have hy : ∀ l, Saved.MemOk { x with image := (u.core t.core).scratch, late := l } := fun _ =>
        ⟨hx.1, (hu.core t.core).scratch⟩
      split
      · exact State.MemOk.perform (h.modNest fun _ hn => hn.setImage (hy _))
      · exact h.modNest fun _ hn => hn.setImage (hy _)

theorem State.MemOk.blame {c : Cause} (h : s.MemOk) : AllSome State.MemOk (s.blame r c) := by
  dsimp only [State.blame]
  split
  · exact h.boxStop
  · exact h

theorem State.MemOk.serve (h : s.MemOk) : AllSome State.MemOk (s.serve r t) := by
  dsimp only [State.serve]
  split
  · exact h.answered
  · split
    · split
      · exact h.blame
      · exact h.noteRead.modBox
    · split
      · rename_i e2
        exact (h.performSaved.of e2).answered
      · exact h.blame

theorem State.MemOk.execBankSideService {b : Fin 128} (h : s.MemOk) : OutOk (execBankSideService c b s) := by
  dsimp only [Machine.execBankSideService]
  split
  · exact h
  · exact h.modCore.serve.getD h

theorem State.MemOk.execHbmRequest (h : s.MemOk) : OutOk (execHbmRequest d i s) := by
  dsimp only [Machine.execHbmRequest]
  split
  · exact h
  · split
    · exact h
    · refine AllSome.getD ?_ h
      refine State.MemOk.serve ?_
      split
      · exact h.modRunner.logCause
      · exact h.modRunner

theorem State.MemOk.execDeadlineUrgent (h : s.MemOk) : OutOk (execDeadlineUrgent d i s) := by
  dsimp only [Machine.execDeadlineUrgent]
  split
  · exact h
  · split
    · exact h.modRunner
    · exact h

theorem State.MemOk.execEccWriteback {wd : Nat} (h : s.MemOk) : OutOk (execEccWriteback c wd s) := by
  dsimp only [Machine.execEccWriteback]
  split
  · exact h.modCore
  · exact h

theorem Core.MemOk.overlay (h : k.MemOk) : (k.overlay a bs).MemOk :=
  Core.memOk_iff.mpr ⟨h.scratch, Mem.wf_memPut h.imem a bs, h.seg, h.tiles, h.moulds, h.mat⟩
theorem Core.MemOk.putSeg {l : List Nat} (h : k.MemOk) : { k with seg := memPut k.seg a bs, segBad := l }.MemOk :=
  Core.memOk_iff.mpr ⟨h.scratch, h.imem, Mem.wf_memPut h.seg a bs, h.tiles, h.moulds, h.mat⟩

theorem State.MemOk.sendWrites {l : Writes} (h : s.MemOk) : AllOk FstOk (sendWrites d x whole l s n) := by
  induction l generalizing s n with
  | nil => exact h
  | cons p r ih =>
    obtain ⟨op, sp, bs⟩ := p
    dsimp only [Machine.sendWrites]
    split
    · split
      · split
        · trivial
        · split
          · rename_i e; exact ih (h.perform.of e)
          · trivial
      · split
        · rename_i e; exact ih (h.enqueue.of e)
        · trivial
    · split
      · rename_i e; exact ih (h.sendFar.of e)
      · trivial
      · trivial
    · exact ih (h.modCore fun _ hk => hk.overlay)
    · exact ih (h.modCore fun _ hk => hk.putSeg)
    · split
      · trivial
      · exact ih (h.modSeq fun _ hq => hq.writeStore)

theorem State.MemOk.combineWide {op : Nat} (h : s.MemOk) : (s.combineWide d x l op ty bs).MemOk := by
  dsimp only [State.combineWide]
  split
  · rename_i e
    exact h.fetchSpots.of_later e
  · exact h.boxFault
  · exact h.boxRefused
  · rename_i e
    split
    · exact h.boxFault
    · split
      · rename_i e2
        split <;> exact ((h.fetchSpots.of e).sendWrites.fst e2).modBox
      · exact h.boxFault
      · exact h

theorem State.MemOk.putAt {a : Int} (h : s.MemOk) : (s.putAt d x space core a op bs mark).MemOk := by
  dsimp only [State.putAt]
  split
  · exact h.boxRefused
  · exact h.boxFault
  · rename_i e
    split
    · exact (h.locate.of e).combineWide
    · split
      · exact h.boxFault
      · split
        · exact h.boxFault
        · split
          · exact h.boxFault
          · exact h
          · rename_i e4
            exact ((h.locate.of e).sendWrites.fst e4).modBox
          · rename_i e5
            exact ((h.locate.of e).sendWrites.fst e5).modBox

theorem State.MemOk.dropWrite {old : Bool} (h : s.MemOk) : (s.dropWrite d x hdr old acc mark).MemOk := by
  dsimp only [State.dropWrite]
  split
  · exact h.modBox
  · split
    · rename_i e1
      exact (h.boxRecord.fst e1).modBox.modBox
    · exact h

theorem State.MemOk.checkSeq {write : State → State} (h : s.MemOk)
    (hwrite : ∀ y, y.MemOk → (write y).MemOk := by exact fun _ hy => hy) : (s.checkSeq d x mark write).MemOk := by
  dsimp only [State.checkSeq]
  split
  · exact hwrite _ h
  · refine h.fetchThen fun _ _ hk => ?_
    split
    · exact h.boxUnfit
    · split
      · exact hk.dropWrite
      · exact hwrite _ hk

theorem State.MemOk.putShadow {offset : Word} (h : s.MemOk) : (s.putShadow d x hdr offset op bs).MemOk := by
  dsimp only [State.putShadow]
  split
  · exact h.boxRefused
  · exact h.boxFault
  · rename_i e
    split
    · split
      · exact h.boxFault
      · exact h.boxUnfit
      · split
        · exact (h.translate.of e).dropWrite
        · split
          · exact h.boxRefused
          · exact h.boxFault
          · rename_i e4
            split
            · exact h.translate.of e
            · split
              · exact ((h.translate.of e).locate.of e4).combineWide
              · split
                · exact h.boxFault
                · split
                  · exact h.boxFault
                  · exact h
                  · rename_i e8
                    exact (((h.translate.of e).locate.of e4).sendWrites.fst e8).modBox
                  · rename_i e9
                    exact (((h.translate.of e).locate.of e4).sendWrites.fst e9).modBox
    · split
      · rename_i e2
        exact ((h.translate.of e).sendFar.of e2).modBox
      · exact h
      · exact h.boxFault

theorem State.MemOk.putElem {nbit : Nat} (h : s.MemOk) : (s.putElem d x v nbit).MemOk := by
  dsimp only [State.putElem]
  split
  · exact h
  · split
    · exact h.putShadow
    · exact h.putAt

theorem State.MemOk.inflate {fuel : Nat} (h : s.MemOk) : (inflate d x fuel n s).MemOk := by
  induction fuel generalizing n with
  | zero => exact h
  | succ fuel ih =>
    dsimp only [Machine.inflate]
    split
    · rename_i e; exact h.fetch.of_later e
    · exact h.boxFault
    · exact h.boxRefused
    · rename_i e
      split
      · exact (h.fetch.of e).putElem
      · exact h.boxFault
      · split
        · exact h.boxFault
        · exact ih

theorem State.MemOk.putScale (h : s.MemOk) : (s.putScale d x).MemOk := by
  dsimp only [State.putScale]
  split
  · split
    · exact h.boxFault
    · exact h.checkSeq fun _ hk => hk.putAt
  · exact h.checkSeq fun _ hk => hk.putAt

theorem State.MemOk.scaleBlock (h : s.MemOk) : (s.scaleBlock d x).MemOk := by
  dsimp only [State.scaleBlock]
  split
  · exact h.putScale
  · exact h.fetchThen fun _ _ hk => hk.modBox.putScale

theorem State.MemOk.elemReady (h : s.MemOk) : EitherOk (s.elemReady d x) := by
  have look : ∀ {t : State} (acc : Access) (sp core : Nat) (a : Int) (n : Nat), t.MemOk →
      EitherOk (match t.locate d x sp core a n acc with
        | .at_ s' _ => .ok s'
        | .bad c va => .error (t.boxFault d x c (some acc) va)
        | .noCtx => .error (t.boxRefused d x)) := fun acc sp core a n ht => by
    split
    · rename_i e; exact ht.locate.of e
    · exact ht.boxFault
    · exact ht.boxRefused
  dsimp only [State.elemReady]
  split
  · rename_i e
    split at e
    · cases e
    · exact (look _ _ _ _ _ h).of_error e
  · rename_i s1 e
    have h1 : s1.MemOk := by
      split at e
      · cases e; exact h
      · exact (look _ _ _ _ _ h).of e
    split
    · exact look _ _ _ _ _ h1
    · exact h1

theorem State.MemOk.elementAt (h : s.MemOk) : (s.elementAt d x).MemOk := by
  dsimp only [State.elementAt]
  split
  · exact h.putElem
  · split
    · split
      · exact h.boxFault
      · exact h.inflate
    · split
      · exact h.putElem
      · split
        · exact h.scaleBlock
        · split
          · exact h.putElem
          · refine h.fetchThen fun _ _ hk => ?_
            split
            · exact hk.modBox.putElem
            · exact hk.putElem

theorem State.MemOk.element (h : s.MemOk) : (s.element d x).MemOk := by
  dsimp only [State.element]
  split
  · rename_i e
    exact h.elemReady.of_error e
  · rename_i e
    exact (h.elemReady.of e).elementAt

theorem State.MemOk.listEntry (h : s.MemOk) : (s.listEntry d x).MemOk := by
  dsimp only [State.listEntry]
  refine h.fetchThen fun _ _ hk => ?_
  split
  · exact hk.modBox.element
  · exact h.boxFault

theorem State.MemOk.writeMask (h : s.MemOk) : (s.writeMask d x).MemOk := h.checkSeq fun _ hk => hk.putAt

theorem State.MemOk.execBoxElement (h : s.MemOk) : OutOk (execBoxElement d mid s) := by
  dsimp only [Machine.execBoxElement]
  split
  · exact h
  · split
    · exact h
    · split
      · exact h
      · exact h
      · exact h.writeMask
      · split
        · exact h.listEntry
        · exact h.element

theorem State.MemOk.startedBox {f : Box → Box} (h : s.MemOk) : (s.startedBox d mid f).MemOk := h.modBox

theorem State.MemOk.tableSpots {home : Spots} (h : s.MemOk) : (s.tableSpots d x home a n).MemOk := by
  dsimp only [State.tableSpots]
  split
  · split
    · exact h
    · exact h.locate
  · split
    · exact h
    · exact h.locate
  · exact h.locate

theorem State.MemOk.spotsThen {l : Located} {k : State → List Byte → State} (h : s.MemOk) (hl : l.MemOk)
    (hk : ∀ t l, t.MemOk → (k t l).MemOk) : (s.spotsThen d x l k).MemOk := by
  dsimp only [State.spotsThen]
  split
  · exact h.boxFault
  · exact h.boxRefused
  · split
    · rename_i e; exact hk _ _ ((State.MemOk.fetchSpots hl).of e)
    · rename_i e; exact (State.MemOk.fetchSpots hl).of_later e
    · exact h.boxFault
    · exact h.boxRefused

theorem State.MemOk.checkPack (h : s.MemOk) : (s.checkPack d x).MemOk := by
  refine h.spotsThen h.locate fun _ _ hk => ?_
  split
  · exact h.boxFault
  · split
    · refine hk.spotsThen ?_ ?_
      · split
        · rename_i e2
          split
          · rename_i e3
            exact (h.locate.of e2).tableSpots.of e3
          · exact (h.locate.of e2).tableSpots
        · exact h.locate
      · intro _ _ hk1
        split
        · exact hk1.startedBox
        · exact h.boxFault
    · exact hk.startedBox

theorem State.MemOk.checkTable (h : s.MemOk) : (s.checkTable d x).MemOk := by
  refine h.fetchThen fun _ _ hk => ?_
  split
  · exact h.boxFault
  · exact hk.startedBox

theorem State.MemOk.execBoxStart (h : s.MemOk) : OutOk (execBoxStart d mid s) := by
  dsimp only [Machine.execBoxStart]
  split
  · exact h
  · split
    · exact h
    · split
      · exact h.modBox
      · split
        · exact h.modBox.startedBox
        · split
          · exact h.modBox.checkPack
          · split
            · exact h.modBox.checkTable
            · exact h.modBox.startedBox

theorem State.MemOk.sendCredit (h : s.MemOk) : (s.sendCredit d x).MemOk := by
  dsimp only [State.sendCredit]
  split
  · exact h.boxFault
  · split
    · exact h.boxRefused
    · exact h.boxFault
    · rename_i e1
      split
      · rename_i e2
        exact ((h.locate.of e1).sendWrites.fst e2).modBox
      · exact h.boxFault
      · exact h

theorem State.MemOk.execBoxComplete (h : s.MemOk) : OutOk (execBoxComplete d mid s) := by
  dsimp only [Machine.execBoxComplete]
  split
  · exact h
  · split
    · exact h
    · split
      · exact h.removeBox
      · split
        · exact h.sendCredit.settleInst
        · exact h.sendCredit

theorem State.MemOk.modFill {f : Fill → Option Fill} (h : s.MemOk) : (s.modFill d i f).MemOk := h.modRunner

theorem State.MemOk.fillFault {pos : Nat} (h : s.MemOk) : (s.fillFault d i f cause pos).MemOk := by
  dsimp only [State.fillFault]
  split
  · exact h
  · split
    · rename_i e1
      exact (h.postFault.fst e1).modFill
    · exact h

theorem State.MemOk.fillSlot (h : s.MemOk) : (s.fillSlot f bs).MemOk := by
  dsimp only [State.fillSlot]
  split
  · exact h.writeScratch.modCore
  · exact h

theorem Core.MemOk.withHard {l : List Nat} (h : k.MemOk) : { k with eccHard := l }.MemOk := h

theorem State.MemOk.dropFill (h : s.MemOk) : (s.dropFill d i f).MemOk := by
  dsimp only [State.dropFill]
  split
  · exact h.modFill.modCore fun _ hk => hk.setProbe.withHard
  · exact h.modFill

theorem State.MemOk.fillHere (h : s.MemOk) : (s.fillHere d i f t).MemOk := by
  dsimp only [State.fillHere]
  split
  · exact h.fillFault
  · split
    · exact h
    · split
      · exact h.fillFault
      · exact h.noteRead.modFill.fillSlot

theorem State.MemOk.execProbeFillComplete (h : s.MemOk) : OutOk (execProbeFillComplete d i s) := by
  dsimp only [Machine.execProbeFillComplete]
  split
  · exact h
  · split
    · exact h
    · split
      · exact h.modFill
      · split
        · exact h.modFill.internalCheck.dropFill
        · exact h.modFill.fillFault
        · rename_i e3
          split
          · exact (h.modFill.translate.of e3).fillHere
          · split
            · exact h.modFill.fillFault
            · exact (h.modFill.translate.of e3).modFill.fillSlot

end

/-! ### The submission ring of a function (Machine/HostQueue) -/

section
variable {s : State} {f : Fin 17} {status detail : Nat}

theorem State.MemOk.answerSub (h : s.MemOk) : (s.answerSub f status detail).MemOk := by
  dsimp only [State.answerSub]
  split
  · exact h
  · exact h.modFn.completion

theorem State.MemOk.takeSubs {n : Nat} (h : s.MemOk) : (takeSubs f n s).MemOk := by
  induction n generalizing s with
  | zero => exact h
  | succ n ih =>
    dsimp only [Machine.takeSubs]
    split
    · exact h
    · split
      · exact h.modFn
      · split
        · exact ih h.modFn.answerSub
        · exact h.modFn

theorem State.MemOk.pumpSubs (h : s.MemOk) : (s.pumpSubs f).MemOk := h.takeSubs
theorem State.MemOk.answerHost (h : s.MemOk) : (s.answerHost f status detail).MemOk := h.answerSub.pumpSubs

end

/-! ### The scheduler (Machine/Sched) -/

section
variable {s : State} {k : Fin 64} {c : CoreId} {n : Nest} {cs : List CoreId} {g : Grain} {b : BitVec 1024} {id : Nat}
  {tag : Tag} {im : Image} {o : Option (List Byte)} {f : Nest → Nest} {d : DieId}

theorem State.MemOk.modSlot {f : QSlot → QSlot} (h : s.MemOk) : (s.modSlot k f).MemOk := h.modPkg
theorem State.MemOk.queueInvalid {f : Fin 17} (h : s.MemOk) : (s.queueInvalid k f).MemOk := h.modSlot.hostEvent

theorem State.MemOk.mapSlot (h : s.MemOk) : (s.mapSlot k).MemOk := by
  dsimp only [State.mapSlot]
  split
  · exact h.modSlot.queueInvalid
  · split
    · exact h.modSlot
    · exact h.modSlot.queueInvalid

theorem State.MemOk.unmapSlot (h : s.MemOk) : (s.unmapSlot k).MemOk := h.modSlot

theorem State.MemOk.notifySlot {v : Word} (h : s.MemOk) : (s.notifySlot k v).MemOk := by
  dsimp only [State.notifySlot]
  split
  · split
    · exact h.writeMem.modSlot
    · exact h.writeMem
  · exact h

theorem State.MemOk.takeEntry {d : BitVec 512} (h : s.MemOk) : (s.takeEntry k d b).MemOk := by
  dsimp only [State.takeEntry]
  split
  · exact h.queueInvalid
  · split
    · split
      · exact h.internalCheck
      · exact h.modRunner
    · split
      · exact h.hostEvent
      · split
        · exact h.serviceCause.hostEvent
        · exact h.addNest fun _ => Nest.memOk_fresh

theorem State.MemOk.execQueueEntryRead (h : s.MemOk) : OutOk (execQueueEntryRead k s) := by
  dsimp only [Machine.execQueueEntryRead]
  split
  · exact h
  · split
    · exact h.queueInvalid
    · split
      · exact h.modSlot
      · split
        · exact h.queueInvalid
        · rename_i e3
          split
          · exact h.serviceRead.fst e3
          · exact (h.serviceRead.fst e3).writeMem.takeEntry

theorem State.MemOk.giveGrain {num : Nat} (h : s.MemOk) : (s.giveGrain n num c).MemOk := by
  dsimp only [State.giveGrain]
  exact h.modCore

theorem State.MemOk.dispatchOn {u : List CoreId} (h : s.MemOk) : (s.dispatchOn id u).MemOk := by
  dsimp only [State.dispatchOn]
  split
  · exact h
  · exact (h.foldl (fun _ _ hk => hk.giveGrain)).modPkg.modNest fun _ hk => Nest.MemOk.settle hk

theorem State.MemOk.beginRestore (h : s.MemOk) : (s.beginRestore id cs).MemOk := by
  dsimp only [State.beginRestore]
  split
  · exact h
  · refine h.foldl fun _ _ hk => ?_
    split
    · exact hk.modCore
    · exact hk

theorem State.MemOk.tryPlace (h : s.MemOk) : AllSome State.MemOk (s.tryPlace n) := by
  dsimp only [State.tryPlace]
  split
  · exact h.beginRestore
  · split
    · trivial
    · split
      · split
        · exact h.foldl fun _ _ hk => hk.dispatchOn
        · trivial
      · split
        · trivial
        · exact h.dispatchOn

theorem State.MemOk.execGrainDispatch (h : s.MemOk) : OutOk (execGrainDispatch s) := by
  dsimp only [Machine.execGrainDispatch]
  split
  · exact h
  · rename_i n t e
    obtain ⟨m, _, hm⟩ := List.exists_of_findSome?_eq_some e
    obtain ⟨u, hu, e'⟩ := Option.map_eq_some_iff.mp hm
    cases e'
    exact (h.tryPlace.of hu).modPkg

theorem State.MemOk.requestStop {why : Option Nat} (h : s.MemOk) : (s.requestStop why cs).MemOk := by
  refine h.foldl fun _ _ hk => ?_
  split
  · exact hk.cancelWaita.modCore
  · exact hk

theorem State.MemOk.execPreemptRequest (h : s.MemOk) : OutOk (execPreemptRequest c s) := by
  dsimp only [Machine.execPreemptRequest]
  split
  · exact h
  · split
    · exact h.requestStop
    · exact h

theorem State.MemOk.readImage {l : List (Nat × Nat)} (h : s.MemOk) : AllOk FstOk (readImage tag l s) := by
  induction l generalizing s with
  | nil => exact h
  | cons p ps ih =>
    dsimp only [Machine.readImage]
    split
    · trivial
    · rename_i e
      exact (ih (h.serviceRead.fst e)).map fun _ hx => hx

theorem State.MemOk.imageCopy {va : Word} {len : Nat} {reload : Bool} {last : Option Image} (h : s.MemOk) :
    AllOk FstOk (imageCopy tag va len reload last s) := by
  dsimp only [Machine.imageCopy]
  split
  · exact h
  · split
    · exact h
    · exact h.readImage.map fun _ hx => hx

theorem Core.MemOk.switchTo {c : Core} {ctx : BitVec 16} (h : c.MemOk) : (c.switchTo ctx).MemOk := by
  dsimp only [Core.switchTo]
  split
  · exact h
  · exact Core.memOk_iff.mpr ⟨rfl, rfl, rfl, h.tiles, h.moulds, h.mat⟩

theorem Core.MemOk.loadStext {c : Core} (h : c.MemOk) : (c.loadStext im o).MemOk := by
  cases o with
  | none => exact h
  | some bs => exact Core.memOk_iff.mpr ⟨h.scratch, Mem.wf_memPut h.imem 0 bs, h.seg, h.tiles, h.moulds, h.mat⟩

theorem Core.MemOk.loadVtext {c : Core} (h : c.MemOk) : (c.loadVtext im o).MemOk := by
  cases o with
  | none => exact h
  | some bs => exact Core.memOk_iff.mpr ⟨h.scratch, h.imem, Mem.wf_memPut h.seg 0 bs, h.tiles, h.moulds, h.mat⟩

theorem Core.MemOk.coreReset {c : Core} (h : c.MemOk) : c.coreReset.MemOk :=
  Core.memOk_iff.mpr ⟨h.scratch, h.imem, h.seg, fun i => Core.memOk_reset.tiles i, fun i => Core.memOk_reset.moulds i,
    Mat.memOk_reset⟩

theorem Core.MemOk.grainStart {c : Core} {id : CoreId} (h : c.MemOk) : (c.grainStart id g b).MemOk := h.coreReset
theorem State.MemOk.imageFailed {cause : Cause} (h : s.MemOk) : (s.imageFailed c g cause).MemOk :=
  (h.serviceCause.modNest (fun _ _ => Nest.memOk_noMore.settle)).modCore
theorem State.MemOk.startRefused (h : s.MemOk) : (s.startRefused c g).MemOk := h.imageFailed.hostEvent

theorem State.MemOk.execGrainStart (h : s.MemOk) : OutOk (execGrainStart c s) := by
  dsimp only [Machine.execGrainStart]
  split
  · exact h
  · split
    · exact h
    · split
      · exact h
      · split
        · exact h.startRefused
        · split
          · exact h.imageFailed
          · rename_i e
            have ht := h.imageCopy.fst e
            split
            · exact ht.imageFailed
            · rename_i e'
              exact (ht.imageCopy.fst e').setCore (h.core _).switchTo.loadStext.loadVtext.grainStart.withPhase

theorem State.MemOk.endGrain (h : s.MemOk) (hf : ∀ y, y.MemOk → (f y).MemOk := by exact fun _ hy => hy) :
    (s.endGrain c f).MemOk := by
  dsimp only [State.endGrain]
  split
  · exact h
  · exact h.cancelWaita.modCore.modNest fun _ hk => (hf _ hk).settle

theorem State.MemOk.endGrains (h : s.MemOk) (hf : ∀ y, y.MemOk → (f y).MemOk := by exact fun _ hy => hy) :
    (s.endGrains cs f).MemOk := h.foldl fun _ _ hk => hk.endGrain fun _ hk1 => hf _ hk1

theorem Nest.MemOk.filterSaved {f : Saved → Bool} {c : Cause} (h : n.MemOk) :
    { n.withCause c with saved := n.saved.filter f }.MemOk := fun x hx => h x (List.mem_of_mem_filter hx)

theorem State.MemOk.quarantine {q : Nat} (h : s.MemOk) : (s.quarantine d q).MemOk := by
  dsimp only [State.quarantine]
  refine State.MemOk.foldl (State.MemOk.heartEvent (State.MemOk.genChanged (State.MemOk.foldl ?_ fun t n ht => ?_)))
    fun _ _ ht => ht.degraded
  · refine h.modPkg.endGrains.modPkg fun p hp n hn => ?_
    obtain ⟨m, hm, rfl⟩ := List.mem_map.mp hn
    split
    · exact hp m hm
    · exact (hp m hm).filterSaved.settle
  · refine ht.endGrains.modNest fun m _ => ?_
    split
    · exact Nest.memOk_noMore (n := m.withCause .configDegraded)
    · exact Nest.memOk_noMore.settle

theorem State.MemOk.execLaunch {a : Src} (h : s.MemOk) : OutOk (execLaunch a s) := by
  dsimp only [Machine.execLaunch]
  refine h.stemRun (Res.memOk_withAddr fun _ => ?_)
  split
  · exact h
  · split
    · trivial
    · split
      · trivial
      · split
        · trivial
        · split
          · exact (h.setCore (h.core _).noteSoft).addNest fun _ => Nest.memOk_fresh
          · split
            · trivial
            · exact (h.setCore (h.core _).noteSoft).writeMem.modPkg

theorem State.MemOk.execSpillEntryTaken (h : s.MemOk) : OutOk (execSpillEntryTaken d s) := by
  dsimp only [Machine.execSpillEntryTaken]
  split
  · exact h
  · split
    · exact h.modPkg
    · split
      · exact h
      · split
        · exact h.hostEvent.modPkg
        · split
          · exact (h.addNest (fun _ => Nest.memOk_fresh)).modPkg
          · exact h

theorem State.MemOk.execGrainend (h : s.MemOk) : OutOk (execGrainend s) := by
  refine h.stemRun ?_
  split
  · trivial
  · split
    · exact h.endGrain
    · exact h

theorem State.MemOk.execHalt (h : s.MemOk) : OutOk (execHalt s) := by
  refine h.stemRun ?_
  split
  · trivial
  · split
    · exact h.endGrain
    · exact h

theorem State.MemOk.execYield (h : s.MemOk) : OutOk (execYield s) := by
  have hd : OutOk (Machine.stemRun [] [] s fun c => .done s (c.after 1)) := h.stemRun h
  dsimp only [Machine.execYield]
  split
  · rename_i e
    have ht := hd.of e
    split
    · exact ht.requestStop
    · exact ht
  · exact hd

end

/-! ### Abort rounds (Machine/Rounds) -/

section
variable {s : State} {d : DieId} {rank n va : Nat} {ctx origin : BitVec 16} {sq : W32} {r : AbortRound} {i : Inst}
  {cause : Cause} {tag : Tag} {q : AbortReq} {o : Fin 3}

theorem State.MemOk.readPages {l : List (Nat × Nat)} {acc : List Byte} (h : s.MemOk) :
    (readPages d tag l s acc).MemOk := by
  induction l generalizing s acc with
  | nil => exact h
  | cons p r ih =>
    dsimp only [Machine.readPages]
    split
    · trivial
    · trivial
    · rename_i e
      have hs := h.translate.of e
      split
      · split
        · trivial
        · split
          · trivial
          · exact ih hs.noteRead
      · split
        · trivial
        · exact ih hs

theorem State.MemOk.readVa {va : Word} (h : s.MemOk) : (s.readVa d tag va n).MemOk := h.readPages

theorem State.MemOk.stopInst {id : Nat} (h : s.MemOk) : (s.stopInst d id).MemOk := by
  dsimp only [State.stopInst]
  split
  · exact h
  · split
    · exact h
    · exact h.modInst.modRunner

theorem State.MemOk.modRound {f : AbortRound → AbortRound} (h : s.MemOk) : (s.modRound ctx sq f).MemOk := h.modPkg

theorem State.MemOk.openRound {vf : Nat} (h : s.MemOk) : (s.openRound q vf).MemOk := by
  dsimp only [State.openRound]
  split
  · exact h
  · exact h.modPkg

theorem Asked.MemOk.orAlone {a : Asked} (ha : a.MemOk) (h : s.MemOk) : (a.orAlone s d i).MemOk := by
  cases a with
  | ok t => exact ha
  | bad c va => exact h.stopInst.openRound
  | noCtx => exact h.stopInst.openRound

theorem State.MemOk.abortInst (h : s.MemOk) : (s.abortInst d i).MemOk := by
  dsimp only [State.abortInst]
  split
  · trivial
  · trivial
  · rename_i e
    split
    · exact (h.readVa.of e).stopInst.openRound
    · split
      · trivial
      · trivial
      · rename_i e2
        split
        · exact ((h.readVa.of e).translate.of e2).stopInst.openRound
        · split
          · trivial
          · exact ((h.readVa.of e).translate.of e2).stopInst

theorem State.MemOk.execAbortRequest (h : s.MemOk) : OutOk (execAbortRequest q s) := by
  dsimp only [Machine.execAbortRequest]
  split
  · exact h.openRound
  · exact h

theorem State.MemOk.instRecord (h : s.MemOk) : AllSome State.MemOk (s.instRecord d ctx sq cause va origin) :=
  h.postFault.map fun _ hk => hk.fst
theorem State.MemOk.cutOff (h : s.MemOk) : AllSome State.MemOk (s.cutOff r rank cause) :=
  h.instRecord.map fun _ hk => hk.modRound
theorem State.MemOk.unreached (h : s.MemOk) : (s.unreached r rank cause).MemOk := h.cutOff.getD h
theorem State.MemOk.settled {committed : Bool} (h : s.MemOk) : (s.settled r rank committed).MemOk := h.modRound

theorem State.MemOk.settleAt {t : Target} (h : s.MemOk) : (s.settleAt r rank t).MemOk := by
  dsimp only [State.settleAt]
  split
  · split
    · rename_i e1
      exact (h.instRecord.of e1).settled
    · exact h
  · split
    · exact h.unreached
    · split
      · rename_i e2
        exact (h.instRecord.of e2).settled
      · exact h
    · split
      · exact h.settled
      · exact h.setHead.settled

theorem State.MemOk.execSettle (h : s.MemOk) : OutOk (execSettle ctx sq rank s) := by
  dsimp only [Machine.execSettle]
  split
  · exact h
  · split
    · exact h
    · split
      · exact h.internalCheck
      · exact h.unreached
      · rename_i e2
        split
        · split
          · exact h.unreached
          · split
            · exact (h.translate.of e2).settleAt
            · exact h
        · split
          · rename_i e4
            exact (h.translate.of e2).sendFar.of e4
          · exact h
          · exact h.unreached

theorem State.MemOk.execStop (h : s.MemOk) : OutOk (execStop d ctx sq s) := by
  dsimp only [Machine.execStop]
  split
  · exact h.modRound.stopInst
  · exact h.modRound

theorem State.MemOk.execAbortOutcome (h : s.MemOk) : OutOk (execAbortOutcome ctx sq s) := by
  dsimp only [Machine.execAbortOutcome]
  split
  · exact h
  · split
    · exact h
    · exact h.modRound

theorem State.MemOk.headerVa (h : s.MemOk) : AllOk FstOk (s.headerVa r rank) := by
  dsimp only [State.headerVa]
  split
  · rename_i e
    exact h.readVa.of e
  · trivial
  · trivial

theorem State.MemOk.repairBoxes {src dst : Word} {k : Nat} (h : s.MemOk) :
    (s.repairBoxes r rank src dst k n).MemOk := by
  induction k generalizing s src dst n with
  | zero => exact h
  | succ k ih => exact ih h.addBox.modRound

theorem State.MemOk.startRepair {source : Nat} (h : s.MemOk) : (s.startRepair r source rank).MemOk := by
  dsimp only [State.startRepair]
  split
  · exact h.unreached
  · rename_i e
    split
    · exact h.unreached
    · rename_i e1
      exact ((h.headerVa.fst e).headerVa.fst e1).repairBoxes

theorem State.MemOk.repaired (h : s.MemOk) : (s.repaired r rank).MemOk := h.modRound

theorem State.MemOk.flipBack (h : s.MemOk) : (s.flipBack r rank).MemOk := by
  dsimp only [State.flipBack]
  split
  · exact h.internalCheck
  · exact h.unreached
  · rename_i e
    split
    · split
      · exact h
      · split
        · exact h.unreached
        · exact h.unreached
        · exact (h.translate.of e).setHead.repaired
    · split
      · rename_i e2
        exact (h.translate.of e).sendFar.of e2
      · exact h
      · exact h.unreached

theorem State.MemOk.execRepairFlip (h : s.MemOk) : OutOk (execRepairFlip ctx sq rank s) := by
  dsimp only [Machine.execRepairFlip]
  split
  · exact h
  · split
    · exact h
    · split
      · exact h
      · split
        · split
          · exact h
          · exact h.startRepair
        · split
          · exact h
          · exact h.flipBack

theorem State.MemOk.abortRecord (h : s.MemOk) : AllSome State.MemOk (s.abortRecord d ctx sq origin) := h.instRecord

theorem State.MemOk.instTakes {state : Nat} (h : s.MemOk) : (s.instTakes d i state).MemOk := by
  dsimp only [State.instTakes]
  split
  · exact h.modInst
  · exact h.endInst

theorem State.MemOk.outcomeTold {new : Option Nat} (h : s.MemOk) : (s.outcomeTold d ctx sq o new).MemOk := by
  dsimp only [State.outcomeTold]
  split
  · exact h
  · exact h.modRound

theorem State.MemOk.ifAborted {new : Nat} (h : s.MemOk) : AllSome State.MemOk (s.ifAborted d ctx sq origin new) := by
  dsimp only [State.ifAborted]
  split
  · exact h.abortRecord
  · exact h

theorem State.MemOk.execOutcomeReceived (h : s.MemOk) : OutOk (execOutcomeReceived d ctx sq o s) := by
  dsimp only [Machine.execOutcomeReceived]
  split
  · exact h
  · split
    · split
      · exact h
      · split
        · exact h.outcomeTold
        · exact h.outcomeTold.instTakes.ifAborted.getD h
    · split
      · split
        · exact h.outcomeTold
        · exact h.outcomeTold.modRunner.ifAborted.getD h
      · exact h.outcomeTold.modRunner

theorem State.MemOk.instFault {acc : Option Access} (h : s.MemOk) : (s.instFault d i cause acc va).MemOk := by
  dsimp only [State.instFault]
  split
  · exact h.internalCheck.stopInst
  · split
    · exact h
    · split
      · rename_i e2
        exact (h.postFault.fst e2).modInst
      · exact h

theorem State.MemOk.execWalkerEmit {i : Nat} (h : s.MemOk) : OutOk (execWalkerEmit d i s) := by
  dsimp only [Machine.execWalkerEmit]
  split
  · exact h
  · split
    · exact h
    · split
      · exact h.internalCheck.stopInst
      · exact h.instFault
      · rename_i e2
        split
        · exact h.instFault
        · exact (h.readVa.of e2).addBox.modInst

end

/-! ### Boxes and collectives of a sequencer (Machine/PercoMove) -/

section
variable {s : State} {a : Src} {sy : Bool} {d : Reg}

theorem State.MemOk.moveRun {kind : Nat} (h : s.MemOk) : OutOk (moveRun kind a sy s) := by
  dsimp only [Machine.moveRun]
  refine h.percoRun ?_
  split
  · split <;> exact h
  · split
    · trivial
    · trivial
    · split
      · trivial
      · split
        · trivial
        · split
          · exact h
          · split
            · exact h.addBox.modCurSeq
            · exact h.addBox

theorem State.MemOk.execCopy (h : s.MemOk) : OutOk (execCopy a sy s) := h.moveRun
theorem State.MemOk.execGath (h : s.MemOk) : OutOk (execGath a sy s) := h.moveRun
theorem State.MemOk.execScat (h : s.MemOk) : OutOk (execScat a sy s) := h.moveRun
theorem State.MemOk.execXpose (h : s.MemOk) : OutOk (execXpose a sy s) := h.moveRun
theorem State.MemOk.execConv (h : s.MemOk) : OutOk (execConv a sy s) := h.moveRun
theorem State.MemOk.execInfl (h : s.MemOk) : OutOk (execInfl a sy s) := h.moveRun
theorem State.MemOk.execMcast (h : s.MemOk) : OutOk (execMcast a sy s) := h.moveRun
theorem State.MemOk.execRed (h : s.MemOk) : OutOk (execRed a sy s) := h.moveRun
theorem State.MemOk.execFill (h : s.MemOk) : OutOk (execFill a sy s) := h.moveRun
theorem State.MemOk.startInst {d : DieId} {q : Seqr} {n : Fin 16} {b : Rec} (h : s.MemOk) :
    (s.startInst d q n b).MemOk := h.modRunner.modPkg.settleInst

theorem State.MemOk.execNest (h : s.MemOk) : OutOk (execNest a sy s) := by
  dsimp only [Machine.execNest]
  refine h.percoRun ?_
  split
  · split <;> exact h
  · split
    · trivial
    · trivial
    · split
      · trivial
      · split
        · trivial
        · split
          · exact h
          · split
            · exact h.startInst.modCurSeq
            · exact h.startInst

theorem State.MemOk.execSeqst (h : s.MemOk) : OutOk (execSeqst d a s) := h.percoSet

theorem State.MemOk.execAbort (h : s.MemOk) : OutOk (execAbort d a s) := by
  dsimp only [Machine.execAbort]
  refine h.percoRun ?_
  split
  · exact h.modCurSeq fun _ hk => hk.setG
  · split
    · exact h.modCurSeq fun _ hk => hk.setG
    · split
      · rename_i e2
        exact (h.abortInst.of e2).modCurSeq fun _ hk => hk.setG
      · trivial
      · trivial

end

/-! ### Semaphores, atomics and privileged instructions of a sequencer (Machine/PercoSync) -/

section
variable {s : State} {a b : Src} {d : Reg} {ty : Ty} {va : Word} {acc : Access} {q : Seqr} {cause : Cause}
  {n : Fin 16} {w : Work}

theorem State.MemOk.atHome {n : Nat} {here far : State → Target → PRes} (h : s.MemOk)
    (hhere : ∀ t x, t.MemOk → (here t x).MemOk) (hfar : ∀ t x, t.MemOk → (far t x).MemOk) :
    (s.atHome q va acc n here far).MemOk := by
  dsimp only [State.atHome]
  split
  · trivial
  · trivial
  · rename_i e
    have ht := h.translate.of e
    split
    · split
      · trivial
      · split
        · exact hhere _ _ ht
        · exact h
    · exact hfar _ _ ht

theorem State.MemOk.askFar {t : Target} {r : FarReq} (h : s.MemOk) : (s.askFar q va acc t r).MemOk := by
  dsimp only [State.askFar]
  split
  · rename_i e
    exact (h.sendFar.of e).modCurSeq
  · exact h
  · trivial

theorem State.MemOk.farRun {f : Seqr → Option Word → PRes} (h : s.MemOk) (hf : ∀ q o, (f q o).MemOk) :
    OutOk (farRun s f) := by
  refine h.percoRun ?_
  split
  · exact h
  · exact hf _ _
  · exact hf _ _

theorem State.MemOk.execSemadd {_sc : Scope} (h : s.MemOk) : OutOk (execSemadd a b _sc s) := by
  dsimp only [Machine.execSemadd]
  refine h.farRun fun _ _ => ?_
  split
  · exact h
  · split
    · exact h
    · split
      · trivial
      · refine h.atHome ?_ fun _ _ hk => hk.askFar
        intro _ _ hk
        split
        · trivial
        · rename_i e2
          exact hk.semAddAt.of e2

theorem State.MemOk.execPercoSemwait {_sc : Scope} (h : s.MemOk) : OutOk (execPercoSemwait a b _sc s) := by
  dsimp only [Machine.execPercoSemwait]
  refine h.farRun fun _ _ => ?_
  split
  · exact h
  · split
    · trivial
    · split
      · exact h
      · refine h.atHome ?_ fun _ _ hk => hk.askFar
        intro _ _ hk
        split
        · trivial
        · split
          · exact hk
          · exact hk.noteRead.homeWrite

theorem State.MemOk.execPercoFence {_sc : Scope} (h : s.MemOk) : OutOk (execPercoFence a _sc s) := by
  dsimp only [Machine.execPercoFence]
  refine h.percoRun ?_
  split <;> exact h

theorem State.MemOk.percoRatom {op : Nat} (h : s.MemOk) : OutOk (percoRatom op d a b ty s) := by
  refine h.farRun fun q _ => ?_
  dsimp only
  generalize (if ty = .i64 then 8 else 4) = n
  split
  · trivial
  · split
    · exact h.modCurSeq fun _ hk => hk.setG
    · split
      · trivial
      · split
        · split
          · trivial
          · trivial
          · rename_i e
            split
            · trivial
            · split
              · trivial
              · exact (h.translate.of e).modRunner
        · refine h.atHome (fun _ _ ht => ?_) fun _ _ ht => ?_
          · split
            · exact h
            · split
              · trivial
              · rename_i e
                exact (ht.atomicAt.fst e).modCurSeq fun _ hk => hk.setG
          · split
            · exact h
            · exact ht.askFar

theorem State.MemOk.execPercoRatomAdd (h : s.MemOk) : OutOk (execPercoRatomAdd d a b ty s) := h.percoRatom
theorem State.MemOk.execPercoRatomAnd (h : s.MemOk) : OutOk (execPercoRatomAnd d a b ty s) := h.percoRatom
theorem State.MemOk.execPercoRatomOr (h : s.MemOk) : OutOk (execPercoRatomOr d a b ty s) := h.percoRatom
theorem State.MemOk.execPercoRatomXor (h : s.MemOk) : OutOk (execPercoRatomXor d a b ty s) := h.percoRatom
theorem State.MemOk.execPercoRatomMin (h : s.MemOk) : OutOk (execPercoRatomMin d a b ty s) := h.percoRatom
theorem State.MemOk.execPercoRatomMax (h : s.MemOk) : OutOk (execPercoRatomMax d a b ty s) := h.percoRatom
theorem State.MemOk.execPercoRatomMinu (h : s.MemOk) : OutOk (execPercoRatomMinu d a b ty s) := h.percoRatom
theorem State.MemOk.execPercoRatomMaxu (h : s.MemOk) : OutOk (execPercoRatomMaxu d a b ty s) := h.percoRatom
theorem State.MemOk.execPercoRatomSwap (h : s.MemOk) : OutOk (execPercoRatomSwap d a b ty s) := h.percoRatom
theorem State.MemOk.execPercoRatomCas (h : s.MemOk) : OutOk (execPercoRatomCas d a b ty s) := h.percoRatom
theorem State.MemOk.modPosted {d : DieId} {id : Nat} {f : Posted → Option Posted} (h : s.MemOk) :
    (s.modPosted d id f).MemOk := h.modRunner

theorem State.MemOk.postedStop {d : DieId} {p : Posted} (h : s.MemOk) :
    AllSome State.MemOk (s.postedStop d p cause) := by
  dsimp only [State.postedStop]
  split
  · exact h.internalCheck.modPosted
  · split
    · trivial
    · exact h.postFault.map fun _ hk => hk.fst.modPosted

theorem State.MemOk.postedTurn {d : DieId} {i : Nat} (h : s.MemOk) : (s.postedTurn d i).MemOk := by
  dsimp only [State.postedTurn]
  split
  · exact h
  · split
    · exact h
    · split
      · split
        · exact h
        · split
          · exact h.modPosted
          · split
            · exact h.postedStop.getD h
            · rename_i e5
              exact (h.atomicAt.fst e5).modPosted
      · split
        · rename_i e3
          exact (h.sendFar.of e3).modPosted
        · exact h
        · exact h.postedStop.getD h

theorem State.MemOk.execWakea {_sc : Scope} (h : s.MemOk) : OutOk (execWakea a _sc s) := by
  refine h.percoRun ?_
  split
  · exact h
  · refine h.atHome (fun _ _ hk => hk.fireOn) fun _ _ hk => ?_
    split
    · rename_i e1
      exact hk.sendFar.of e1
    · exact h
    · trivial

theorem State.MemOk.execPublish {_sc : Scope} (h : s.MemOk) : OutOk (execPublish a b _sc s) := by
  dsimp only [Machine.execPublish]
  refine h.farRun fun _ _ => ?_
  split
  · exact h
  · exact h
  · split
    · exact h
    · split
      · trivial
      · exact h.atHome (fun _ _ hk => hk.modCurSeq) fun _ _ hk => hk.askFar

theorem State.MemOk.progLost {d : DieId} (h : s.MemOk) : AllSome State.MemOk (s.progLost d n cause acc va) := by
  dsimp only [State.progLost]
  split
  · exact h.progUnfit
  · exact h.progStop

theorem State.MemOk.execPublishFlip {d : DieId} (h : s.MemOk) : OutOk (execPublishFlip d n s) := by
  dsimp only [Machine.execPublishFlip]
  split
  · split
    · exact h
    · split
      · exact h.progLost.getD h
      · exact h.progLost.getD h
      · refine State.MemOk.modSeq ?_
        split
        · exact h
        · exact h.setHead
  · exact h

theorem State.MemOk.dropTlb {f : TlbEntry → Bool} {w : WalkEntry → Bool} {g : Watch → Bool} (h : s.MemOk) :
    (s.dropTlb f w g).MemOk :=
  State.MemOk.foldl h.withDies fun _ _ ht => ht.fireOn

theorem State.MemOk.tlbRun {words : Nat} {ctxs : Seqr → BitVec 16 → Bool} {f : Seqr → TlbEntry → Bool}
    {w : Seqr → WalkEntry → Bool} {g : Seqr → Watch → Bool} (h : s.MemOk) : OutOk (tlbRun words s ctxs f w g) := by
  refine h.percoRun ?_
  have ht := h.dropTlb (f := f s.curSeqr) (w := w s.curSeqr) (g := g s.curSeqr)
  dsimp only
  generalize s.dropTlb _ _ _ = t at ht ⊢
  split
  · exact ht
  · exact ht

theorem State.MemOk.execTlbinv (h : s.MemOk) : OutOk (execTlbinv a b s) := h.tlbRun
theorem State.MemOk.execTlbinvCtx (h : s.MemOk) : OutOk (execTlbinvCtx a b s) := h.tlbRun
theorem State.MemOk.execTlbinvAll (h : s.MemOk) : OutOk (execTlbinvAll s) := h.tlbRun

theorem State.MemOk.execMapchk {sup wr : Bool} (h : s.MemOk) : OutOk (execMapchk d a b sup wr s) := by
  refine h.percoRun ?_
  split
  · exact h.modCurSeq fun _ hk => hk.setG
  · exact h.modCurSeq fun _ hk => hk.setG
  · rename_i e1
    split
    · split
      · exact (h.modRunner (fun _ hk => Lookup.memOk_lookup.of e1 hk)).modCurSeq fun _ hk => hk.setG
      · exact h.modCurSeq fun _ hk => hk.setG
    · split
      · exact (h.modRunner (fun _ hk => Lookup.memOk_lookup.of e1 hk)).modCurSeq fun _ hk => hk.setG
      · exact h.modCurSeq fun _ hk => hk.setG

theorem State.MemOk.resumeWork (h : s.MemOk) : (s.resumeWork w).MemOk := by
  dsimp only [State.resumeWork]
  split
  · exact h.modBox
  · exact h.modSeq
  · exact h.modInst
  · exact h.modFill
  · exact h.setRatom.enterDie
  · exact h.setWaita
  · exact h.modPosted

theorem State.MemOk.dropWork (h : s.MemOk) : (s.dropWork w).MemOk := by
  cases w with
  | box d mid => exact h.dropBox
  | prog d n => exact h.endProg
  | inst d i => exact (h.abortInst.orAlone h).modInst
  | fill d i f => exact h.dropFill
  | ratom c r => exact h.ratomDropped
  | waita c => exact h.setWaita
  | posted d id => exact h.modPosted

theorem State.MemOk.resumeRun {act : State → Work → State} (h : s.MemOk) (hact : ∀ y z, y.MemOk → (act y z).MemOk) :
    OutOk (resumeRun act d a s) := by
  refine h.percoRun ?_
  split
  · exact h.modCurSeq fun _ hk => hk.setG
  · exact (hact _ _ h).modCurSeq fun _ hk => hk.setG

theorem State.MemOk.execResume (h : s.MemOk) : OutOk (execResume d a s) := h.resumeRun fun _ _ hk => hk.resumeWork
theorem State.MemOk.execResumeDrop (h : s.MemOk) : OutOk (execResumeDrop d a s) :=
  h.resumeRun fun _ _ hk => hk.dropWork

end

/-! ### The issue of matrix commands (Machine/Matrix) -/

section
variable {s : State} {a b c : Src} {m : Fin 2} {sc : Scope} {mods : BitVec 6}

theorem State.MemOk.prefixRun {pending : Core → Option Prefix} {fill : Prefix → Mat → Mat} (h : s.MemOk)
    (hfill : ∀ p m, m.MemOk → (fill p m).MemOk) : OutOk (prefixRun a b sc pending fill s) := by
  refine h.stemRun ?_
  split
  · trivial
  · split
    · trivial
    · exact h.setCore ((h.core _).setMat (hfill _ _ (h.core _).mat))

theorem State.MemOk.execMwait (h : s.MemOk) : OutOk (execMwait a b sc s) :=
  h.prefixRun fun _ _ hm => hm
theorem State.MemOk.execMsig (h : s.MemOk) : OutOk (execMsig a b sc s) :=
  h.prefixRun fun _ _ hm => hm

theorem Mat.MemOk.makeRoom {m : Mat} (h : m.MemOk) : m.makeRoom.MemOk := by
  dsimp only [Mat.makeRoom]
  split
  · exact h
  · split <;> exact h

theorem Core.MemOk.queueCmd {c : Core} {cmd : MCmd} (h : c.MemOk) : (c.queueCmd cmd).MemOk :=
  h.setMat (h.mat.makeRoom : Mat.MemOk c.mat.makeRoom)

theorem State.MemOk.carrierRun {srcs : List Src} {check : Core → Option (Cause × Word)} {cmd : Core → MCmd}
    (h : s.MemOk) : OutOk (carrierRun srcs s check cmd) := by
  refine h.stemRun ?_
  split
  · trivial
  · split
    · exact h
    · exact h.setCore (h.core _).queueCmd

theorem State.MemOk.mmaRun {sparse : Bool} {m : BitVec 6} (h : s.MemOk) : OutOk (mmaRun sparse c a b m s) :=
  h.carrierRun
theorem State.MemOk.execMma (h : s.MemOk) : OutOk (execMma c a b mods s) := h.mmaRun
theorem State.MemOk.execMmas (h : s.MemOk) : OutOk (execMmas c a b mods s) := h.mmaRun
theorem State.MemOk.execMclr (h : s.MemOk) : OutOk (execMclr m s) := h.carrierRun
theorem State.MemOk.execMemit {t : Fin 4} {z : Bool} (h : s.MemOk) : OutOk (execMemit t m z s) := h.carrierRun
theorem State.MemOk.execMtld (h : s.MemOk) : OutOk (execMtld m a s) := h.carrierRun
theorem State.MemOk.execMtst (h : s.MemOk) : OutOk (execMtst m a s) := h.carrierRun
theorem State.MemOk.execMtbar (h : s.MemOk) : OutOk (execMtbar a b s) := h.carrierRun
theorem State.MemOk.execMfmt {g : Fin 4} (h : s.MemOk) : OutOk (execMfmt g a s) := h.carrierRun

end

/-! ### The matrix engine at work (Machine/MatRun) -/

section
variable {s : State} {c : CoreId} {j : MJob} {k : Core} {m : Mem} {n a chunk : Nat} {e : MEntry}

theorem Core.MemOk.soft {o : MOperand} {c : Core} {base d : Nat} (h : c.MemOk) : (o.soft c base d n).MemOk := by
  dsimp only [MOperand.soft]
  split
  · exact h
  · exact h.foldl fun _ _ hk => hk.noteSoft

theorem Core.MemOk.softJob {c : Nat} (h : k.MemOk) : (j.soft k c).MemOk := by
  dsimp only [MJob.soft]
  refine Core.MemOk.foldl (Core.MemOk.foldl ?_ fun _ _ hk => hk.soft) fun _ _ hk => hk.soft
  split
  · exact h.noteSoft
  · exact h

theorem Mem.wf_putWords {l : List (Nat × Nat)} (h : Mem.wf m = true) : Mem.wf (putWords m l) = true :=
  holds_foldl (P := fun m => Mem.wf m = true) (fun _ _ hm => Mem.wf_memPut hm _ _) l h
theorem MJob.wf_clear (h : Mem.wf m = true) : Mem.wf (j.clear m) = true :=
  holds_foldl (P := fun m => Mem.wf m = true) (fun _ _ hm => Mem.wf_memClear hm _ _) _ h
theorem MJob.wf_region : Mem.wf (j.region m) = true := Mem.wf_putWords rfl

theorem Mem.wf_copyRegion {rows cols : Nat} {dst src : Mem} (h : Mem.wf dst = true) (h' : Mem.wf src = true) :
    Mem.wf (copyRegion rows cols dst src) = true :=
  holds_foldl (P := fun m => Mem.wf m = true) (fun _ _ hm => Mem.wf_memBlit hm h' _ _ _) _ h

theorem State.MemOk.matFault {cause : Cause} {detail : Nat} (h : s.MemOk) :
    (s.matFault c cause detail chunk).MemOk := by
  dsimp only [State.matFault]
  split
  · exact h
  · refine State.MemOk.logCore (h.modCore fun k hk => ?_)
    exact hk.setMat ⟨rfl, hk.mat.seen⟩

theorem State.MemOk.matEcc (h : s.MemOk) : (s.matEcc c a chunk).MemOk := h.modCore.matFault

theorem State.MemOk.matBad {b : Cause × Nat} (h : s.MemOk) : (s.matBad c b chunk).MemOk := by
  dsimp only [State.matBad]
  split
  · exact h.matEcc
  · exact h.matFault

theorem Mat.MemOk.finish {m : Mat} (h : m.MemOk) : m.finish.MemOk := by
  dsimp only [Mat.finish]
  split
  · exact h
  · exact ⟨rfl, h.seen⟩

theorem State.MemOk.modMat {f : Mat → Mat} (h : s.MemOk)
    (hf : ∀ y, y.MemOk → (f y).MemOk := by exact fun _ hy => hy) : (s.modMat c f).MemOk :=
  h.modCore fun _ hk => hk.setMat (hf _ hk.mat)

theorem State.MemOk.matSignal (h : s.MemOk) : (s.matSignal c).MemOk := by
  dsimp only [State.matSignal]
  split
  · exact h
  · split
    · exact h.modMat fun _ hm => hm.finish
    · split
      · exact h.modMat fun _ hm => ⟨rfl, hm.seen⟩
      · split
        · exact h.matEcc
        · split
          · exact h.matFault
          · exact (h.modCore fun _ hk => hk.noteSoft).writeScratch.modMat fun _ hm => hm.finish

theorem MJob.memOk_firstPhase : j.firstPhase.memOk = true := by
  have hz : Mem.wf (if mZero j.mods then j.region [] else []) = true := by
    split
    · exact MJob.wf_region
    · rfl
  dsimp only [MJob.firstPhase]
  split
  · split
    · rfl
    · rfl
  · split
    · split
      · exact hz
      · rfl
    · rfl

theorem State.MemOk.startMma {sparse : Bool} {ctl addr size : Word} {mods : BitVec 6} (h : s.MemOk) :
    (s.startMma c e sparse ctl addr size mods).MemOk := by
  dsimp only [State.startMma]
  split
  · exact h.matFault
  · split
    · exact h.matBad
    · split
      · exact h.matFault
      · rename_i j _
        refine h.modCore fun k hk => ?_
        have hs : (if mPred mods then k.noteSoft (adrP addr) 16 else k).MemOk := by
          split
          · exact hk.noteSoft
          · exact hk
        have hm : ∀ i, Mem.wf ((if mZero mods && !mChunk mods then
            k.moulds.set j.mould.val (j.clear (k.moulds.get j.mould)) j.mould.isLt else k.moulds).get i) = true := by
          split
          · exact hk.mouldsSet (MJob.wf_clear (hk.moulds _))
          · exact hk.moulds
        exact Core.memOk_iff.mpr ⟨hs.scratch, hs.imem, hs.seg, hs.tiles, hm, MJob.memOk_firstPhase, hk.scratch⟩

theorem State.MemOk.matWait {p : Prefix} (h : s.MemOk) : AllSome State.MemOk (s.matWait c p) := by
  dsimp only [State.matWait]
  split
  · trivial
  · split
    · trivial
    · exact (h.modCore (fun _ hk => hk.noteSoft)).writeScratch.modMat

theorem State.MemOk.matBegin (h : s.MemOk) : (s.matBegin c).MemOk := by
  dsimp only [State.matBegin]
  split
  · exact h
  · split
    · exact h.startMma
    · exact h.modMat fun _ hm => ⟨rfl, hm.seen⟩

theorem State.MemOk.execMatrixCommandStart (h : s.MemOk) : OutOk (execMatrixCommandStart c s) := by
  dsimp only [Machine.execMatrixCommandStart]
  split
  · exact h
  · split
    · split
      · exact h.matBegin
      · split
        · exact h.matEcc
        · split
          · exact h
          · rename_i e5
            exact (h.matWait.of e5).matBegin
    · exact h

theorem Core.MemOk.chunkDone (h : k.MemOk) : (k.chunkDone j m n).MemOk := by
  have hj := h.softJob (j := j) (c := n)
  dsimp only [Core.chunkDone]
  split
  · exact hj.setMat ⟨MJob.wf_region, hj.mat.seen⟩
  · refine Core.memOk_iff.mpr ⟨hj.scratch, hj.imem, hj.seg, hj.tiles,
      hj.mouldsSet (Mem.wf_putWords (h.moulds _)), ?_, hj.mat.seen⟩
    dsimp only
    split
    · rfl
    · split
      · exact MJob.wf_region
      · rfl

theorem State.MemOk.execMmaChunk (h : s.MemOk) : OutOk (execMmaChunk c s) := by
  dsimp only [Machine.execMmaChunk]
  split
  · split
    · exact h
    · split
      · split
        · exact h.matBad
        · split
          · exact (h.modCore (fun _ hk => hk.chunkDone)).matSignal
          · exact h.modCore fun _ hk => hk.chunkDone
      · exact h
  · exact h

theorem Core.MemOk.setTile {t : Fin 4} (h : k.MemOk) (hm : Mem.wf m = true) : (k.setTile t m).MemOk :=
  Core.memOk_iff.mpr ⟨h.scratch, h.imem, h.seg, vector_get_set_of (P := fun m => Mem.wf m = true) t h.tiles hm,
    h.moulds, h.mat⟩

theorem State.MemOk.execTileEmit (h : s.MemOk) : OutOk (execTileEmit c s) := by
  dsimp only [Machine.execTileEmit]
  split
  · rename_i t out n _ ep
    have hout : (MPhase.emit t out n).memOk = true := ep ▸ (h.core c).mat.phase
    split
    · exact h
    · rename_i j _
      have hs := h.modCore (c := c) (f := fun k => k.setTile t (if j.marksOnly then k.tiles.get t
          else copyRegion (sizM j.size) (sizN j.size) (k.tiles.get t) out)) fun k hk => hk.setTile (by
        split
        · exact hk.tiles t
        · exact Mem.wf_copyRegion (hk.tiles t) hout)
      split
      · split
        · exact hs.modMat fun _ hm => ⟨rfl, hm.seen⟩
        · exact hs.matSignal
      · exact h
  · split
    · split
      · refine State.MemOk.matSignal (h.modCore fun k hk => ?_)
        split
        · exact (hk.setTile (hk.moulds _)).withMould rfl
        · exact hk.setTile (hk.moulds _)
      · exact h
    · exact h
  · exact h

theorem Core.MemOk.loadMould {m : Fin 2} (h : k.MemOk) : (k.loadMould m a).MemOk :=
  h.noteSoft.withMould (Mem.wf_memBlit rfl h.noteSoft.scratch _ _ _)

theorem Core.MemOk.blitScratch {m : Fin 2} {l l' l'' : List Nat} (h : k.MemOk) :
    { k with scratch := memBlit k.scratch a (k.moulds.get m) 0 n, eccHard := l, eccSoft := l', eccFix := l'' }.MemOk :=
  Core.memOk_iff.mpr ⟨Mem.wf_memBlit h.scratch (h.moulds m) _ _ _, h.imem, h.seg, h.tiles, h.moulds, h.mat⟩

theorem State.MemOk.storeMould {m : Fin 2} (h : s.MemOk) : (s.storeMould c m a).MemOk :=
  (h.modCore fun _ hk => hk.blitScratch).scratchWrote

theorem State.MemOk.matWork {cmd : MCmd} (h : s.MemOk) : (s.matWork c cmd).MemOk := by
  cases cmd with
  | mclr m => exact (h.modCore fun _ hk => hk.withMould rfl).matSignal
  | mtld m a =>
    dsimp only [State.matWork]
    split
    · exact h.matEcc
    · exact (h.modCore fun _ hk => hk.loadMould).matSignal
  | mtst m a => exact h.storeMould.matSignal
  | mtbar seed digest =>
    dsimp only [State.matWork]
    split
    · exact h.matSignal
    · exact h.matFault
  | mfmt g v => exact (h.modCore fun _ hk => hk.setStem).matSignal
  | memit t m z => exact h
  | mma sparse ctl addr size mods => exact h

theorem State.MemOk.execMatrixCommandComplete (h : s.MemOk) : OutOk (execMatrixCommandComplete c s) := by
  dsimp only [Machine.execMatrixCommandComplete]
  split
  · exact h
  · split
    · split
      · exact h.matSignal
      · exact h.matWork
      · exact h
    · exact h

theorem Core.MemOk.replayChunks {c : Nat} (h : k.MemOk) : AllOk Core.MemOk (Core.replayChunks j n c k) := by
  induction n generalizing c k with
  | zero => exact h
  | succ n ih =>
    dsimp only [Core.replayChunks]
    split
    · trivial
    · exact ih (h.softJob.withMoulds (h.mouldsSet (Mem.wf_putWords (h.moulds _))))

theorem State.MemOk.replayOne (h : s.MemOk) : AllOk State.MemOk (s.replayOne c e) := by
  have hclear : ∀ m : Fin 2, (s.modCore c fun k => { k with moulds := k.moulds.set m.val [] m.isLt }).MemOk :=
    fun _ => h.modCore fun _ hk => hk.withMould rfl
  dsimp only [State.replayOne]
  split
  · split
    · exact h
    · split
      · trivial
      · split
        · exact h
        · rename_i mods _ _ _ _ _ _ _ j _
          have hk : Core.MemOk (if mZero mods then { s.core c with
              moulds := (s.core c).moulds.set j.mould.val (j.clear ((s.core c).moulds.get j.mould)) j.mould.isLt }
              else s.core c) := by
            split
            · exact (h.core c).withMould (MJob.wf_clear ((h.core c).moulds _))
            · exact h.core c
          split
          · exact h.setCore hk
          · exact hk.replayChunks.map fun _ hk' => h.setCore hk'
  · exact hclear _
  · split
    · exact hclear _
    · exact h
  · split
    · trivial
    · exact h.modCore fun _ hk => hk.loadMould
  · exact h.storeMould
  · exact h
  · exact h

theorem State.MemOk.replayAll {l : List MEntry} (h : s.MemOk) : AllOk State.MemOk (s.replayAll c l) := by
  induction l generalizing s with
  | nil => exact h
  | cons e l ih =>
    dsimp only [State.replayAll]
    split
    · trivial
    · rename_i he; exact ih (h.replayOne.of he)

theorem State.MemOk.replayWindow {m : Fin 2} (h : s.MemOk) : (s.replayWindow c e m).MemOk := by
  dsimp only [State.replayWindow]
  split
  · exact h.matFault
  · have hs := h.modCore (c := c) (f := fun k => { k with
        moulds := k.moulds.set m.val [] m.isLt
        mat := { k.mat with replays := k.mat.replays.set m.val (k.mat.replays.get m + 1) m.isLt } })
        fun k hk => (hk.withMould rfl).setMat hk.mat
    split
    · exact hs.matBad
    · rename_i t et
      have ht : t.MemOk := hs.replayAll.of et
      split
      · exact ht
      · rename_i j _
        refine ht.modCore fun k hk => ?_
        have hm : ∀ i, Mem.wf ((if mZero j.mods then k.moulds.set m.val (j.clear (k.moulds.get m)) m.isLt
            else k.moulds).get i) = true := by
          split
          · exact hk.mouldsSet (MJob.wf_clear (hk.moulds _))
          · exact hk.moulds
        exact (hk.withMoulds hm).setMat ⟨MJob.memOk_firstPhase, hk.mat.seen⟩

theorem State.MemOk.execMouldParity (h : s.MemOk) : OutOk (execMouldParity c s) := by
  unfold Machine.execMouldParity
  extract_lets k begun t
  clear_value begun
  have hl : t.MemOk := h.logCore
  clear_value t
  split
  · exact h
  · split
    · exact h
    · split
      · split
        · exact h
        · split
          · split
            · refine hl.modMat fun m hm => ⟨?_, hm.seen⟩
              dsimp only
              split
              · exact hm.phase
              · rfl
            · exact hl
          · split
            · exact hl.replayWindow
            · exact hl
      · split
        · exact h
        · split
          · exact hl.matFault
          · exact hl.modMat
      · exact h
      · split
        · exact h.logCore.replayWindow
        · exact h

end

/-! ### The vector engine between instructions (Machine/VecEvents) -/

section
variable {c : CoreId} {s : State} {f : EngFault} {k : Core} {e : Engine}

theorem State.MemOk.execTokenStart (h : s.MemOk) : OutOk (execTokenStart c s) := by
  dsimp only [Machine.execTokenStart]
  split
  · exact h
  · split
    · exact h.modCore.passTo
    · exact h

theorem State.MemOk.tellFault (h : s.MemOk) : (s.tellFault c f).MemOk := by
  dsimp only [State.tellFault]
  split
  · exact h.modCore.logCore
  · exact h

theorem State.MemOk.execVectorLoadEcc (h : s.MemOk) : OutOk (execVectorLoadEcc c s) := by
  dsimp only [Machine.execVectorLoadEcc]
  split
  · exact h
  · split
    · exact h.modCore.tellFault.passTo
    · exact h

theorem State.MemOk.execVectorFaultReport (h : s.MemOk) : OutOk (execVectorFaultReport c s) := by
  dsimp only [Machine.execVectorFaultReport]
  split
  · exact h
  · split
    · exact h
    · exact State.MemOk.passTo (h.setCore (h.core _))

theorem Core.MemOk.takeFault (h : k.MemOk) : (k.takeFault e).MemOk := by
  dsimp only [Core.takeFault]
  split
  · exact h.setVec
  · exact h.setMat (h.mat : Mat.MemOk k.mat)
  · exact h

theorem Core.MemOk.engineTrap (h : k.MemOk) : (k.engineTrap e f).MemOk := h.takeFault.trapEntry.setStem

theorem State.MemOk.execEngineFaultTrap (h : s.MemOk) : OutOk (execEngineFaultTrap c s) := by
  dsimp only [Machine.execEngineFaultTrap]
  split
  · exact h
  · split
    · exact h.cancelWaita.modCore fun _ hk => hk.engineTrap
    · exact h

theorem State.MemOk.execWatchdog (h : s.MemOk) : OutOk (execWatchdog c s) := by
  have hc : ({ s with cur := c } : State).MemOk := h.frame
  dsimp only [Machine.execWatchdog]
  split
  · split
    · exact (State.MemOk.stemTrap hc).frame
    · exact h
  · exact h

end

/-! ### Pre-emption: save and restore (Machine/Preempt) -/

section
variable {s : State} {k : Core} {c : CoreId} {tag : Tag} {l : List (Nat × Nat)} {base : Nat} {n : Nest}

theorem State.MemOk.haltCore (h : s.MemOk) : (s.haltCore c).MemOk := h.modCore.passTo

theorem State.MemOk.abortGrain {g : Grain} (h : s.MemOk) : (s.abortGrain g).MemOk := by
  refine h.foldl fun _ _ hk => ?_
  split
  · split
    · rename_i e1
      exact hk.abortInst.of e1
    · exact hk
  · exact hk

theorem State.MemOk.execCoreHalted (h : s.MemOk) : OutOk (execCoreHalted c s) := by
  dsimp only [Machine.execCoreHalted]
  split
  · exact h
  · split
    · split
      · exact h.haltCore.endGrain
      · exact h.haltCore.abortGrain
    · exact h

theorem State.MemOk.writePages {bs : List Byte} (h : s.MemOk) : AllOk State.MemOk (writePages tag l bs s) := by
  induction l generalizing bs s with
  | nil => exact h
  | cons p r ih => exact h.serviceWrite.bind fun _ ht => ih ht

theorem State.MemOk.writeSections {l : List (Nat × Nat × List Byte)} (h : s.MemOk) :
    AllOk State.MemOk (writeSections tag base l s) := by
  induction l generalizing s with
  | nil => exact h
  | cons p r ih => exact h.writePages.bind fun _ ht => ih ht

theorem Core.MemOk.kept (h : k.MemOk) : k.kept.MemOk :=
  Core.memOk_iff.mpr ⟨rfl, rfl, rfl, Core.memOk_reset.tiles, Core.memOk_reset.moulds, h.mat⟩
theorem Core.MemOk.vacated (h : k.MemOk) : k.vacated.MemOk := h

theorem Nest.MemOk.addSaved {x : Saved} (h : n.MemOk) (hx : x.MemOk) :
    Nest.MemOk { n with saved := n.saved ++ [x] } := fun y hy => by
  rcases List.mem_append.mp hy with hy | hy
  · exact h y hy
  · rw [List.mem_singleton.mp hy]; exact hx

theorem State.MemOk.execSaveComplete (h : s.MemOk) : OutOk (execSaveComplete c s) := by
  dsimp only [Machine.execSaveComplete]
  split
  · exact h
  · split
    · exact h
    · split
      · exact h.abortGrain
      · split
        · exact h
        · split
          · exact h
          · split
            · exact h
            · rename_i e
              exact ((h.writeSections.of e).modCore fun _ hk => hk.vacated).modNest fun _ hn =>
                hn.addSaved ⟨(h.core c).kept, (h.core c).scratch⟩

theorem Core.MemOk.restored {x : Core} {now lim : Nat} {regs tiles moulds imem seg scratch : List Byte}
    (hx : x.MemOk) : (k.restored x now lim regs tiles moulds imem seg scratch).MemOk := by
  refine Core.MemOk.foldl (Core.memOk_iff.mpr ?_) fun _ _ ht => ht.takeRatom
  exact ⟨Mem.wf_memCells _ _, Mem.wf_memCells _ _, Mem.wf_memCells _ _,
    vector_get_ofFn_of (P := fun m => Mem.wf m = true) fun _ => Mem.wf_memCells _ _,
    vector_get_ofFn_of (P := fun m => Mem.wf m = true) fun _ => Mem.wf_memCells _ _, hx.mat⟩

theorem Core.MemOk.withUnits {x : Stem} {y : Vec} (h : k.MemOk) : { k with stem := x, vec := y }.MemOk := h
theorem Core.MemOk.reread (h : k.MemOk) : (s.reread k).MemOk := h.withUnits

theorem State.MemOk.readSections (h : s.MemOk) : AllOk FstOk (readSections tag base l s) := by
  induction l generalizing s with
  | nil => exact h
  | cons p r ih => exact h.readImage.bind fun _ hx => AllOk.bind (ih hx.fst) fun _ hy => hy.fst

theorem State.MemOk.nest {id : Nat} (h : s.MemOk) (e : s.nest id = some n) : n.MemOk :=
  h.pkg n (List.mem_of_find?_eq_some e)

theorem State.MemOk.execRestoreComplete (h : s.MemOk) : OutOk (execRestoreComplete c s) := by
  dsimp only [Machine.execRestoreComplete]
  split
  · exact h
  · split
    · exact h
    · split
      · exact h.modCore
      · rename_i n en
        split
        · exact h.modCore.modNest fun _ hn => hn.dropSaved.settle
        · split
          · exact h
          · rename_i x ex
            have hx : x.state.MemOk := (h.nest en x (List.mem_of_find?_eq_some ex)).1
            split
            · rename_i er
              refine (State.MemOk.modCore (h.readSections.fst er) fun k _ => ?_).modNest fun _ hn => hn.dropSaved.settle
              refine Core.MemOk.withPhase (Core.MemOk.restored ?_)
              split
              · exact hx
              · exact hx.reread
            · exact h

end

/-! ### Killing a context, function-level reset (Machine/Kill) -/

section
variable {s : State} {ctx : BitVec 16} {k : Kill} {d : DieId} {n : Fin 16} {c : Cause} {f : Fin 17}

theorem State.MemOk.haltCtx {cause : Cause} (h : s.MemOk) : (s.haltCtx ctx cause).MemOk := by
  dsimp only [State.haltCtx]
  refine State.MemOk.modPkg (State.MemOk.endGrains h.modPkg.requestStop fun _ hn => hn.withCause) fun p hp n hn => ?_
  obtain ⟨m, hm, rfl⟩ := List.mem_map.mp hn
  split
  · exact Nest.memOk_noMore
  · exact hp m hm

theorem State.MemOk.killStart {by_ : KillBy} (h : s.MemOk) : (s.killStart ctx d n by_).MemOk := h.haltCtx.modPkg

theorem State.MemOk.execKillctx {d : Reg} {a : Src} (h : s.MemOk) : OutOk (execKillctx d a s) := by
  dsimp only [Machine.execKillctx]
  refine h.percoRun ?_
  split
  · exact h.modCurSeq fun _ hk => hk.setG
  · split
    · exact h
    · exact h.modCurSeq fun _ hk => hk.setG
  · refine State.MemOk.modCurSeq ?_
    split
    · exact h
    · exact h.killStart

theorem State.MemOk.putKill {x : Kill} (h : s.MemOk) : (s.putKill k x).MemOk := h.modPkg

theorem State.MemOk.startRounds (h : s.MemOk) : (s.startRounds ctx).1.MemOk := by
  refine holds_foldl (P := fun acc : State × List (DieId × W32) => acc.1.MemOk) (fun acc x ha => ?_) _ h
  dsimp only
  split
  · exact ha.abortInst.orAlone ha
  · exact ha

theorem State.MemOk.openRounds (h : s.MemOk) : (s.openRounds k).MemOk := h.startRounds.putKill
theorem State.MemOk.markKilled (h : s.MemOk) : (s.markKilled ctx).MemOk := h.modPkg

theorem Runner.MemOk.cancel {r : Runner} (h : r.MemOk) : (r.cancel ctx).MemOk := by
  refine holds_foldl (P := Runner.MemOk) (fun _ _ hr => hr.remember) _ fun n => ?_
  refine vector_get_map_of (P := Seqr.MemOk) (fun q hq => ?_) h n
  split
  · exact hq.ended
  · exact hq

theorem State.MemOk.dropRatoms (h : s.MemOk) : (s.dropRatoms ctx).MemOk :=
  h.foldl fun _ _ hk => hk.foldl fun _ _ hk1 => hk1.ratomDropped
theorem State.MemOk.beginDrain (h : s.MemOk) : (s.beginDrain k).MemOk :=
  (State.MemOk.withDies h (hf := fun _ hr => hr.cancel)).markKilled.dropRatoms.putKill

theorem State.MemOk.sendKill {pkg : BitVec 12} {rest : List (DieId × BitVec 12)} (h : s.MemOk) :
    AllSome State.MemOk (s.sendKill k d pkg rest) := by
  dsimp only [State.sendKill]
  split
  · rename_i e
    exact (h.sendFar.of e).putKill
  · trivial
  · exact h.putKill

theorem State.MemOk.killRecord (h : s.MemOk) : (s.killRecord d ctx).MemOk := by
  have ht : ({ s with dies := s.dies.map fun r =>
      { r with overflow := r.overflow.filter fun x => x.ctx != ctx } } : State).MemOk := h.withDies
  dsimp only [State.killRecord]
  split
  · exact ht
  · split
    · exact ht
    · exact ht.writeFault.modPkg

theorem State.MemOk.freeNest {n : Nest} (h : s.MemOk) : (s.freeNest c n).MemOk := by
  refine AllSome.getD h.finishNest (h.modPkg fun p hp m hm => ?_)
  rcases List.mem_append.mp hm with hm | hm
  · exact hp m (List.mem_of_mem_filter hm)
  · rw [List.mem_singleton.mp hm]; exact Nest.memOk_noMore (n := n.withCause c)

theorem State.MemOk.freeNests (h : s.MemOk) : (s.freeNests ctx c).MemOk := h.foldl fun _ _ hk => hk.freeNest
theorem State.MemOk.freeSpilled (h : s.MemOk) : (s.freeSpilled ctx c).MemOk :=
  h.foldl fun _ _ hk => hk.foldl fun _ _ hk1 => hk1.freeNest.modPkg

theorem State.MemOk.unmapCtx (h : s.MemOk) : (s.unmapCtx ctx).MemOk := by
  refine h.foldl fun _ _ hk => ?_
  split
  · exact hk.unmapSlot
  · exact hk

theorem Core.memOk_scrubbed {k : Core} : k.scrubbed.MemOk := Core.memOk_reset
theorem State.MemOk.withCores {v : Vector Core 256} (h : s.MemOk) (hv : ∀ c, (v.get c).MemOk) :
    { s with cores := v }.MemOk := State.memOk_of h.main h.host hv h.runner h.pkg

theorem State.MemOk.flrEnd (h : s.MemOk) : (s.flrEnd f).MemOk := by
  have hc : ∀ c : Fin 256, (if s.pkg.vfHas f.val c.val then (s.core c).scrubbed else s.core c).MemOk := fun c => by
    split
    · exact Core.memOk_scrubbed
    · exact h.core c
  have ht := h.withCores (vector_get_ofFn_of (P := Core.MemOk) hc)
  dsimp only [State.flrEnd]
  refine State.MemOk.modFn (State.MemOk.modPkg ht fun p hp n hn => ?_)
  exact hp n (List.mem_of_mem_filter hn)

theorem State.MemOk.killOver (h : s.MemOk) : (s.killOver k).MemOk := by
  dsimp only [State.killOver]
  split
  · refine h.freeNests.freeSpilled.unmapCtx.modPkg.modSeq fun _ hk => ?_
    split
    · split <;> exact hk
    · exact hk
  · exact h.freeNests.freeSpilled.unmapCtx.modPkg.answerHost
  · split
    · exact h.freeNests.freeSpilled.unmapCtx.modPkg
    · exact h.freeNests.freeSpilled.unmapCtx.modPkg.flrEnd

theorem State.MemOk.killEnd (h : s.MemOk) : (s.killEnd k).MemOk := h.killRecord.modPkg.killOver

theorem State.MemOk.killStep (h : s.MemOk) : AllSome State.MemOk (s.killStep k) := by
  dsimp only [State.killStep]
  split
  · split
    · exact h.openRounds
    · trivial
  · split
    · exact h.beginDrain
    · trivial
  · exact h.sendKill
  · split
    · trivial
    · exact h.killEnd

theorem State.MemOk.execKillctxDrainDone (h : s.MemOk) : OutOk (execKillctxDrainDone d n s) :=
  AllSome.getD (AllSome.findSome (fun _ => h.killStep) _) h

theorem State.MemOk.execRoundDrainTimeout (h : s.MemOk) : OutOk (execRoundDrainTimeout d n s) := by
  dsimp only [Machine.execRoundDrainTimeout]
  split
  · exact h.beginDrain
  · exact h

theorem State.MemOk.execKillMessage {_pkg : BitVec 12} (h : s.MemOk) : OutOk (execKillMessage _pkg ctx s) := by
  dsimp only [Machine.execKillMessage]
  split
  · exact h.markKilled
  · exact h

theorem Package.MemOk.withSlots {p : Package} {l : List (Fin 17)} {v : Vector QSlot 64} (h : p.MemOk) :
    { p with flrs := l, slots := v }.MemOk := h
theorem State.MemOk.flrHalt {ctxs : List (BitVec 16)} (h : s.MemOk) : (s.flrHalt f ctxs).MemOk :=
  State.MemOk.requestStop (State.MemOk.foldl (h.modPkg fun _ hp => hp.withSlots) fun _ _ ht => ht.haltCtx)

theorem State.MemOk.flrStep (h : s.MemOk) : (s.flrStep f).MemOk := by
  dsimp only [State.flrStep]
  split
  · exact h
  · split
    · exact h.flrHalt
    · split
      · exact h.flrHalt.flrEnd
      · exact h.flrHalt.foldl fun _ _ hk => hk.killStart

end

/-! ### Directions, dies and ports that go down (Machine/LinkEvents) -/

section
variable {s : State} {d : DieId} {w : SrcWin} {p : Fin 16}

theorem State.MemOk.dieLost (h : s.MemOk) : (s.dieLost d).MemOk :=
  ((h.foldl (fun _ _ hk => hk.quarantine)).foldl (fun _ _ hk => hk.foldl (fun _ _ hk1 => hk1.losePost))).hostEvent

theorem State.MemOk.afterLoss {before : Package} (h : s.MemOk) : (s.afterLoss before).MemOk := by
  dsimp only [State.afterLoss]
  split
  · exact (h.foldl (fun _ _ hk => hk.dieLost)).hostEvent
  · exact h.foldl fun _ _ hk => hk.dieLost

theorem State.MemOk.putWin (h : s.MemOk) : (s.putWin d w).MemOk := h.modRunner
theorem State.MemOk.beginClose (h : s.MemOk) : (s.beginClose d w).MemOk := h.putWin.yunanSend
theorem State.MemOk.resendWin {port : Nat} (h : s.MemOk) : (s.resendWin d w port).MemOk :=
  h.putWin.foldl fun _ _ hk => hk.yunanOut

theorem State.MemOk.retryWin (h : s.MemOk) : (s.retryWin d w).MemOk := by
  dsimp only [State.retryWin]
  split
  · exact h.resendWin
  · exact h.beginClose

theorem State.MemOk.rerouted {p : Nat} (h : s.MemOk) : (s.rerouted p d).MemOk := h.foldl fun _ _ hk => hk.retryWin

theorem State.MemOk.portDown (h : s.MemOk) : (s.portDown p).MemOk := by
  dsimp only [State.portDown]
  split
  · exact h
  · exact (h.setLink.setLink.foldl (fun _ _ hk => hk.rerouted)).linkEvent

theorem State.MemOk.execYunanPortDown (h : s.MemOk) : OutOk (execYunanPortDown p s) := h.portDown

theorem State.MemOk.execRetrainDone {l : LinkId} {up : Bool} (h : s.MemOk) : OutOk (execRetrainDone l up s) := by
  dsimp only [Machine.execRetrainDone]
  split
  · exact h
  · split
    · split
      · exact h.retireLanes.setLink.portDown
      · exact h.retireLanes.setLink.dropDirection.afterLoss
    · split
      · exact h.retireLanes.setLink.linkEvent
      · exact h.retireLanes.setLink

end

/-! ### The sequence windows of the pod (Machine/FarEvents) -/

section
variable {s : State} {d : DieId} {q : FarReq} {pkg : BitVec 12} {a : Answer} {w : FarWin} {t : Target} {ws : W32}
  {id : Nat} {va : Word} {f : FarOut → Answer}

theorem State.MemOk.tellProg {n : Fin 16} (h : s.MemOk) : AllSome State.MemOk (s.tellProg d n id va q a) := by
  dsimp only [State.tellProg]
  split
  · exact h
  · split
    · exact h.modSeq
    · split
      · exact h.modSeq
      · exact h.progLost

theorem State.MemOk.boxOld {b : Box} {acc : Access} {va : Nat} (h : s.MemOk) :
    AllSome State.MemOk (s.boxOld d b acc va) := by
  dsimp only [State.boxOld]
  split
  · exact h
  · exact h.boxRecord.map fun _ hk => hk.fst.modBox

theorem State.MemOk.tellBox {mid : W32} (h : s.MemOk) : AllSome State.MemOk (s.tellBox d mid q a) := by
  dsimp only [State.tellBox]
  split
  · exact h
  · split
    · exact h.boxOld.map fun _ hk => hk.answered
    · exact h.boxEnded
    · exact h.boxStop
    · split
      · exact h.modBox
      · exact h.answered

theorem State.MemOk.tellWaita {c : CoreId} {sent : Word} (h : s.MemOk) :
    AllSome State.MemOk (s.tellWaita c sent a) := by
  dsimp only [State.tellWaita]
  split
  · exact h
  · split
    · exact h
    · split
      · exact h.setWaita
      · exact h.waitaStop

theorem State.MemOk.tellPosted (h : s.MemOk) : AllSome State.MemOk (s.tellPosted d id a) := by
  dsimp only [State.tellPosted]
  split
  · exact h.postedStop
  · exact h.modPosted
  · exact h

theorem State.MemOk.tell {o : FarOut} (h : s.MemOk) : AllSome State.MemOk (s.tell d o a) := by
  dsimp only [State.tell]
  split
  · split
    · exact h
    · split
      · exact h.ratomReply
      · exact h.ratomFault
  · exact h.tellWaita
  · exact h.tellProg
  · exact h.tellBox
  · exact h.tellPosted
  · split
    · exact h
    · split
      · exact h.settled
      · exact h.cutOff
  · split
    · exact h
    · split
      · exact h.repaired
      · exact h.cutOff
  · exact h
  · exact h

theorem State.MemOk.modWin {f : SrcWin → SrcWin} (h : s.MemOk) : (s.modWin d pkg f).MemOk := h.modRunner

theorem State.MemOk.execEndToEndReply {val : Word} {poison : Bool} (h : s.MemOk) :
    OutOk (execEndToEndReply d pkg ws val poison s) := by
  dsimp only [Machine.execEndToEndReply]
  split
  · exact h
  · exact h.modWin.tell.getD h

theorem State.MemOk.execEndToEndNak (h : s.MemOk) : OutOk (execEndToEndNak d pkg ws s) := by
  dsimp only [Machine.execEndToEndNak]
  split
  · exact h
  · split
    · exact h
    · exact h.putWin.foldl fun _ _ hk => hk.yunanOut

theorem State.MemOk.closeIdle {w : SrcWin} (h : s.MemOk) : (s.closeIdle d w).MemOk := by
  dsimp only [State.closeIdle]
  split
  · exact h.beginClose
  · exact h

theorem State.MemOk.execWindowRetryTimeout (h : s.MemOk) : OutOk (execWindowRetryTimeout d pkg s) := by
  dsimp only [Machine.execWindowRetryTimeout]
  split
  · exact h
  · split
    · split
      · exact h.closeIdle
      · exact h
    · split
      · exact h
      · exact h.retryWin

theorem State.MemOk.tellAll {l : List FarOut} (h : s.MemOk) : AllSome State.MemOk (tellAll d f l s) := by
  induction l generalizing s with
  | nil => exact h
  | cons o l ih => exact AllSome.bind h.tell fun _ ht => ih ht

theorem State.MemOk.closeWin {w : SrcWin} (h : s.MemOk) : (s.closeWin d w f).MemOk :=
  AllSome.getD (State.MemOk.tellAll h.putWin) h

theorem State.MemOk.execCloseReply {expected : W32} {results : List (W32 × Word)} (h : s.MemOk) :
    OutOk (execCloseReply d pkg expected results s) := by
  dsimp only [Machine.execCloseReply]
  split
  · exact h
  · split
    · exact h
    · exact h.closeWin

theorem State.MemOk.execCloseTimeout (h : s.MemOk) : OutOk (execCloseTimeout d pkg s) := by
  dsimp only [Machine.execCloseTimeout]
  split
  · exact h
  · split
    · exact h.closeWin
    · exact h

theorem State.MemOk.setFar (h : s.MemOk) : (s.setFar d w).MemOk := h.modRunner

theorem State.MemOk.farDone {x : Except Cause State} (h : s.MemOk) (hx : AllOk State.MemOk x) :
    AllSome FstOk (s.farDone q x) := by
  cases x with
  | ok t => exact hx
  | error c => exact h

theorem State.MemOk.farShadowAt (h : s.MemOk) : AllSome FstOk (s.farShadowAt d q va) := by
  dsimp only [State.farShadowAt]
  split
  · exact h.internalCheck
  · exact h
  · rename_i e
    split
    · trivial
    · refine h.farDone (holds_foldlM (fun t w ht => ?_) _ (h.locateVa.of e))
      split
      · exact ht.perform
      · trivial
      · exact ht

theorem State.MemOk.farShadow {sq : W32} {ofs : Word} (h : s.MemOk) : AllSome FstOk (s.farShadow d q sq ofs) := by
  dsimp only [State.farShadow]
  split
  · exact h
  · exact h
  · split
    · exact h
    · split
      · exact h
      · exact h.farShadowAt

theorem State.MemOk.farRead (h : s.MemOk) : AllSome FstOk (s.farRead q t) := by
  dsimp only [State.farRead]
  split
  · exact h
  · exact h.noteRead

theorem State.MemOk.farAtomic (h : s.MemOk) : AllSome FstOk (s.farAtomic q t) := by
  dsimp only [State.farAtomic]
  split
  · split
    · rename_i e1
      exact h.atomicAt.fst e1
    · exact h
  · split
    · split
      · exact h
      · split
        · exact h.noteRead.homeWrite
        · exact h.noteRead
    · split
      · exact h
      · exact h
      · split
        · split
          · exact h
          · exact h.setHead
        · exact h.setHead

theorem State.MemOk.farWatch (h : s.MemOk) : (s.farWatch d q t).1.MemOk := by
  dsimp only [State.farWatch]
  split
  · exact h
  · split
    · exact h.noteRead
    · exact h.noteRead.modRunner

theorem State.MemOk.farSettle (h : s.MemOk) : AllSome FstOk (s.farSettle q t) := by
  dsimp only [State.farSettle]
  split
  · exact h.instRecord.map fun _ hk => hk
  · split
    · exact h
    · exact h.instRecord.map fun _ hk => hk
    · split
      · exact h
      · exact h.setHead

theorem State.MemOk.farPerform (h : s.MemOk) : AllSome FstOk (s.farPerform d q) := by
  have one : ∀ {r : FarDone}, AllSome FstOk r →
      AllSome FstOk (r.map fun x => ((x.1, some x.2) : State × Option FarAns)) := fun hr => hr.map fun _ hx => hx.fst
  dsimp only [State.farPerform]
  split
  · exact h
  · split
    · exact h
    · split
      · exact one h.farRead
      · split
        · exact one h.farShadow
        · exact one (h.farDone h.perform)
      · split
        · exact one h.farShadow
        · exact one (h.farDone h.perform)
      · exact one h.farAtomic
      · exact one (h.farDone h.semAddAt)
      · exact h.farWatch
      · exact h.fireOn
      · exact one h.farSettle
      · exact h.markKilled
      · exact h

theorem State.MemOk.farReply {op : Nat} {a : FarAns} (h : s.MemOk) : (s.farReply d q op ws a).MemOk := h.yunanSend

theorem State.MemOk.farSay {o : Option FarAns} (h : s.MemOk) : (s.farSay d q o).MemOk := by
  dsimp only [State.farSay]
  split
  · exact h
  · exact h.farReply

theorem State.MemOk.farEqual (h : s.MemOk) : (s.farEqual d w q).MemOk := by
  dsimp only [State.farEqual]
  split
  · exact h
  · split
    · exact h
    · rename_i e1
      exact (h.farPerform.fst e1).setFar.farSay

theorem State.MemOk.farBehind (h : s.MemOk) : (s.farBehind d w q).MemOk := by
  dsimp only [State.farBehind]
  split
  · split <;> exact h.farSay
  · split
    · split
      · rename_i e2
        exact (h.farRead.fst e2).farSay
      · exact h
    · exact h.farSay

theorem State.MemOk.farArrive (h : s.MemOk) : (s.farArrive d w q).MemOk := by
  dsimp only [State.farArrive]
  split
  · exact h.farEqual
  · split
    · exact h.farBehind
    · split
      · exact h
      · exact h.setFar.farReply

theorem State.MemOk.farPlaced (h : s.MemOk) : (s.farPlaced d w q).MemOk := by
  dsimp only [State.farPlaced]
  split
  · exact h.farReply
  · exact h.farArrive

theorem State.MemOk.execFarEndRequest (h : s.MemOk) : OutOk (execFarEndRequest d q s) := by
  dsimp only [Machine.execFarEndRequest]
  split
  · exact h
  · split
    · exact h.logFar
    · split
      · exact h.farPlaced
      · split
        · exact h.farPlaced
        · split
          · exact h.farPlaced
          · exact h.farReply

theorem State.MemOk.execWindowClose {sd : DieId} {ep : BitVec 8} (h : s.MemOk) :
    OutOk (execWindowClose d pkg sd ep s) := by
  dsimp only [Machine.execWindowClose]
  split
  · exact h
  · split
    · exact h.setFar.yunanSend
    · exact h

theorem State.MemOk.messageTurn (h : s.MemOk) : (s.messageTurn d).MemOk := by
  dsimp only [State.messageTurn]
  split
  · exact h
  · exact h.modRunner.yunanSend

end

/-! ### Cold and warm reset (Machine/Reset) -/

section
variable {s : State} {cold : Bool} {m : Mem}

theorem Mem.wf_moveMem {old new : List Nat} : Mem.wf (moveMem old new m) = true := by
  refine holds_foldl (P := fun m => Mem.wf m = true) (fun r c hr => ?_) _ rfl
  split
  · exact Mem.wf_memPut hr _ _
  · exact hr

theorem Package.memOk_pkgReset : (s.pkgReset cold).MemOk := fun n hn => by
  dsimp only [State.pkgReset, Package.reset] at hn
  cases hn

theorem Runner.memOk_afterReset {r : Runner} : r.afterReset.MemOk := Runner.memOk_reset
theorem State.MemOk.retireAll (h : s.MemOk) : s.retireAll.MemOk := h.foldl fun _ _ hk => hk.retireLanes

theorem State.MemOk.reportDown (h : s.MemOk) : s.reportDown.MemOk := by
  unfold State.reportDown
  extract_lets side t u
  have hside : ∀ kind t l, t.MemOk → (side kind t l).MemOk := fun kind t l ht => by
    dsimp only [side]
    split
    · exact ht
    · exact ht.linkEvent
  have ht : t.MemOk := h.foldl fun _ _ hk => hside _ _ _ (hside _ _ _ (hside _ _ _ hk))
  have hu : u.MemOk := ht.foldl fun _ _ hk => hk.hostEvent
  split
  · exact hu
  · exact hu.hostEvent

theorem State.MemOk.packageFailure {c : Cause} (h : s.MemOk) : (s.packageFailure c).MemOk := h.logCause.hostEvent

/-- A machine whose cores and dies a reset has cleared, with main memory, package and clocks of their own. -/
def State.withReset (s : State) (cold : Bool) (m : Mem) (q : Package) (v : Vector Nat 4) : State :=
  { s with
    cores := Vector.replicate 256 Core.reset
    dies := if cold then Vector.replicate 4 Runner.reset else s.dies.map Runner.afterReset
    cycles := v
    mem := m
    pkg := q }

theorem State.MemOk.withReset {q : Package} {v : Vector Nat 4} (h : s.MemOk) (hm : Mem.wf m = true) (hq : q.MemOk) :
    (s.withReset cold m q v).MemOk := by
  refine State.memOk_of hm h.host (fun c => ?_) (fun d => ?_) hq
  · rw [show State.core _ c = Core.reset by simp [State.core, State.withReset, Vector.get]]
    exact Core.memOk_reset
  · cases cold with
    | true =>
      rw [show State.runner _ d = Runner.reset by simp [State.runner, State.withReset, Vector.get]]
      exact Runner.memOk_reset
    | false => exact vector_get_map_of (P := Runner.MemOk) (fun _ _ => Runner.memOk_afterReset) h.runner d

theorem State.MemOk.resetAs (h : s.MemOk) : (s.resetAs cold).MemOk := by
  have hm : Mem.wf (if cold then [] else if (s.pkgReset cold).lchanged then
      moveMem s.pkg.channels (s.pkgReset cold).channels s.mem else s.mem) = true := by
    split
    · rfl
    · split
      · exact Mem.wf_moveMem
      · exact h.main
  dsimp only [State.resetAs]
  have ht := (State.MemOk.withReset (cold := cold) (v := Vector.replicate 4 0) h hm
    (Package.memOk_pkgReset (cold := cold) (s := s))).retireAll.reportDown
  generalize s.pkgReset cold = q at ht ⊢
  split
  · refine State.MemOk.packageFailure ?_
    split
    · exact ht.packageFailure
    · exact ht
  · split
    · exact ht.packageFailure
    · exact ht

theorem State.MemOk.execColdReset (h : s.MemOk) : OutOk (execColdReset s) := h.resetAs
theorem State.MemOk.execWarmReset (h : s.MemOk) : OutOk (execWarmReset s) := h.resetAs

theorem State.MemOk.execMemready (h : s.MemOk) : OutOk (execMemready s) := by
  dsimp only [Machine.execMemready]
  split
  · exact h
  · exact h.writeConf.modPkg

end

/-! ### The host port (Machine/HostPort) -/

section
variable {s : State} {f : Fin 17} {v : Word} {off n pa : Nat} {k : Fin 64}

theorem State.MemOk.execDoorbell {v : W32} (h : s.MemOk) : OutOk (execDoorbell f v s) := by
  dsimp only [Machine.execDoorbell]
  split
  · exact h.modFn.pumpSubs
  · exact h

theorem State.MemOk.execCack (h : s.MemOk) : OutOk (execCack f v s) := by
  dsimp only [Machine.execCack]
  split
  · exact h.modFn.flushFn.pumpSubs
  · exact h

theorem State.MemOk.refuseHost {c : Cause} {detail : Word} (h : s.MemOk) : (s.refuseHost f c detail).MemOk :=
  h.answerHost
theorem State.MemOk.okHost (h : s.MemOk) : (s.okHost f).MemOk := h.answerHost

theorem State.MemOk.execMapq (h : s.MemOk) : OutOk (execMapq f s) := by
  dsimp only [Machine.execMapq]
  split
  · exact h
  · split
    · exact h
    · split
      · exact h.refuseHost
      · exact h.refuseHost
      · split
        · exact h.refuseHost
        · exact h.refuseHost
        · rename_i e4
          split
          · exact (h.translate.of e4).refuseHost
          · exact (h.translate.of e4).modSlot.mapSlot.okHost

theorem State.MemOk.execUnmapq (h : s.MemOk) : OutOk (execUnmapq f s) := by
  dsimp only [Machine.execUnmapq]
  split
  · exact h
  · split
    · exact h
    · split
      · exact h.refuseHost
      · exact h.unmapSlot.okHost

theorem State.MemOk.execSetctx (h : s.MemOk) : OutOk (execSetctx f s) := by
  dsimp only [Machine.execSetctx]
  split
  · exact h
  · split
    · exact h
    · split
      · exact h.refuseHost
      · split
        · exact h.refuseHost
        · exact h.writeMem.modPkg.okHost

theorem State.MemOk.execKill (h : s.MemOk) : OutOk (execKill f s) := by
  dsimp only [Machine.execKill]
  split
  · exact h
  · split
    · exact h
    · split
      · exact h.refuseHost
      · split
        · exact h
        · exact h.killStart

theorem State.MemOk.execHwread (h : s.MemOk) : OutOk (execHwread f s) := by
  dsimp only [Machine.execHwread]
  split
  · exact h
  · exact (State.MemOk.withHostMem h (Mem.wf_memPut h.host _ _)).okHost

theorem State.MemOk.execQuarantine (h : s.MemOk) : OutOk (execQuarantine f s) := by
  dsimp only [Machine.execQuarantine]
  split
  · exact h
  · split
    · exact h
    · split
      · split
        · exact h.refuseHost
        · split
          · exact h.okHost
          · exact h.quarantine.okHost
      · exact h.refuseHost

theorem State.MemOk.execWarmreset (h : s.MemOk) : OutOk (execWarmreset f s) := by
  dsimp only [Machine.execWarmreset]
  split
  · exact h
  · split
    · exact h.answerSub.resetAs
    · exact h

theorem State.MemOk.execFwload (h : s.MemOk) : OutOk (execFwload f s) := by
  dsimp only [Machine.execFwload]
  split
  · exact h
  · split
    · exact h.refuseHost
    · split
      · exact h.modPkg.okHost
      · exact h.refuseHost

theorem State.MemOk.execFlr (h : s.MemOk) : OutOk (execFlr f s) := by
  dsimp only [Machine.execFlr]
  split
  · exact h.resetAs
  · split
    · exact h.flrStep
    · exact h

theorem State.MemOk.execSlotMap (h : s.MemOk) : OutOk (execSlotMap k s) := by
  dsimp only [Machine.execSlotMap]
  split
  · exact h.mapSlot
  · exact h

theorem State.MemOk.execSlotUnmap (h : s.MemOk) : OutOk (execSlotUnmap k s) := by
  dsimp only [Machine.execSlotUnmap]
  split
  · exact h.unmapSlot
  · exact h

theorem State.MemOk.execNotify (h : s.MemOk) : OutOk (execNotify f k v s) := by
  dsimp only [Machine.execNotify]
  split
  · exact h.notifySlot
  · exact h

theorem State.MemOk.execChildqWrite {d : DieId} (h : s.MemOk) : OutOk (execChildqWrite d v s) := by
  dsimp only [Machine.execChildqWrite]
  split
  · exact h.modPkg
  · exact h

theorem State.MemOk.execPkgidWrite (h : s.MemOk) : OutOk (execPkgidWrite v s) := by
  dsimp only [Machine.execPkgidWrite]
  split
  · exact h.modPkg
  · exact h

theorem State.MemOk.writeQueueReg (h : s.MemOk) : (s.writeQueueReg f off v).MemOk := by
  dsimp only [State.writeQueueReg]
  split
  · exact h.modFn.flushFn.pumpSubs
  · exact h

theorem State.MemOk.writeVf {slots : Bool} (h : s.MemOk) : (s.writeVf f slots v).MemOk := by
  dsimp only [State.writeVf]
  exact h.modFn

theorem Package.MemOk.withBudget {p : Package} {w : Word} (h : p.MemOk) :
    { p with dlbudget := p.dlbudget.setIfInBounds n w }.MemOk := h

theorem State.MemOk.writeRunnerReg (h : s.MemOk) : (s.writeRunnerReg off v).MemOk := by
  dsimp only [State.writeRunnerReg]
  split
  · exact h.modPkg
  · split
    · exact h.modPkg
    · split
      · exact h.modPkg
      · split
        · exact h.modPkg
        · split
          · exact h.modRunner
          · split
            · exact h.modPkg fun _ hp => hp.withBudget
            · exact h

theorem State.MemOk.writeSlotReg (h : s.MemOk) : (s.writeSlotReg off v).MemOk := by
  dsimp only [State.writeSlotReg]
  split
  · exact h.modSlot
  · exact h

theorem State.MemOk.execRegisterWrite (h : s.MemOk) : OutOk (execRegisterWrite f off v s) := by
  dsimp only [Machine.execRegisterWrite]
  split
  · split
    · exact h.writeQueueReg
    · exact h
  · split
    · exact h.writeQueueReg
    · split
      · exact h
      · split
        · split
          · exact h.modPkg
          · exact h
        · split
          · split
            · exact h.writeVf
            · split
              · exact h.writeVf
              · exact h
          · split
            · exact h.writeRunnerReg
            · split
              · exact h.writeSlotReg
              · exact h

theorem State.MemOk.execHostRead (h : s.MemOk) : OutOk (execHostRead pa n s) := by
  dsimp only [Machine.execHostRead]
  split
  · exact h
  · split <;> exact h.modPkg

theorem State.MemOk.execHostWrite {bytes : List Byte} (h : s.MemOk) : OutOk (execHostWrite pa bytes s) := by
  dsimp only [Machine.execHostWrite]
  split
  · exact h
  · split
    · exact h.logCause
    · exact h.writeMem

end

/-! ### Retirement and monitors (Machine/Monitors) -/

section
variable {s : State} {u : UnitRef} {c : Cause} {die : Fin 8} {rail : Fin 32}

theorem State.MemOk.logRetired {d : DieId} (h : s.MemOk) : (s.logRetired d u c).MemOk := h.errLog.heartEvent

theorem State.MemOk.retireQuad (h : s.MemOk) : (s.retireQuad u c).MemOk := by
  dsimp only [State.retireQuad]
  split
  · exact h
  · exact h.modPkg.logRetired

theorem State.MemOk.retireChannel {ch : Nat} (h : s.MemOk) : (s.retireChannel ch c).MemOk := by
  dsimp only [State.retireChannel]
  split
  · exact h
  · exact h.modPkg.logRetired.genChanged

theorem State.MemOk.poisonBlock {pa : Nat} (h : s.MemOk) : (s.poisonBlock pa).MemOk := by
  dsimp only [State.poisonBlock]
  exact h.modPkg

theorem State.MemOk.execAutomaticRetirement (h : s.MemOk) : OutOk (execAutomaticRetirement u s) := by
  dsimp only [Machine.execAutomaticRetirement]
  split
  · split
    · exact h.retireQuad
    · exact h
  · split
    · exact h.retireChannel
    · exact h

theorem State.MemOk.execThermal (h : s.MemOk) : OutOk (execThermal die s) := by
  dsimp only [Machine.execThermal]
  split
  · exact h.modPkg.logCause.hostEvent
  · exact h

theorem State.MemOk.execThermalRecovery (h : s.MemOk) : OutOk (execThermalRecovery die s) := by
  dsimp only [Machine.execThermalRecovery]
  split
  · exact h.modPkg
  · exact h

theorem State.MemOk.execVoltage (h : s.MemOk) : OutOk (execVoltage rail s) := by
  dsimp only [Machine.execVoltage]
  split
  · exact h.modPkg.logCause.hostEvent
  · exact h

theorem State.MemOk.execVoltageRecovery (h : s.MemOk) : OutOk (execVoltageRecovery rail s) := by
  dsimp only [Machine.execVoltageRecovery]
  split
  · exact h
  · exact h.modPkg

theorem State.MemOk.execClockStep (h : s.MemOk) : OutOk (execClockStep s) := by
  refine h.modPkg fun _ hk => ?_
  split <;> exact hk

end

/-! ### The SPDM responder (Machine/Spdm) -/

section
variable {s : State} {q : SpdmReq} {code : Nat} {body : List Byte}

theorem State.MemOk.spdmAnswer (h : s.MemOk) : (s.spdmAnswer q code body).MemOk := h.modPkg
theorem State.MemOk.spdmError (h : s.MemOk) : (s.spdmError q).MemOk := h.spdmAnswer

theorem State.MemOk.spdmServe (h : s.MemOk) : OutOk (s.spdmServe q code body) := by
  dsimp only [State.spdmServe]
  split
  · exact h.spdmAnswer
  · exact h.spdmError

theorem State.MemOk.execGetVersion (h : s.MemOk) : OutOk (execGetVersion q s) := h.modPkg.spdmAnswer

theorem State.MemOk.execGetCapabilities (h : s.MemOk) : OutOk (execGetCapabilities q s) := by
  dsimp only [Machine.execGetCapabilities]
  split
  · exact h.modPkg.spdmAnswer
  · exact h.spdmError

theorem State.MemOk.execNegotiateAlgorithms (h : s.MemOk) : OutOk (execNegotiateAlgorithms q s) := by
  dsimp only [Machine.execNegotiateAlgorithms]
  split
  · exact h.modPkg.spdmAnswer
  · exact h.spdmError

theorem State.MemOk.execGetDigests (h : s.MemOk) : OutOk (execGetDigests q s) := h.spdmServe

theorem State.MemOk.execGetCertificate (h : s.MemOk) : OutOk (execGetCertificate q s) := by
  dsimp only [Machine.execGetCertificate]
  split
  · exact h.spdmServe
  · exact h.spdmError

theorem State.MemOk.execChallenge (h : s.MemOk) : OutOk (execChallenge q s) := h.spdmServe
theorem State.MemOk.execGetMeasurements (h : s.MemOk) : OutOk (execGetMeasurements q s) := h.spdmServe

theorem State.MemOk.execKeyExchange (h : s.MemOk) : OutOk (execKeyExchange q s) := by
  refine State.MemOk.spdmServe ?_
  split
  · exact h.modPkg
  · exact h

theorem State.MemOk.execFinish (h : s.MemOk) : OutOk (execFinish q s) := by
  dsimp only [Machine.execFinish]
  split
  · exact h.modPkg.spdmServe
  · exact h.spdmError

end

/-! ### Branches, jumps and loops of the stem (Machine/StemFlow) -/

section
variable {s : State} {x y a : Src} {ofs : BitVec 16} {c : Core} {call : Bool} {lc : Fin 4}

theorem State.MemOk.branchIf {cond : Word → Word → Bool} (h : s.MemOk) : OutOk (branchIf cond x y ofs s) := by
  dsimp only [Machine.branchIf]
  refine h.stemRun ?_
  split
  · split
    · exact h
    · trivial
  · exact h

theorem State.MemOk.execBeq (h : s.MemOk) : OutOk (execBeq x y ofs s) := h.branchIf
theorem State.MemOk.execBne (h : s.MemOk) : OutOk (execBne x y ofs s) := h.branchIf
theorem State.MemOk.execBlt (h : s.MemOk) : OutOk (execBlt x y ofs s) := h.branchIf
theorem State.MemOk.execBge (h : s.MemOk) : OutOk (execBge x y ofs s) := h.branchIf
theorem State.MemOk.execBltu (h : s.MemOk) : OutOk (execBltu x y ofs s) := h.branchIf
theorem State.MemOk.execBgeu (h : s.MemOk) : OutOk (execBgeu x y ofs s) := h.branchIf
theorem Core.MemOk.pushRet {a : Nat} (h : c.MemOk) : (c.pushRet a).MemOk := h.setStem

theorem State.MemOk.jumpTo {t : Int} {follow : Nat} (h : s.MemOk) (hc : c.MemOk) :
    (jumpTo call t follow s c).MemOk := by
  dsimp only [Machine.jumpTo]
  split
  · split
    · split
      · exact h.setCore hc.pushRet
      · trivial
    · exact h
  · trivial

theorem State.MemOk.execJ {ofs : BitVec 26} (h : s.MemOk) : OutOk (execJ ofs s) := h.stemRun (h.jumpTo (h.core _))
theorem State.MemOk.execJal {ofs : BitVec 26} (h : s.MemOk) : OutOk (execJal ofs s) := h.stemRun (h.jumpTo (h.core _))

theorem State.MemOk.jumpReg (h : s.MemOk) : OutOk (jumpReg call a s) := by
  dsimp only [Machine.jumpReg]
  refine h.stemRun ?_
  split
  · exact h.jumpTo (h.core _)
  · trivial

theorem State.MemOk.execJr (h : s.MemOk) : OutOk (execJr a s) := h.jumpReg
theorem State.MemOk.execJrCall (h : s.MemOk) : OutOk (execJrCall a s) := h.jumpReg

theorem State.MemOk.execRet (h : s.MemOk) : OutOk (execRet s) := by
  refine h.stemRun ?_
  split
  · trivial
  · exact h.setCore (h.core _).setStem

theorem State.MemOk.execLoop {imm : BitVec 16} (h : s.MemOk) : OutOk (execLoop a imm s) := by
  dsimp only [Machine.execLoop]
  refine h.stemRun ?_
  split
  · trivial
  · split
    · trivial
    · split
      · exact h
      · split
        · trivial
        · exact h.setCore (h.core _).setStem

theorem State.MemOk.execMvlc (h : s.MemOk) : OutOk (execMvlc lc a s) := h.stemRun (h.setCore (h.core _).setStem)
theorem State.MemOk.execMvlcRead {d : Reg} (h : s.MemOk) : OutOk (execMvlcRead d lc s) :=
  h.stemRun (h.setCore (h.core _).setX)

theorem State.MemOk.execLbrk (h : s.MemOk) : OutOk (execLbrk s) := by
  refine h.stemRun ?_
  split
  · trivial
  · exact h.setCore (h.core _).setStem

end

/-! ### Every instruction and event (Machine/Dispatch) -/

theorem State.MemOk.exec {i : Instr} {s : State} (h : s.MemOk) : OutOk (exec i s) :=
  match i with
  | .add .. => h.execAdd
  | .sub .. => h.execSub
  | .mul .. => h.execMul
  | .mulh .. => h.execMulh
  | .div .. => h.execDiv
  | .rem .. => h.execRem
  | .and .. => h.execAnd
  | .or .. => h.execOr
  | .xor .. => h.execXor
  | .shl .. => h.execShl
  | .shr .. => h.execShr
  | .sra .. => h.execSra
  | .min .. => h.execMin
  | .max .. => h.execMax
  | .slt .. => h.execSlt
  | .sltu .. => h.execSltu
  | .madd .. => h.execMadd
  | .clz .. => h.execClz
  | .popc .. => h.execPopc
  | .mulhUnsigned .. => h.execMulhUnsigned
  | .divUnsigned .. => h.execDivUnsigned
  | .remUnsigned .. => h.execRemUnsigned
  | .minUnsigned .. => h.execMinUnsigned
  | .maxUnsigned .. => h.execMaxUnsigned
  | .li .. => h.execLi
  | .beq .. => h.execBeq
  | .bne .. => h.execBne
  | .blt .. => h.execBlt
  | .bge .. => h.execBge
  | .bltu .. => h.execBltu
  | .bgeu .. => h.execBgeu
  | .j .. => h.execJ
  | .jal .. => h.execJal
  | .jr .. => h.execJr
  | .jrCall .. => h.execJrCall
  | .loop .. => h.execLoop
  | .mvlc .. => h.execMvlc
  | .mvlcRead .. => h.execMvlcRead
  | .ld .. => h.execLd
  | .ldZeroExtending .. => h.execLdZeroExtending
  | .st .. => h.execSt
  | .amoAdd .. => h.execAmoAdd
  | .amoAnd .. => h.execAmoAnd
  | .amoOr .. => h.execAmoOr
  | .amoXor .. => h.execAmoXor
  | .amoMin .. => h.execAmoMin
  | .amoMax .. => h.execAmoMax
  | .amoMinu .. => h.execAmoMinu
  | .amoMaxu .. => h.execAmoMaxu
  | .amoSwap .. => h.execAmoSwap
  | .cas .. => h.execCas
  | .semwait _ _ sc => h.execSemwait (_sc := sc)
  | .sempost _ _ sc => h.execSempost (_sc := sc)
  | .waita _ _ _ _ sc => h.execWaita (_sc := sc)
  | .fence .. => h.execFence
  | .bar .. => h.execBar
  | .token .. => h.execToken
  | .twait .. => h.execTwait
  | .xfer .. => h.execXfer
  | .rcall .. => h.execRcall
  | .ratomAdd .. => h.execRatomAdd
  | .ratomAnd .. => h.execRatomAnd
  | .ratomOr .. => h.execRatomOr
  | .ratomXor .. => h.execRatomXor
  | .ratomMin .. => h.execRatomMin
  | .ratomMax .. => h.execRatomMax
  | .ratomMinu .. => h.execRatomMinu
  | .ratomMaxu .. => h.execRatomMaxu
  | .ratomSwap .. => h.execRatomSwap
  | .ratomCas .. => h.execRatomCas
  | .probe .. => h.execProbe
  | .pwait .. => h.execPwait
  | .pin .. => h.execPin
  | .unpin .. => h.execUnpin
  | .cinv .. => h.execCinv
  | .shld .. => h.execShld
  | .shinv .. => h.execShinv
  | .launch .. => h.execLaunch
  | .trap .. => h.execTrap
  | .sysrd .. => h.execSysrd
  | .syswr .. => h.execSyswr
  | .rdcyc .. => h.execRdcyc
  | .mma .. => h.execMma
  | .mmas .. => h.execMmas
  | .mclr .. => h.execMclr
  | .memit .. => h.execMemit
  | .mtld .. => h.execMtld
  | .mtst .. => h.execMtst
  | .mtbar .. => h.execMtbar
  | .mfmt .. => h.execMfmt
  | .mwait .. => h.execMwait
  | .msig .. => h.execMsig
  | .vadd .. => h.execVadd
  | .vsub .. => h.execVsub
  | .vmul .. => h.execVmul
  | .vfma .. => h.execVfma
  | .vmin .. => h.execVmin
  | .vmax .. => h.execVmax
  | .vexp2 .. => h.execVexp2
  | .vlog2 .. => h.execVlog2
  | .vrcp .. => h.execVrcp
  | .vrsq .. => h.execVrsq
  | .vtanh .. => h.execVtanh
  | .viadd .. => h.execViadd
  | .visub .. => h.execVisub
  | .vimul .. => h.execVimul
  | .vimad .. => h.execVimad
  | .vand .. => h.execVand
  | .vor .. => h.execVor
  | .vxor .. => h.execVxor
  | .vshl .. => h.execVshl
  | .vshr .. => h.execVshr
  | .vsra .. => h.execVsra
  | .vimin .. => h.execVimin
  | .vimax .. => h.execVimax
  | .vcmp .. => h.execVcmp
  | .vsel .. => h.execVsel
  | .vmopAnd .. => h.execVmopAnd
  | .vmopOr .. => h.execVmopOr
  | .vmopXor .. => h.execVmopXor
  | .vmopAndn .. => h.execVmopAndn
  | .vmopNot .. => h.execVmopNot
  | .vmopOnes .. => h.execVmopOnes
  | .vmopZeros .. => h.execVmopZeros
  | .vmopCopy .. => h.execVmopCopy
  | .vmpop .. => h.execVmpop
  | .vmpopFirst .. => h.execVmpopFirst
  | .vcvt .. => h.execVcvt
  | .vquant .. => h.execVquant
  | .vdeq .. => h.execVdeq
  | .vrnd .. => h.execVrnd
  | .vsacc .. => h.execVsacc
  | .vld .. => h.execVld
  | .vldRagged .. => h.execVldRagged
  | .vst .. => h.execVst
  | .vstRagged .. => h.execVstRagged
  | .vldb .. => h.execVldb
  | .vldbPf .. => h.execVldbPf
  | .vgath .. => h.execVgath
  | .vscat .. => h.execVscat
  | .vtrd .. => h.execVtrd
  | .vtrel .. => h.execVtrel
  | .vmov .. => h.execVmov
  | .vmovIns .. => h.execVmovIns
  | .vmovExt .. => h.execVmovExt
  | .vsplat .. => h.execVsplat
  | .vsplatRow .. => h.execVsplatRow
  | .vsplatCol .. => h.execVsplatCol
  | .vshape .. => h.execVshape
  | .vshapeRd .. => h.execVshapeRd
  | .vperm .. => h.execVperm
  | .vpermRows .. => h.execVpermRows
  | .vxpose .. => h.execVxpose
  | .vslide .. => h.execVslide
  | .vslideRot .. => h.execVslideRot
  | .vslideFlat .. => h.execVslideFlat
  | .vredAdd .. => h.execVredAdd
  | .vredMax .. => h.execVredMax
  | .vredMin .. => h.execVredMin
  | .vridxMax .. => h.execVridxMax
  | .vridxMin .. => h.execVridxMin
  | .vscanAdd .. => h.execVscanAdd
  | .vscanMax .. => h.execVscanMax
  | .vscanMin .. => h.execVscanMin
  | .vnormMs .. => h.execVnormMs
  | .vnormRms .. => h.execVnormRms
  | .vsmax .. => h.execVsmax
  | .vhad .. => h.execVhad
  | .vaset .. => h.execVaset
  | .vasetWst .. => h.execVasetWst
  | .vasetWlen .. => h.execVasetWlen
  | .vasetRd .. => h.execVasetRd
  | .vaadd .. => h.execVaadd
  | .vtokr .. => h.execVtokr
  | .veop .. => h.execVeop
  | .vchk .. => h.execVchk
  | .vchkRd .. => h.execVchkRd
  | .vlit .. => h.execVlit
  | .vlitAdd .. => h.execVlitAdd
  | .vlitSub .. => h.execVlitSub
  | .percoAdd .. => h.execPercoAdd
  | .percoSub .. => h.execPercoSub
  | .percoMul .. => h.execPercoMul
  | .percoAnd .. => h.execPercoAnd
  | .percoOr .. => h.execPercoOr
  | .percoXor .. => h.execPercoXor
  | .percoShl .. => h.execPercoShl
  | .percoShr .. => h.execPercoShr
  | .percoMin .. => h.execPercoMin
  | .percoMax .. => h.execPercoMax
  | .percoMinUnsigned .. => h.execPercoMinUnsigned
  | .percoMaxUnsigned .. => h.execPercoMaxUnsigned
  | .percoLi .. => h.execPercoLi
  | .percoLd .. => h.execPercoLd
  | .percoSt .. => h.execPercoSt
  | .percoBeq .. => h.execPercoBeq
  | .percoBne .. => h.execPercoBne
  | .percoBlt .. => h.execPercoBlt
  | .percoBge .. => h.execPercoBge
  | .percoJ .. => h.execPercoJ
  | .percoCall .. => h.execPercoCall
  | .percoLoop .. => h.execPercoLoop
  | .copy .. => h.execCopy
  | .gath .. => h.execGath
  | .scat .. => h.execScat
  | .xpose .. => h.execXpose
  | .conv .. => h.execConv
  | .infl .. => h.execInfl
  | .mcast .. => h.execMcast
  | .red .. => h.execRed
  | .fill .. => h.execFill
  | .nest .. => h.execNest
  | .abort .. => h.execAbort
  | .publish _ _ sc => h.execPublish (_sc := sc)
  | .seqst .. => h.execSeqst
  | .semadd _ _ sc => h.execSemadd (_sc := sc)
  | .percoSemwait _ _ sc => h.execPercoSemwait (_sc := sc)
  | .percoFence _ sc => h.execPercoFence (_sc := sc)
  | .percoRatomAdd .. => h.execPercoRatomAdd
  | .percoRatomAnd .. => h.execPercoRatomAnd
  | .percoRatomOr .. => h.execPercoRatomOr
  | .percoRatomXor .. => h.execPercoRatomXor
  | .percoRatomMin .. => h.execPercoRatomMin
  | .percoRatomMax .. => h.execPercoRatomMax
  | .percoRatomMinu .. => h.execPercoRatomMinu
  | .percoRatomMaxu .. => h.execPercoRatomMaxu
  | .percoRatomSwap .. => h.execPercoRatomSwap
  | .percoRatomCas .. => h.execPercoRatomCas
  | .wakea _ sc => h.execWakea (_sc := sc)
  | .tlbinv .. => h.execTlbinv
  | .tlbinvCtx .. => h.execTlbinvCtx
  | .mapchk .. => h.execMapchk
  | .resume .. => h.execResume
  | .resumeDrop .. => h.execResumeDrop
  | .killctx .. => h.execKillctx
  | .percoTrap .. => h.execPercoTrap
  | .percoSysrd .. => h.execPercoSysrd
  | .percoSyswr .. => h.execPercoSyswr
  | .unassignedEncoding .. => h.execUnassignedEncoding
  | .tokenStart .. => h.execTokenStart
  | .vectorLoadEcc .. => h.execVectorLoadEcc
  | .vectorFaultReport .. => h.execVectorFaultReport
  | .engineFaultTrap .. => h.execEngineFaultTrap
  | .watchdog .. => h.execWatchdog
  | .waitaReply .. => h.execWaitaReply
  | .waitaTimeout .. => h.execWaitaTimeout
  | .watchInstall .. => h.execWatchInstall
  | .ratomAtHome .. => h.execRatomAtHome
  | .ratomReply .. => h.execRatomReply
  | .matrixCommandStart .. => h.execMatrixCommandStart
  | .mmaChunk .. => h.execMmaChunk
  | .tileEmit .. => h.execTileEmit
  | .mouldParity .. => h.execMouldParity
  | .bankSideService .. => h.execBankSideService
  | .eccWriteback .. => h.execEccWriteback
  | .probeFillComplete .. => h.execProbeFillComplete
  | .sequencerStart .. => h.execSequencerStart
  | .percoWatchdog .. => h.execPercoWatchdog
  | .postAccept .. => h.execPostAccept
  | .boxStart .. => h.execBoxStart
  | .boxElement .. => h.execBoxElement
  | .overflowRecordPost .. => h.execOverflowRecordPost
  | .boxComplete .. => h.execBoxComplete
  | .walkerEmit .. => h.execWalkerEmit
  | .publishFlip .. => h.execPublishFlip
  | .killctxDrainDone .. => h.execKillctxDrainDone
  | .killMessage pkg _ => h.execKillMessage (_pkg := pkg)
  | .hbmRequest .. => h.execHbmRequest
  | .deadlineUrgent .. => h.execDeadlineUrgent
  | .queueEntryRead .. => h.execQueueEntryRead
  | .nestReady .. => h.execNestReady
  | .grainStart .. => h.execGrainStart
  | .nestDone .. => h.execNestDone
  | .spillEntryTaken .. => h.execSpillEntryTaken
  | .preemptRequest .. => h.execPreemptRequest
  | .coreHalted .. => h.execCoreHalted
  | .saveComplete .. => h.execSaveComplete
  | .restoreComplete .. => h.execRestoreComplete
  | .flitReceived .. => h.execFlitReceived
  | .ackReceived .. => h.execAckReceived
  | .nakReceived .. => h.execNakReceived
  | .ackFlitSend .. => h.execAckFlitSend
  | .replayTimeout .. => h.execReplayTimeout
  | .retrainDone .. => h.execRetrainDone
  | .yunanPortDown .. => h.execYunanPortDown
  | .farEndRequest .. => h.execFarEndRequest
  | .endToEndNak .. => h.execEndToEndNak
  | .windowRetryTimeout .. => h.execWindowRetryTimeout
  | .windowClose .. => h.execWindowClose
  | .closeReply .. => h.execCloseReply
  | .closeTimeout .. => h.execCloseTimeout
  | .endToEndReply .. => h.execEndToEndReply
  | .abortRequest .. => h.execAbortRequest
  | .settle .. => h.execSettle
  | .stop .. => h.execStop
  | .abortOutcome .. => h.execAbortOutcome
  | .repairFlip .. => h.execRepairFlip
  | .outcomeReceived .. => h.execOutcomeReceived
  | .roundDrainTimeout .. => h.execRoundDrainTimeout
  | .automaticRetirement .. => h.execAutomaticRetirement
  | .thermal .. => h.execThermal
  | .voltage .. => h.execVoltage
  | .flr .. => h.execFlr
  | .doorbell .. => h.execDoorbell
  | .cack .. => h.execCack
  | .mapq .. => h.execMapq
  | .unmapq .. => h.execUnmapq
  | .setctx .. => h.execSetctx
  | .kill .. => h.execKill
  | .hwread .. => h.execHwread
  | .quarantine .. => h.execQuarantine
  | .warmreset .. => h.execWarmreset
  | .fwload .. => h.execFwload
  | .slotMap .. => h.execSlotMap
  | .slotUnmap .. => h.execSlotUnmap
  | .notify .. => h.execNotify
  | .childqWrite .. => h.execChildqWrite
  | .pkgidWrite .. => h.execPkgidWrite
  | .registerWrite .. => h.execRegisterWrite
  | .hostRead .. => h.execHostRead
  | .hostWrite .. => h.execHostWrite
  | .getVersion .. => h.execGetVersion
  | .getCapabilities .. => h.execGetCapabilities
  | .negotiateAlgorithms .. => h.execNegotiateAlgorithms
  | .getDigests .. => h.execGetDigests
  | .getCertificate .. => h.execGetCertificate
  | .challenge .. => h.execChallenge
  | .getMeasurements .. => h.execGetMeasurements
  | .keyExchange .. => h.execKeyExchange
  | .finish .. => h.execFinish
  | .matrixCommandComplete .. => h.execMatrixCommandComplete
  | .thermalRecovery .. => h.execThermalRecovery
  | .voltageRecovery .. => h.execVoltageRecovery
  | .ret => h.execRet
  | .lbrk => h.execLbrk
  | .cinvAll => h.execCinvAll
  | .eret => h.execEret
  | .halt => h.execHalt
  | .nop => h.execNop
  | .yield => h.execYield
  | .ifence => h.execIfence
  | .vsync => h.execVsync
  | .grainend => h.execGrainend
  | .msync => h.execMsync
  | .vend => h.execVend
  | .vnop => h.execVnop
  | .percoRet => h.execPercoRet
  | .tlbinvAll => h.execTlbinvAll
  | .percoHalt => h.execPercoHalt
  | .percoNop => h.execPercoNop
  | .grainDispatch => h.execGrainDispatch
  | .clockStep => h.execClockStep
  | .coldReset => h.execColdReset
  | .warmReset => h.execWarmReset
  | .memready => h.execMemready

/-! ### Turns (Machine/Turns) -/

section
variable {s : State} {d : DieId} {c : CoreId} {i a : Nat} {tag : Tag} {n : Fin 16} {r : Run} {va : Word}

theorem State.MemOk.imemError (h : s.MemOk) : (s.imemError c a).MemOk := h.logCore.stemTrap

theorem State.MemOk.stemFetch (h : s.MemOk) : OutOk (s.stemFetch c) := by
  dsimp only [State.stemFetch]
  split
  · exact h.imemError
  · split
    · exact h.exec
    · exact h.stemTrap
    · split
      · exact h.imemError
      · exact h.modCore.exec

theorem State.MemOk.stemBoundary (h : s.MemOk) : OutOk (s.stemBoundary c) := by
  have hs := h.stemFetch (c := c)
  dsimp only [State.stemBoundary]
  split
  · rename_i e
    split
    · exact hs.of e
    · exact h.exec
  · exact hs

theorem State.MemOk.stemTurn (h : s.MemOk) : OutOk (s.stemTurn c) := by
  have ht : ({ s with cur := c } : State).MemOk := h.frame
  dsimp only [State.stemTurn]
  split
  · exact ht
  · split
    · exact ht.stemBoundary
    · exact ht.stemFetch

theorem State.MemOk.vecDecodeFault {w : Nat} {c : Cause} {word : W32} (h : s.MemOk) :
    (s.vecDecodeFault w c word).MemOk := h.vecFaultAt
theorem State.MemOk.segError (h : s.MemOk) : (s.segError r i).MemOk := h.vecFaultAt

theorem State.MemOk.vecFetch (h : s.MemOk) : OutOk (s.vecFetch r) := by
  dsimp only [State.vecFetch]
  split
  · exact h.vecFaultAt
  · split
    · exact h.segError
    · split
      · exact h.exec
      · exact h.vecDecodeFault
      · split
        · exact h.segError
        · exact h.exec

theorem State.MemOk.vectorTurn (h : s.MemOk) : OutOk (s.vectorTurn c) := by
  have ht : ({ s with cur := c } : State).MemOk := h.frame
  dsimp only [State.vectorTurn]
  split
  · exact ht
  · split
    · exact ht.serveWord
    · split
      · exact ht.exec
      · split
        · exact ht.exec
        · split
          · exact ht
          · split
            · exact ht.exec
            · exact ht.vecFetch

theorem State.MemOk.seqFetchWord (h : s.MemOk) : (s.seqFetchWord d tag va).MemOk := by
  dsimp only [State.seqFetchWord]
  split
  · trivial
  · trivial
  · rename_i e
    split
    · exact h.translate.of e
    · split
      · trivial
      · exact (h.translate.of e).noteRead

theorem State.MemOk.seqFetchLits {n : Nat} (h : s.MemOk) : (s.seqFetchLits d tag n va).MemOk := by
  induction n generalizing s va with
  | zero => exact h
  | succ n ih =>
    dsimp only [State.seqFetchLits]
    split
    · trivial
    · trivial
    · rename_i e
      have ht := ih (va := va + 4) (h.seqFetchWord.of e)
      split
      · rename_i e'; exact ht.of e'
      · exact ht

theorem State.MemOk.seqRefused (h : s.MemOk) : (s.seqRefused d n tag).MemOk := h.internalCheck.endProg

theorem State.MemOk.seqFetch (h : s.MemOk) : OutOk (s.seqFetch d n) := by
  dsimp only [State.seqFetch]
  split
  · exact h.seqRefused
  · exact h.progFault
  · rename_i e
    split
    · exact (h.seqFetchWord.of e).exec
    · exact (h.seqFetchWord.of e).progFault
    · split
      · exact (h.seqFetchWord.of e).seqRefused
      · exact (h.seqFetchWord.of e).progFault
      · rename_i e2
        split
        · exact ((h.seqFetchWord.of e).seqFetchLits.of e2).progFault
        · exact ((h.seqFetchWord.of e).seqFetchLits.of e2).exec

theorem State.MemOk.seqTurn (h : s.MemOk) : OutOk (s.seqTurn d n) := by
  dsimp only [State.seqTurn]
  split
  · exact h.frame.seqFetch
  · exact h.frame

theorem State.MemOk.elapse {die : Fin 8} {n : Nat} (h : s.MemOk) : (s.elapse die n).MemOk := by
  dsimp only [State.elapse]
  split
  · exact h.frame
  · exact h.modRunner

theorem Core.MemOk.strike {k : Core} {hard : Bool} (h : k.MemOk) : (k.strike a hard).MemOk := by
  dsimp only [Core.strike]
  split
  · exact h
  · split <;> exact h

theorem State.MemOk.wakeWatch (h : s.MemOk) : (s.wakeWatch d i).MemOk := by
  dsimp only [State.wakeWatch]
  split
  · exact h.fireOn
  · exact h

theorem State.MemOk.upset {u : Upset} (h : s.MemOk) : (s.upset u).MemOk := by
  dsimp only [State.upset]
  split
  · exact h.modCore fun _ hk => hk.strike
  · exact h.modCore
  · exact h.modCore
  · refine h.modCore fun _ hk => ?_
    split
    · exact hk
    · exact hk.setStem
  · exact h.modSeq
  · split
    · exact h.poisonBlock
    · exact h
  · exact h.setLink
  · split
    · exact h
    · exact h.portDown
  · exact h.modPkg
  · exact h.modPkg
  · exact h.modPkg
  · exact h.retireChannel
  · exact h.malformedFlit
  · exact h.modPkg
  · split
    · split
      · exact h.boxFault
      · exact h
    · exact h

theorem State.MemOk.serviceStart {entry arg : Word} {ctx : BitVec 16} (h : s.MemOk) :
    (s.serviceStart d entry arg ctx).MemOk := by
  dsimp only [State.serviceStart]
  split
  · exact h
  · exact h.modRunner

theorem Runner.MemOk.evict {r : Runner} (h : r.MemOk) : (r.evict i).MemOk := by
  dsimp only [Runner.evict]
  split <;> exact h

theorem State.MemOk.takeTurn {t : Turn} (h : s.MemOk) : OutOk (takeTurn t s) := by
  dsimp only [Machine.takeTurn]
  split
  · exact h.stemTurn
  · exact h.vectorTurn
  · exact h.performStore
  · exact h.sendCancel
  · exact h.wakeWatch
  · exact h.seqTurn
  · split
    · exact h.exec
    · exact h
  · exact h.elapse
  · exact h.ingressTurn
  · exact h.messageTurn
  · exact h.postedTurn
  · exact h.serviceStart
  · exact h.modRunner fun _ hk => hk.evict
  · exact h.rewalk
  · exact h.upset

end

/-! ### A step (Machine/Step) -/

theorem State.MemOk.step {s : State} (h : s.MemOk) : OutOk (step s) := by
  dsimp only [Machine.step]
  split <;> exact h.frame.takeTurn

end Sys2Proof.Machine

open Sys2Proof.Machine in
/-- Settles O59: every turn of a step keeps every memory in its canonical form, by the lemma of the function that takes
it. -/
theorem memoriesKept : Obligations.MemoriesKept := by
  unfold Obligations.MemoriesKept
  intro s t h e
  exact h.step.of e

section
/-! PROOFS. The fields of an instruction word and the operands they name: the codes of registers, types, scopes and
literals read back, and what a row of formats G, I, B and M accepts (R21-R27). -/

namespace Sys2Proof

/-! ### Codes read back -/

@[simp] theorem regOf_regCode (r : Reg) : regOf (regCode r) = r := by revert r; decide
theorem regCode_ne_lit (r : Reg) : regCode r ≠ 31#5 := by revert r; decide
theorem regCode_regOf {c : BitVec 5} (h : c ≠ 31#5) : regCode (regOf c) = c := by revert c; decide
@[simp] theorem fin2_ofNat (n : Fin 2) : fin2 (BitVec.ofNat 5 n.val) = n := by revert n; decide
@[simp] theorem fin4_ofNat (n : Fin 4) : fin4 (BitVec.ofNat 5 n.val) = n := by revert n; decide
@[simp] theorem fin8_ofNat (n : Fin 8) : fin8 (BitVec.ofNat 5 n.val) = n := by revert n; decide
@[simp] theorem fin32_ofNat (n : Fin 32) : fin32 (BitVec.ofNat 5 n.val) = n := by revert n; decide
@[simp] theorem fin5_ofNat (n : Fin 5) : fin5 (BitVec.ofNat 6 n.val) = n := by revert n; decide
@[simp] theorem fin6_ofNat (n : Fin 6) : fin6 (BitVec.ofNat 4 n.val) = n := by revert n; decide
@[simp] theorem ofCode_code (t : Ty) : Ty.ofCode t.code = some t := by
  cases t with
  | fn n => revert n; decide
  | _ => rfl
@[simp] theorem ofCode_scopeCode (sc : Scope) : Scope.ofCode (sc.code.extractLsb' 0 3) = sc := by cases sc <;> decide
@[simp] theorem ofBool_beq_one (b : Bool) : (BitVec.ofBool b == 1#1) = b := by cases b <;> decide
@[simp] theorem code_beq_lit (a : Src) : (a.code == 31#5) = a.isLit := by
  cases a <;> simp [Src.code, Src.isLit, regCode_ne_lit]

theorem ofNat_val_ne_lit {m : Nat} (hm : m ≤ 31) (n : Fin m) : BitVec.ofNat 5 n.val ≠ 31#5 := by
  intro h
  have := congrArg BitVec.toNat h
  simp at this
  omega

/-! ### What a field may hold -/

@[simp] theorem bad_dst (c : BitVec 5) : FieldKind.bad .dst c = (c == 31#5) := rfl
@[simp] theorem bad_zero (c : BitVec 5) : FieldKind.bad .zero c = (c != 0#5) := rfl
@[simp] theorem bad_src (c : BitVec 5) : FieldKind.bad .src c = false := rfl
@[simp] theorem bad_src0 (c : BitVec 5) : FieldKind.bad .src0 c = false := rfl
@[simp] theorem bad_any (c : BitVec 5) : FieldKind.bad .any c = false := rfl
@[simp] theorem bad_lim (n : Nat) (c : BitVec 5) : FieldKind.bad (.lim n) c = decide (n ≤ c.toNat) := rfl
@[simp] theorem lit_src (c : BitVec 5) : FieldKind.lit .src c = (c == 31#5) := rfl
@[simp] theorem lit_esrc (c : BitVec 5) : FieldKind.lit .esrc c = (c == 31#5) := rfl
@[simp] theorem lit_dst (c : BitVec 5) : FieldKind.lit .dst c = false := rfl
@[simp] theorem lit_zero (c : BitVec 5) : FieldKind.lit .zero c = false := rfl
@[simp] theorem lit_src0 (c : BitVec 5) : FieldKind.lit .src0 c = false := rfl
@[simp] theorem lit_any (c : BitVec 5) : FieldKind.lit .any c = false := rfl
@[simp] theorem lit_mask17 (c : BitVec 5) : FieldKind.lit .mask17 c = false := rfl
@[simp] theorem lit_lim (n : Nat) (c : BitVec 5) : FieldKind.lit (.lim n) c = false := rfl

theorem lit_of_ne (k : FieldKind) {c : BitVec 5} (h : c ≠ 31#5) : k.lit c = false := by
  cases k <;> simp [h]
theorem bad_lim_val {m : Nat} (hm : m ≤ 31) (n : Fin m) : FieldKind.bad (.lim m) (BitVec.ofNat 5 n.val) = false := by
  simp; omega

theorem bad_regCode (d : Reg) : FieldKind.bad .dst (regCode d) = false := by simp [regCode_ne_lit]

/-- A field of this kind may hold the operand. -/
def FieldKind.Takes (k : FieldKind) (a : Src) : Prop := k.bad a.code = false ∧ k.lit a.code = a.isLit

theorem takes_src (a : Src) : FieldKind.Takes .src a := ⟨rfl, code_beq_lit a⟩
theorem takes_of_ne {k : FieldKind} {c : BitVec 5} (hc : c ≠ 31#5) (hb : k.bad c = false) : k.Takes (.reg (regOf c)) := by
  have h : (Src.reg (regOf c)).code = c := regCode_regOf hc
  exact ⟨h.symm ▸ hb, h.symm ▸ lit_of_ne k hc⟩

/-! ### Literals (R21, R22) -/

@[simp] theorem litCount_nil : litCount [] = 0 := rfl
@[simp] theorem litCount_cons (b : Bool) (l : List Bool) : litCount (b :: l) = b.toNat + litCount l := by
  cases b <;> simp [litCount]; omega

theorem words_length (a : Src) : a.words.length = a.isLit.toNat * (if a.isWide then 2 else 1) := by
  cases a <;> rfl
theorem words_of_not_lit {a : Src} (h : a.isLit = false) : a.words = [] := by
  cases a <;> simp_all [Src.isLit, Src.words]
theorem wide_of_not_lit {a : Src} (h : a.isLit = false) : a.isWide = false := by
  cases a <;> simp_all [Src.isLit, Src.isWide]
theorem oneLit_iff (a b : Src) : oneLit a b = true ↔ a.isLit = false ∨ b.isLit = false := by
  unfold oneLit
  cases a.isLit <;> cases b.isLit <;> decide
theorem oneLit3_iff (x a b : Src) : oneLit3 x a b = true ↔ x.isLit.toNat + (a.isLit.toNat + b.isLit.toNat) ≤ 1 := by
  simp only [oneLit3, oneLit]
  cases x.isLit <;> cases a.isLit <;> cases b.isLit <;> decide
theorem oneLit3_reg (d : Reg) (a b : Src) : oneLit3 (.reg d) a b = oneLit a b := by
  simp [oneLit3, oneLit, Src.isLit]

theorem halves_append (v : Word) : (v.extractLsb' 32 32 ++ v.extractLsb' 0 32 : BitVec (32 + 32)) = v := by
  apply BitVec.eq_of_getLsbD_eq; intro j hj
  simp only [BitVec.getLsbD_append, BitVec.getLsbD_extractLsb']
  split
  · simp [*]
  · rw [show 32 + (j - 32) = j by omega]; simp; omega

/-- A source is read back where its literal stands, if no other literal comes before it. -/
theorem gSrc_words (a : Src) (pre rest : List W32) (wide : Bool) (h : a.isLit = true → pre = [] ∧ wide = a.isWide) :
    gSrc a.code wide (pre ++ (a.words ++ rest)) = a := by
  cases a with
  | reg n => simp [gSrc, Src.code, regCode_ne_lit]
  | lit32 v => obtain ⟨rfl, rfl⟩ := h rfl; simp [gSrc, Src.code, Src.words, Src.isWide]
  | lit64 v => obtain ⟨rfl, rfl⟩ := h rfl; simpa [gSrc, Src.code, Src.words, Src.isWide] using halves_append v

theorem gSrc_three {x a b : Src} (h : oneLit3 x a b = true) (rest : List W32) :
    gSrc x.code (x.isWide || a.isWide || b.isWide) (x.words ++ (a.words ++ (b.words ++ rest))) = x ∧
    gSrc a.code (x.isWide || a.isWide || b.isWide) (x.words ++ (a.words ++ (b.words ++ rest))) = a ∧
    gSrc b.code (x.isWide || a.isWide || b.isWide) (x.words ++ (a.words ++ (b.words ++ rest))) = b := by
  have hx := gSrc_words x [] (a.words ++ (b.words ++ rest)) (x.isWide || a.isWide || b.isWide)
  have ha := gSrc_words a x.words (b.words ++ rest) (x.isWide || a.isWide || b.isWide)
  have hb := gSrc_words b (x.words ++ a.words) rest (x.isWide || a.isWide || b.isWide)
  rw [oneLit3_iff] at h
  rw [List.append_assoc] at hb
  refine ⟨hx fun hl => ⟨rfl, ?_⟩, ha fun hl => ?_, hb fun hl => ?_⟩ <;>
    cases x <;> cases a <;> cases b <;> simp_all [Src.isLit, Src.isWide, Src.words]

/-! ### What a row accepts (R27) -/

theorem settle_eq_ok {il re fm : Bool} {l n : Nat} {rest : List W32} {i j : Instr} :
    settle il re l rest fm i = .ok j n ↔
      (il = false ∧ re = false ∧ fm = false ∧ l ≤ rest.length) ∧ j = i ∧ n = l + 1 := by
  unfold settle
  cases il <;> cases re <;> cases fm <;> by_cases h : rest.length < l <;> simp [h]; grind

/-- W = 1 is accepted with this TYPE (R89, R228). -/
def WideRule.admits (k : WideRule) (ty : BitVec 4) : Bool :=
  match k with
  | .never => false
  | .ty14 => ty == 14
  | .ty0 => true

/-- TYPE holds what the row admits (R24). -/
def TypeRule.admitsG (r : TypeRule) (ty : BitVec 4) : Bool := if r.untyped then ty == 0 else r.okG ty

/-- How many words of literal follow the first word. -/
def GRule.litWords (r : GRule) (w : W32) : Nat := r.lits w * (if wW w = 1 then 2 else 1)

/-- The fields of a word hold what the row admits. -/
structure GRule.Admits (r : GRule) (w : W32) : Prop where
  d : r.d.bad (wD w) = false
  a : r.a.bad (wA w) = false
  b : r.b.bad (wB w) = false
  lits : r.lits w ≤ 1
  wide : wW w = 1 → r.lits w = 1 ∧ r.wide.admits (wTy w) = true
  ty : r.ty.admitsG (wTy w) = true

theorem wideBad_eq_false {r : GRule} {w : W32} (h : r.lits w ≤ 1) :
    r.wideBad w = false ↔ (wW w = 1 → r.lits w = 1 ∧ r.wide.admits (wTy w) = true) := by
  by_cases hw : wW w = 1
  · cases hr : r.wide <;> simp [GRule.wideBad, hw, hr, WideRule.admits] <;> omega
  · have h0 : (wW w == 1) = false := by simpa using hw
    rw [GRule.wideBad, h0]
    exact ⟨fun _ h1 => absurd h1 hw, fun _ => rfl⟩

theorem admitsG_iff {r : TypeRule} {ty : BitVec 4} :
    r.admitsG ty = true ↔ (r.untyped && ty != 0) = false ∧ (!r.untyped && !r.okG ty) = false := by
  cases h : r.untyped <;> simp [TypeRule.admitsG, h]

theorem gRow_eq_ok {r : GRule} {e : Bool} {w : W32} {rest : List W32} {i j : Instr} {n : Nat} :
    gRow r e w rest i = .ok j n ↔
      (e = false ∧ r.Admits w ∧ r.litWords w ≤ rest.length) ∧ j = i ∧ n = r.litWords w + 1 := by
  rw [gRow, settle_eq_ok, GRule.litWords]
  refine and_congr_left fun _ => ?_
  simp only [Bool.or_eq_false_iff, decide_eq_false_iff_not, not_lt, true_and]
  constructor
  · rintro ⟨⟨⟨⟨⟨⟨⟨hd, ha⟩, hb⟩, hl⟩, hw⟩, ht⟩, he⟩, hf, hn⟩
    exact ⟨he, ⟨hd, ha, hb, hl, (wideBad_eq_false hl).1 hw, admitsG_iff.2 ⟨ht, hf⟩⟩, hn⟩
  · rintro ⟨he, h, hn⟩
    obtain ⟨ht, hf⟩ := admitsG_iff.1 h.ty
    exact ⟨⟨⟨⟨⟨⟨⟨h.d, h.a⟩, h.b⟩, h.lits⟩, (wideBad_eq_false h.lits).2 h.wide⟩, ht⟩, he⟩, hf, hn⟩

theorem iRow_eq_ok {kd ka : FieldKind} {e f : Bool} {w : W32} {rest : List W32} {i j : Instr} {n : Nat} :
    iRow kd ka e f w rest i = .ok j n ↔
      (e = false ∧ f = false ∧ kd.bad (wD w) = false ∧ ka.bad (wA w) = false ∧
        (kd.lit (wD w)).toNat + (ka.lit (wA w)).toNat ≤ 1 ∧ (kd.lit (wD w)).toNat + (ka.lit (wA w)).toNat ≤ rest.length) ∧
      j = i ∧ n = (kd.lit (wD w)).toNat + (ka.lit (wA w)).toNat + 1 := by
  rw [iRow, settle_eq_ok]
  simp only [litCount_cons, litCount_nil, Nat.add_zero, Bool.or_eq_false_iff, decide_eq_false_iff_not, not_lt, true_and]
  tauto

theorem below_eq_ok {m n : Nat} {w : W32} {d : Dec} {i : Instr} :
    below m w d = .ok i n ↔ (wSub w).toNat < m ∧ d = .ok i n := by
  unfold below; split <;> simp [*]

end Sys2Proof
end

section
/-! PROOFS. Words put together in formats G, I, B, M and J, and the rows that decode them back. -/

namespace Sys2Proof

/-! ### The fields of a word of each format -/

/-- A word of format G with these fields. -/
structure GWord (w : W32) (maj : BitVec 6) (d a b : BitVec 5) (W : Bool) (ty : BitVec 4) (sub : BitVec 6) : Prop where
  maj : wMaj w = maj.toNat
  d : wD w = d
  a : wA w = a
  b : wB w = b
  wide : (wW w == 1) = W
  ty : wTy w = ty
  sub : wSub w = sub

/-- A word of format I or B with these fields. -/
structure IWord (w : W32) (maj : BitVec 6) (d a : BitVec 5) (imm : BitVec 16) : Prop where
  maj : wMaj w = maj.toNat
  d : wD w = d
  a : wA w = a
  imm : wImm w = imm

/-- A word of format M with these fields. -/
structure MWord (w : W32) (maj : BitVec 6) (d a : BitVec 5) (cls : BitVec 4) (size : BitVec 2) (ofs : BitVec 10) : Prop where
  maj : wMaj w = maj.toNat
  d : wD w = d
  a : wA w = a
  cls : wCls w = cls
  size : wSize w = size
  ofs : wOfs w = ofs

section
variable {st : Strm} {i : Instr} {maj sub : BitVec 6} {d a b : BitVec 5} {W : Bool} {ty : BitVec 4} {imm : BitVec 16}
  {cls : BitVec 4} {size : BitVec 2} {ofs : BitVec 10} {lit rest : List W32}

theorem decode_stem (w : W32) : decode .stem (w :: rest) = decStem w rest := rfl
theorem decode_vector (w : W32) : decode .vector (w :: rest) = decVectorChecked w rest := rfl
theorem decode_perco (w : W32) : decode .perco (w :: rest) = decPerco w rest := rfl

theorem decode_eG (h : ∀ w, GWord w maj d a b W ty sub → decode st (w :: (lit ++ rest)) = .ok i (lit.length + 1)) :
    decode st (eG maj d a b W ty sub lit ++ rest) = .ok i (eG maj d a b W ty sub lit).length :=
  h _ ⟨maj_G .., d_G .., a_G .., b_G .., by rw [w_G]; exact ofBool_beq_one W, ty_G .., sub_G ..⟩

theorem decode_eI (h : ∀ w, IWord w maj d a imm → decode st (w :: (lit ++ rest)) = .ok i (lit.length + 1)) :
    decode st (eI maj d a imm lit ++ rest) = .ok i (eI maj d a imm lit).length :=
  h _ ⟨maj_I .., d_I .., a_I .., imm_I ..⟩

theorem decode_eM (h : ∀ w, MWord w maj d a cls size ofs → decode st (w :: (lit ++ rest)) = .ok i (lit.length + 1)) :
    decode st (eM maj d a cls size ofs lit ++ rest) = .ok i (eM maj d a cls size ofs lit).length :=
  h _ ⟨maj_M .., d_M .., a_M .., cls_M .., size_M .., ofs_M ..⟩

theorem decode_eJ {ofs : BitVec 26} (h : ∀ w, wMaj w = maj.toNat → wJ w = ofs → decode st (w :: rest) = .ok i 1) :
    decode st (eJ maj ofs ++ rest) = .ok i (eJ maj ofs).length :=
  h _ (maj_J ..) (ofs_J ..)
end

/-! ### Operands read back -/

section
variable {w : W32} {maj sub : BitVec 6} {dc ac bc : BitVec 5} {x a b : Src} {W : Bool} {tyc : BitVec 4}
  {rest : List W32} {imm : BitVec 16}

theorem GWord.reg {d : Reg} (h : GWord w maj (regCode d) ac bc W tyc sub) : rD w = d := by
  rw [rD, h.d, regOf_regCode]
theorem GWord.type {ty : Ty} (h : GWord w maj dc ac bc W ty.code sub) : gTy w = ty := by
  rw [gTy, h.ty, ofCode_code, Option.getD_some]
theorem GWord.scope {sc : Scope} (h : GWord w maj dc ac bc W tyc sc.code) : gScope w = sc := by
  rw [gScope, h.sub, ofCode_scopeCode]
theorem GWord.scope_ok {sc : Scope} (h : GWord w maj dc ac bc W tyc sc.code) : badScope w = false := by
  rw [badScope, h.sub]; cases sc <;> rfl
theorem GWord.sub_lt {m : Nat} (h : GWord w maj dc ac bc W tyc sub) (hm : sub.toNat < m) : (wSub w).toNat < m := h.sub ▸ hm
theorem GWord.flag {f : Bool} (h : GWord w maj dc ac bc W tyc (BitVec.ofNat 6 f.toNat)) : (wSub w == 1) = f := by
  rw [h.sub]; cases f <;> rfl
theorem GWord.flag_lt {f : Bool} (h : GWord w maj dc ac bc W tyc (BitVec.ofNat 6 f.toNat)) : (wSub w).toNat < 2 := by
  rw [h.sub]; cases f <;> decide
theorem GWord.flag_ok {f : Bool} (h : GWord w maj dc ac bc W tyc (BitVec.ofNat 6 f.toNat)) :
    decide (2 ≤ (wSub w).toNat) = false := decide_eq_false (Nat.not_le.2 h.flag_lt)

theorem GWord.one (h : GWord w maj dc a.code bc W tyc sub) (hW : W = a.isWide) : sA w (a.words ++ rest) = a := by
  rw [sA, h.a, h.wide]
  exact gSrc_words a [] _ _ fun _ => ⟨rfl, hW⟩

theorem GWord.three (h : GWord w maj x.code a.code b.code (x.isWide || a.isWide || b.isWide) tyc sub)
    (hl : oneLit3 x a b = true) (rest : List W32) :
    sD w (x.words ++ a.words ++ b.words ++ rest) = x ∧ sA w (x.words ++ a.words ++ b.words ++ rest) = a ∧
      sB w (x.words ++ a.words ++ b.words ++ rest) = b := by
  rw [sD, sA, sB, h.d, h.a, h.b, h.wide, List.append_assoc, List.append_assoc]
  exact gSrc_three hl rest

theorem GWord.two (h : GWord w maj dc a.code b.code W tyc sub) (hl : oneLit a b = true) (hW : W = (a.isWide || b.isWide))
    (rest : List W32) : sA w (a.words ++ b.words ++ rest) = a ∧ sB w (a.words ++ b.words ++ rest) = b := by
  rw [← oneLit3_reg 0 a b] at hl
  rw [sA, sB, h.a, h.b, h.wide, List.append_assoc, hW]
  exact ⟨(gSrc_three hl rest).2.1, (gSrc_three hl rest).2.2⟩

theorem nA_words (hw : wA w = a.code) (ha : a.isWide = false) : nA w (a.words ++ rest) = a := by
  rw [nA, hw]
  exact gSrc_words a [] _ _ fun _ => ⟨rfl, ha.symm⟩
theorem nD_nA_words (hwd : wD w = x.code) (hwa : wA w = a.code) (h : oneLit x a = true) (hx : x.isWide = false)
    (ha : a.isWide = false) : nD w (x.words ++ a.words ++ rest) = x ∧ nA w (x.words ++ a.words ++ rest) = a := by
  rw [← oneLit3_reg 0 x a] at h
  have h3 := gSrc_three h rest
  rw [hx, ha] at h3
  rw [nD, nA, hwd, hwa, List.append_assoc]
  exact h3.2
theorem rD_code {d : Reg} (hw : wD w = regCode d) : rD w = d := by rw [rD, hw, regOf_regCode]

theorem IWord.li {d : Reg} {v : LiVal} (h : IWord w maj (regCode d) (liCode v) (liImm v)) : liVal w (v.words ++ rest) = v := by
  cases v <;> simp [liVal, h.a, h.imm, liCode, liImm, LiVal.words]
end

/-! ### Rows of format G -/

theorem admitsG_ints {ty : Ty} (h : ty.isInt = true) : TypeRule.admitsG .ints ty.code = true := by
  cases ty with
  | i8 | i16 | i32 | i64 => rfl
  | _ => exact absurd h Bool.false_ne_true
theorem admitsG_word {ty : Ty} (h : (ty == .i32 || ty == .i64) = true) : TypeRule.admitsG .word ty.code = true := by
  rw [Bool.or_eq_true, beq_iff_eq, beq_iff_eq] at h
  rcases h with rfl | rfl <;> rfl
theorem admits_of_wide64 {a b : Src} {ty : Ty} (h : wide64 a b ty = true) (hw : (a.isWide || b.isWide) = true) :
    WideRule.admits .ty14 ty.code = true := by
  have hty : ty = .i64 := by simpa [wide64, hw] using h
  subst hty; rfl

section
variable {r : GRule} {k ka kb : FieldKind} {wd : WideRule} {t : TypeRule} {w : W32} {maj sub : BitVec 6} {d c : BitVec 5}
  {x a b : Src} {W : Bool} {ty : BitVec 4} {rest : List W32} {e : Bool} {i j : Instr}

/-- A row of format G takes the word and the literals of operands that its fields may hold. -/
theorem gRow_put (h : GWord w maj x.code a.code b.code W ty sub) (hi : i = j) (he : e = false) (hx : r.d.Takes x)
    (ha : r.a.Takes a) (hb : r.b.Takes b) (hl : oneLit3 x a b = true) (hW : W = (x.isWide || a.isWide || b.isWide))
    (hwd : W = true → r.wide.admits ty = true) (ht : r.ty.admitsG ty = true) :
    gRow r e w (x.words ++ a.words ++ b.words ++ rest) i = .ok j ((x.words ++ a.words ++ b.words).length + 1) := by
  have hlits : r.lits w = x.isLit.toNat + (a.isLit.toNat + b.isLit.toNat) := by
    simp [GRule.lits, h.d, h.a, h.b, hx.2, ha.2, hb.2]
  have hwide : wW w = 1 ↔ W = true := by rw [← h.wide, beq_iff_eq]
  rw [oneLit3_iff] at hl
  have hlen : r.litWords w = (x.words ++ a.words ++ b.words).length := by
    rw [GRule.litWords, hlits, if_congr hwide rfl rfl, hW]
    cases x <;> cases a <;> cases b <;> simp_all [Src.isLit, Src.isWide, Src.words]
  refine gRow_eq_ok.2 ⟨⟨he, ⟨h.d ▸ hx.1, h.a ▸ ha.1, h.b ▸ hb.1, hlits ▸ hl, fun h1 => ?_, h.ty ▸ ht⟩, ?_⟩, hi.symm, ?_⟩
  · refine ⟨?_, h.ty ▸ hwd (hwide.1 h1)⟩
    have hw1 := hwide.1 h1
    rw [hlits]
    cases x <;> cases a <;> cases b <;> simp_all [Src.isWide, Src.isLit]
  · rw [hlen, List.length_append (bs := rest)]; omega
  · rw [hlen]

theorem gRow_three (h : GWord w maj x.code a.code b.code (x.isWide || a.isWide || b.isWide) 0#4 sub) (hi : i = j)
    (hl : oneLit3 x a b = true) :
    gRow ⟨.src, .src, .src, .ty0, .none⟩ false w (x.words ++ a.words ++ b.words ++ rest) i =
      .ok j ((x.words ++ a.words ++ b.words).length + 1) :=
  gRow_put h hi rfl (takes_src x) (takes_src a) (takes_src b) hl rfl (fun _ => rfl) rfl

theorem gRow_two (h : GWord w maj d a.code b.code W ty sub) (hi : i = j) (he : e = false) (hd : d ≠ 31#5)
    (hk : k.bad d = false) (hl : oneLit a b = true) (hW : W = (a.isWide || b.isWide))
    (hwd : W = true → wd.admits ty = true) (ht : t.admitsG ty = true) :
    gRow ⟨k, .src, .src, wd, t⟩ e w (a.words ++ b.words ++ rest) i = .ok j ((a.words ++ b.words).length + 1) := by
  rw [← regCode_regOf hd] at h
  exact gRow_put (x := .reg (regOf d)) h hi he (takes_of_ne hd hk) (takes_src a) (takes_src b)
    ((oneLit3_reg ..).trans hl) hW hwd ht

theorem gRow_one (h : GWord w maj d a.code 0#5 W ty sub) (hi : i = j) (he : e = false) (hd : d ≠ 31#5)
    (hk : k.bad d = false) (hW : W = a.isWide) (hwd : W = true → wd.admits ty = true) (ht : t.admitsG ty = true) :
    gRow ⟨k, .src, .zero, wd, t⟩ e w (a.words ++ rest) i = .ok j (a.words.length + 1) := by
  rw [← regCode_regOf hd] at h
  have := gRow_put (r := ⟨k, .src, .zero, wd, t⟩) (x := .reg (regOf d)) (b := .reg 0) (rest := rest) h hi he
    (takes_of_ne hd hk) (takes_src a) ⟨rfl, rfl⟩ (by simp [oneLit3_reg, oneLit, Src.isLit]) (by simpa [Src.isWide] using hW)
    hwd ht
  simpa [Src.words] using this

theorem gRow_none (h : GWord w maj d c 0#5 false 0#4 sub) (hi : i = j) (he : e = false) (hd : d ≠ 31#5)
    (hk : k.bad d = false) (hc : c ≠ 31#5) (hka : ka.bad c = false) :
    gRow ⟨k, ka, .zero, wd, .none⟩ e w rest i = .ok j 1 := by
  rw [← regCode_regOf hd, ← regCode_regOf hc] at h
  exact gRow_put (x := .reg (regOf d)) (a := .reg (regOf c)) (b := .reg 0) h hi he (takes_of_ne hd hk) (takes_of_ne hc hka)
    ⟨rfl, rfl⟩ rfl rfl (by simp) rfl
end

/-! ### Rows of formats I, B and M -/

section
variable {w : W32} {maj : BitVec 6} {k ka : FieldKind} {x a : Src} {e : Bool} {rest : List W32} {i j : Instr}

theorem iRow_put (hi : i = j) (he : e = false) (hx : k.Takes x) (ha : ka.Takes a) (hd : wD w = x.code) (hwa : wA w = a.code)
    (h : oneLit x a = true) (hxn : x.isWide = false) (han : a.isWide = false) :
    iRow k ka e false w (x.words ++ a.words ++ rest) i = .ok j ((x.words ++ a.words).length + 1) := by
  have hlen : (x.words ++ a.words).length = x.isLit.toNat + a.isLit.toNat := by simp [words_length, hxn, han]
  refine iRow_eq_ok.2 ⟨?_, hi.symm, ?_⟩
  · rw [hd, hwa, hx.1, ha.1, hx.2, ha.2]
    refine ⟨he, rfl, rfl, rfl, ?_, ?_⟩
    · rcases (oneLit_iff x a).1 h with h | h <;> simp [h, Bool.toNat_le]
    · rw [List.length_append, hlen]; omega
  · rw [hd, hwa, hx.2, ha.2, hlen]

theorem iRow_two (hi : i = j) (hd : wD w = x.code) (hwa : wA w = a.code) (h : oneLit x a = true) (he : e = false)
    (hxn : x.isWide = false) (han : a.isWide = false) :
    iRow .src .src e false w (x.words ++ a.words ++ rest) i = .ok j ((x.words ++ a.words).length + 1) :=
  iRow_put hi he (takes_src x) (takes_src a) hd hwa h hxn han

theorem iRow_one {d : BitVec 5} (hi : i = j) (hd : wD w = d) (hne : d ≠ 31#5) (hk : k.bad d = false) (hwa : wA w = a.code)
    (he : e = false) (han : a.isWide = false) :
    iRow k .src e false w (a.words ++ rest) i = .ok j (a.words.length + 1) :=
  iRow_put (x := .reg (regOf d)) hi he (takes_of_ne hne hk) (takes_src a) (hd.trans (regCode_regOf hne).symm) hwa
    (by simp [oneLit, Src.isLit]) rfl han

theorem iRow_none {d : BitVec 5} (hi : i = j) (hd : wD w = d) (hne : d ≠ 31#5) (hk : k.bad d = false) (hwa : wA w = 0#5)
    (he : e = false) : iRow k .zero e false w rest i = .ok j 1 :=
  iRow_put (x := .reg (regOf d)) (a := .reg 0) hi he (takes_of_ne hne hk) ⟨rfl, rfl⟩ (hd.trans (regCode_regOf hne).symm) hwa
    rfl rfl rfl

theorem liRow_put {v : LiVal} {d : Reg} (h : IWord w maj (regCode d) (liCode v) (liImm v)) (hi : i = j) :
    liRow w (v.words ++ rest) i = .ok j (v.words.length + 1) := by
  subst hi
  rw [liRow, settle_eq_ok, h.d, h.a, h.imm]
  cases v <;> simp [liCode, liImm, LiVal.words, regCode_ne_lit]
end

theorem narrow_iff {a : Src} : narrow a = true ↔ a.isWide = false := by simp [narrow]
theorem narrow_two_iff {a b : Src} : (oneLit a b && narrow a && narrow b) = true ↔
    oneLit a b = true ∧ a.isWide = false ∧ b.isWide = false := by simp [narrow, and_assoc]
theorem and_three_iff {x y z : Bool} : (x && y && z) = true ↔ x = true ∧ y = true ∧ z = true := by simp [and_assoc]

end Sys2Proof
end

section
/-! PROOFS. Decode of encode in the stem stream (R21-R27, R50). -/

namespace Sys2Proof

set_option Elab.async false

theorem sys_of_imm {w : W32} {r : BitVec 12} (h : wImm w = (0 : BitVec 4) ++ r) : wSys w = r := by
  have hs : wSys w = (wImm w).extractLsb' 0 12 := by
    apply BitVec.eq_of_getLsbD_eq; intro j hj
    simp [wSys, wImm]
  rw [hs, h, extract_append_low _ r (by omega), extract_all]
theorem imm_sys_lt (r : BitVec 12) : ((0 : BitVec 4) ++ r).toNat < 0x1000 := by
  rw [BitVec.toNat_append]; simp; omega
theorem badStemSys_eq_false {w : W32} {r : BitVec 12} (h : wImm w = (0 : BitVec 4) ++ r) (hr : stemSysNum r.toNat = true) :
    badStemSys w = false := by
  rw [badStemSys, sys_of_imm h, hr, h]
  simpa using imm_sys_lt r

theorem tokenRegs_iff {d : Fin 32} {n : Fin 5} : tokenRegs d n = true ↔ d.val + n.val ≤ 31 ∧ (n.val = 0 → d.val = 0) := by
  unfold tokenRegs; split
  · simp [*, -Fin.val_eq_zero_iff]; omega
  · simp [*]
theorem badToken_eq_false {w : W32} {maj : BitVec 6} {a b : BitVec 5} {W : Bool} {ty : BitVec 4} {d : Fin 32} {n : Fin 5}
    (h : GWord w maj (BitVec.ofNat 5 d.val) a b W ty (BitVec.ofNat 6 n.val)) (hr : tokenRegs d n = true) :
    badToken w = false := by
  obtain ⟨hdn, h0⟩ := tokenRegs_iff.1 hr
  rw [badToken, h.sub, h.d]
  simp [BitVec.toNat_eq]
  omega

theorem decode_encode_stem (i : Instr) (rest : List W32) (hs : i.stream = some .stem) (hw : i.wf = true) :
    decode .stem (encode i ++ rest) = .ok i (encode i).length := by
  cases i
  case add d a b ty | sub d a b ty | mul d a b ty | mulh d a b ty | div d a b ty | rem d a b ty | and d a b ty
      | or d a b ty | xor d a b ty | shl d a b ty | shr d a b ty | sra d a b ty | min d a b ty | max d a b ty
      | slt d a b ty | sltu d a b ty | madd d a b ty | mulhUnsigned d a b ty | divUnsigned d a b ty | remUnsigned d a b ty
      | minUnsigned d a b ty | maxUnsigned d a b ty | amoAdd d a b ty | amoAnd d a b ty | amoOr d a b ty | amoXor d a b ty
      | amoMin d a b ty | amoMax d a b ty | amoMinu d a b ty | amoMaxu d a b ty | amoSwap d a b ty | cas d a b ty =>
    obtain ⟨hab, hwd, hty⟩ := and_three_iff.1 hw
    refine decode_eG fun w h => ?_
    obtain ⟨ha, hb⟩ := h.two hab rfl rest
    rw [decode_stem]
    unfold decStem decStem01 decStem12
    rw [h.maj, h.sub]
    exact gRow_two h (by rw [h.reg, ha, hb, h.type]) rfl (regCode_ne_lit d) (bad_regCode d) hab rfl
      (admits_of_wide64 hwd) (admitsG_ints hty)
  case ratomAdd d a b ty | ratomAnd d a b ty | ratomOr d a b ty | ratomXor d a b ty | ratomMin d a b ty
      | ratomMax d a b ty | ratomMinu d a b ty | ratomMaxu d a b ty | ratomSwap d a b ty | ratomCas d a b ty =>
    obtain ⟨hab, hwd, hty⟩ := and_three_iff.1 hw
    refine decode_eG fun w h => ?_
    obtain ⟨ha, hb⟩ := h.two hab rfl rest
    rw [decode_stem]
    unfold decStem decStem1D
    rw [h.maj, h.sub]
    exact gRow_two h (by rw [h.reg, ha, hb, h.type]) rfl (regCode_ne_lit d) (bad_regCode d) hab rfl
      (admits_of_wide64 hwd) (admitsG_word hty)
  case clz d a ty | popc d a ty =>
    obtain ⟨hwd, hty⟩ := Bool.and_eq_true_iff.1 hw
    refine decode_eG fun w h => ?_
    rw [decode_stem]
    unfold decStem decStem01
    rw [h.maj, h.sub]
    exact gRow_one h (by rw [h.reg, h.one rfl, h.type]) rfl (regCode_ne_lit d) (bad_regCode d) rfl
      (fun ha => admits_of_wide64 hwd (by rw [ha]; rfl)) (admitsG_ints hty)
  case waita d a b ty sc =>
    obtain ⟨habn, hty⟩ := Bool.and_eq_true_iff.1 hw
    obtain ⟨hab, ha, hb⟩ := narrow_two_iff.1 habn
    have hW : false = (a.isWide || b.isWide) := by rw [ha, hb]; rfl
    refine decode_eG fun w h => ?_
    obtain ⟨hsa, hsb⟩ := h.two hab hW rest
    rw [decode_stem]
    unfold decStem
    rw [h.maj]
    exact gRow_two h (by rw [h.reg, hsa, hsb, h.type, h.scope]) h.scope_ok (regCode_ne_lit d) (bad_regCode d) hab hW
      nofun (admitsG_word hty)
  case semwait a b sc | sempost a b sc =>
    obtain ⟨hab, ha, hb⟩ := narrow_two_iff.1 hw
    have hW : false = (a.isWide || b.isWide) := by rw [ha, hb]; rfl
    refine decode_eG fun w h => ?_
    obtain ⟨hsa, hsb⟩ := h.two hab hW rest
    rw [decode_stem]
    unfold decStem
    rw [h.maj]
    exact gRow_two h (by rw [hsa, hsb, h.scope]) h.scope_ok (by decide) rfl hab hW nofun rfl
  case mwait a b sc | msig a b sc =>
    obtain ⟨hab, ha, hb⟩ := narrow_two_iff.1 hw
    have hW : false = (a.isWide || b.isWide) := by rw [ha, hb]; rfl
    refine decode_eG fun w h => ?_
    obtain ⟨hsa, hsb⟩ := h.two hab hW rest
    rw [decode_stem]
    unfold decStem
    rw [h.maj]
    refine below_eq_ok.2 ⟨h.sub_lt (by cases sc <;> decide), ?_⟩
    exact gRow_two h (by rw [hsa, hsb, h.scope]) h.scope_ok (by decide) rfl hab hW nofun rfl
  case mtbar a b =>
    obtain ⟨hab, ha, hb⟩ := narrow_two_iff.1 hw
    have hW : false = (a.isWide || b.isWide) := by rw [ha, hb]; rfl
    refine decode_eG fun w h => ?_
    obtain ⟨hsa, hsb⟩ := h.two hab hW rest
    rw [decode_stem]
    unfold decStem
    rw [h.maj]
    refine below_eq_ok.2 ⟨h.sub_lt (by decide), ?_⟩
    exact gRow_two h (by rw [hsa, hsb]) rfl (by decide) rfl hab hW nofun rfl
  case rcall a b hi =>
    refine decode_eG fun w h => ?_
    obtain ⟨hsa, hsb⟩ := h.two hw rfl rest
    rw [decode_stem]
    unfold decStem
    rw [h.maj]
    exact gRow_two h (by rw [hsa, hsb, h.flag]) h.flag_ok (by decide) rfl hw rfl (fun _ => rfl) rfl
  case token d n a b =>
    obtain ⟨hab, hd⟩ := Bool.and_eq_true_iff.1 hw
    have hlt : d.val < 31 := by have := tokenRegs_iff.1 hd; omega
    refine decode_eG fun w h => ?_
    obtain ⟨hsa, hsb⟩ := h.two hab rfl rest
    rw [decode_stem]
    unfold decStem
    rw [h.maj]
    exact gRow_two h (by rw [h.d, h.sub, hsa, hsb, fin32_ofNat, fin5_ofNat]) (badToken_eq_false h hd)
      (ofNat_val_ne_lit le_rfl ⟨d.val, hlt⟩) rfl hab rfl (fun _ => rfl) rfl
  case mma c a b mods | mmas c a b mods =>
    refine decode_eG fun w h => ?_
    obtain ⟨hc, ha, hb⟩ := h.three hw rest
    rw [decode_stem]
    unfold decStem
    rw [h.maj]
    exact gRow_three h (by rw [hc, ha, hb, h.sub]) hw
  case jr a | jrCall a | pwait a | pin a | unpin a | cinv a | launch a =>
    have ha := narrow_iff.1 hw
    refine decode_eG fun w h => ?_
    rw [decode_stem]
    unfold decStem decStem0B decStem22
    rw [h.maj, h.sub]
    exact gRow_one h (by rw [h.one ha.symm]) rfl (by decide) rfl ha.symm nofun rfl
  case fence a sc | bar a sc =>
    have ha := narrow_iff.1 hw
    refine decode_eG fun w h => ?_
    rw [decode_stem]
    unfold decStem
    rw [h.maj]
    exact gRow_one h (by rw [h.one ha.symm, h.scope]) h.scope_ok (by decide) rfl ha.symm nofun rfl
  case xfer a hi =>
    have ha := narrow_iff.1 hw
    refine decode_eG fun w h => ?_
    rw [decode_stem]
    unfold decStem
    rw [h.maj]
    exact gRow_one h (by rw [h.one ha.symm, h.flag]) h.flag_ok (by decide) rfl ha.symm nofun rfl
  case mvlc n a | shld n a =>
    have ha := narrow_iff.1 hw
    refine decode_eG fun w h => ?_
    rw [decode_stem]
    unfold decStem decStem0E
    rw [h.maj, h.sub]
    exact gRow_one h (by rw [h.d, fin4_ofNat, h.one ha.symm]) rfl (ofNat_val_ne_lit (by decide) n)
      (bad_lim_val (by decide) n) ha.symm nofun rfl
  case mtld n a | mtst n a =>
    have ha := narrow_iff.1 hw
    refine decode_eG fun w h => ?_
    rw [decode_stem]
    unfold decStem
    rw [h.maj]
    refine below_eq_ok.2 ⟨h.sub_lt (by decide), ?_⟩
    exact gRow_one h (by rw [h.d, fin2_ofNat, h.one ha.symm]) rfl (ofNat_val_ne_lit (by decide) n)
      (bad_lim_val (by decide) n) ha.symm nofun rfl
  case mfmt n a =>
    refine decode_eG fun w h => ?_
    rw [decode_stem]
    unfold decStem
    rw [h.maj]
    refine below_eq_ok.2 ⟨h.sub_lt (by decide), ?_⟩
    exact gRow_one h (by rw [h.d, fin4_ofNat, h.one rfl]) rfl (ofNat_val_ne_lit (by decide) n)
      (bad_lim_val (by decide) n) rfl (fun _ => rfl) rfl
  case ret | lbrk | cinvAll | eret | halt | nop | yield | ifence | vsync | grainend =>
    refine decode_eG fun w h => ?_
    rw [decode_stem]
    unfold decStem decStem22 decStem29
    rw [h.maj, h.sub]
    exact gRow_none h rfl rfl (by decide) rfl (by decide) rfl
  case rdcyc d =>
    refine decode_eG fun w h => ?_
    rw [decode_stem]
    unfold decStem decStem29
    rw [h.maj, h.sub]
    exact gRow_none h (by rw [h.reg]) rfl (regCode_ne_lit d) (bad_regCode d) (by decide) rfl
  case mvlcRead d n =>
    refine decode_eG fun w h => ?_
    rw [decode_stem]
    unfold decStem decStem0E
    rw [h.maj, h.sub]
    exact gRow_none h (by rw [h.reg, h.a, fin4_ofNat]) rfl (regCode_ne_lit d) (bad_regCode d)
      (ofNat_val_ne_lit (by decide) n) (bad_lim_val (by decide) n)
  case twait n | shinv n =>
    refine decode_eG fun w h => ?_
    rw [decode_stem]
    unfold decStem
    rw [h.maj, h.sub]
    exact gRow_none h (by rw [h.d, fin4_ofNat]) rfl (ofNat_val_ne_lit (by decide) n) (bad_lim_val (by decide) n)
      (by decide) rfl
  case mclr n =>
    refine decode_eG fun w h => ?_
    rw [decode_stem]
    unfold decStem
    rw [h.maj]
    refine below_eq_ok.2 ⟨h.sub_lt (by decide), ?_⟩
    exact gRow_none h (by rw [h.d, fin2_ofNat]) rfl (ofNat_val_ne_lit (by decide) n) (bad_lim_val (by decide) n)
      (by decide) rfl
  case msync =>
    refine decode_eG fun w h => ?_
    rw [decode_stem]
    unfold decStem
    rw [h.maj]
    refine below_eq_ok.2 ⟨h.sub_lt (by decide), ?_⟩
    exact gRow_none h rfl rfl (by decide) rfl (by decide) rfl
  case memit n m z =>
    refine decode_eG fun w h => ?_
    rw [decode_stem]
    unfold decStem
    rw [h.maj]
    refine below_eq_ok.2 ⟨h.flag_lt, ?_⟩
    exact gRow_none h (by rw [h.d, h.a, fin4_ofNat, fin2_ofNat, h.flag]) rfl (ofNat_val_ne_lit (by decide) n)
      (bad_lim_val (by decide) n) (ofNat_val_ne_lit (by decide) m) (bad_lim_val (by decide) m)
  case li d v =>
    refine decode_eI fun w h => ?_
    rw [decode_stem]
    unfold decStem
    rw [h.maj]
    exact liRow_put h (by rw [rD_code h.d, h.li])
  case beq x y ofs | bne x y ofs | blt x y ofs | bge x y ofs | bltu x y ofs | bgeu x y ofs =>
    obtain ⟨hl, hx, hy⟩ := narrow_two_iff.1 hw
    refine decode_eI fun w h => ?_
    obtain ⟨hnx, hny⟩ := nD_nA_words (rest := rest) h.d h.a hl hx hy
    rw [decode_stem]
    unfold decStem
    rw [h.maj]
    exact iRow_two (by rw [hnx, hny, h.imm]) h.d h.a hl rfl hx hy
  case loop a imm =>
    have ha := narrow_iff.1 hw
    refine decode_eI fun w h => ?_
    rw [decode_stem]
    unfold decStem
    rw [h.maj]
    exact iRow_one (by rw [nA_words h.a ha, h.imm]) h.d (by decide) rfl h.a rfl ha
  case probe d a imm =>
    have ha := narrow_iff.1 hw
    refine decode_eI fun w h => ?_
    rw [decode_stem]
    unfold decStem
    rw [h.maj]
    exact iRow_one (by rw [rD_code h.d, nA_words h.a ha, h.imm]) h.d (regCode_ne_lit d) (bad_regCode d) h.a rfl ha
  case trap imm =>
    refine decode_eI fun w h => ?_
    rw [decode_stem]
    unfold decStem
    rw [h.maj]
    exact iRow_none (by rw [h.imm]) h.d (by decide) rfl h.a rfl
  case sysrd d r =>
    refine decode_eI fun w h => ?_
    rw [decode_stem]
    unfold decStem
    rw [h.maj]
    exact iRow_none (by rw [rD_code h.d, sys_of_imm h.imm]) h.d (regCode_ne_lit d) (bad_regCode d) h.a
      (badStemSys_eq_false h.imm hw)
  case syswr a r =>
    obtain ⟨hn, hr⟩ := Bool.and_eq_true_iff.1 hw
    have ha := narrow_iff.1 hn
    refine decode_eI fun w h => ?_
    rw [decode_stem]
    unfold decStem
    rw [h.maj]
    exact iRow_one (by rw [nA_words h.a ha, sys_of_imm h.imm]) h.d (by decide) rfl h.a (badStemSys_eq_false h.imm hr) ha
  case ld d a cls size ofs =>
    have ha := narrow_iff.1 hw
    refine decode_eM fun w h => ?_
    rw [decode_stem]
    unfold decStem
    rw [h.maj]
    exact iRow_one (by rw [rD_code h.d, nA_words h.a ha, h.cls, h.size, h.ofs]) h.d (regCode_ne_lit d) (bad_regCode d) h.a
      rfl ha
  case ldZeroExtending d a cls size ofs =>
    obtain ⟨hn, hz⟩ := Bool.and_eq_true_iff.1 hw
    have ha := narrow_iff.1 hn
    refine decode_eM fun w h => ?_
    rw [decode_stem]
    unfold decStem
    rw [h.maj]
    exact iRow_one (by rw [rD_code h.d, nA_words h.a ha, h.cls, h.size, h.ofs]) h.d (regCode_ne_lit d) (bad_regCode d) h.a
      (by simpa [h.size] using hz) ha
  case st x a cls size ofs =>
    obtain ⟨hl, hx, ha⟩ := narrow_two_iff.1 hw
    refine decode_eM fun w h => ?_
    obtain ⟨hnx, hna⟩ := nD_nA_words (rest := rest) h.d h.a hl hx ha
    rw [decode_stem]
    unfold decStem
    rw [h.maj]
    exact iRow_two (by rw [hnx, hna, h.cls, h.size, h.ofs]) h.d h.a hl rfl hx ha
  case j ofs | jal ofs =>
    refine decode_eJ fun w hmaj hofs => ?_
    rw [decode_stem]
    unfold decStem
    rw [hmaj, hofs]
    rfl
  all_goals cases hs
end Sys2Proof
end

section
/-! PROOFS. Rows of format V: the fields of a vector word and the operands they name (R21-R27, R48, R137, R143). -/

namespace Sys2Proof

/-! ### Codes read back -/

@[simp] theorem vcode_beq_lit (a : VSrc) : (a.code == 31#5) = a.isLit := by
  cases a <;> simp [VSrc.code, VSrc.isLit, regCode_ne_lit]
@[simp] theorem ecode_beq_lit (a : ESrc) : (a.code == 31#5) = a.isLit := by
  cases a with
  | reg n => revert n; decide
  | lit v => rfl
theorem vwords_length (a : VSrc) : a.words.length = a.isLit.toNat := by cases a <;> rfl
theorem ewords_length (a : ESrc) : a.words.length = a.isLit.toNat := by cases a <;> rfl
@[simp] theorem ofCode_dirCode (g : Dir) : Dir.ofCode g.code = g := by cases g <;> rfl

theorem vSrc_words (a : VSrc) (pre rest : List W32) (h : a.isLit = true → pre = []) :
    vSrc a.code (pre ++ (a.words ++ rest)) = a := by
  cases a with
  | reg n => simp [vSrc, VSrc.code, regCode_ne_lit]
  | lit v => rw [h rfl]; simp [vSrc, VSrc.code, VSrc.words]
theorem eSrc_words (a : ESrc) (pre rest : List W32) (h : a.isLit = true → pre = []) :
    eSrc a.code (pre ++ (a.words ++ rest)) = a := by
  cases a with
  | reg n => simp [eSrc, ESrc.code, ofNat_val_ne_lit (by decide : 8 ≤ 31) n]
  | lit v => rw [h rfl]; simp [eSrc, ESrc.code, ESrc.words]

/-! ### What a row accepts -/

/-- TYPE holds what the vector row admits (R24). -/
def TypeRule.admitsV (r : TypeRule) (ty : BitVec 4) : Bool := if r.untyped then ty == 0 else r.okV ty

theorem admitsV_iff {r : TypeRule} {ty : BitVec 4} :
    r.admitsV ty = true ↔ (r.untyped && ty != 0) = false ∧ (!r.untyped && !r.okV ty) = false := by
  cases h : r.untyped <;> simp [TypeRule.admitsV, h]

/-- The fields of a vector word hold what the row admits. -/
structure VAdmits (kd ka kb : FieldKind) (z : Bool) (t : TypeRule) (w : W32) : Prop where
  d : kd.bad (wD w) = false
  a : ka.bad (wA w) = false
  b : kb.bad (wB w) = false
  lits : litCount [kd.lit (wD w), ka.lit (wA w), kb.lit (wB w)] ≤ 1
  msel : z = true → vMsel w = 0
  ty : t.admitsV (vTyc w) = true

theorem vRow_eq_ok {kd ka kb : FieldKind} {z il re : Bool} {t : TypeRule} {w : W32} {rest : List W32} {i j : Instr} {n : Nat} :
    vRow kd ka kb z t il re w rest i = .ok j n ↔
      (il = false ∧ re = false ∧ VAdmits kd ka kb z t w ∧
        litCount [kd.lit (wD w), ka.lit (wA w), kb.lit (wB w)] ≤ rest.length) ∧
      j = i ∧ n = litCount [kd.lit (wD w), ka.lit (wA w), kb.lit (wB w)] + 1 := by
  rw [vRow, settle_eq_ok]
  refine and_congr_left fun _ => and_congr_right fun _ => ?_
  simp only [Bool.or_eq_false_iff, decide_eq_false_iff_not, not_lt]
  constructor
  · rintro ⟨⟨⟨⟨⟨⟨⟨hd, ha⟩, hb⟩, hl⟩, hm⟩, ht⟩, hr⟩, hf, hn⟩
    exact ⟨hr, ⟨hd, ha, hb, hl, by simpa using hm, admitsV_iff.2 ⟨ht, hf⟩⟩, hn⟩
  · rintro ⟨hr, h, hn⟩
    obtain ⟨ht, hf⟩ := admitsV_iff.1 h.ty
    exact ⟨⟨⟨⟨⟨⟨⟨h.d, h.a⟩, h.b⟩, h.lits⟩, by simpa using h.msel⟩, ht⟩, hr⟩, hf, hn⟩

theorem decVectorChecked_eq_ok {w : W32} {rest : List W32} {i : Instr} {n : Nat} :
    decVectorChecked w rest = .ok i n ↔ decVector w rest = .ok i n ∧ (wMaj w = 0x1C → vcvtBad w = false) ∧
      (wMaj w = 0x18 → vcmpBad w = false) := by
  unfold decVectorChecked
  cases decVector w rest with
  | bad c => simp
  | ok j m =>
    by_cases h1 : wMaj w = 0x1C <;> by_cases h2 : wMaj w = 0x18 <;> cases vcvtBad w <;> cases vcmpBad w <;> simp [h1, h2]

theorem decode_vector_plain {w : W32} {rest : List W32} {i : Instr} {n : Nat} (hm : wMaj w ≠ 0x1C ∧ wMaj w ≠ 0x18)
    (h : decVector w rest = .ok i n) : decode .vector (w :: rest) = .ok i n :=
  decVectorChecked_eq_ok.2 ⟨h, fun h => absurd h hm.1, fun h => absurd h hm.2⟩

/-! ### Words of format V put together -/

/-- A word of format V with these fields. -/
structure VWord (w : W32) (maj : BitVec 6) (d a b : BitVec 5) (msel : BitVec 3) (ty sub : BitVec 4) : Prop where
  maj : wMaj w = maj.toNat
  d : wD w = d
  a : wA w = a
  b : wB w = b
  msel : vMsel w = msel
  ty : vTyc w = ty
  sub : vSub w = sub

theorem decode_eV {st : Strm} {i : Instr} {maj : BitVec 6} {d a b : BitVec 5} {msel : BitVec 3} {ty sub : BitVec 4}
    {lit rest : List W32}
    (h : ∀ w, VWord w maj d a b msel ty sub → decode st (w :: (lit ++ rest)) = .ok i (lit.length + 1)) :
    decode st (eV maj d a b msel ty sub lit ++ rest) = .ok i (eV maj d a b msel ty sub lit).length :=
  h _ ⟨maj_V .., d_V .., a_V .., b_V .., msel_V .., ty_V .., sub_V ..⟩

/-- A field of this kind may hold the code, with these words of literal. -/
def FieldKind.Holds (k : FieldKind) (c : BitVec 5) (lit : List W32) : Prop :=
  k.bad c = false ∧ (k.lit c).toNat = lit.length

theorem holds_src (a : VSrc) : FieldKind.Holds .src a.code a.words := ⟨rfl, by simp [vwords_length]⟩
theorem holds_esrc (a : ESrc) : FieldKind.Holds .esrc a.code a.words := by
  refine ⟨?_, by simp [ewords_length]⟩
  cases a with
  | reg n => revert n; decide
  | lit v => rfl
theorem holds_dst (d : Reg) : FieldKind.Holds .dst (regCode d) [] := ⟨bad_regCode d, rfl⟩
theorem holds_zero : FieldKind.Holds .zero 0#5 [] := ⟨rfl, rfl⟩
theorem holds_any (c : BitVec 5) : FieldKind.Holds .any c [] := ⟨rfl, rfl⟩
theorem holds_lim {m : Nat} (hm : m ≤ 31) (n : Fin m) : FieldKind.Holds (.lim m) (BitVec.ofNat 5 n.val) [] :=
  ⟨bad_lim_val hm n, rfl⟩
theorem holds_mask {d : Fin 8} (hd : (d != 0) = true) : FieldKind.Holds .mask17 (BitVec.ofNat 5 d.val) [] := by
  refine ⟨?_, rfl⟩
  revert d; decide

/-- A row of format V takes the word and the literals of operands that its fields may hold. -/
theorem vRow_put {kd ka kb : FieldKind} {z il re : Bool} {t : TypeRule} {w : W32} {maj : BitVec 6} {d a b : BitVec 5}
    {msel : BitVec 3} {ty sub : BitVec 4} {ld la lb lit rest : List W32} {i j : Instr}
    (h : VWord w maj d a b msel ty sub) (hi : i = j) (hil : il = false) (hre : re = false)
    (hd : kd.Holds d ld) (ha : ka.Holds a la) (hb : kb.Holds b lb) (hlit : ld ++ la ++ lb = lit) (h1 : lit.length ≤ 1)
    (hz : z = true → msel = 0) (ht : t.admitsV ty = true) :
    vRow kd ka kb z t il re w (lit ++ rest) i = .ok j (lit.length + 1) := by
  have hlen : litCount [kd.lit (wD w), ka.lit (wA w), kb.lit (wB w)] = lit.length := by
    simp [h.d, h.a, h.b, hd.2, ha.2, hb.2, ← hlit]
  refine vRow_eq_ok.2 ⟨⟨hil, hre, ⟨h.d ▸ hd.1, h.a ▸ ha.1, h.b ▸ hb.1, hlen ▸ h1, h.msel ▸ hz, h.ty ▸ ht⟩, ?_⟩, hi.symm, ?_⟩
  · rw [hlen, List.length_append]; omega
  · rw [hlen]

/-! ### Operands read back -/

section
variable {w : W32} {maj : BitVec 6} {dc ac bc : BitVec 5} {mc : BitVec 3} {tyc subc : BitVec 4} {rest : List W32}

theorem VWord.regD {d : Reg} (h : VWord w maj (regCode d) ac bc mc tyc subc) : rD w = d := by rw [rD, h.d, regOf_regCode]
theorem VWord.regA {a : Reg} (h : VWord w maj dc (regCode a) bc mc tyc subc) : rA w = a := by rw [rA, h.a, regOf_regCode]
theorem VWord.regB {b : Reg} (h : VWord w maj dc ac (regCode b) mc tyc subc) : rB w = b := by rw [rB, h.b, regOf_regCode]
theorem VWord.type {ty : Ty} (h : VWord w maj dc ac bc mc ty.code subc) : vTy w = ty := by
  rw [vTy, h.ty, ofCode_code, Option.getD_some]
theorem VWord.mask {m : Fin 8} (h : VWord w maj dc ac bc (BitVec.ofNat 3 m.val) tyc subc) : vM w = m := by
  rw [vM, h.msel]; clear h; revert m; decide

theorem VWord.srcA {a : VSrc} (h : VWord w maj dc a.code bc mc tyc subc) : vA w (a.words ++ rest) = a := by
  rw [vA, h.a]; exact vSrc_words a [] rest fun _ => rfl
theorem VWord.srcB {b : VSrc} (h : VWord w maj dc ac b.code mc tyc subc) : vB w (b.words ++ rest) = b := by
  rw [vB, h.b]; exact vSrc_words b [] rest fun _ => rfl
theorem VWord.esrcA {a : ESrc} (h : VWord w maj dc a.code bc mc tyc subc) : eA w (a.words ++ rest) = a := by
  rw [eA, h.a]; exact eSrc_words a [] rest fun _ => rfl
theorem VWord.esrcB {b : ESrc} (h : VWord w maj dc ac b.code mc tyc subc) : eB w (b.words ++ rest) = b := by
  rw [eB, h.b]; exact eSrc_words b [] rest fun _ => rfl

theorem vwords_of_lit {a : VSrc} {l : Bool} (h : (!(a.isLit && l)) = true) (hl : l = true) : a.words = [] := by
  cases a <;> simp_all [VSrc.isLit, VSrc.words]
theorem ewords_of_lit {a : ESrc} {l : Bool} (h : (!(a.isLit && l)) = true) (hl : l = true) : a.words = [] := by
  cases a <;> simp_all [ESrc.isLit, ESrc.words]

theorem VWord.srcAB {a b : VSrc} (h : VWord w maj dc a.code b.code mc tyc subc) (hl : oneV a b = true) (rest : List W32) :
    vA w (a.words ++ b.words ++ rest) = a ∧ vB w (a.words ++ b.words ++ rest) = b := by
  rw [List.append_assoc, h.srcA, vB, h.b]
  exact ⟨rfl, vSrc_words b _ rest (vwords_of_lit hl)⟩
theorem VWord.srcDB {x b : VSrc} (h : VWord w maj x.code ac b.code mc tyc subc) (hl : oneV x b = true) (rest : List W32) :
    vD w (x.words ++ b.words ++ rest) = x ∧ vB w (x.words ++ b.words ++ rest) = b := by
  rw [List.append_assoc, vD, vB, h.d, h.b]
  exact ⟨vSrc_words x [] _ fun _ => rfl, vSrc_words b _ rest (vwords_of_lit hl)⟩
theorem VWord.srcD_esrcB {x : VSrc} {b : ESrc} (h : VWord w maj x.code ac b.code mc tyc subc) (hl : oneVE x b = true)
    (rest : List W32) : vD w (x.words ++ b.words ++ rest) = x ∧ eB w (x.words ++ b.words ++ rest) = b := by
  rw [List.append_assoc, vD, eB, h.d, h.b]
  exact ⟨vSrc_words x [] _ fun _ => rfl, eSrc_words b _ rest (vwords_of_lit hl)⟩
theorem VWord.esrcAB {a b : ESrc} (h : VWord w maj dc a.code b.code mc tyc subc) (hl : oneE a b = true) (rest : List W32) :
    eA w (a.words ++ b.words ++ rest) = a ∧ eB w (a.words ++ b.words ++ rest) = b := by
  rw [List.append_assoc, h.esrcA, eB, h.b]
  exact ⟨rfl, eSrc_words b _ rest (ewords_of_lit hl)⟩
end

theorem one_word_vv {a b : VSrc} (h : oneV a b = true) : (a.words ++ b.words).length ≤ 1 := by
  cases a <;> cases b <;> simp_all [oneV, VSrc.isLit, VSrc.words]
theorem one_word_ve {a : VSrc} {b : ESrc} (h : oneVE a b = true) : (a.words ++ b.words).length ≤ 1 := by
  cases a <;> cases b <;> simp_all [oneVE, VSrc.isLit, VSrc.words, ESrc.isLit, ESrc.words]
theorem one_word_ee {a b : ESrc} (h : oneE a b = true) : (a.words ++ b.words).length ≤ 1 := by
  cases a <;> cases b <;> simp_all [oneE, ESrc.isLit, ESrc.words]
theorem one_word_v (a : VSrc) : a.words.length ≤ 1 := by rw [vwords_length]; exact Bool.toNat_le _
theorem one_word_e (a : ESrc) : a.words.length ≤ 1 := by rw [ewords_length]; exact Bool.toNat_le _

/-! ### SUB read back -/

section
variable {w : W32} {maj : BitVec 6} {dc ac bc : BitVec 5} {mc : BitVec 3} {tyc subc : BitVec 4} {rest : List W32}

theorem VWord.plain (h : VWord w maj dc ac bc mc tyc 0#4) : vSubNe w 0 = false := by rw [vSubNe, h.sub]; rfl
theorem VWord.round {r : Round} (h : VWord w maj dc ac bc mc tyc r.code) :
    vRound w = r ∧ vHigh w = false ∧ vRoundBad w = false := by
  rw [vRound, vHigh, vBit, vRoundBad, h.sub]; cases r <;> decide
theorem VWord.bits {b3 b2 b1 b0 : Bool} (h : VWord w maj dc ac bc mc tyc (subBits b3 b2 b1 b0)) :
    vBit w 3 = b3 ∧ vBit w 2 = b2 ∧ vBit w 1 = b1 ∧ vBit w 0 = b0 := by
  simp only [vBit, h.sub]
  cases b3 <;> cases b2 <;> cases b1 <;> cases b0 <;> decide
theorem VWord.bit_low3 {u : Bool} {c : Fin 8} (h : VWord w maj dc ac bc mc tyc (BitVec.ofBool u ++ BitVec.ofNat 3 c.val)) :
    vBit w 3 = u ∧ vLow3 w = c := by
  simp only [vBit, vLow3, h.sub]
  clear h; revert u c; decide
theorem VWord.low2 {p : Fin 4} (h : VWord w maj dc ac bc mc tyc (BitVec.ofNat 4 p.val)) :
    vBit w 3 = false ∧ vBit w 2 = false ∧ vLow2 w = p := by
  simp only [vBit, vLow2, h.sub]
  clear h; revert p; decide
theorem VWord.ragged {pf : Bool} {k : Fin 4}
    (h : VWord w maj dc ac bc mc tyc (BitVec.ofBool true ++ BitVec.ofBool pf ++ BitVec.ofNat 2 k.val)) :
    vBit w 3 = true ∧ vBit w 2 = pf ∧ vLow2 w = k := by
  simp only [vBit, vLow2, h.sub]
  clear h; revert pf k; decide
theorem VWord.dir {g : Dir} {o : BitVec 2} (h : VWord w maj dc ac bc mc tyc (g.code ++ o)) :
    vDir w = g ∧ vLow2 w = o.toFin := by
  rw [vDir, vLow2, h.sub, extract_append_high _ o (by decide), extract_append_low _ o (by decide), extract_all, extract_all,
    ofCode_dirCode]
  exact ⟨rfl, rfl⟩
theorem VWord.dir_ok {g : Dir} {o : BitVec 2} {b : ESrc} (h : VWord w maj dc ac b.code mc tyc (g.code ++ o))
    (hg : (g.segmented || b == .reg 0) = true) : segBad w = false := by
  rw [segBad, h.dir.1, h.b]
  rcases Bool.or_eq_true_iff.1 hg with hg | hb
  · simp [hg]
  · rw [beq_iff_eq.1 hb]; exact Bool.and_false _
theorem VWord.round3 {du : Bool} {r : Round} (h : VWord w maj dc ac bc mc tyc (BitVec.ofBool du ++ r.code.setWidth 3)) :
    vBit w 3 = du ∧ vRound3 w = r ∧ vRound3Bad w = false := by
  rw [vBit, vRound3, vRound3Bad, h.sub]
  cases du <;> cases r <;> decide
theorem VWord.source {su : Bool} {sty : Ty} (h : VWord w maj dc ac (BitVec.ofBool su ++ sty.code) mc tyc subc) :
    (wB w).msb = su ∧ (wB w).extractLsb' 0 4 = sty.code ∧ vSty w = sty := by
  have hs : (wB w).extractLsb' 0 4 = sty.code := by rw [h.b, extract_append_low _ _ (by decide), extract_all]
  refine ⟨?_, hs, by rw [vSty, hs, ofCode_code, Option.getD_some]⟩
  rw [h.b, BitVec.msb_append]
  cases su <;> rfl
end

/-! ### Types -/

theorem admitsV_fl {ty : Ty} (h : ty.isFloat = true) : TypeRule.admitsV .fl ty.code = true := by
  cases ty with
  | f32 | bf16 | f16 => rfl
  | _ => exact absurd h Bool.false_ne_true
theorem admitsV_ints {ty : Ty} (h : (ty.isInt && ty != .i64) = true) : TypeRule.admitsV .ints ty.code = true := by
  cases ty with
  | i8 | i16 | i32 => rfl
  | _ => exact absurd h Bool.false_ne_true
theorem admitsV_fi {ty : Ty} (h : ((ty.isFloat || ty.isInt) && ty != .i64) = true) : TypeRule.admitsV .fi ty.code = true := by
  cases ty with
  | f32 | bf16 | f16 | i8 | i16 | i32 => rfl
  | _ => exact absurd h Bool.false_ne_true
theorem admitsV_any {ty : Ty} (h : (ty != .i64) = true) : TypeRule.admitsV .any ty.code = true := by
  cases ty with
  | fn n => revert n; decide
  | i64 => simp at h
  | _ => rfl
theorem admitsV_nar {ty : Ty} (h : decide (ty.code.toNat < 8) = true) : TypeRule.admitsV .nar ty.code = true := h
theorem isInt_eq_code (ty : Ty) : ty.isInt = decide (11 ≤ ty.code.toNat) := by
  cases ty with
  | fn n => revert n; decide
  | _ => rfl
theorem code_le_of_ne_i64 {ty : Ty} (h : (ty != .i64) = true) : ty.code.toNat ≤ 13 := by
  cases ty with
  | fn n => revert n; decide
  | i64 => simp at h
  | _ => decide
theorem admitsV_wide {ty : Ty} (h : (ty == .f32 || ty == .i32) = true) : TypeRule.admitsV .wide ty.code = true := by
  cases ty with
  | f32 | i32 => rfl
  | _ => exact absurd h Bool.false_ne_true

section
variable {w : W32} {maj : BitVec 6} {dc ac bc : BitVec 5} {mc : BitVec 3}

theorem VWord.vcmp_ok {u : Bool} {c : Fin 8} {ty : Ty}
    (h : VWord w maj dc ac bc mc ty.code (BitVec.ofBool u ++ BitVec.ofNat 3 c.val)) (hc : (!ty.isInt || decide (c.val < 6)) = true)
    (hu : (!u || ty.isInt) = true) : vcmpBad w = false := by
  rw [vcmpBad, h.bit_low3.1, h.bit_low3.2, h.ty]
  simp only [isInt_eq_code] at hc hu
  simp at hc hu ⊢
  exact ⟨fun h6 => by rcases hc with h | h <;> omega, fun hu' => by rcases hu with h | h <;> simp_all⟩
theorem VWord.vcvt_ok {su du : Bool} {sty ty : Ty} {r : Round}
    (h : VWord w maj dc ac (BitVec.ofBool su ++ sty.code) mc ty.code (BitVec.ofBool du ++ r.code.setWidth 3))
    (hsty : (sty != .i64) = true) (hs : (!su || sty.isInt) = true) (hd : (!du || ty.isInt) = true) : vcvtBad w = false := by
  have hle := code_le_of_ne_i64 hsty
  rw [vcvtBad, h.source.1, h.source.2.1, h.round3.1, h.ty]
  simp only [isInt_eq_code] at hs hd
  simp at hs hd ⊢
  exact ⟨⟨hle, fun h => hs.resolve_left (by simp [h])⟩, fun h => hd.resolve_left (by simp [h])⟩
end

end Sys2Proof
end

section
/-! PROOFS. Decode of encode in the vector stream (R21-R27, R50). -/

namespace Sys2Proof

set_option Elab.async false

theorem decode_encode_vector (i : Instr) (rest : List W32) (hs : i.stream = some .vector) (hw : i.wf = true) :
    decode .vector (encode i ++ rest) = .ok i (encode i).length := by
  cases i
  case vadd d a b m ty r | vsub d a b m ty r | vmul d a b m ty r | vfma d a b m ty r =>
    obtain ⟨hab, hty⟩ := Bool.and_eq_true_iff.1 hw
    refine decode_eV fun w h => decode_vector_plain (h.maj ▸ by decide) ?_
    obtain ⟨ha, hb⟩ := h.srcAB hab rest
    obtain ⟨hr, hi, hre⟩ := h.round
    unfold decVector
    rw [h.maj]
    exact vRow_put h (by rw [h.regD, ha, hb, h.mask, h.type, hr]) hi hre (holds_dst d) (holds_src a) (holds_src b) rfl
      (one_word_vv hab) nofun (admitsV_fl hty)
  case vmin d a b m ty | vmax d a b m ty =>
    obtain ⟨hab, hty⟩ := Bool.and_eq_true_iff.1 hw
    refine decode_eV fun w h => decode_vector_plain (h.maj ▸ by decide) ?_
    obtain ⟨ha, hb⟩ := h.srcAB hab rest
    unfold decVector
    rw [h.maj]
    exact vRow_put h (by rw [h.regD, ha, hb, h.mask, h.type]) h.plain rfl (holds_dst d) (holds_src a) (holds_src b) rfl
      (one_word_vv hab) nofun (admitsV_fl hty)
  case vand d a b m ty | vor d a b m ty | vxor d a b m ty | vshl d a b m ty | vshr d a b m ty | vsra d a b m ty =>
    obtain ⟨hab, hty⟩ := Bool.and_eq_true_iff.1 hw
    refine decode_eV fun w h => decode_vector_plain (h.maj ▸ by decide) ?_
    obtain ⟨ha, hb⟩ := h.srcAB hab rest
    unfold decVector
    rw [h.maj]
    exact vRow_put h (by rw [h.regD, ha, hb, h.mask, h.type]) h.plain rfl (holds_dst d) (holds_src a) (holds_src b) rfl
      (one_word_vv hab) nofun (admitsV_ints hty)
  case vsel d a b m ty =>
    obtain ⟨hab, hty, hm⟩ := and_three_iff.1 hw
    refine decode_eV fun w h => decode_vector_plain (h.maj ▸ by decide) ?_
    obtain ⟨ha, hb⟩ := h.srcAB hab rest
    unfold decVector
    rw [h.maj]
    exact vRow_put h (by rw [h.regD, ha, hb, h.mask, h.type]) h.plain (by simpa [h.mask] using hm) (holds_dst d) (holds_src a)
      (holds_src b) rfl (one_word_vv hab) nofun (admitsV_any hty)
  case viadd d a b m ty u s | visub d a b m ty u s | vimul d a b m ty u s | vimad d a b m ty u s =>
    obtain ⟨hab, hty⟩ := Bool.and_eq_true_iff.1 hw
    refine decode_eV fun w h => decode_vector_plain (h.maj ▸ by decide) ?_
    obtain ⟨ha, hb⟩ := h.srcAB hab rest
    obtain ⟨h3, h2, h1, h0⟩ := h.bits
    unfold decVector
    rw [h.maj, h3, h2, h1, h0]
    exact vRow_put h (by rw [h.regD, ha, hb, h.mask, h.type]) rfl rfl (holds_dst d) (holds_src a) (holds_src b) rfl
      (one_word_vv hab) nofun (admitsV_ints hty)
  case vimin d a b m ty u | vimax d a b m ty u =>
    obtain ⟨hab, hty⟩ := Bool.and_eq_true_iff.1 hw
    refine decode_eV fun w h => decode_vector_plain (h.maj ▸ by decide) ?_
    obtain ⟨ha, hb⟩ := h.srcAB hab rest
    obtain ⟨h3, h2, h1, h0⟩ := h.bits
    unfold decVector
    rw [h.maj, h3, h2, h1, h0]
    exact vRow_put h (by rw [h.regD, ha, hb, h.mask, h.type]) rfl rfl (holds_dst d) (holds_src a) (holds_src b) rfl
      (one_word_vv hab) nofun (admitsV_ints hty)
  case vcmp d a b m ty u c =>
    obtain ⟨hmain, hc, hu⟩ := and_three_iff.1 hw
    obtain ⟨hab, hty, hd⟩ := and_three_iff.1 hmain
    refine decode_eV fun w h => decVectorChecked_eq_ok.2 ⟨?_, fun hm => absurd (h.maj.symm.trans hm) (by decide),
      fun _ => h.vcmp_ok hc hu⟩
    obtain ⟨ha, hb⟩ := h.srcAB hab rest
    obtain ⟨h3, h2⟩ := h.bit_low3
    unfold decVector
    rw [h.maj]
    exact vRow_put h (by rw [h.d, fin8_ofNat, ha, hb, h.mask, h.type, h3, h2]) rfl rfl (holds_mask hd) (holds_src a)
      (holds_src b) rfl (one_word_vv hab) nofun (admitsV_fi hty)
  case vexp2 d a m ty | vlog2 d a m ty | vrcp d a m ty | vrsq d a m ty | vtanh d a m ty =>
    refine decode_eV fun w h => decode_vector_plain (h.maj ▸ by decide) ?_
    unfold decVector
    rw [h.maj]
    exact vRow_put h (by rw [h.regD, h.srcA, h.mask, h.type]) h.plain rfl (holds_dst d) (holds_src a) holds_zero
      (List.append_nil _) (one_word_v a) nofun (admitsV_fl hw)
  case vrnd d a m ty r =>
    obtain ⟨hty, hr4⟩ := Bool.and_eq_true_iff.1 hw
    refine decode_eV fun w h => decode_vector_plain (h.maj ▸ by decide) ?_
    obtain ⟨hr, hi, hre⟩ := h.round
    have h4 : vSubIs w 4 = false := by rw [vSubIs, h.sub]; revert hr4; clear * -; cases r <;> decide
    unfold decVector
    rw [h.maj, hre, h4]
    exact vRow_put h (by rw [h.regD, h.srcA, h.mask, h.type, hr]) hi rfl (holds_dst d) (holds_src a) holds_zero
      (List.append_nil _) (one_word_v a) nofun (admitsV_fl hty)
  case vmov d a m ty =>
    refine decode_eV fun w h => decode_vector_plain (h.maj ▸ by decide) ?_
    unfold decVector decVector28
    rw [h.maj, h.sub]
    exact vRow_put h (by rw [h.regD, h.srcA, h.mask, h.type]) rfl rfl (holds_dst d) (holds_src a) holds_zero
      (List.append_nil _) (one_word_v a) nofun (admitsV_any hw)
  case vmovIns d a b ty =>
    obtain ⟨hty, hab⟩ := Bool.and_eq_true_iff.1 hw
    refine decode_eV fun w h => decode_vector_plain (h.maj ▸ by decide) ?_
    obtain ⟨ha, hb⟩ := h.esrcAB hab rest
    unfold decVector decVector28
    rw [h.maj, h.sub]
    exact vRow_put h (by rw [h.regD, ha, hb, h.type]) rfl rfl (holds_dst d) (holds_esrc a) (holds_esrc b) rfl
      (one_word_ee hab) (fun _ => rfl) (admitsV_any hty)
  case vmovExt d a b ty =>
    refine decode_eV fun w h => decode_vector_plain (h.maj ▸ by decide) ?_
    unfold decVector decVector28
    rw [h.maj, h.sub]
    exact vRow_put h (by rw [h.d, fin8_ofNat, h.regA, h.esrcB, h.type]) rfl rfl (holds_lim (by decide) d) (holds_dst a)
      (holds_esrc b) rfl (one_word_e b) (fun _ => rfl) (admitsV_any hw)
  case vsplat d a m ty =>
    refine decode_eV fun w h => decode_vector_plain (h.maj ▸ by decide) ?_
    unfold decVector decVector29
    rw [h.maj, h.sub]
    exact vRow_put h (by rw [h.regD, h.esrcA, h.mask, h.type]) rfl rfl (holds_dst d) (holds_esrc a) holds_zero
      (List.append_nil _) (one_word_e a) nofun (admitsV_any hw)
  case vsplatRow d a m ty | vsplatCol d a m ty | vxpose d a m ty =>
    refine decode_eV fun w h => decode_vector_plain (h.maj ▸ by decide) ?_
    unfold decVector decVector29
    rw [h.maj, vSubNe, h.sub]
    exact vRow_put h (by rw [h.regD, h.regA, h.mask, h.type]) rfl rfl (holds_dst d) (holds_dst a) holds_zero
      rfl (Nat.zero_le 1) nofun (admitsV_any hw)
  case vmopAnd d a b | vmopOr d a b | vmopXor d a b | vmopAndn d a b =>
    refine decode_eV fun w h => decode_vector_plain (h.maj ▸ by decide) ?_
    unfold decVector decVector1A
    rw [h.maj, h.sub]
    exact vRow_put h (by rw [h.d, h.a, h.b, fin8_ofNat, fin8_ofNat, fin8_ofNat]) rfl rfl (holds_mask hw)
      (holds_lim (by decide) a) (holds_lim (by decide) b) rfl (Nat.zero_le 1) (fun _ => rfl) rfl
  case vmopNot d a | vmopCopy d a =>
    refine decode_eV fun w h => decode_vector_plain (h.maj ▸ by decide) ?_
    unfold decVector decVector1A
    rw [h.maj, h.sub]
    exact vRow_put h (by rw [h.d, h.a, fin8_ofNat, fin8_ofNat]) rfl rfl (holds_mask hw)
      (holds_lim (by decide) a) holds_zero rfl (Nat.zero_le 1) (fun _ => rfl) rfl
  case vmopOnes d | vmopZeros d =>
    refine decode_eV fun w h => decode_vector_plain (h.maj ▸ by decide) ?_
    unfold decVector decVector1A
    rw [h.maj, h.sub]
    exact vRow_put h (by rw [h.d, fin8_ofNat]) rfl rfl (holds_mask hw) holds_zero holds_zero rfl (Nat.zero_le 1)
      (fun _ => rfl) rfl
  case vmpop d a | vmpopFirst d a | vasetRd d a =>
    refine decode_eV fun w h => decode_vector_plain (h.maj ▸ by decide) ?_
    unfold decVector decVector1B decVector34
    rw [h.maj, h.sub]
    exact vRow_put h (by rw [h.d, h.a, fin8_ofNat, fin8_ofNat]) rfl rfl (holds_lim (by decide) d)
      (holds_lim (by decide) a) holds_zero rfl (Nat.zero_le 1) (fun _ => rfl) rfl
  case vcvt d a sty su m ty du r =>
    obtain ⟨htys, hsu, hdu⟩ := and_three_iff.1 hw
    obtain ⟨hty, hsty⟩ := Bool.and_eq_true_iff.1 htys
    refine decode_eV fun w h => decVectorChecked_eq_ok.2 ⟨?_, fun _ => h.vcvt_ok hsty hsu hdu,
      fun hm => absurd (h.maj.symm.trans hm) (by decide)⟩
    obtain ⟨h3, hr, hre⟩ := h.round3
    obtain ⟨hs, -, hst⟩ := h.source
    unfold decVector
    rw [h.maj]
    exact vRow_put h (by rw [h.regD, h.regA, hst, hs, h.mask, h.type, h3, hr]) rfl hre (holds_dst d) (holds_dst a)
      (holds_any _) rfl (Nat.zero_le 1) nofun (admitsV_any hty)
  case vquant d a s m ty r =>
    obtain ⟨hty, hne⟩ := Bool.and_eq_true_iff.1 hw
    refine decode_eV fun w h => decode_vector_plain (h.maj ▸ by decide) ?_
    obtain ⟨hr, hi, hre⟩ := h.round
    have hsd : (wB w == wD w) = false := by rw [h.b, h.d]; revert hne; clear * -; revert s d; decide
    unfold decVector
    rw [h.maj, hre, hsd]
    exact vRow_put h (by rw [h.regD, h.regA, h.regB, h.mask, h.type, hr]) hi rfl (holds_dst d) (holds_dst a) (holds_dst s)
      rfl (Nat.zero_le 1) nofun (admitsV_nar hty)
  case vdeq d a s m ty =>
    refine decode_eV fun w h => decode_vector_plain (h.maj ▸ by decide) ?_
    unfold decVector
    rw [h.maj]
    exact vRow_put h (by rw [h.regD, h.regA, h.regB, h.mask, h.type]) h.plain rfl (holds_dst d) (holds_dst a) (holds_dst s)
      rfl (Nat.zero_le 1) nofun (admitsV_nar hw)
  case vsacc d a s m =>
    refine decode_eV fun w h => decode_vector_plain (h.maj ▸ by decide) ?_
    unfold decVector
    rw [h.maj]
    exact vRow_put h (by rw [h.regD, h.regA, h.regB, h.mask]) h.plain rfl (holds_dst d) (holds_dst a) (holds_dst s)
      rfl (Nat.zero_le 1) nofun rfl
  case vld d a b m ty p =>
    refine decode_eV fun w h => decode_vector_plain (h.maj ▸ by decide) ?_
    obtain ⟨h3, h2, hp⟩ := h.low2
    unfold decVector decVector21
    rw [h.maj, h3, h2]
    exact vRow_put h (by rw [h.regD, h.a, fin8_ofNat, h.esrcB, h.mask, h.type, hp]) rfl rfl (holds_dst d)
      (holds_lim (by decide) a) (holds_esrc b) rfl (one_word_e b) nofun (admitsV_any hw)
  case vldRagged d a b m ty pf k =>
    refine decode_eV fun w h => decode_vector_plain (h.maj ▸ by decide) ?_
    obtain ⟨h3, h2, hk⟩ := h.ragged
    unfold decVector decVector21
    rw [h.maj, h3, h2]
    exact vRow_put h (by rw [h.regD, h.a, fin8_ofNat, h.esrcB, h.mask, h.type, hk]) rfl rfl (holds_dst d)
      (holds_lim (by decide) a) (holds_esrc b) rfl (one_word_e b) nofun (admitsV_any hw)
  case vst x a b m ty p =>
    obtain ⟨hty, hxb⟩ := Bool.and_eq_true_iff.1 hw
    refine decode_eV fun w h => decode_vector_plain (h.maj ▸ by decide) ?_
    obtain ⟨h3, h2, hp⟩ := h.low2
    obtain ⟨hx, hb⟩ := h.srcD_esrcB hxb rest
    unfold decVector decVector22
    rw [h.maj, h3, h2]
    exact vRow_put h (by rw [hx, h.a, fin8_ofNat, hb, h.mask, h.type, hp]) rfl rfl (holds_src x)
      (holds_lim (by decide) a) (holds_esrc b) (by rw [List.append_nil]) (one_word_ve hxb) nofun (admitsV_any hty)
  case vstRagged x a b m ty pf k =>
    obtain ⟨hty, hxb⟩ := Bool.and_eq_true_iff.1 hw
    refine decode_eV fun w h => decode_vector_plain (h.maj ▸ by decide) ?_
    obtain ⟨h3, h2, hk⟩ := h.ragged
    obtain ⟨hx, hb⟩ := h.srcD_esrcB hxb rest
    unfold decVector decVector22
    rw [h.maj, h3, h2]
    exact vRow_put h (by rw [hx, h.a, fin8_ofNat, hb, h.mask, h.type, hk]) rfl rfl (holds_src x)
      (holds_lim (by decide) a) (holds_esrc b) (by rw [List.append_nil]) (one_word_ve hxb) nofun (admitsV_any hty)
  case vldb d a m ty | vldbPf d a m ty =>
    refine decode_eV fun w h => decode_vector_plain (h.maj ▸ by decide) ?_
    unfold decVector decVector23
    rw [h.maj, h.sub]
    exact vRow_put h (by rw [h.regD, h.a, fin8_ofNat, h.mask, h.type]) rfl rfl (holds_dst d)
      (holds_lim (by decide) a) holds_zero rfl (Nat.zero_le 1) nofun (admitsV_any hw)
  case vgath d a b m ty sc =>
    refine decode_eV fun w h => decode_vector_plain (h.maj ▸ by decide) ?_
    obtain ⟨h3, h2, h1, h0⟩ := h.bits
    unfold decVector
    rw [h.maj, h3, h2, h1, h0]
    exact vRow_put h (by rw [h.regD, h.a, fin8_ofNat, h.srcB, h.mask, h.type]) rfl rfl (holds_dst d)
      (holds_lim (by decide) a) (holds_src b) rfl (one_word_v b) nofun (admitsV_any hw)
  case vscat x a b m ty sc =>
    obtain ⟨hty, hxb⟩ := Bool.and_eq_true_iff.1 hw
    refine decode_eV fun w h => decode_vector_plain (h.maj ▸ by decide) ?_
    obtain ⟨h3, h2, h1, h0⟩ := h.bits
    obtain ⟨hx, hb⟩ := h.srcDB hxb rest
    unfold decVector
    rw [h.maj, h3, h2, h1, h0]
    exact vRow_put h (by rw [hx, h.a, fin8_ofNat, hb, h.mask, h.type]) rfl rfl (holds_src x)
      (holds_lim (by decide) a) (holds_src b) (by rw [List.append_nil]) (one_word_vv hxb) nofun (admitsV_any hty)
  case vtrd d t b m ty =>
    refine decode_eV fun w h => decode_vector_plain (h.maj ▸ by decide) ?_
    unfold decVector
    rw [h.maj]
    exact vRow_put h (by rw [h.regD, h.a, fin4_ofNat, h.esrcB, h.mask, h.type]) h.plain rfl (holds_dst d)
      (holds_lim (by decide) t) (holds_esrc b) rfl (one_word_e b) nofun (admitsV_wide hw)
  case vtrel t =>
    refine decode_eV fun w h => decode_vector_plain (h.maj ▸ by decide) ?_
    unfold decVector
    rw [h.maj]
    exact vRow_put h (by rw [h.a, fin4_ofNat]) h.plain rfl holds_zero (holds_lim (by decide) t) holds_zero rfl
      (Nat.zero_le 1) (fun _ => rfl) rfl
  case veop a =>
    refine decode_eV fun w h => decode_vector_plain (h.maj ▸ by decide) ?_
    unfold decVector
    rw [h.maj]
    exact vRow_put h (by rw [h.a, fin8_ofNat]) h.plain rfl holds_zero (holds_lim (by decide) a) holds_zero rfl
      (Nat.zero_le 1) (fun _ => rfl) rfl
  case vend | vnop =>
    refine decode_eV fun w h => decode_vector_plain (h.maj ▸ by decide) ?_
    unfold decVector
    rw [h.maj]
    exact vRow_put h rfl h.plain rfl holds_zero holds_zero holds_zero rfl (Nat.zero_le 1) (fun _ => rfl) rfl
  case vtokr d f =>
    refine decode_eV fun w h => decode_vector_plain (h.maj ▸ by decide) ?_
    have hf : decide (6 ≤ (vSub w).toNat) = false := by rw [h.sub]; clear * -; revert f; decide
    unfold decVector
    rw [h.maj]
    exact vRow_put h (by rw [h.d, h.sub, fin8_ofNat, fin6_ofNat]) hf rfl (holds_lim (by decide) d) holds_zero holds_zero rfl
      (Nat.zero_le 1) (fun _ => rfl) rfl
  case vshape a =>
    refine decode_eV fun w h => decode_vector_plain (h.maj ▸ by decide) ?_
    unfold decVector decVector2A
    rw [h.maj, h.sub]
    exact vRow_put h (by rw [h.esrcA]) rfl rfl holds_zero (holds_esrc a) holds_zero
      (List.append_nil _) (one_word_e a) (fun _ => rfl) rfl
  case vshapeRd d =>
    refine decode_eV fun w h => decode_vector_plain (h.maj ▸ by decide) ?_
    unfold decVector decVector2A
    rw [h.maj, h.sub]
    exact vRow_put h (by rw [h.d, fin8_ofNat]) rfl rfl (holds_lim (by decide) d) holds_zero holds_zero rfl
      (Nat.zero_le 1) (fun _ => rfl) rfl
  case vperm d a b m ty | vpermRows d a b m ty =>
    refine decode_eV fun w h => decode_vector_plain (h.maj ▸ by decide) ?_
    unfold decVector decVector2B
    rw [h.maj, h.sub]
    exact vRow_put h (by rw [h.regD, h.regA, h.srcB, h.mask, h.type]) rfl rfl (holds_dst d) (holds_dst a)
      (holds_src b) rfl (one_word_v b) nofun (admitsV_any hw)
  case vslide d a b m ty | vslideRot d a b m ty | vslideFlat d a b m ty =>
    refine decode_eV fun w h => decode_vector_plain (h.maj ▸ by decide) ?_
    unfold decVector decVector2D
    rw [h.maj, h.sub]
    exact vRow_put h (by rw [h.regD, h.regA, h.esrcB, h.mask, h.type]) rfl rfl (holds_dst d) (holds_dst a)
      (holds_esrc b) rfl (one_word_e b) nofun (admitsV_any hw)
  case vredAdd d a b m ty g | vredMax d a b m ty g | vredMin d a b m ty g | vscanAdd d a b m ty g | vscanMax d a b m ty g
      | vscanMin d a b m ty g =>
    obtain ⟨hty, hg⟩ := Bool.and_eq_true_iff.1 hw
    refine decode_eV fun w h => decode_vector_plain (h.maj ▸ by decide) ?_
    obtain ⟨hdir, hlow⟩ := h.dir
    unfold decVector decVector2E decVector30
    rw [h.maj, hlow, h.dir_ok hg]
    exact vRow_put h (by rw [h.regD, h.regA, h.esrcB, h.mask, h.type, hdir]) rfl rfl (holds_dst d) (holds_dst a)
      (holds_esrc b) rfl (one_word_e b) nofun (admitsV_fi hty)
  case vnormMs d a b m ty g | vnormRms d a b m ty g =>
    obtain ⟨hty, hg⟩ := Bool.and_eq_true_iff.1 hw
    refine decode_eV fun w h => decode_vector_plain (h.maj ▸ by decide) ?_
    obtain ⟨hdir, hlow⟩ := h.dir
    unfold decVector decVector31
    rw [h.maj, hlow, h.dir_ok hg]
    exact vRow_put h (by rw [h.regD, h.regA, h.esrcB, h.mask, h.type, hdir]) rfl rfl (holds_dst d) (holds_dst a)
      (holds_esrc b) rfl (one_word_e b) nofun (admitsV_fl hty)
  case vridxMax d a b m ty g | vridxMin d a b m ty g =>
    obtain ⟨hty, hg, hd⟩ := and_three_iff.1 hw
    refine decode_eV fun w h => decode_vector_plain (h.maj ▸ by decide) ?_
    obtain ⟨hdir, hlow⟩ := h.dir
    have hd30 : (wD w == 30) = false := by rw [h.d]; clear * - hd; revert d; decide
    unfold decVector decVector2F
    rw [h.maj, hlow, h.dir_ok hg, hd30]
    exact vRow_put h (by rw [h.regD, h.regA, h.esrcB, h.mask, h.type, hdir]) rfl rfl (holds_dst d) (holds_dst a)
      (holds_esrc b) rfl (one_word_e b) nofun (admitsV_wide hty)
  case vsmax d a b m ty g =>
    obtain ⟨hty, hg⟩ := Bool.and_eq_true_iff.1 hw
    refine decode_eV fun w h => decode_vector_plain (h.maj ▸ by decide) ?_
    have hlow : (vBit w 0 || vBit w 1) = false := by simp only [vBit, h.sub]; clear * -; cases g <;> decide
    unfold decVector
    rw [h.maj, hlow, h.dir_ok hg]
    exact vRow_put h (by rw [h.regD, h.regA, h.esrcB, h.mask, h.type, h.dir.1]) rfl rfl (holds_dst d) (holds_dst a)
      (holds_esrc b) rfl (one_word_e b) nofun (admitsV_fl hty)
  case vhad d a m ty n k =>
    obtain ⟨hty, hk⟩ := Bool.and_eq_true_iff.1 hw
    refine decode_eV fun w h => decode_vector_plain (h.maj ▸ by decide) ?_
    obtain ⟨hn, hlow⟩ := h.bit_low3
    unfold decVector
    rw [h.maj]
    exact vRow_put h (by rw [h.regD, h.regA, h.mask, h.type, hn, hlow]) (by simpa [hlow] using hk) rfl (holds_dst d) (holds_dst a)
      holds_zero rfl (Nat.zero_le 1) nofun (admitsV_fl hty)
  case vaset n a | vasetWst n a | vasetWlen n a | vlit n a | vlitAdd n a | vlitSub n a =>
    refine decode_eV fun w h => decode_vector_plain (h.maj ▸ by decide) ?_
    unfold decVector decVector34 decVector3B
    rw [h.maj, h.sub]
    exact vRow_put h (by rw [h.d, fin8_ofNat, h.esrcA]) rfl rfl (holds_lim (by decide) n) (holds_esrc a) holds_zero
      (List.append_nil _) (one_word_e a) (fun _ => rfl) rfl
  case vaadd n a =>
    refine decode_eV fun w h => decode_vector_plain (h.maj ▸ by decide) ?_
    unfold decVector
    rw [h.maj]
    exact vRow_put h (by rw [h.d, fin8_ofNat, h.esrcA]) h.plain rfl (holds_lim (by decide) n) (holds_esrc a) holds_zero
      (List.append_nil _) (one_word_e a) (fun _ => rfl) rfl
  case vchk a b =>
    refine decode_eV fun w h => decode_vector_plain (h.maj ▸ by decide) ?_
    unfold decVector decVector3A
    rw [h.maj, h.sub]
    exact vRow_put h (by rw [h.regA, h.esrcB]) rfl rfl holds_zero (holds_dst a) (holds_esrc b) rfl (one_word_e b)
      (fun _ => rfl) rfl
  case vchkRd d a =>
    refine decode_eV fun w h => decode_vector_plain (h.maj ▸ by decide) ?_
    unfold decVector decVector3A
    rw [h.maj, h.sub]
    exact vRow_put h (by rw [h.d, fin8_ofNat, h.regA]) rfl rfl (holds_lim (by decide) d) (holds_dst a) holds_zero rfl
      (Nat.zero_le 1) (fun _ => rfl) rfl
  all_goals cases hs

end Sys2Proof
end

section
/-! PROOFS. Decode of encode in the stream of the sequencers (R21-R27, R50). -/

namespace Sys2Proof

set_option Elab.async false

theorem badPercoSys_eq_false {w : W32} {r : BitVec 12} (h : wImm w = (0 : BitVec 4) ++ r) (hr : percoSysNum r.toNat = true) :
    badPercoSys w = false := by
  rw [badPercoSys, sys_of_imm h, hr, h]
  simpa using imm_sys_lt r

theorem GWord.wideB_eq_false {w : W32} {maj sub : BitVec 6} {d : BitVec 5} {a b : Src} {W : Bool} {ty : BitVec 4}
    (h : GWord w maj d a.code b.code W ty sub) (hl : oneLit a b = true) (hW : W = (a.isWide || b.isWide))
    (hb : b.isWide = false) : wideB w = false := by
  have hlit := (oneLit_iff a b).1 hl
  have hw1 : (wW w == 1) = W := h.wide
  rw [wideB, hw1, h.b, hW, hb]
  have hbl : (b.code == 31) = b.isLit := code_beq_lit b
  rw [hbl]
  rcases hlit with ha | hb'
  · rw [wide_of_not_lit ha]; rfl
  · rw [hb', Bool.and_false]

theorem oneLit_narrow_iff {a b : Src} : (oneLit a b && !b.isWide) = true ↔ oneLit a b = true ∧ b.isWide = false := by simp

theorem decode_encode_perco (i : Instr) (rest : List W32) (hs : i.stream = some .perco) (hw : i.wf = true) :
    decode .perco (encode i ++ rest) = .ok i (encode i).length := by
  cases i
  case percoAdd d a b ty | percoSub d a b ty | percoMul d a b ty | percoAnd d a b ty | percoOr d a b ty | percoXor d a b ty
      | percoShl d a b ty | percoShr d a b ty | percoMin d a b ty | percoMax d a b ty | percoMinUnsigned d a b ty
      | percoMaxUnsigned d a b ty =>
    obtain ⟨hab, hwd, hty⟩ := and_three_iff.1 hw
    refine decode_eG fun w h => ?_
    obtain ⟨ha, hb⟩ := h.two hab rfl rest
    rw [decode_perco]
    unfold decPerco decPerco01
    rw [h.maj, h.sub]
    exact gRow_two h (by rw [h.reg, ha, hb, h.type]) rfl (regCode_ne_lit d) (bad_regCode d) hab rfl
      (admits_of_wide64 hwd) (admitsG_ints hty)
  case percoRatomAdd d a b ty | percoRatomAnd d a b ty | percoRatomOr d a b ty | percoRatomXor d a b ty
      | percoRatomMin d a b ty | percoRatomMax d a b ty | percoRatomMinu d a b ty | percoRatomMaxu d a b ty
      | percoRatomSwap d a b ty | percoRatomCas d a b ty =>
    obtain ⟨hab, hwd, hty⟩ := and_three_iff.1 hw
    refine decode_eG fun w h => ?_
    obtain ⟨ha, hb⟩ := h.two hab rfl rest
    rw [decode_perco]
    unfold decPerco decPerco23
    rw [h.maj, h.sub]
    exact gRow_two h (by rw [h.reg, ha, hb, h.type]) rfl (regCode_ne_lit d) (bad_regCode d) hab rfl
      (admits_of_wide64 hwd) (admitsG_word hty)
  case publish a b sc | semadd a b sc | percoSemwait a b sc =>
    obtain ⟨hab, hb⟩ := oneLit_narrow_iff.1 hw
    refine decode_eG fun w h => ?_
    obtain ⟨hsa, hsb⟩ := h.two hab rfl rest
    rw [decode_perco]
    unfold decPerco
    rw [h.maj, h.scope_ok, h.wideB_eq_false hab rfl hb]
    exact gRow_two h (by rw [hsa, hsb, h.scope]) rfl (by decide) rfl hab rfl (fun _ => rfl) rfl
  case tlbinv a b | tlbinvCtx a b =>
    obtain ⟨hab, hb⟩ := oneLit_narrow_iff.1 hw
    refine decode_eG fun w h => ?_
    obtain ⟨hsa, hsb⟩ := h.two hab rfl rest
    rw [decode_perco]
    unfold decPerco decPerco28
    rw [h.maj, h.sub]
    exact gRow_two h (by rw [hsa, hsb]) (h.wideB_eq_false hab rfl hb) (by decide) rfl hab rfl (fun _ => rfl) rfl
  case mapchk d a b sup wr =>
    obtain ⟨hab, hb⟩ := oneLit_narrow_iff.1 hw
    refine decode_eG fun w h => ?_
    obtain ⟨hsa, hsb⟩ := h.two hab rfl rest
    have h1 : (wSub w).getLsbD 1 = sup := by rw [h.sub]; cases sup <;> cases wr <;> rfl
    have h0 : (wSub w).getLsbD 0 = wr := by rw [h.sub]; cases sup <;> cases wr <;> rfl
    rw [decode_perco]
    unfold decPerco
    rw [h.maj]
    refine below_eq_ok.2 ⟨h.sub_lt (by cases sup <;> cases wr <;> decide), ?_⟩
    exact gRow_two h (by rw [h.reg, hsa, hsb, h1, h0]) (h.wideB_eq_false hab rfl hb) (regCode_ne_lit d) (bad_regCode d) hab rfl
      (fun _ => rfl) rfl
  case copy a sy | gath a sy | scat a sy | xpose a sy | conv a sy | infl a sy | mcast a sy | red a sy | fill a sy
      | nest a sy =>
    refine decode_eG fun w h => ?_
    rw [decode_perco]
    unfold decPerco
    rw [h.maj]
    refine below_eq_ok.2 ⟨h.flag_lt, ?_⟩
    exact gRow_one h (by rw [h.one rfl, h.flag]) rfl (by decide) rfl rfl (fun _ => rfl) rfl
  case wakea a sc =>
    refine decode_eG fun w h => ?_
    rw [decode_perco]
    unfold decPerco
    rw [h.maj]
    exact gRow_one h (by rw [h.one rfl, h.scope]) h.scope_ok (by decide) rfl rfl (fun _ => rfl) rfl
  case percoFence a sc =>
    have ha := narrow_iff.1 hw
    refine decode_eG fun w h => ?_
    rw [decode_perco]
    unfold decPerco
    rw [h.maj]
    exact gRow_one h (by rw [h.one ha.symm, h.scope]) h.scope_ok (by decide) rfl ha.symm nofun rfl
  case abort d a | seqst d a | killctx d a =>
    have ha := narrow_iff.1 hw
    refine decode_eG fun w h => ?_
    rw [decode_perco]
    unfold decPerco
    rw [h.maj]
    refine below_eq_ok.2 ⟨h.sub_lt (by decide), ?_⟩
    exact gRow_one h (by rw [h.reg, h.one ha.symm]) rfl (regCode_ne_lit d) (bad_regCode d) ha.symm nofun rfl
  case resume d a | resumeDrop d a =>
    have ha := narrow_iff.1 hw
    refine decode_eG fun w h => ?_
    rw [decode_perco]
    unfold decPerco decPerco2A
    rw [h.maj, h.sub]
    exact gRow_one h (by rw [h.reg, h.one ha.symm]) rfl (regCode_ne_lit d) (bad_regCode d) ha.symm nofun rfl
  case percoRet | percoHalt | percoNop =>
    refine decode_eG fun w h => ?_
    rw [decode_perco]
    unfold decPerco
    rw [h.maj]
    refine below_eq_ok.2 ⟨h.sub_lt (by decide), ?_⟩
    exact gRow_none h rfl rfl (by decide) rfl (by decide) rfl
  case tlbinvAll =>
    refine decode_eG fun w h => ?_
    rw [decode_perco]
    unfold decPerco decPerco28
    rw [h.maj, h.sub]
    exact gRow_none h rfl rfl (by decide) rfl (by decide) rfl
  case percoLi d v =>
    refine decode_eI fun w h => ?_
    rw [decode_perco]
    unfold decPerco
    rw [h.maj]
    exact liRow_put h (by rw [rD_code h.d, h.li])
  case percoBeq x y ofs | percoBne x y ofs | percoBlt x y ofs | percoBge x y ofs =>
    obtain ⟨hl, hx, hy⟩ := narrow_two_iff.1 hw
    refine decode_eI fun w h => ?_
    obtain ⟨hnx, hny⟩ := nD_nA_words (rest := rest) h.d h.a hl hx hy
    rw [decode_perco]
    unfold decPerco
    rw [h.maj]
    exact iRow_two (by rw [hnx, hny, h.imm]) h.d h.a hl rfl hx hy
  case percoLoop a imm =>
    have ha := narrow_iff.1 hw
    refine decode_eI fun w h => ?_
    rw [decode_perco]
    unfold decPerco
    rw [h.maj]
    exact iRow_one (by rw [nA_words h.a ha, h.imm]) h.d (by decide) rfl h.a rfl ha
  case percoTrap imm =>
    refine decode_eI fun w h => ?_
    rw [decode_perco]
    unfold decPerco
    rw [h.maj]
    exact iRow_none (by rw [h.imm]) h.d (by decide) rfl h.a rfl
  case percoSysrd d r =>
    refine decode_eI fun w h => ?_
    rw [decode_perco]
    unfold decPerco
    rw [h.maj]
    exact iRow_none (by rw [rD_code h.d, sys_of_imm h.imm]) h.d (regCode_ne_lit d) (bad_regCode d) h.a
      (badPercoSys_eq_false h.imm hw)
  case percoSyswr a r =>
    obtain ⟨hn, hr⟩ := Bool.and_eq_true_iff.1 hw
    have ha := narrow_iff.1 hn
    refine decode_eI fun w h => ?_
    rw [decode_perco]
    unfold decPerco
    rw [h.maj]
    exact iRow_one (by rw [nA_words h.a ha, sys_of_imm h.imm]) h.d (by decide) rfl h.a (badPercoSys_eq_false h.imm hr) ha
  case percoLd d a size ofs =>
    have ha := narrow_iff.1 hw
    refine decode_eM fun w h => ?_
    rw [decode_perco]
    unfold decPerco
    rw [h.maj, h.cls]
    exact iRow_one (by rw [rD_code h.d, nA_words h.a ha, h.size, h.ofs]) h.d (regCode_ne_lit d) (bad_regCode d) h.a rfl ha
  case percoSt x a size ofs =>
    obtain ⟨hl, hx, ha⟩ := narrow_two_iff.1 hw
    refine decode_eM fun w h => ?_
    obtain ⟨hnx, hna⟩ := nD_nA_words (rest := rest) h.d h.a hl hx ha
    rw [decode_perco]
    unfold decPerco
    rw [h.maj, h.cls]
    exact iRow_two (by rw [hnx, hna, h.size, h.ofs]) h.d h.a hl rfl hx ha
  case percoJ ofs | percoCall ofs =>
    refine decode_eJ fun w hmaj hofs => ?_
    rw [decode_perco]
    unfold decPerco
    rw [hmaj, hofs]
    rfl
  all_goals cases hs

end Sys2Proof
end

/-- Settles O53: every word that a row of the stem's map puts together is decoded by that row, which reads its operands
back. -/
theorem stemRoundTrip : Obligations.StemRoundTrip := by
  unfold Obligations.StemRoundTrip
  exact Sys2Proof.decode_encode_stem

/-- Settles O54: the same of the vector map. -/
theorem vectorRoundTrip : Obligations.VectorRoundTrip := by
  unfold Obligations.VectorRoundTrip
  exact Sys2Proof.decode_encode_vector

/-- Settles O55: the same of the sequencers' map. -/
theorem percoRoundTrip : Obligations.PercoRoundTrip := by
  unfold Obligations.PercoRoundTrip
  exact Sys2Proof.decode_encode_perco

section
/-! ### What a decoded word says of its instruction: operands read out of a word give the word back when they are encoded
(R21, R27, R50) -/

namespace Sys2Proof

/-- The stream st decodes the words ws to i, of n words: i is well formed, and encodes to exactly those words. -/
structure Exact (st : Strm) (ws : List W32) (i : Instr) (n : Nat) : Prop where
  wf : i.wf = true
  stream : i.stream = some st
  pos : 1 ≤ n
  le_three : n ≤ 3
  le_length : n ≤ ws.length
  words : encode i = ws.take n

theorem exact_of_words {st : Strm} {w : W32} {rest lit : List W32} {i : Instr} (hwf : i.wf = true) (hs : i.stream = some st)
    (h2 : lit.length ≤ 2) (hlen : lit.length ≤ rest.length) (hlit : rest.take lit.length = lit) (henc : encode i = w :: lit) :
    Exact st (w :: rest) i (lit.length + 1) where
  wf := hwf
  stream := hs
  pos := Nat.le_add_left _ _
  le_three := by omega
  le_length := by simpa using hlen
  words := by rw [henc, List.take_succ_cons, hlit]

/-! ### Words put together again from their fields -/

section
variable {w : W32} {maj : BitVec 6} {d a b : BitVec 5} {lit : List W32}

theorem eG_join {W : Bool} {ty : BitVec 4} {sub : BitVec 6} (hmaj : wMaj w = maj.toNat) (hd : wD w = d) (ha : wA w = a)
    (hb : wB w = b) (hW : (wW w == 1) = W) (hty : wTy w = ty) (hsub : wSub w = sub) :
    eG maj d a b W ty sub lit = w :: lit := by
  have hwide : BitVec.ofBool W = wW w := by rw [← hW]; generalize wW w = x; revert x; decide
  have hm : w.extractLsb' 26 6 = maj := BitVec.eq_of_toNat_eq hmaj
  rw [eG, hwide, ← hm, ← hd, ← ha, ← hb, ← hty, ← hsub]
  congr 1
  apply BitVec.eq_of_getLsbD_eq; intro j hj
  simp only [wD, wA, wB, wW, wTy, wSub, BitVec.getLsbD_append, BitVec.getLsbD_extractLsb']
  grind

theorem eI_join {imm : BitVec 16} (hmaj : wMaj w = maj.toNat) (hd : wD w = d) (ha : wA w = a) (himm : wImm w = imm) :
    eI maj d a imm lit = w :: lit := by
  have hm : w.extractLsb' 26 6 = maj := BitVec.eq_of_toNat_eq hmaj
  rw [eI, ← hm, ← hd, ← ha, ← himm]
  congr 1
  apply BitVec.eq_of_getLsbD_eq; intro j hj
  simp only [wD, wA, wImm, BitVec.getLsbD_append, BitVec.getLsbD_extractLsb']
  grind

theorem eM_join {cls : BitVec 4} {size : BitVec 2} {ofs : BitVec 10} (hmaj : wMaj w = maj.toNat) (hd : wD w = d)
    (ha : wA w = a) (hc : wCls w = cls) (hs : wSize w = size) (ho : wOfs w = ofs) :
    eM maj d a cls size ofs lit = w :: lit := by
  have hm : w.extractLsb' 26 6 = maj := BitVec.eq_of_toNat_eq hmaj
  rw [eM, ← hm, ← hd, ← ha, ← hc, ← hs, ← ho]
  congr 1
  apply BitVec.eq_of_getLsbD_eq; intro j hj
  simp only [wD, wA, wCls, wSize, wOfs, BitVec.getLsbD_append, BitVec.getLsbD_extractLsb']
  grind

theorem eJ_join (hmaj : wMaj w = maj.toNat) : eJ maj (wJ w) = [w] := by
  have hm : w.extractLsb' 26 6 = maj := BitVec.eq_of_toNat_eq hmaj
  rw [eJ, ← hm]
  congr 1
  apply BitVec.eq_of_getLsbD_eq; intro j hj
  simp only [wJ, BitVec.getLsbD_append, BitVec.getLsbD_extractLsb']
  grind

theorem eV_join {msel : BitVec 3} {ty sub : BitVec 4} (hmaj : wMaj w = maj.toNat) (hd : wD w = d) (ha : wA w = a)
    (hb : wB w = b) (hm : vMsel w = msel) (hty : vTyc w = ty) (hsub : vSub w = sub) :
    eV maj d a b msel ty sub lit = w :: lit := by
  have hmj : w.extractLsb' 26 6 = maj := BitVec.eq_of_toNat_eq hmaj
  rw [eV, ← hmj, ← hd, ← ha, ← hb, ← hm, ← hty, ← hsub]
  congr 1
  apply BitVec.eq_of_getLsbD_eq; intro j hj
  simp only [wD, wA, wB, vMsel, vTyc, vSub, BitVec.getLsbD_append, BitVec.getLsbD_extractLsb']
  grind
end

/-! ### Codes given back -/

section
variable {w : W32} {rest : List W32} {c : BitVec 5}

theorem code_dst (h : FieldKind.bad .dst c = false) : c = regCode (regOf c) := by
  exact (regCode_regOf (by simpa using h)).symm
theorem code_zero (h : FieldKind.bad .zero c = false) : c = 0 := by simpa using h
theorem code_lim2 (h : FieldKind.bad (.lim 2) c = false) : c = BitVec.ofNat 5 (fin2 c).val := by revert c; decide
theorem code_lim4 (h : FieldKind.bad (.lim 4) c = false) : c = BitVec.ofNat 5 (fin4 c).val := by revert c; decide
theorem code_lim8 (h : FieldKind.bad (.lim 8) c = false) : c = BitVec.ofNat 5 (fin8 c).val := by revert c; decide
theorem code_mask (h : FieldKind.bad .mask17 c = false) : c = BitVec.ofNat 5 (fin8 c).val ∧ (fin8 c != 0) = true := by
  revert c; decide

theorem gSrc_isLit (c : BitVec 5) (W : Bool) (rest : List W32) : (gSrc c W rest).isLit = (c == 31#5) := by
  unfold gSrc; split
  · cases W <;> simp [*, Src.isLit]
  · simp_all [Src.isLit]
theorem gSrc_isWide (c : BitVec 5) (W : Bool) (rest : List W32) : (gSrc c W rest).isWide = ((c == 31#5) && W) := by
  unfold gSrc; split
  · cases W <;> simp [*, Src.isWide]
  · simp_all [Src.isWide]
theorem gSrc_code (c : BitVec 5) (W : Bool) (rest : List W32) : c = (gSrc c W rest).code := by
  unfold gSrc; split
  · cases W <;> simp [*, Src.code]
  · rename_i h; exact (regCode_regOf h).symm

@[simp] theorem isLit_sA : (sA w rest).isLit = (wA w == 31#5) := gSrc_isLit ..
@[simp] theorem isLit_sB : (sB w rest).isLit = (wB w == 31#5) := gSrc_isLit ..
@[simp] theorem isLit_sD : (sD w rest).isLit = (wD w == 31#5) := gSrc_isLit ..
@[simp] theorem isLit_nA : (nA w rest).isLit = (wA w == 31#5) := gSrc_isLit ..
@[simp] theorem isLit_nD : (nD w rest).isLit = (wD w == 31#5) := gSrc_isLit ..
@[simp] theorem isWide_sA : (sA w rest).isWide = ((wA w == 31#5) && (wW w == 1#1)) := gSrc_isWide ..
@[simp] theorem isWide_sB : (sB w rest).isWide = ((wB w == 31#5) && (wW w == 1#1)) := gSrc_isWide ..
@[simp] theorem isWide_sD : (sD w rest).isWide = ((wD w == 31#5) && (wW w == 1#1)) := gSrc_isWide ..
@[simp] theorem isWide_nA : (nA w rest).isWide = false := (gSrc_isWide ..).trans (Bool.and_false _)
@[simp] theorem isWide_nD : (nD w rest).isWide = false := (gSrc_isWide ..).trans (Bool.and_false _)

/-- The words of literal that a field of this kind and code takes out of the following words. -/
def FieldKind.take (k : FieldKind) (c : BitVec 5) (W : Bool) (rest : List W32) : List W32 :=
  if k.lit c then if W then [rest.getD 0 0, rest.getD 1 0] else [rest.getD 0 0] else []

theorem take_of_not_lit {k : FieldKind} {W : Bool} (h : k.lit c = false) : k.take c W rest = [] := by
  simp [FieldKind.take, h]

theorem low_halves (x y : W32) : (x ++ y : BitVec (32 + 32)).extractLsb' 0 32 = y := by
  rw [extract_append_low _ y (by omega), extract_all]
theorem high_halves (x y : W32) : (x ++ y : BitVec (32 + 32)).extractLsb' 32 32 = x := by
  rw [extract_append_high _ y (by omega), extract_all]

theorem gSrc_words_eq (c : BitVec 5) (W : Bool) (rest : List W32) : (gSrc c W rest).words = FieldKind.take .src c W rest := by
  unfold gSrc FieldKind.take
  by_cases h : c = 31#5
  · cases W
    · simp [h, Src.words]
    · simpa [h, Src.words] using ⟨low_halves .., high_halves ..⟩
  · simp [h, Src.words]

/-- The fields of one word take at most one literal, which stands right after it. -/
theorem take_three {kd ka kb : FieldKind} {d a b : BitVec 5} {W : Bool}
    (h1 : litCount [kd.lit d, ka.lit a, kb.lit b] ≤ 1)
    (hlen : litCount [kd.lit d, ka.lit a, kb.lit b] * (if W then 2 else 1) ≤ rest.length) :
    let lit := kd.take d W rest ++ ka.take a W rest ++ kb.take b W rest
    lit.length = litCount [kd.lit d, ka.lit a, kb.lit b] * (if W then 2 else 1) ∧ rest.take lit.length = lit := by
  simp only [FieldKind.take, litCount_cons, litCount_nil] at *
  generalize kd.lit d = x, ka.lit a = y, kb.lit b = z at *
  match rest, hlen with
  | [], _ => cases x <;> cases y <;> cases z <;> cases W <;> simp_all
  | [p], _ => cases x <;> cases y <;> cases z <;> cases W <;> simp_all
  | p :: q :: l, _ => cases x <;> cases y <;> cases z <;> cases W <;> simp_all
end

/-! ### Rows of format G -/

section
variable {r : GRule} {w : W32} {rest : List W32}

/-- The words of literal that a row of format G takes. -/
def GRule.take (r : GRule) (w : W32) (rest : List W32) : List W32 :=
  r.d.take (wD w) (wW w == 1) rest ++ r.a.take (wA w) (wW w == 1) rest ++ r.b.take (wB w) (wW w == 1) rest

theorem gRow_exact {e : Bool} {st : Strm} {i j : Instr} {n : Nat} {lit : List W32} (h : gRow r e w rest i = .ok j n)
    (hs : i.stream = some st) (hlit : r.take w rest = lit) (henc : e = false → r.Admits w → encode i = w :: lit)
    (hwf : e = false → r.Admits w → i.wf = true) : Exact st (w :: rest) j n := by
  obtain ⟨⟨he, ha, hlen⟩, rfl, rfl⟩ := gRow_eq_ok.1 h
  have hW : (if wW w = 1 then 2 else 1) = if (wW w == 1) = true then 2 else 1 := by simp
  rw [GRule.litWords, hW] at hlen
  obtain ⟨hl, htake⟩ := take_three ha.lits hlen
  rw [GRule.litWords, hW]
  unfold GRule.lits
  rw [← hl]
  refine exact_of_words (hwf he ha) hs ?_ ?_ htake ?_
  · rw [hl]
    have := ha.lits
    unfold GRule.lits at this
    split <;> omega
  · rw [hl]; exact hlen
  · rw [henc he ha, ← hlit]; rfl
end
end Sys2Proof
end

section
/-! PROOFS. Decode is exact in the stem stream: what a decoded word of formats G, I, B and M says (R21, R27, R50). -/

namespace Sys2Proof

set_option Elab.async false

/-! ### Fields of a row of format G -/

section
variable {w : W32} {rest : List W32} {kd ka kb : FieldKind} {wd : WideRule} {t : TypeRule}

theorem code_sA : wA w = (sA w rest).code := gSrc_code ..
theorem code_sB : wB w = (sB w rest).code := gSrc_code ..
theorem code_sD : wD w = (sD w rest).code := gSrc_code ..
theorem code_nA : wA w = (nA w rest).code := gSrc_code ..
theorem code_nD : wD w = (nD w rest).code := gSrc_code ..

theorem take_two (hk : ∀ c, kd.lit c = false) :
    GRule.take ⟨kd, .src, .src, wd, t⟩ w rest = (sA w rest).words ++ (sB w rest).words := by
  rw [GRule.take, take_of_not_lit (hk _), sA, sB, gSrc_words_eq, gSrc_words_eq, List.nil_append]
theorem take_one (hk : ∀ c, kd.lit c = false) : GRule.take ⟨kd, .src, .zero, wd, t⟩ w rest = (sA w rest).words := by
  rw [GRule.take, take_of_not_lit (hk _), take_of_not_lit (lit_zero _), sA, gSrc_words_eq, List.nil_append, List.append_nil]
theorem take_none (hk : ∀ c, kd.lit c = false) (ha : ∀ c, ka.lit c = false) :
    GRule.take ⟨kd, ka, .zero, wd, t⟩ w rest = [] := by
  rw [GRule.take, take_of_not_lit (hk _), take_of_not_lit (ha _), take_of_not_lit (lit_zero _)]; rfl
theorem take_srcs : GRule.take ⟨.src, .src, .src, wd, t⟩ w rest = (sD w rest).words ++ (sA w rest).words ++ (sB w rest).words := by
  rw [GRule.take, sD, sA, sB, gSrc_words_eq, gSrc_words_eq, gSrc_words_eq]

theorem lits_two (hk : ∀ c, kd.lit c = false) : GRule.lits ⟨kd, .src, .src, wd, t⟩ w =
    (sA w rest).isLit.toNat + (sB w rest).isLit.toNat := by simp [GRule.lits, hk]
theorem lits_one (hk : ∀ c, kd.lit c = false) : GRule.lits ⟨kd, .src, .zero, wd, t⟩ w = (sA w rest).isLit.toNat := by
  simp [GRule.lits, hk]
theorem lits_srcs : GRule.lits ⟨.src, .src, .src, wd, t⟩ w =
    (sD w rest).isLit.toNat + ((sA w rest).isLit.toNat + (sB w rest).isLit.toNat) := by simp [GRule.lits]

theorem oneLit_two (f : GRule.Admits ⟨kd, .src, .src, wd, t⟩ w) (hk : ∀ c, kd.lit c = false) :
    oneLit (sA w rest) (sB w rest) = true := by
  have := lits_two (rest := rest) hk ▸ f.lits
  rw [oneLit_iff]
  revert this
  cases (sA w rest).isLit <;> cases (sB w rest).isLit <;> simp
theorem oneLit_srcs (f : GRule.Admits ⟨.src, .src, .src, wd, t⟩ w) : oneLit3 (sD w rest) (sA w rest) (sB w rest) = true :=
  (oneLit3_iff ..).2 (lits_srcs (rest := rest) ▸ f.lits)

theorem wide_two (f : GRule.Admits ⟨kd, .src, .src, wd, t⟩ w) (hk : ∀ c, kd.lit c = false) :
    (wW w == 1#1) = ((sA w rest).isWide || (sB w rest).isWide) := by
  by_cases h : wW w = 1#1
  · have := lits_two (rest := rest) hk ▸ (f.wide h).1
    simp only [isLit_sA, isLit_sB] at this
    simp only [isWide_sA, isWide_sB, h, beq_self_eq_true, Bool.and_true]
    generalize (wA w == 31#5) = x, (wB w == 31#5) = y at *
    revert x y; decide
  · have hf : (wW w == 1#1) = false := beq_eq_false_iff_ne.2 h
    simp [hf]
theorem wide_one (f : GRule.Admits ⟨kd, .src, .zero, wd, t⟩ w) (hk : ∀ c, kd.lit c = false) :
    (wW w == 1#1) = (sA w rest).isWide := by
  by_cases h : wW w = 1#1
  · have := lits_one (rest := rest) hk ▸ (f.wide h).1
    simp only [isLit_sA] at this
    simp only [isWide_sA, h, beq_self_eq_true, Bool.and_true]
    generalize (wA w == 31#5) = x at *
    revert x; decide
  · simp [h]
theorem wide_srcs (f : GRule.Admits ⟨.src, .src, .src, wd, t⟩ w) :
    (wW w == 1#1) = ((sD w rest).isWide || (sA w rest).isWide || (sB w rest).isWide) := by
  by_cases h : wW w = 1#1
  · have := lits_srcs (rest := rest) ▸ (f.wide h).1
    simp only [isLit_sA, isLit_sB, isLit_sD] at this
    simp only [isWide_sA, isWide_sB, isWide_sD, h, beq_self_eq_true, Bool.and_true]
    generalize (wA w == 31#5) = x, (wB w == 31#5) = y, (wD w == 31#5) = z at *
    revert x y z; decide
  · have hf : (wW w == 1#1) = false := beq_eq_false_iff_ne.2 h
    simp [hf]
theorem wide_never (f : GRule.Admits ⟨kd, ka, kb, .never, t⟩ w) : (wW w == 1#1) = false :=
  beq_eq_false_iff_ne.2 fun h => absurd (f.wide h).2 Bool.false_ne_true

theorem narrow_sA (f : GRule.Admits ⟨kd, ka, kb, .never, t⟩ w) : narrow (sA w rest) = true := by
  rw [narrow, isWide_sA, wide_never f, Bool.and_false]; rfl
theorem narrow_sB (f : GRule.Admits ⟨kd, ka, kb, .never, t⟩ w) : narrow (sB w rest) = true := by
  rw [narrow, isWide_sB, wide_never f, Bool.and_false]; rfl

theorem code_ints (h : TypeRule.admitsG .ints (wTy w) = true) : wTy w = (gTy w).code ∧ (gTy w).isInt = true := by
  unfold gTy; generalize wTy w = c at *; revert c; decide
theorem code_word (h : TypeRule.admitsG .word (wTy w) = true) :
    wTy w = (gTy w).code ∧ (gTy w == .i32 || gTy w == .i64) = true := by
  unfold gTy; generalize wTy w = c at *; revert c; decide
theorem code_untyped (h : TypeRule.admitsG .none (wTy w) = true) : wTy w = 0 := beq_iff_eq.1 h

theorem wide64_two (f : GRule.Admits ⟨kd, ka, kb, .ty14, t⟩ w) : wide64 (sA w rest) (sB w rest) (gTy w) = true := by
  by_cases h : wW w = 1#1
  · have h14 : wTy w = 14 := beq_iff_eq.1 (f.wide h).2
    simp [wide64, show gTy w = .i64 by rw [gTy, h14]; rfl]
  · simp [wide64, h]
theorem wide64_one (f : GRule.Admits ⟨kd, ka, kb, .ty14, t⟩ w) : wide64 (sA w rest) (sA w rest) (gTy w) = true := by
  by_cases h : wW w = 1#1
  · have h14 : wTy w = 14 := beq_iff_eq.1 (f.wide h).2
    simp [wide64, show gTy w = .i64 by rw [gTy, h14]; rfl]
  · simp [wide64, h]

theorem code_scope (h : badScope w = false) : wSub w = (gScope w).code := by
  unfold badScope gScope at *; generalize wSub w = c at *; revert c; decide
theorem code_flag (h : (wSub w).toNat < 2) : wSub w = BitVec.ofNat 6 (wSub w == 1).toNat := by
  generalize wSub w = c at *; revert c; decide
theorem code_sub_zero (h : (wSub w != 0) = false) : wSub w = 0 := by simpa using h
theorem code_sub_below (h : (wSub w).toNat < 1) : wSub w = 0 := by
  generalize wSub w = c at *; revert c; decide

theorem imm_of_sys (h : ¬ 0x1000 ≤ (wImm w).toNat) : wImm w = (0 : BitVec 4) ++ wSys w := by
  have hw : wSys w = (wImm w).extractLsb' 0 12 := by
    apply BitVec.eq_of_getLsbD_eq; intro j hj
    simp [wSys, wImm]
  rw [hw]
  apply BitVec.eq_of_toNat_eq
  rw [BitVec.toNat_append, BitVec.extractLsb'_toNat]
  simp at h ⊢
  omega
theorem stemSys_imm (h : badStemSys w = false) : wImm w = (0 : BitVec 4) ++ wSys w ∧ stemSysNum (wSys w).toNat = true := by
  obtain ⟨hlt, hs⟩ := Bool.or_eq_false_iff.1 h
  exact ⟨imm_of_sys (of_decide_eq_false hlt), by simpa using hs⟩
theorem token_codes (h : badToken w = false) : wD w = BitVec.ofNat 5 (fin32 (wD w)).val ∧
    wSub w = BitVec.ofNat 6 (fin5 (wSub w)).val ∧ tokenRegs (fin32 (wD w)) (fin5 (wSub w)) = true := by
  have hd : (fin32 (wD w)).val = (wD w).toNat := rfl
  rw [hd]
  unfold badToken tokenRegs at *
  have hD := (wD w).isLt
  generalize wD w = c at *
  simp only [Bool.or_eq_false_iff, Bool.and_eq_false_iff, decide_eq_false_iff_not, not_lt] at h
  obtain ⟨⟨h4, hr⟩, h0⟩ := h
  have h5 : (fin5 (wSub w)).val = (wSub w).toNat := by rw [fin5, dif_pos (by omega)]
  rw [h5]
  refine ⟨by simp, by simp, ?_⟩
  split
  next hz =>
    have : wSub w = 0 := BitVec.eq_of_toNat_eq hz
    have hc : c = 0 := by simpa [this] using h0
    subst hc; rfl
  next hz =>
    rw [hd]
    have : 0 < (wSub w).toNat := Nat.pos_of_ne_zero hz
    simp
    omega
end

/-! ### Rows of formats I, B and M -/

section
variable {w : W32} {rest lit : List W32} {kd ka : FieldKind} {e : Bool} {st : Strm} {i j : Instr} {n : Nat}

theorem iRow_exact (h : iRow kd ka e false w rest i = .ok j n) (hs : i.stream = some st)
    (hlit : kd.take (wD w) false rest ++ ka.take (wA w) false rest = lit)
    (henc : e = false → kd.bad (wD w) = false → ka.bad (wA w) = false → encode i = w :: lit)
    (hwf : e = false → (kd.lit (wD w)).toNat + (ka.lit (wA w)).toNat ≤ 1 → i.wf = true) : Exact st (w :: rest) j n := by
  obtain ⟨⟨he, -, hd, ha, h1, hlen⟩, rfl, rfl⟩ := iRow_eq_ok.1 h
  obtain ⟨hl, htake⟩ := take_three (kd := kd) (ka := ka) (kb := .zero) (d := wD w) (a := wA w) (b := 0) (W := false)
    (rest := rest) (by simpa using h1) (by simpa using hlen)
  rw [take_of_not_lit (lit_zero _), List.append_nil, hlit] at hl htake
  have hl' : lit.length = (kd.lit (wD w)).toNat + (ka.lit (wA w)).toNat := by simpa using hl
  rw [← hl']
  exact exact_of_words (hwf he h1) hs (by omega) (by omega) htake (henc he hd ha)

theorem liRow_exact {v : LiVal} (h : liRow w rest i = .ok j n) (hv : liVal w rest = v) (hs : i.stream = some st)
    (henc : wD w = regCode (rD w) → wA w = liCode v → wImm w = liImm v → encode i = w :: v.words) (hwf : i.wf = true) :
    Exact st (w :: rest) j n := by
  obtain ⟨⟨-, hr, -, hlen⟩, rfl, rfl⟩ := settle_eq_ok.1 h
  subst hv
  obtain ⟨hd, hai⟩ := Bool.or_eq_false_iff.1 hr
  have hd' := code_dst hd
  by_cases ha : wA w = 31
  · have him : wImm w = 0 := by simpa [ha] using hai
    rw [if_pos ha] at hlen ⊢
    have hv : liVal w rest = .lit (rest.getD 0 0) := if_pos ha
    rw [hv] at henc
    obtain ⟨x, l, rfl⟩ : ∃ x l, rest = x :: l := List.exists_cons_of_length_pos hlen
    exact exact_of_words (lit := [x]) hwf hs (by simp) (by simp) rfl (henc hd' ha him)
  · have ha0 : wA w = 0 := by
      have hne : (wA w == 31#5) = false := beq_eq_false_iff_ne.2 ha
      change (!(wA w == 0 || (wA w == 31#5 && wImm w == 0))) = false at hai
      simpa [hne] using hai
    rw [if_neg ha]
    have hv : liVal w rest = .imm (wImm w) := if_neg ha
    rw [hv] at henc
    exact exact_of_words (lit := []) hwf hs (by simp) (by simp) rfl (henc hd' ha0 rfl)

theorem words_nA : (nA w rest).words = FieldKind.take .src (wA w) false rest := gSrc_words_eq ..
theorem words_nD : (nD w rest).words = FieldKind.take .src (wD w) false rest := gSrc_words_eq ..
theorem take_dst_nA (hk : ∀ c, kd.lit c = false) :
    kd.take (wD w) false rest ++ FieldKind.take .src (wA w) false rest = (nA w rest).words := by
  rw [take_of_not_lit (hk _), words_nA, List.nil_append]
theorem take_nD_nA : FieldKind.take .src (wD w) false rest ++ FieldKind.take .src (wA w) false rest =
    (nD w rest).words ++ (nA w rest).words := by rw [words_nA, words_nD]
theorem take_nothing (hk : ∀ c, kd.lit c = false) (ha : ∀ c, ka.lit c = false) :
    kd.take (wD w) false rest ++ ka.take (wA w) false rest = [] := by
  rw [take_of_not_lit (hk _), take_of_not_lit (ha _)]; rfl
theorem narrow_nA : narrow (nA w rest) = true := narrow_iff.2 isWide_nA
theorem narrow_nD_nA (h : ((wD w == 31#5)).toNat + ((wA w == 31#5)).toNat ≤ 1) :
    (oneLit (nD w rest) (nA w rest) && narrow (nD w rest) && narrow (nA w rest)) = true := by
  refine narrow_two_iff.2 ⟨(oneLit_iff ..).2 ?_, isWide_nD, isWide_nA⟩
  rw [isLit_nD, isLit_nA]
  generalize (wD w == 31#5) = x, (wA w == 31#5) = y at *
  revert x y; decide
theorem jRow_exact (hs : i.stream = some st) (henc : encode i = [w]) (hwf : i.wf = true) : Exact st (w :: rest) i 1 :=
  exact_of_words (lit := []) hwf hs (by simp) (by simp) rfl henc
end

end Sys2Proof
end

section
/-! PROOFS. Decode is exact in the stem stream, row by row of Tables 03-1 and 06-1 (R21, R27, R50). -/

namespace Sys2Proof

set_option Elab.async false

section
variable {w : W32} {rest : List W32} {i : Instr} {n : Nat}

theorem decStem01_exact (hm : wMaj w = 0x01) (h : decStem01 w rest = .ok i n) : Exact .stem (w :: rest) i n := by
  unfold decStem01 at h
  split at h
  case h_18 hsub | h_19 hsub =>
    exact gRow_exact h rfl (take_one fun _ => rfl)
      (fun _ f => eG_join hm (code_dst f.d) code_sA (code_zero f.b) (wide_one f fun _ => rfl) (code_ints f.ty).1
        (BitVec.eq_of_toNat_eq hsub))
      fun _ f => Bool.and_eq_true_iff.2 ⟨wide64_one f, (code_ints f.ty).2⟩
  case h_25 => cases h
  all_goals
    rename_i hsub
    exact gRow_exact h rfl (take_two fun _ => rfl)
      (fun _ f => eG_join hm (code_dst f.d) code_sA code_sB (wide_two f fun _ => rfl) (code_ints f.ty).1
        (BitVec.eq_of_toNat_eq hsub))
      fun _ f => and_three_iff.2 ⟨oneLit_two f fun _ => rfl, wide64_two f, (code_ints f.ty).2⟩

theorem decStem0B_exact (hm : wMaj w = 0x0B) (h : decStem0B w rest = .ok i n) : Exact .stem (w :: rest) i n := by
  unfold decStem0B at h
  split at h
  case h_3 => cases h
  all_goals
    rename_i hsub
    exact gRow_exact h rfl (take_one fun _ => rfl)
      (fun _ f => eG_join hm (code_zero f.d) code_sA (code_zero f.b) (wide_never f) (code_untyped f.ty)
        (BitVec.eq_of_toNat_eq hsub))
      fun _ f => narrow_sA f

theorem decStem0E_exact (hm : wMaj w = 0x0E) (h : decStem0E w rest = .ok i n) : Exact .stem (w :: rest) i n := by
  unfold decStem0E at h
  split at h
  case h_1 hsub =>
    exact gRow_exact h rfl (take_one fun _ => rfl)
      (fun _ f => eG_join hm (code_lim4 f.d) code_sA (code_zero f.b) (wide_never f) (code_untyped f.ty)
        (BitVec.eq_of_toNat_eq hsub))
      fun _ f => narrow_sA f
  case h_2 hsub =>
    exact gRow_exact h rfl (take_none (fun _ => rfl) fun _ => rfl)
      (fun _ f => eG_join hm (code_dst f.d) (code_lim4 f.a) (code_zero f.b) (wide_never f) (code_untyped f.ty)
        (BitVec.eq_of_toNat_eq hsub))
      fun _ _ => rfl
  case h_3 => cases h

theorem decStem12_exact (hm : wMaj w = 0x12) (h : decStem12 w rest = .ok i n) : Exact .stem (w :: rest) i n := by
  unfold decStem12 at h
  split at h
  case h_10 => cases h
  all_goals
    rename_i hsub
    exact gRow_exact h rfl (take_two fun _ => rfl)
      (fun _ f => eG_join hm (code_dst f.d) code_sA code_sB (wide_two f fun _ => rfl) (code_ints f.ty).1
        (BitVec.eq_of_toNat_eq hsub))
      fun _ f => and_three_iff.2 ⟨oneLit_two f fun _ => rfl, wide64_two f, (code_ints f.ty).2⟩

theorem decStem1D_exact (hm : wMaj w = 0x1D) (h : decStem1D w rest = .ok i n) : Exact .stem (w :: rest) i n := by
  unfold decStem1D at h
  split at h
  case h_11 => cases h
  all_goals
    rename_i hsub
    exact gRow_exact h rfl (take_two fun _ => rfl)
      (fun _ f => eG_join hm (code_dst f.d) code_sA code_sB (wide_two f fun _ => rfl) (code_word f.ty).1
        (BitVec.eq_of_toNat_eq hsub))
      fun _ f => and_three_iff.2 ⟨oneLit_two f fun _ => rfl, wide64_two f, (code_word f.ty).2⟩

theorem decStem22_exact (hm : wMaj w = 0x22) (h : decStem22 w rest = .ok i n) : Exact .stem (w :: rest) i n := by
  unfold decStem22 at h
  split at h
  case h_1 hsub =>
    exact gRow_exact h rfl (take_one fun _ => rfl)
      (fun _ f => eG_join hm (code_zero f.d) code_sA (code_zero f.b) (wide_never f) (code_untyped f.ty)
        (BitVec.eq_of_toNat_eq hsub))
      fun _ f => narrow_sA f
  case h_2 hsub =>
    exact gRow_exact h rfl (take_none (fun _ => rfl) fun _ => rfl)
      (fun _ f => eG_join hm (code_zero f.d) (code_zero f.a) (code_zero f.b) (wide_never f) (code_untyped f.ty)
        (BitVec.eq_of_toNat_eq hsub))
      fun _ _ => rfl
  case h_3 => cases h

theorem decStem29_exact (hm : wMaj w = 0x29) (h : decStem29 w rest = .ok i n) : Exact .stem (w :: rest) i n := by
  unfold decStem29 at h
  split at h
  case h_1 hsub =>
    exact gRow_exact h rfl (take_none (fun _ => rfl) fun _ => rfl)
      (fun _ f => eG_join hm (code_dst f.d) (code_zero f.a) (code_zero f.b) (wide_never f) (code_untyped f.ty)
        (BitVec.eq_of_toNat_eq hsub))
      fun _ _ => rfl
  case h_9 => cases h
  all_goals
    rename_i hsub
    exact gRow_exact h rfl (take_none (fun _ => rfl) fun _ => rfl)
      (fun _ f => eG_join hm (code_zero f.d) (code_zero f.a) (code_zero f.b) (wide_never f) (code_untyped f.ty)
        (BitVec.eq_of_toNat_eq hsub))
      fun _ _ => rfl
end

end Sys2Proof
end

section
namespace Sys2Proof

set_option Elab.async false

theorem decStem_exact {w : W32} {rest : List W32} {i : Instr} {n : Nat} (h : decStem w rest = .ok i n) :
    Exact .stem (w :: rest) i n := by
  unfold decStem at h
  split at h
  case h_1 hm => exact decStem01_exact hm h
  case h_2 hm => exact liRow_exact h rfl rfl (fun hd ha himm => eI_join hm hd ha himm) rfl
  case h_3 hm | h_4 hm | h_5 hm | h_6 hm | h_7 hm | h_8 hm =>
    exact iRow_exact h rfl take_nD_nA (fun _ _ _ => eI_join hm code_nD code_nA rfl) fun _ h1 => narrow_nD_nA h1
  case h_9 hm | h_10 hm => cases h; exact jRow_exact rfl (eJ_join hm) rfl
  case h_11 hm => exact decStem0B_exact hm h
  case h_12 hm | h_15 hm =>
    exact gRow_exact h rfl (take_none (fun _ => rfl) fun _ => rfl)
      (fun he f => eG_join hm (code_zero f.d) (code_zero f.a) (code_zero f.b) (wide_never f) (code_untyped f.ty)
        (code_sub_zero he))
      fun _ _ => rfl
  case h_13 hm =>
    exact iRow_exact h rfl (take_dst_nA fun _ => rfl) (fun _ hd _ => eI_join hm (code_zero hd) code_nA rfl)
      fun _ _ => narrow_nA
  case h_14 hm => exact decStem0E_exact hm h
  case h_16 hm =>
    exact iRow_exact h rfl (take_dst_nA fun _ => rfl) (fun _ hd _ => eM_join hm (code_dst hd) code_nA rfl rfl rfl)
      fun _ _ => narrow_nA
  case h_17 hm =>
    exact iRow_exact h rfl take_nD_nA (fun _ _ _ => eM_join hm code_nD code_nA rfl rfl rfl) fun _ h1 => narrow_nD_nA h1
  case h_18 hm => exact decStem12_exact hm h
  case h_19 hm =>
    exact gRow_exact h rfl (take_two fun _ => rfl)
      (fun he f => eG_join hm (code_dst f.d) code_sA code_sB (wide_two f fun _ => rfl) (code_ints f.ty).1 (code_sub_zero he))
      fun _ f => and_three_iff.2 ⟨oneLit_two f fun _ => rfl, wide64_two f, (code_ints f.ty).2⟩
  case h_20 hm | h_21 hm =>
    exact gRow_exact h rfl (take_two fun _ => rfl)
      (fun he f => eG_join hm (code_zero f.d) code_sA code_sB (wide_never f) (code_untyped f.ty) (code_scope he))
      fun _ f => and_three_iff.2 ⟨oneLit_two f fun _ => rfl, narrow_sA f, narrow_sB f⟩
  case h_22 hm =>
    exact gRow_exact h rfl (take_two fun _ => rfl)
      (fun he f => eG_join hm (code_dst f.d) code_sA code_sB (wide_never f) (code_word f.ty).1 (code_scope he))
      fun _ f => Bool.and_eq_true_iff.2
        ⟨and_three_iff.2 ⟨oneLit_two f fun _ => rfl, narrow_sA f, narrow_sB f⟩, (code_word f.ty).2⟩
  case h_23 hm | h_24 hm =>
    exact gRow_exact h rfl (take_one fun _ => rfl)
      (fun he f => eG_join hm (code_zero f.d) code_sA (code_zero f.b) (wide_never f) (code_untyped f.ty) (code_scope he))
      fun _ f => narrow_sA f
  case h_25 hm =>
    exact gRow_exact h rfl (take_two fun _ => rfl)
      (fun he f => eG_join hm (token_codes he).1 code_sA code_sB (wide_two f fun _ => rfl) (code_untyped f.ty)
        (token_codes he).2.1)
      fun he f => Bool.and_eq_true_iff.2 ⟨oneLit_two f fun _ => rfl, (token_codes he).2.2⟩
  case h_26 hm | h_36 hm =>
    exact gRow_exact h rfl (take_none (fun _ => rfl) fun _ => rfl)
      (fun he f => eG_join hm (code_lim4 f.d) (code_zero f.a) (code_zero f.b) (wide_never f) (code_untyped f.ty)
        (code_sub_zero he))
      fun _ _ => rfl
  case h_27 hm =>
    exact gRow_exact h rfl (take_one fun _ => rfl)
      (fun he f => eG_join hm (code_zero f.d) code_sA (code_zero f.b) (wide_never f) (code_untyped f.ty)
        (code_flag (Nat.not_le.1 (of_decide_eq_false he))))
      fun _ f => narrow_sA f
  case h_28 hm =>
    exact gRow_exact h rfl (take_two fun _ => rfl)
      (fun he f => eG_join hm (code_zero f.d) code_sA code_sB (wide_two f fun _ => rfl) (code_untyped f.ty)
        (code_flag (Nat.not_le.1 (of_decide_eq_false he))))
      fun _ f => oneLit_two f fun _ => rfl
  case h_29 hm => exact decStem1D_exact hm h
  case h_30 hm =>
    exact iRow_exact h rfl (take_dst_nA fun _ => rfl) (fun _ hd _ => eI_join hm (code_dst hd) code_nA rfl)
      fun _ _ => narrow_nA
  case h_31 hm | h_32 hm | h_33 hm | h_37 hm =>
    exact gRow_exact h rfl (take_one fun _ => rfl)
      (fun he f => eG_join hm (code_zero f.d) code_sA (code_zero f.b) (wide_never f) (code_untyped f.ty) (code_sub_zero he))
      fun _ f => narrow_sA f
  case h_34 hm => exact decStem22_exact hm h
  case h_35 hm =>
    exact gRow_exact h rfl (take_one fun _ => rfl)
      (fun he f => eG_join hm (code_lim4 f.d) code_sA (code_zero f.b) (wide_never f) (code_untyped f.ty) (code_sub_zero he))
      fun _ f => narrow_sA f
  case h_38 hm =>
    exact iRow_exact h rfl (take_nothing (fun _ => rfl) fun _ => rfl)
      (fun _ hd ha => eI_join hm (code_zero hd) (code_zero ha) rfl) fun _ _ => rfl
  case h_39 hm =>
    exact iRow_exact h rfl (take_nothing (fun _ => rfl) fun _ => rfl)
      (fun he hd ha => eI_join hm (code_dst hd) (code_zero ha) (stemSys_imm he).1) fun he _ => (stemSys_imm he).2
  case h_40 hm =>
    exact iRow_exact h rfl (take_dst_nA fun _ => rfl)
      (fun he hd _ => eI_join hm (code_zero hd) code_nA (stemSys_imm he).1)
      fun he _ => Bool.and_eq_true_iff.2 ⟨narrow_nA, (stemSys_imm he).2⟩
  case h_41 hm => exact decStem29_exact hm h
  case h_42 hm =>
    exact iRow_exact h rfl (take_dst_nA fun _ => rfl) (fun _ hd _ => eM_join hm (code_dst hd) code_nA rfl rfl rfl)
      fun he _ => Bool.and_eq_true_iff.2 ⟨narrow_nA, by simpa using he⟩
  case h_43 hm | h_44 hm =>
    exact gRow_exact h rfl take_srcs
      (fun _ f => eG_join hm code_sD code_sA code_sB (wide_srcs f) (code_untyped f.ty) rfl) fun _ f => oneLit_srcs f
  case h_45 hm =>
    obtain ⟨hsub, h⟩ := below_eq_ok.1 h
    exact gRow_exact h rfl (take_none (fun _ => rfl) fun _ => rfl)
      (fun _ f => eG_join hm (code_lim2 f.d) (code_zero f.a) (code_zero f.b) (wide_never f) (code_untyped f.ty)
        (code_sub_below hsub))
      fun _ _ => rfl
  case h_46 hm =>
    obtain ⟨hsub, h⟩ := below_eq_ok.1 h
    exact gRow_exact h rfl (take_none (fun _ => rfl) fun _ => rfl)
      (fun _ f => eG_join hm (code_lim4 f.d) (code_lim2 f.a) (code_zero f.b) (wide_never f) (code_untyped f.ty)
        (code_flag hsub))
      fun _ _ => rfl
  case h_47 hm | h_48 hm =>
    obtain ⟨hsub, h⟩ := below_eq_ok.1 h
    exact gRow_exact h rfl (take_one fun _ => rfl)
      (fun _ f => eG_join hm (code_lim2 f.d) code_sA (code_zero f.b) (wide_never f) (code_untyped f.ty)
        (code_sub_below hsub))
      fun _ f => narrow_sA f
  case h_49 hm =>
    obtain ⟨hsub, h⟩ := below_eq_ok.1 h
    exact gRow_exact h rfl (take_two fun _ => rfl)
      (fun _ f => eG_join hm (code_zero f.d) code_sA code_sB (wide_never f) (code_untyped f.ty) (code_sub_below hsub))
      fun _ f => and_three_iff.2 ⟨oneLit_two f fun _ => rfl, narrow_sA f, narrow_sB f⟩
  case h_50 hm =>
    obtain ⟨hsub, h⟩ := below_eq_ok.1 h
    exact gRow_exact h rfl (take_one fun _ => rfl)
      (fun _ f => eG_join hm (code_lim4 f.d) code_sA (code_zero f.b) (wide_one f fun _ => rfl) (code_untyped f.ty)
        (code_sub_below hsub))
      fun _ _ => rfl
  case h_51 hm =>
    obtain ⟨hsub, h⟩ := below_eq_ok.1 h
    exact gRow_exact h rfl (take_none (fun _ => rfl) fun _ => rfl)
      (fun _ f => eG_join hm (code_zero f.d) (code_zero f.a) (code_zero f.b) (wide_never f) (code_untyped f.ty)
        (code_sub_below hsub))
      fun _ _ => rfl
  case h_52 hm | h_53 hm =>
    obtain ⟨-, h⟩ := below_eq_ok.1 h
    exact gRow_exact h rfl (take_two fun _ => rfl)
      (fun he f => eG_join hm (code_zero f.d) code_sA code_sB (wide_never f) (code_untyped f.ty) (code_scope he))
      fun _ f => and_three_iff.2 ⟨oneLit_two f fun _ => rfl, narrow_sA f, narrow_sB f⟩
  case h_54 => cases h

end Sys2Proof
end

section
/-! PROOFS. Decode is exact in the vector stream: what a decoded word of format V says (R21, R27, R48, R50). -/

namespace Sys2Proof

set_option Elab.async false

/-! ### Fields given back -/

section
variable {w : W32} {rest : List W32}

theorem vSrc_code (c : BitVec 5) (rest : List W32) : c = (vSrc c rest).code := by
  unfold vSrc; split
  · simp [*, VSrc.code]
  · rename_i h; exact (regCode_regOf h).symm
theorem vSrc_words_eq (c : BitVec 5) (rest : List W32) : (vSrc c rest).words = FieldKind.take .src c false rest := by
  unfold vSrc FieldKind.take
  by_cases h : c = 31#5 <;> simp [h, VSrc.words]
theorem vSrc_isLit (c : BitVec 5) (rest : List W32) : (vSrc c rest).isLit = (c == 31#5) := by
  unfold vSrc; by_cases h : c = 31#5 <;> simp [h, VSrc.isLit]
theorem fin8_code {c : BitVec 5} (h : FieldKind.bad .esrc c = false) (hc : c ≠ 31#5) : c = BitVec.ofNat 5 (fin8 c).val := by
  revert c; decide
theorem eSrc_code {c : BitVec 5} (h : FieldKind.bad .esrc c = false) (rest : List W32) : c = (eSrc c rest).code := by
  unfold eSrc; split
  · simp [*, ESrc.code]
  · rename_i hc; exact fin8_code h hc
theorem eSrc_words_eq (c : BitVec 5) (rest : List W32) : (eSrc c rest).words = FieldKind.take .esrc c false rest := by
  unfold eSrc FieldKind.take
  by_cases h : c = 31#5 <;> simp [h, ESrc.words]
theorem eSrc_isLit (c : BitVec 5) (rest : List W32) : (eSrc c rest).isLit = (c == 31#5) := by
  unfold eSrc; by_cases h : c = 31#5 <;> simp [h, ESrc.isLit]

theorem code_vA : wA w = (vA w rest).code := vSrc_code ..
theorem code_vB : wB w = (vB w rest).code := vSrc_code ..
theorem code_vD : wD w = (vD w rest).code := vSrc_code ..
theorem code_eA (h : FieldKind.bad .esrc (wA w) = false) : wA w = (eA w rest).code := eSrc_code h _
theorem code_eB (h : FieldKind.bad .esrc (wB w) = false) : wB w = (eB w rest).code := eSrc_code h _

theorem code_vM : vMsel w = BitVec.ofNat 3 (vM w).val := by unfold vM; generalize vMsel w = c; revert c; decide

theorem sub_plain (h : vSubNe w 0 = false) : vSub w = 0 := by
  unfold vSubNe at h; generalize vSub w = c at *; revert c; decide
theorem sub_round (hh : vHigh w = false) (hb : vRoundBad w = false) : vSub w = (vRound w).code := by
  unfold vHigh vBit vRoundBad vRound at *; generalize vSub w = c at *; revert c; decide
theorem sub_round_not_rsr (h : vSubIs w 4 = false) : (vRound w != .rsr) = true := by
  unfold vSubIs vRound at *; generalize vSub w = c at *; revert c; decide
theorem sub_sat (h : (vBit w 3 || vBit w 2) = false) : vSub w = subBits false false (vBit w 1) (vBit w 0) := by
  unfold vBit at *; generalize vSub w = c at *; revert c; decide
theorem sub_high (h : (vBit w 3 || vBit w 0) = false) : vSub w = subBits false (vBit w 2) (vBit w 1) false := by
  unfold vBit at *; generalize vSub w = c at *; revert c; decide
theorem sub_unsigned (h : (vBit w 3 || vBit w 2 || vBit w 0) = false) : vSub w = subBits false false (vBit w 1) false := by
  unfold vBit at *; generalize vSub w = c at *; revert c; decide
theorem sub_scale (h : (vBit w 3 || vBit w 2 || vBit w 1) = false) :
    vSub w = subBits false false false (vBit w 0) := by
  unfold vBit at *; generalize vSub w = c at *; revert c; decide
theorem sub_bit_low3 : vSub w = BitVec.ofBool (vBit w 3) ++ BitVec.ofNat 3 (vLow3 w).val := by
  unfold vBit vLow3; generalize vSub w = c; revert c; decide
theorem sub_low2 (h3 : vBit w 3 = false) (h2 : vBit w 2 = false) : vSub w = BitVec.ofNat 4 (vLow2 w).val := by
  unfold vBit vLow2 at *; generalize vSub w = c at *; revert c; decide
theorem sub_ragged (h3 : vBit w 3 = true) :
    vSub w = BitVec.ofBool true ++ BitVec.ofBool (vBit w 2) ++ BitVec.ofNat 2 (vLow2 w).val := by
  unfold vBit vLow2 at *; generalize vSub w = c at *; revert c; decide
theorem sub_dir : vSub w = (vDir w).code ++ BitVec.ofNat 2 (vLow2 w).val := by
  unfold vDir vLow2; generalize vSub w = c; revert c; decide
theorem sub_dir_of {o : Nat} (h : (vLow2 w).val = o) : vSub w = (vDir w).code ++ BitVec.ofNat 2 o := h ▸ sub_dir
theorem sub_dir_zero (h0 : vBit w 0 = false) (h1 : vBit w 1 = false) : vSub w = (vDir w).code ++ (0x0 : BitVec 2) := by
  unfold vBit vDir at *; generalize vSub w = c at *; revert c; decide
theorem sub_round3 (h : vRound3Bad w = false) : vSub w = BitVec.ofBool (vBit w 3) ++ (vRound3 w).code.setWidth 3 := by
  unfold vRound3Bad vBit vRound3 at *; generalize vSub w = c at *; revert c; decide
theorem sub_fin6 (h : decide (6 ≤ (vSub w).toNat) = false) : vSub w = BitVec.ofNat 4 (fin6 (vSub w)).val := by
  generalize vSub w = c at *; revert c; decide
end

/-! ### Types -/

section
variable {w : W32}

theorem vty_fl (h : TypeRule.admitsV .fl (vTyc w) = true) : vTyc w = (vTy w).code ∧ (vTy w).isFloat = true := by
  unfold vTy; generalize vTyc w = c at *; revert c; decide
theorem vty_ints (h : TypeRule.admitsV .ints (vTyc w) = true) :
    vTyc w = (vTy w).code ∧ ((vTy w).isInt && vTy w != .i64) = true := by
  unfold vTy; generalize vTyc w = c at *; revert c; decide
theorem vty_fi (h : TypeRule.admitsV .fi (vTyc w) = true) :
    vTyc w = (vTy w).code ∧ (((vTy w).isFloat || (vTy w).isInt) && vTy w != .i64) = true := by
  unfold vTy; generalize vTyc w = c at *; revert c; decide
theorem vty_any (h : TypeRule.admitsV .any (vTyc w) = true) : vTyc w = (vTy w).code ∧ (vTy w != .i64) = true := by
  unfold vTy; generalize vTyc w = c at *; revert c; decide
theorem vty_nar (h : TypeRule.admitsV .nar (vTyc w) = true) :
    vTyc w = (vTy w).code ∧ decide ((vTy w).code.toNat < 8) = true := by
  unfold vTy; generalize vTyc w = c at *; revert c; decide
theorem vty_wide (h : TypeRule.admitsV .wide (vTyc w) = true) :
    vTyc w = (vTy w).code ∧ (vTy w == .f32 || vTy w == .i32) = true := by
  unfold vTy; generalize vTyc w = c at *; revert c; decide
theorem vty_zero (h : TypeRule.admitsV .zero (vTyc w) = true) : vTyc w = 0 := beq_iff_eq.1 h

theorem vcmp_types (h : vcmpBad w = false) (ht : TypeRule.admitsV .fi (vTyc w) = true) :
    (!(vTy w).isInt || decide ((vLow3 w).val < 6)) = true ∧ (!vBit w 3 || (vTy w).isInt) = true := by
  have hc := (vty_fi ht).1
  rw [isInt_eq_code, ← hc]
  obtain ⟨h6, hu⟩ := Bool.or_eq_false_iff.1 h
  constructor
  · generalize vLow3 w = k at *
    generalize (vTyc w).toNat = c at *
    simp at h6 ⊢
    omega
  · generalize vBit w 3 = u at *
    generalize (vTyc w).toNat = c at *
    cases u <;> simp at hu ⊢
    exact hu

theorem source_split (c : BitVec 5) : c = BitVec.ofBool c.msb ++ c.extractLsb' 0 4 := by revert c; decide
theorem vcvt_types (h : vcvtBad w = false) (ht : TypeRule.admitsV .any (vTyc w) = true) :
    wB w = BitVec.ofBool (wB w).msb ++ (vSty w).code ∧ (vSty w != .i64) = true ∧ (!(wB w).msb || (vSty w).isInt) = true ∧
      (!vBit w 3 || (vTy w).isInt) = true := by
  obtain ⟨h12, hd⟩ := Bool.or_eq_false_iff.1 h
  obtain ⟨h1, h2⟩ := Bool.or_eq_false_iff.1 h12
  have hs : (wB w).extractLsb' 0 4 = (vSty w).code ∧ (vSty w != .i64) = true := by
    unfold vSty
    generalize (wB w).extractLsb' 0 4 = c at h1
    revert c; decide
  refine ⟨?_, hs.2, ?_, ?_⟩
  · rw [← hs.1]; exact source_split _
  · rw [isInt_eq_code, ← hs.1]
    generalize (wB w).msb = u at *
    cases u <;> simp_all
  · rw [isInt_eq_code, ← (vty_any ht).1]
    generalize vBit w 3 = u at *
    cases u <;> simp_all
end

/-! ### Rows of format V -/

section
variable {w : W32} {rest lit : List W32} {kd ka kb : FieldKind} {z il re : Bool} {t : TypeRule} {i j : Instr} {n : Nat}

theorem vRow_exact (h : vRow kd ka kb z t il re w rest i = .ok j n) (hs : i.stream = some .vector)
    (hlit : kd.take (wD w) false rest ++ ka.take (wA w) false rest ++ kb.take (wB w) false rest = lit)
    (henc : il = false → re = false → VAdmits kd ka kb z t w → encode i = w :: lit)
    (hwf : il = false → re = false → VAdmits kd ka kb z t w → i.wf = true) : Exact .vector (w :: rest) j n := by
  obtain ⟨⟨hil, hre, f, hlen⟩, rfl, rfl⟩ := vRow_eq_ok.1 h
  obtain ⟨hl, htake⟩ := take_three (W := false) (rest := rest) f.lits (by simpa using hlen)
  rw [hlit] at hl htake
  have hl' : lit.length = litCount [kd.lit (wD w), ka.lit (wA w), kb.lit (wB w)] := by simpa using hl
  rw [← hl']
  have := f.lits
  exact exact_of_words (hwf hil hre f) hs (by omega) (by omega) htake (henc hil hre f)

theorem vtake_none (hd : ∀ c, kd.lit c = false) (ha : ∀ c, ka.lit c = false) (hb : ∀ c, kb.lit c = false) :
    kd.take (wD w) false rest ++ ka.take (wA w) false rest ++ kb.take (wB w) false rest = [] := by
  rw [take_of_not_lit (hd _), take_of_not_lit (ha _), take_of_not_lit (hb _)]; rfl
theorem vtake_vA (hd : ∀ c, kd.lit c = false) (hb : ∀ c, kb.lit c = false) :
    kd.take (wD w) false rest ++ FieldKind.take .src (wA w) false rest ++ kb.take (wB w) false rest = (vA w rest).words := by
  rw [take_of_not_lit (hd _), take_of_not_lit (hb _), vA, vSrc_words_eq, List.nil_append, List.append_nil]
theorem vtake_eA (hd : ∀ c, kd.lit c = false) (hb : ∀ c, kb.lit c = false) :
    kd.take (wD w) false rest ++ FieldKind.take .esrc (wA w) false rest ++ kb.take (wB w) false rest = (eA w rest).words := by
  rw [take_of_not_lit (hd _), take_of_not_lit (hb _), eA, eSrc_words_eq, List.nil_append, List.append_nil]
theorem vtake_vB (hd : ∀ c, kd.lit c = false) (ha : ∀ c, ka.lit c = false) :
    kd.take (wD w) false rest ++ ka.take (wA w) false rest ++ FieldKind.take .src (wB w) false rest = (vB w rest).words := by
  rw [take_of_not_lit (hd _), take_of_not_lit (ha _), vB, vSrc_words_eq]; rfl
theorem vtake_eB (hd : ∀ c, kd.lit c = false) (ha : ∀ c, ka.lit c = false) :
    kd.take (wD w) false rest ++ ka.take (wA w) false rest ++ FieldKind.take .esrc (wB w) false rest = (eB w rest).words := by
  rw [take_of_not_lit (hd _), take_of_not_lit (ha _), eB, eSrc_words_eq]; rfl
theorem vtake_vAB (hd : ∀ c, kd.lit c = false) :
    kd.take (wD w) false rest ++ FieldKind.take .src (wA w) false rest ++ FieldKind.take .src (wB w) false rest =
      (vA w rest).words ++ (vB w rest).words := by
  rw [take_of_not_lit (hd _), vA, vB, vSrc_words_eq, vSrc_words_eq, List.nil_append]
theorem vtake_eAB (hd : ∀ c, kd.lit c = false) :
    kd.take (wD w) false rest ++ FieldKind.take .esrc (wA w) false rest ++ FieldKind.take .esrc (wB w) false rest =
      (eA w rest).words ++ (eB w rest).words := by
  rw [take_of_not_lit (hd _), eA, eB, eSrc_words_eq, eSrc_words_eq, List.nil_append]
theorem vtake_vD_vB (ha : ∀ c, ka.lit c = false) :
    FieldKind.take .src (wD w) false rest ++ ka.take (wA w) false rest ++ FieldKind.take .src (wB w) false rest =
      (vD w rest).words ++ (vB w rest).words := by
  rw [take_of_not_lit (ha _), vD, vB, vSrc_words_eq, vSrc_words_eq, List.append_nil]
theorem vtake_vD_eB (ha : ∀ c, ka.lit c = false) :
    FieldKind.take .src (wD w) false rest ++ ka.take (wA w) false rest ++ FieldKind.take .esrc (wB w) false rest =
      (vD w rest).words ++ (eB w rest).words := by
  rw [take_of_not_lit (ha _), vD, eB, vSrc_words_eq, eSrc_words_eq, List.append_nil]

theorem not_both_literal {x y : Bool} (h : x.toNat + y.toNat ≤ 1) : (!(x && y)) = true := by revert x y; decide
theorem oneV_vAB (f : VAdmits kd .src .src z t w) : oneV (vA w rest) (vB w rest) = true := by
  have := f.lits
  rw [oneV, vA, vB, vSrc_isLit, vSrc_isLit]
  exact not_both_literal (by simp at this; omega)
theorem oneV_vDB (f : VAdmits .src ka .src z t w) : oneV (vD w rest) (vB w rest) = true := by
  have := f.lits
  rw [oneV, vD, vB, vSrc_isLit, vSrc_isLit]
  exact not_both_literal (by simp at this; omega)
theorem oneVE_vD_eB (f : VAdmits .src ka .esrc z t w) : oneVE (vD w rest) (eB w rest) = true := by
  have := f.lits
  rw [oneVE, vD, eB, vSrc_isLit, eSrc_isLit]
  exact not_both_literal (by simp at this; omega)
theorem oneE_eAB (f : VAdmits kd .esrc .esrc z t w) : oneE (eA w rest) (eB w rest) = true := by
  have := f.lits
  rw [oneE, eA, eB, eSrc_isLit, eSrc_isLit]
  exact not_both_literal (by simp at this; omega)

theorem seg_ok (h : segBad w = false) : ((vDir w).segmented || eB w rest == .reg 0) = true := by
  rcases Bool.and_eq_false_iff.1 h with hs | hb
  · rw [(Bool.not_eq_false' _).mp hs]; rfl
  · have h0 : wB w = 0 := by simpa using hb
    rw [eB, h0]
    exact Bool.or_true _
theorem regs_ne (hd : FieldKind.bad .dst (wD w) = false) (hb : FieldKind.bad .dst (wB w) = false)
    (h : (wB w == wD w) = false) : (rB w != rD w) = true := by
  refine bne_iff_ne.2 fun he => beq_eq_false_iff_ne.1 h ?_
  rw [code_dst hd, code_dst hb]
  exact congrArg regCode he
theorem reg_ne_last (h : (wD w == 30) = false) : (rD w != 30) = true := by
  unfold rD; generalize wD w = c at *; revert c; decide
end

end Sys2Proof
end

section
/-! PROOFS. Decode is exact in the stream of the sequencers, row by row of Table 07-4 (R21, R27, R50). -/

namespace Sys2Proof

set_option Elab.async false

section
variable {w : W32} {rest : List W32} {i : Instr} {n : Nat}

theorem percoSys_imm (h : badPercoSys w = false) : wImm w = (0 : BitVec 4) ++ wSys w ∧ percoSysNum (wSys w).toNat = true := by
  obtain ⟨hlt, hs⟩ := Bool.or_eq_false_iff.1 h
  exact ⟨imm_of_sys (of_decide_eq_false hlt), by simpa using hs⟩

theorem narrow_of_wideB (h : wideB w = false) : (!(sB w rest).isWide) = true := by
  rw [isWide_sB, Bool.and_comm]
  exact congrArg (!·) h
theorem code_cls_zero (h : (wCls w != 0) = false) : wCls w = 0 := by simpa using h
theorem code_two_flags (h : (wSub w).toNat < 4) :
    wSub w = (0 : BitVec 4) ++ BitVec.ofBool ((wSub w).getLsbD 1) ++ BitVec.ofBool ((wSub w).getLsbD 0) := by
  generalize wSub w = c at *; revert c; decide

theorem decPerco01_exact (hm : wMaj w = 0x01) (h : decPerco01 w rest = .ok i n) : Exact .perco (w :: rest) i n := by
  unfold decPerco01 at h
  split at h
  case h_13 => cases h
  all_goals
    rename_i hsub
    exact gRow_exact h rfl (take_two fun _ => rfl)
      (fun _ f => eG_join hm (code_dst f.d) code_sA code_sB (wide_two f fun _ => rfl) (code_ints f.ty).1
        (BitVec.eq_of_toNat_eq hsub))
      fun _ f => and_three_iff.2 ⟨oneLit_two f fun _ => rfl, wide64_two f, (code_ints f.ty).2⟩

theorem decPerco23_exact (hm : wMaj w = 0x23) (h : decPerco23 w rest = .ok i n) : Exact .perco (w :: rest) i n := by
  unfold decPerco23 at h
  split at h
  case h_11 => cases h
  all_goals
    rename_i hsub
    exact gRow_exact h rfl (take_two fun _ => rfl)
      (fun _ f => eG_join hm (code_dst f.d) code_sA code_sB (wide_two f fun _ => rfl) (code_word f.ty).1
        (BitVec.eq_of_toNat_eq hsub))
      fun _ f => and_three_iff.2 ⟨oneLit_two f fun _ => rfl, wide64_two f, (code_word f.ty).2⟩

theorem decPerco28_exact (hm : wMaj w = 0x28) (h : decPerco28 w rest = .ok i n) : Exact .perco (w :: rest) i n := by
  unfold decPerco28 at h
  split at h
  case h_1 hsub | h_2 hsub =>
    exact gRow_exact h rfl (take_two fun _ => rfl)
      (fun _ f => eG_join hm (code_zero f.d) code_sA code_sB (wide_two f fun _ => rfl) (code_untyped f.ty)
        (BitVec.eq_of_toNat_eq hsub))
      fun he f => Bool.and_eq_true_iff.2 ⟨oneLit_two f fun _ => rfl, narrow_of_wideB he⟩
  case h_3 hsub =>
    exact gRow_exact h rfl (take_none (fun _ => rfl) fun _ => rfl)
      (fun _ f => eG_join hm (code_zero f.d) (code_zero f.a) (code_zero f.b) (wide_never f) (code_untyped f.ty)
        (BitVec.eq_of_toNat_eq hsub))
      fun _ _ => rfl
  case h_4 => cases h

theorem decPerco2A_exact (hm : wMaj w = 0x2A) (h : decPerco2A w rest = .ok i n) : Exact .perco (w :: rest) i n := by
  unfold decPerco2A at h
  split at h
  case h_1 hsub | h_2 hsub =>
    exact gRow_exact h rfl (take_one fun _ => rfl)
      (fun _ f => eG_join hm (code_dst f.d) code_sA (code_zero f.b) (wide_never f) (code_untyped f.ty)
        (BitVec.eq_of_toNat_eq hsub))
      fun _ f => narrow_sA f
  case h_3 => cases h

theorem decPerco_exact (h : decPerco w rest = .ok i n) : Exact .perco (w :: rest) i n := by
  unfold decPerco at h
  split at h
  case h_1 hm => exact decPerco01_exact hm h
  case h_2 hm => exact liRow_exact h rfl rfl (fun hd ha himm => eI_join hm hd ha himm) rfl
  case h_3 hm =>
    exact iRow_exact h rfl (take_dst_nA fun _ => rfl)
      (fun he hd _ => eM_join hm (code_dst hd) code_nA (code_cls_zero he) rfl rfl) fun _ _ => narrow_nA
  case h_4 hm =>
    exact iRow_exact h rfl take_nD_nA (fun he _ _ => eM_join hm code_nD code_nA (code_cls_zero he) rfl rfl)
      fun _ h1 => narrow_nD_nA h1
  case h_5 hm | h_6 hm | h_7 hm | h_8 hm =>
    exact iRow_exact h rfl take_nD_nA (fun _ _ _ => eI_join hm code_nD code_nA rfl) fun _ h1 => narrow_nD_nA h1
  case h_9 hm | h_10 hm => cases h; exact jRow_exact rfl (eJ_join hm) rfl
  case h_11 hm | h_36 hm | h_37 hm =>
    obtain ⟨hsub, h⟩ := below_eq_ok.1 h
    exact gRow_exact h rfl (take_none (fun _ => rfl) fun _ => rfl)
      (fun _ f => eG_join hm (code_zero f.d) (code_zero f.a) (code_zero f.b) (wide_never f) (code_untyped f.ty)
        (code_sub_below hsub))
      fun _ _ => rfl
  case h_12 hm =>
    exact iRow_exact h rfl (take_dst_nA fun _ => rfl) (fun _ hd _ => eI_join hm (code_zero hd) code_nA rfl)
      fun _ _ => narrow_nA
  case h_13 hm | h_14 hm | h_15 hm | h_16 hm | h_17 hm | h_18 hm | h_19 hm | h_20 hm | h_21 hm | h_22 hm =>
    obtain ⟨hsub, h⟩ := below_eq_ok.1 h
    exact gRow_exact h rfl (take_one fun _ => rfl)
      (fun _ f => eG_join hm (code_zero f.d) code_sA (code_zero f.b) (wide_one f fun _ => rfl) (code_untyped f.ty)
        (code_flag hsub))
      fun _ _ => rfl
  case h_23 hm | h_25 hm | h_34 hm =>
    obtain ⟨hsub, h⟩ := below_eq_ok.1 h
    exact gRow_exact h rfl (take_one fun _ => rfl)
      (fun _ f => eG_join hm (code_dst f.d) code_sA (code_zero f.b) (wide_never f) (code_untyped f.ty)
        (code_sub_below hsub))
      fun _ f => narrow_sA f
  case h_24 hm | h_26 hm | h_27 hm =>
    exact gRow_exact h rfl (take_two fun _ => rfl)
      (fun he f => eG_join hm (code_zero f.d) code_sA code_sB (wide_two f fun _ => rfl) (code_untyped f.ty)
        (code_scope (Bool.or_eq_false_iff.1 he).1))
      fun he f => Bool.and_eq_true_iff.2 ⟨oneLit_two f fun _ => rfl, narrow_of_wideB (Bool.or_eq_false_iff.1 he).2⟩
  case h_28 hm =>
    exact gRow_exact h rfl (take_one fun _ => rfl)
      (fun he f => eG_join hm (code_zero f.d) code_sA (code_zero f.b) (wide_never f) (code_untyped f.ty) (code_scope he))
      fun _ f => narrow_sA f
  case h_29 hm => exact decPerco23_exact hm h
  case h_30 hm =>
    exact gRow_exact h rfl (take_one fun _ => rfl)
      (fun he f => eG_join hm (code_zero f.d) code_sA (code_zero f.b) (wide_one f fun _ => rfl) (code_untyped f.ty)
        (code_scope he))
      fun _ _ => rfl
  case h_31 hm => exact decPerco28_exact hm h
  case h_32 hm =>
    obtain ⟨hsub, h⟩ := below_eq_ok.1 h
    exact gRow_exact h rfl (take_two fun _ => rfl)
      (fun _ f => eG_join hm (code_dst f.d) code_sA code_sB (wide_two f fun _ => rfl) (code_untyped f.ty)
        (code_two_flags hsub))
      fun he f => Bool.and_eq_true_iff.2 ⟨oneLit_two f fun _ => rfl, narrow_of_wideB he⟩
  case h_33 hm => exact decPerco2A_exact hm h
  case h_35 hm =>
    exact iRow_exact h rfl (take_nothing (fun _ => rfl) fun _ => rfl)
      (fun _ hd ha => eI_join hm (code_zero hd) (code_zero ha) rfl) fun _ _ => rfl
  case h_38 hm =>
    exact iRow_exact h rfl (take_nothing (fun _ => rfl) fun _ => rfl)
      (fun he hd ha => eI_join hm (code_dst hd) (code_zero ha) (percoSys_imm he).1) fun he _ => (percoSys_imm he).2
  case h_39 hm =>
    exact iRow_exact h rfl (take_dst_nA fun _ => rfl)
      (fun he hd _ => eI_join hm (code_zero hd) code_nA (percoSys_imm he).1)
      fun he _ => Bool.and_eq_true_iff.2 ⟨narrow_nA, (percoSys_imm he).2⟩
  case h_40 => cases h
end

end Sys2Proof
end

section
/-! PROOFS. Decode is exact in the vector stream, row by row of Tables 04-2 and 05-1 (R21, R27, R48, R50). -/

namespace Sys2Proof

set_option Elab.async false

section
variable {w : W32} {rest : List W32} {i : Instr} {n : Nat}

theorem and_four_iff {a b c d : Bool} : (a && b && c && d) = true ↔ a = true ∧ b = true ∧ c = true ∧ d = true := by
  simp [and_assoc]

theorem decVector1A_exact (hm : wMaj w = 0x1A) (h : decVector1A w rest = .ok i n) :
    Exact .vector (w :: rest) i n := by
  unfold decVector1A at h
  split at h
  case h_1 hsub | h_2 hsub | h_3 hsub | h_4 hsub =>
    exact vRow_exact h rfl (vtake_none (fun _ => rfl) (fun _ => rfl) fun _ => rfl)
      (fun _ _ f => eV_join hm (code_mask f.d).1 (code_lim8 f.a) (code_lim8 f.b) (f.msel rfl) (vty_zero f.ty)
      (BitVec.eq_of_toNat_eq hsub))
      fun _ _ f => (code_mask f.d).2
  case h_5 hsub | h_8 hsub =>
    exact vRow_exact h rfl (vtake_none (fun _ => rfl) (fun _ => rfl) fun _ => rfl)
      (fun _ _ f => eV_join hm (code_mask f.d).1 (code_lim8 f.a) (code_zero f.b) (f.msel rfl) (vty_zero f.ty)
      (BitVec.eq_of_toNat_eq hsub))
      fun _ _ f => (code_mask f.d).2
  case h_6 hsub | h_7 hsub =>
    exact vRow_exact h rfl (vtake_none (fun _ => rfl) (fun _ => rfl) fun _ => rfl)
      (fun _ _ f => eV_join hm (code_mask f.d).1 (code_zero f.a) (code_zero f.b) (f.msel rfl) (vty_zero f.ty)
      (BitVec.eq_of_toNat_eq hsub))
      fun _ _ f => (code_mask f.d).2
  case h_9 => cases h

theorem decVector1B_exact (hm : wMaj w = 0x1B) (h : decVector1B w rest = .ok i n) :
    Exact .vector (w :: rest) i n := by
  unfold decVector1B at h
  split at h
  case h_1 hsub | h_2 hsub =>
    exact vRow_exact h rfl (vtake_none (fun _ => rfl) (fun _ => rfl) fun _ => rfl)
      (fun _ _ f => eV_join hm (code_lim8 f.d) (code_lim8 f.a) (code_zero f.b) (f.msel rfl) (vty_zero f.ty)
      (BitVec.eq_of_toNat_eq hsub))
      fun _ _ _ => rfl
  case h_3 => cases h

theorem decVector21_exact (hm : wMaj w = 0x21) (h : decVector21 w rest = .ok i n) :
    Exact .vector (w :: rest) i n := by
  unfold decVector21 at h
  split at h
  next h3 =>
    exact vRow_exact h rfl (vtake_eB (fun _ => rfl) fun _ => rfl)
      (fun _ _ f => eV_join hm (code_dst f.d) (code_lim8 f.a) (code_eB f.b) code_vM (vty_any f.ty).1 (sub_ragged h3))
      fun _ _ f => (vty_any f.ty).2
  next h3 =>
    split at h
    next => cases h
    next h2 =>
      exact vRow_exact h rfl (vtake_eB (fun _ => rfl) fun _ => rfl)
        (fun _ _ f => eV_join hm (code_dst f.d) (code_lim8 f.a) (code_eB f.b) code_vM (vty_any f.ty).1
          (sub_low2 (Bool.not_eq_true _ ▸ h3) (Bool.not_eq_true _ ▸ h2)))
        fun _ _ f => (vty_any f.ty).2

theorem decVector22_exact (hm : wMaj w = 0x22) (h : decVector22 w rest = .ok i n) :
    Exact .vector (w :: rest) i n := by
  unfold decVector22 at h
  split at h
  next h3 =>
    exact vRow_exact h rfl (vtake_vD_eB fun _ => rfl)
      (fun _ _ f => eV_join hm code_vD (code_lim8 f.a) (code_eB f.b) code_vM (vty_any f.ty).1 (sub_ragged h3))
      fun _ _ f => Bool.and_eq_true_iff.2 ⟨(vty_any f.ty).2, oneVE_vD_eB f⟩
  next h3 =>
    split at h
    next => cases h
    next h2 =>
      exact vRow_exact h rfl (vtake_vD_eB fun _ => rfl)
        (fun _ _ f => eV_join hm code_vD (code_lim8 f.a) (code_eB f.b) code_vM (vty_any f.ty).1
          (sub_low2 (Bool.not_eq_true _ ▸ h3) (Bool.not_eq_true _ ▸ h2)))
        fun _ _ f => Bool.and_eq_true_iff.2 ⟨(vty_any f.ty).2, oneVE_vD_eB f⟩

theorem decVector23_exact (hm : wMaj w = 0x23) (h : decVector23 w rest = .ok i n) :
    Exact .vector (w :: rest) i n := by
  unfold decVector23 at h
  split at h
  case h_1 hsub | h_2 hsub =>
    exact vRow_exact h rfl (vtake_none (fun _ => rfl) (fun _ => rfl) fun _ => rfl)
      (fun _ _ f => eV_join hm (code_dst f.d) (code_lim8 f.a) (code_zero f.b) code_vM (vty_any f.ty).1 (BitVec.eq_of_toNat_eq hsub))
      fun _ _ f => (vty_any f.ty).2
  case h_3 => cases h

theorem decVector28_exact (hm : wMaj w = 0x28) (h : decVector28 w rest = .ok i n) :
    Exact .vector (w :: rest) i n := by
  unfold decVector28 at h
  split at h
  case h_1 hsub =>
    exact vRow_exact h rfl (vtake_vA (fun _ => rfl) fun _ => rfl)
      (fun _ _ f => eV_join hm (code_dst f.d) code_vA (code_zero f.b) code_vM (vty_any f.ty).1 (BitVec.eq_of_toNat_eq hsub))
      fun _ _ f => (vty_any f.ty).2
  case h_2 hsub =>
    exact vRow_exact h rfl (vtake_eAB fun _ => rfl)
      (fun _ _ f => eV_join hm (code_dst f.d) (code_eA f.a) (code_eB f.b) (f.msel rfl) (vty_any f.ty).1
      (BitVec.eq_of_toNat_eq hsub))
      fun _ _ f => Bool.and_eq_true_iff.2 ⟨(vty_any f.ty).2, oneE_eAB f⟩
  case h_3 hsub =>
    exact vRow_exact h rfl (vtake_eB (fun _ => rfl) fun _ => rfl)
      (fun _ _ f => eV_join hm (code_lim8 f.d) (code_dst f.a) (code_eB f.b) (f.msel rfl) (vty_any f.ty).1
      (BitVec.eq_of_toNat_eq hsub))
      fun _ _ f => (vty_any f.ty).2
  case h_4 => cases h

theorem decVector29_exact (hm : wMaj w = 0x29) (h : decVector29 w rest = .ok i n) :
    Exact .vector (w :: rest) i n := by
  unfold decVector29 at h
  split at h
  case h_1 hsub =>
    exact vRow_exact h rfl (vtake_eA (fun _ => rfl) fun _ => rfl)
      (fun _ _ f => eV_join hm (code_dst f.d) (code_eA f.a) (code_zero f.b) code_vM (vty_any f.ty).1
      (BitVec.eq_of_toNat_eq hsub))
      fun _ _ f => (vty_any f.ty).2
  case h_2 hsub | h_3 hsub =>
    exact vRow_exact h rfl (vtake_none (fun _ => rfl) (fun _ => rfl) fun _ => rfl)
      (fun _ _ f => eV_join hm (code_dst f.d) (code_dst f.a) (code_zero f.b) code_vM (vty_any f.ty).1
      (BitVec.eq_of_toNat_eq hsub))
      fun _ _ f => (vty_any f.ty).2
  case h_4 => cases h

theorem decVector2A_exact (hm : wMaj w = 0x2A) (h : decVector2A w rest = .ok i n) :
    Exact .vector (w :: rest) i n := by
  unfold decVector2A at h
  split at h
  case h_1 hsub =>
    exact vRow_exact h rfl (vtake_eA (fun _ => rfl) fun _ => rfl)
      (fun _ _ f => eV_join hm (code_zero f.d) (code_eA f.a) (code_zero f.b) (f.msel rfl) (vty_zero f.ty)
      (BitVec.eq_of_toNat_eq hsub))
      fun _ _ _ => rfl
  case h_2 hsub =>
    exact vRow_exact h rfl (vtake_none (fun _ => rfl) (fun _ => rfl) fun _ => rfl)
      (fun _ _ f => eV_join hm (code_lim8 f.d) (code_zero f.a) (code_zero f.b) (f.msel rfl) (vty_zero f.ty)
      (BitVec.eq_of_toNat_eq hsub))
      fun _ _ _ => rfl
  case h_3 => cases h

theorem decVector2B_exact (hm : wMaj w = 0x2B) (h : decVector2B w rest = .ok i n) :
    Exact .vector (w :: rest) i n := by
  unfold decVector2B at h
  split at h
  case h_1 hsub | h_2 hsub =>
    exact vRow_exact h rfl (vtake_vB (fun _ => rfl) fun _ => rfl)
      (fun _ _ f => eV_join hm (code_dst f.d) (code_dst f.a) code_vB code_vM (vty_any f.ty).1 (BitVec.eq_of_toNat_eq hsub))
      fun _ _ f => (vty_any f.ty).2
  case h_3 => cases h

theorem decVector2D_exact (hm : wMaj w = 0x2D) (h : decVector2D w rest = .ok i n) :
    Exact .vector (w :: rest) i n := by
  unfold decVector2D at h
  split at h
  case h_1 hsub | h_2 hsub | h_3 hsub =>
    exact vRow_exact h rfl (vtake_eB (fun _ => rfl) fun _ => rfl)
      (fun _ _ f => eV_join hm (code_dst f.d) (code_dst f.a) (code_eB f.b) code_vM (vty_any f.ty).1
      (BitVec.eq_of_toNat_eq hsub))
      fun _ _ f => (vty_any f.ty).2
  case h_4 => cases h

theorem decVector2E_exact (hm : wMaj w = 0x2E) (h : decVector2E w rest = .ok i n) :
    Exact .vector (w :: rest) i n := by
  unfold decVector2E at h
  split at h
  case h_1 hlow | h_2 hlow | h_3 hlow =>
    exact vRow_exact h rfl (vtake_eB (fun _ => rfl) fun _ => rfl)
      (fun _ _ f => eV_join hm (code_dst f.d) (code_dst f.a) (code_eB f.b) code_vM (vty_fi f.ty).1
      (sub_dir_of hlow))
      fun _ hre f => Bool.and_eq_true_iff.2 ⟨(vty_fi f.ty).2, seg_ok hre⟩
  case h_4 => cases h

theorem decVector2F_exact (hm : wMaj w = 0x2F) (h : decVector2F w rest = .ok i n) :
    Exact .vector (w :: rest) i n := by
  unfold decVector2F at h
  split at h
  case h_1 hlow | h_2 hlow =>
    exact vRow_exact h rfl (vtake_eB (fun _ => rfl) fun _ => rfl)
      (fun _ _ f => eV_join hm (code_dst f.d) (code_dst f.a) (code_eB f.b) code_vM (vty_wide f.ty).1
      (sub_dir_of hlow))
      fun _ hre f => and_three_iff.2 ⟨(vty_wide f.ty).2, seg_ok (Bool.or_eq_false_iff.1 hre).1,
      reg_ne_last (Bool.or_eq_false_iff.1 hre).2⟩
  case h_3 => cases h

theorem decVector30_exact (hm : wMaj w = 0x30) (h : decVector30 w rest = .ok i n) :
    Exact .vector (w :: rest) i n := by
  unfold decVector30 at h
  split at h
  case h_1 hlow | h_2 hlow | h_3 hlow =>
    exact vRow_exact h rfl (vtake_eB (fun _ => rfl) fun _ => rfl)
      (fun _ _ f => eV_join hm (code_dst f.d) (code_dst f.a) (code_eB f.b) code_vM (vty_fi f.ty).1
      (sub_dir_of hlow))
      fun _ hre f => Bool.and_eq_true_iff.2 ⟨(vty_fi f.ty).2, seg_ok hre⟩
  case h_4 => cases h

theorem decVector31_exact (hm : wMaj w = 0x31) (h : decVector31 w rest = .ok i n) :
    Exact .vector (w :: rest) i n := by
  unfold decVector31 at h
  split at h
  case h_1 hlow | h_2 hlow =>
    exact vRow_exact h rfl (vtake_eB (fun _ => rfl) fun _ => rfl)
      (fun _ _ f => eV_join hm (code_dst f.d) (code_dst f.a) (code_eB f.b) code_vM (vty_fl f.ty).1
      (sub_dir_of hlow))
      fun _ hre f => Bool.and_eq_true_iff.2 ⟨(vty_fl f.ty).2, seg_ok hre⟩
  case h_3 => cases h

theorem decVector34_exact (hm : wMaj w = 0x34) (h : decVector34 w rest = .ok i n) :
    Exact .vector (w :: rest) i n := by
  unfold decVector34 at h
  split at h
  case h_1 hsub | h_2 hsub | h_3 hsub =>
    exact vRow_exact h rfl (vtake_eA (fun _ => rfl) fun _ => rfl)
      (fun _ _ f => eV_join hm (code_lim8 f.d) (code_eA f.a) (code_zero f.b) (f.msel rfl) (vty_zero f.ty)
      (BitVec.eq_of_toNat_eq hsub))
      fun _ _ _ => rfl
  case h_4 hsub =>
    exact vRow_exact h rfl (vtake_none (fun _ => rfl) (fun _ => rfl) fun _ => rfl)
      (fun _ _ f => eV_join hm (code_lim8 f.d) (code_lim8 f.a) (code_zero f.b) (f.msel rfl) (vty_zero f.ty)
      (BitVec.eq_of_toNat_eq hsub))
      fun _ _ _ => rfl
  case h_5 => cases h

theorem decVector3A_exact (hm : wMaj w = 0x3A) (h : decVector3A w rest = .ok i n) :
    Exact .vector (w :: rest) i n := by
  unfold decVector3A at h
  split at h
  case h_1 hsub =>
    exact vRow_exact h rfl (vtake_eB (fun _ => rfl) fun _ => rfl)
      (fun _ _ f => eV_join hm (code_zero f.d) (code_dst f.a) (code_eB f.b) (f.msel rfl) (vty_zero f.ty)
      (BitVec.eq_of_toNat_eq hsub))
      fun _ _ _ => rfl
  case h_2 hsub =>
    exact vRow_exact h rfl (vtake_none (fun _ => rfl) (fun _ => rfl) fun _ => rfl)
      (fun _ _ f => eV_join hm (code_lim8 f.d) (code_dst f.a) (code_zero f.b) (f.msel rfl) (vty_zero f.ty)
      (BitVec.eq_of_toNat_eq hsub))
      fun _ _ _ => rfl
  case h_3 => cases h

theorem decVector3B_exact (hm : wMaj w = 0x3B) (h : decVector3B w rest = .ok i n) :
    Exact .vector (w :: rest) i n := by
  unfold decVector3B at h
  split at h
  case h_1 hsub | h_2 hsub | h_3 hsub =>
    exact vRow_exact h rfl (vtake_eA (fun _ => rfl) fun _ => rfl)
      (fun _ _ f => eV_join hm (code_lim8 f.d) (code_eA f.a) (code_zero f.b) (f.msel rfl) (vty_zero f.ty)
      (BitVec.eq_of_toNat_eq hsub))
      fun _ _ _ => rfl
  case h_4 => cases h

theorem decVector_exact (h : decVector w rest = .ok i n) (hcvt : wMaj w = 0x1C → vcvtBad w = false)
    (hcmp : wMaj w = 0x18 → vcmpBad w = false) : Exact .vector (w :: rest) i n := by
  unfold decVector at h
  split at h
  case h_1 hm | h_2 hm | h_3 hm | h_4 hm =>
    exact vRow_exact h rfl (vtake_vAB fun _ => rfl)
      (fun hil hre f => eV_join hm (code_dst f.d) code_vA code_vB code_vM (vty_fl f.ty).1 (sub_round hil hre))
      fun _ _ f => Bool.and_eq_true_iff.2 ⟨oneV_vAB f, (vty_fl f.ty).2⟩
  case h_5 hm | h_6 hm =>
    exact vRow_exact h rfl (vtake_vAB fun _ => rfl)
      (fun hil _ f => eV_join hm (code_dst f.d) code_vA code_vB code_vM (vty_fl f.ty).1 (sub_plain hil))
      fun _ _ f => Bool.and_eq_true_iff.2 ⟨oneV_vAB f, (vty_fl f.ty).2⟩
  case h_7 hm | h_8 hm | h_9 hm | h_10 hm | h_11 hm =>
    exact vRow_exact h rfl (vtake_vA (fun _ => rfl) fun _ => rfl)
      (fun hil _ f => eV_join hm (code_dst f.d) code_vA (code_zero f.b) code_vM (vty_fl f.ty).1 (sub_plain hil))
      fun _ _ f => (vty_fl f.ty).2
  case h_12 hm | h_13 hm | h_15 hm =>
    exact vRow_exact h rfl (vtake_vAB fun _ => rfl)
      (fun hil _ f => eV_join hm (code_dst f.d) code_vA code_vB code_vM (vty_ints f.ty).1 (sub_sat hil))
      fun _ _ f => Bool.and_eq_true_iff.2 ⟨oneV_vAB f, (vty_ints f.ty).2⟩
  case h_14 hm =>
    exact vRow_exact h rfl (vtake_vAB fun _ => rfl)
      (fun hil _ f => eV_join hm (code_dst f.d) code_vA code_vB code_vM (vty_ints f.ty).1 (sub_high hil))
      fun _ _ f => Bool.and_eq_true_iff.2 ⟨oneV_vAB f, (vty_ints f.ty).2⟩
  case h_16 hm | h_17 hm | h_18 hm | h_19 hm | h_20 hm | h_21 hm =>
    exact vRow_exact h rfl (vtake_vAB fun _ => rfl)
      (fun hil _ f => eV_join hm (code_dst f.d) code_vA code_vB code_vM (vty_ints f.ty).1 (sub_plain hil))
      fun _ _ f => Bool.and_eq_true_iff.2 ⟨oneV_vAB f, (vty_ints f.ty).2⟩
  case h_22 hm | h_23 hm =>
    exact vRow_exact h rfl (vtake_vAB fun _ => rfl)
      (fun hil _ f => eV_join hm (code_dst f.d) code_vA code_vB code_vM (vty_ints f.ty).1 (sub_unsigned hil))
      fun _ _ f => Bool.and_eq_true_iff.2 ⟨oneV_vAB f, (vty_ints f.ty).2⟩
  case h_24 hm =>
    exact vRow_exact h rfl (vtake_vAB fun _ => rfl)
      (fun _ _ f => eV_join hm (code_mask f.d).1 code_vA code_vB code_vM (vty_fi f.ty).1 sub_bit_low3)
      fun _ _ f => Bool.and_eq_true_iff.2 ⟨and_four_iff.2 ⟨oneV_vAB f, (vty_fi f.ty).2, (code_mask f.d).2,
        (vcmp_types (hcmp hm) f.ty).1⟩, (vcmp_types (hcmp hm) f.ty).2⟩
  case h_25 hm =>
    exact vRow_exact h rfl (vtake_vAB fun _ => rfl)
      (fun hil _ f => eV_join hm (code_dst f.d) code_vA code_vB code_vM (vty_any f.ty).1 (sub_plain hil))
      fun _ hre f => and_three_iff.2 ⟨oneV_vAB f, (vty_any f.ty).2, by simpa using hre⟩
  case h_26 hm => exact decVector1A_exact hm h
  case h_27 hm => exact decVector1B_exact hm h
  case h_28 hm =>
    exact vRow_exact h rfl (vtake_none (fun _ => rfl) (fun _ => rfl) fun _ => rfl)
      (fun _ hre f => eV_join hm (code_dst f.d) (code_dst f.a) (vcvt_types (hcvt hm) f.ty).1 code_vM (vty_any f.ty).1
        (sub_round3 hre))
      fun _ _ f => and_four_iff.2 ⟨(vty_any f.ty).2, (vcvt_types (hcvt hm) f.ty).2⟩
  case h_29 hm =>
    exact vRow_exact h rfl (vtake_none (fun _ => rfl) (fun _ => rfl) fun _ => rfl)
      (fun hil hre f => eV_join hm (code_dst f.d) (code_dst f.a) (code_dst f.b) code_vM (vty_nar f.ty).1
        (sub_round hil (Bool.or_eq_false_iff.1 hre).1))
      fun _ hre f => Bool.and_eq_true_iff.2 ⟨(vty_nar f.ty).2, regs_ne f.d f.b (Bool.or_eq_false_iff.1 hre).2⟩
  case h_30 hm =>
    exact vRow_exact h rfl (vtake_none (fun _ => rfl) (fun _ => rfl) fun _ => rfl)
      (fun hil _ f => eV_join hm (code_dst f.d) (code_dst f.a) (code_dst f.b) code_vM (vty_nar f.ty).1 (sub_plain hil))
      fun _ _ f => (vty_nar f.ty).2
  case h_31 hm =>
    exact vRow_exact h rfl (vtake_vA (fun _ => rfl) fun _ => rfl)
      (fun hil hre f => eV_join hm (code_dst f.d) code_vA (code_zero f.b) code_vM (vty_fl f.ty).1
        (sub_round hil (Bool.or_eq_false_iff.1 hre).1))
      fun _ hre f => Bool.and_eq_true_iff.2 ⟨(vty_fl f.ty).2, sub_round_not_rsr (Bool.or_eq_false_iff.1 hre).2⟩
  case h_32 hm =>
    exact vRow_exact h rfl (vtake_none (fun _ => rfl) (fun _ => rfl) fun _ => rfl)
      (fun hil _ f => eV_join hm (code_dst f.d) (code_dst f.a) (code_dst f.b) code_vM (beq_iff_eq.1 f.ty)
        (sub_plain hil))
      fun _ _ _ => rfl
  case h_33 hm => exact decVector21_exact hm h
  case h_34 hm => exact decVector22_exact hm h
  case h_35 hm => exact decVector23_exact hm h
  case h_36 hm =>
    exact vRow_exact h rfl (vtake_vB (fun _ => rfl) fun _ => rfl)
      (fun hil _ f => eV_join hm (code_dst f.d) (code_lim8 f.a) code_vB code_vM (vty_any f.ty).1 (sub_scale hil))
      fun _ _ f => (vty_any f.ty).2
  case h_37 hm =>
    exact vRow_exact h rfl (vtake_vD_vB fun _ => rfl)
      (fun hil _ f => eV_join hm code_vD (code_lim8 f.a) code_vB code_vM (vty_any f.ty).1 (sub_scale hil))
      fun _ _ f => Bool.and_eq_true_iff.2 ⟨(vty_any f.ty).2, oneV_vDB f⟩
  case h_38 hm =>
    exact vRow_exact h rfl (vtake_eB (fun _ => rfl) fun _ => rfl)
      (fun hil _ f => eV_join hm (code_dst f.d) (code_lim4 f.a) (code_eB f.b) code_vM (vty_wide f.ty).1 (sub_plain hil))
      fun _ _ f => (vty_wide f.ty).2
  case h_39 hm =>
    exact vRow_exact h rfl (vtake_none (fun _ => rfl) (fun _ => rfl) fun _ => rfl)
      (fun hil _ f => eV_join hm (code_zero f.d) (code_lim4 f.a) (code_zero f.b) (f.msel rfl) (vty_zero f.ty) (sub_plain hil))
      fun _ _ _ => rfl
  case h_40 hm => exact decVector28_exact hm h
  case h_41 hm => exact decVector29_exact hm h
  case h_42 hm => exact decVector2A_exact hm h
  case h_43 hm => exact decVector2B_exact hm h
  case h_44 hm =>
    exact vRow_exact h rfl (vtake_none (fun _ => rfl) (fun _ => rfl) fun _ => rfl)
      (fun hil _ f => eV_join hm (code_dst f.d) (code_dst f.a) (code_zero f.b) code_vM (vty_any f.ty).1 (sub_plain hil))
      fun _ _ f => (vty_any f.ty).2
  case h_45 hm => exact decVector2D_exact hm h
  case h_46 hm => exact decVector2E_exact hm h
  case h_47 hm => exact decVector2F_exact hm h
  case h_48 hm => exact decVector30_exact hm h
  case h_49 hm => exact decVector31_exact hm h
  case h_50 hm =>
    exact vRow_exact h rfl (vtake_eB (fun _ => rfl) fun _ => rfl)
      (fun hil _ f => eV_join hm (code_dst f.d) (code_dst f.a) (code_eB f.b) code_vM (vty_fl f.ty).1
        (sub_dir_zero (Bool.or_eq_false_iff.1 hil).1 (Bool.or_eq_false_iff.1 hil).2))
      fun _ hre f => Bool.and_eq_true_iff.2 ⟨(vty_fl f.ty).2, seg_ok hre⟩
  case h_51 hm =>
    exact vRow_exact h rfl (vtake_none (fun _ => rfl) (fun _ => rfl) fun _ => rfl)
      (fun _ _ f => eV_join hm (code_dst f.d) (code_dst f.a) (code_zero f.b) code_vM (vty_fl f.ty).1 sub_bit_low3)
      fun hil _ f => Bool.and_eq_true_iff.2 ⟨(vty_fl f.ty).2, congrArg (!·) hil⟩
  case h_52 hm => exact decVector34_exact hm h
  case h_53 hm =>
    exact vRow_exact h rfl (vtake_eA (fun _ => rfl) fun _ => rfl)
      (fun hil _ f => eV_join hm (code_lim8 f.d) (code_eA f.a) (code_zero f.b) (f.msel rfl) (vty_zero f.ty) (sub_plain hil))
      fun _ _ _ => rfl
  case h_54 hm | h_55 hm =>
    exact vRow_exact h rfl (vtake_none (fun _ => rfl) (fun _ => rfl) fun _ => rfl)
      (fun hil _ f => eV_join hm (code_zero f.d) (code_zero f.a) (code_zero f.b) (f.msel rfl) (vty_zero f.ty) (sub_plain hil))
      fun _ _ _ => rfl
  case h_56 hm =>
    exact vRow_exact h rfl (vtake_none (fun _ => rfl) (fun _ => rfl) fun _ => rfl)
      (fun hil _ f => eV_join hm (code_lim8 f.d) (code_zero f.a) (code_zero f.b) (f.msel rfl) (vty_zero f.ty) (sub_fin6 hil))
      fun _ _ _ => rfl
  case h_57 hm =>
    exact vRow_exact h rfl (vtake_none (fun _ => rfl) (fun _ => rfl) fun _ => rfl)
      (fun hil _ f => eV_join hm (code_zero f.d) (code_lim8 f.a) (code_zero f.b) (f.msel rfl) (vty_zero f.ty) (sub_plain hil))
      fun _ _ _ => rfl
  case h_58 hm => exact decVector3A_exact hm h
  case h_59 hm => exact decVector3B_exact hm h
  case h_60 => cases h
end

end Sys2Proof
end

section
namespace Sys2Proof

theorem decode_exact {st : Strm} {ws : List W32} {i : Instr} {n : Nat} (h : decode st ws = .ok i n) : Exact st ws i n := by
  cases ws with
  | nil => cases h
  | cons w rest =>
    cases st with
    | stem => exact decStem_exact h
    | perco => exact decPerco_exact h
    | vector =>
      obtain ⟨h, hcvt, hcmp⟩ := decVectorChecked_eq_ok.1 h
      exact decVector_exact h hcvt hcmp

/-- Settles O56: every row gives back its word from the operands it read, so that encoding them writes the same word. -/
theorem decodeExact : Obligations.DecodeExact := by
  unfold Obligations.DecodeExact
  intro st ws i n h
  obtain ⟨hwf, hs, hpos, hthree, hlen, hwords⟩ := decode_exact h
  exact ⟨hwf, hs, hpos, hthree, hlen, hwords⟩

end Sys2Proof
end

section
/-! PROOFS. Words that no table assigns (R28), the words of the tables, and the state of a cold reset. -/

namespace Sys2Proof

/-- Settles O52: the words evaluate. -/
theorem decodeSamples : Obligations.DecodeSamples := by
  unfold Obligations.DecodeSamples
  decide

theorem decode_unassigned_major {w : W32} (st : Strm) (rest : List W32) (h : wMaj w = 0 ∨ wMaj w = 0x3F) :
    decode st (w :: rest) = .bad .illegalOpcode := by
  cases st with
  | stem => rw [decode_stem]; unfold decStem; rcases h with h | h <;> rw [h] <;> rfl
  | vector => rw [decode_vector]; unfold decVectorChecked decVector; rcases h with h | h <;> rw [h] <;> rfl
  | perco => rw [decode_perco]; unfold decPerco; rcases h with h | h <;> rw [h] <;> rfl

theorem wMaj_eq (w : W32) : wMaj w = w.toNat / 2 ^ 26 := by
  have := w.isLt
  rw [wMaj, BitVec.extractLsb'_toNat, Nat.shiftRight_eq_div_pow, Nat.mod_eq_of_lt (by omega)]

/-- Settles O51: no decoder has a row for either MAJOR. -/
theorem unassignedMajors : Obligations.UnassignedMajors := by
  unfold Obligations.UnassignedMajors
  intro st w rest
  refine ⟨fun h => decode_unassigned_major st rest ?_, decode_unassigned_major st [] (.inl ?_),
    decode_unassigned_major st [] (.inr ?_)⟩
  · rwa [wMaj_eq]
  · decide
  · decide

open Machine in
/-- Settles O40: the event of an unassigned word raises the cause in each stream and does nothing else. -/
theorem unassignedWords : Obligations.UnassignedWords := by
  unfold Obligations.UnassignedWords
  intro s w
  exact ⟨rfl, rfl, rfl⟩

end Sys2Proof

namespace Sys2Proof.Machine

theorem reset_core (c : CoreId) : State.reset.core c = Core.reset := by simp [State.core, State.reset, Vector.get]
theorem reset_runner (d : DieId) : State.reset.runner d = Runner.reset := by
  simp [State.runner, State.reset, Vector.get]
theorem reset_seqr (d : DieId) (n : Fin 16) : State.reset.seqr d n = Seqr.reset := by
  simp [State.seqr, reset_runner, Runner.reset, Vector.get]

theorem State.memOk_reset : State.reset.MemOk := by
  refine ⟨rfl, rfl, fun c => ?_, fun n hn => (List.not_mem_nil hn).elim, fun d n => ?_⟩
  · rw [reset_core]; exact Core.memOk_reset
  · rw [reset_seqr]; exact Seqr.memOk_reset

theorem Core.getX_reset (r : Reg) : Core.reset.getX r = 0 := by revert r; decide
theorem Seqr.getG_reset (r : Reg) : Seqr.reset.getG r = 0 := by revert r; decide

end Sys2Proof.Machine

namespace Sys2Proof

open Machine in
/-- Settles O58: every core and every sequencer is a copy of one reset value, whose fields evaluate. -/
theorem resetState : Obligations.ResetState := by
  unfold Obligations.ResetState
  refine ⟨State.memOk_reset, fun c d n => ?_⟩
  rw [reset_core, reset_seqr]
  exact ⟨by decide, rfl, Core.getX_reset, rfl, rfl, rfl, rfl, rfl, rfl, rfl, rfl, rfl, Seqr.getG_reset, rfl⟩

end Sys2Proof
end

section
/-! PROOFS. The stem's trap entry and single stepping (R32, R89, R129). -/

namespace Sys2Proof.Machine

theorem statusMode_eq (w : Word) (sup psup : Bool) :
    statusMode w sup psup = (w &&& ~~~3) ||| (if sup then 1 else 0) ||| (if psup then 2 else 0) := by
  cases sup <;> cases psup <;> rfl

theorem trapCauseWord_eq (e : Engine) (c : Cause) :
    trapCauseWord e c = BitVec.ofNat 64 (Claims.engineNo e * 64 + c.code) := by
  cases e <;> cases c <;> rfl

section
variable (s : State) (e : Engine) (cause : Cause) (val : Word)

/-- The registers and stores that a trap of the stem leaves as they are. -/
theorem stemTrap_keeps :
    ((s.stemTrap e cause val).core s.cur).stem.x = (s.core s.cur).stem.x ∧
    ((s.stemTrap e cause val).core s.cur).stem.trapvec = (s.core s.cur).stem.trapvec ∧
    (∀ b, ((s.stemTrap e cause val).core b).scratch = (s.core b).scratch) ∧
    (s.stemTrap e cause val).mem = s.mem ∧ (s.stemTrap e cause val).hostMem = s.hostMem := by
  obtain ⟨u, hu, h⟩ := sameBut_stemTrap s e cause val
  obtain ⟨w, l, hw⟩ := hu.core s.cur
  rw [h]
  refine ⟨?_, ?_, fun b => ?_, hu.mem, hu.hostMem⟩
  · simp only [State.modCore_core, hw]
    split <;> rfl
  · simp only [State.modCore_core, hw]
    split <;> rfl
  · obtain ⟨w', l', hb⟩ := hu.core b
    by_cases hc : b = s.cur
    · subst hc
      simp only [State.modCore_core, hw]
      split <;> rfl
    · rw [State.modCore_core_ne _ _ _ _ hc, hb]
end

/-- With SSTEP set, an instruction that leaves the current core k completes and SINGLE_STEP follows (R129). -/
theorem stemRun_steps {s : State} {reads writes : List Reg} {f : Core → Res} {npc : Nat} {k : Core}
    (h : s.regsFree reads writes) (hf : f (s.core s.cur) = .done (s.setCore s.cur k) npc) (hn : npc < 0x10000)
    (hs : statusSstep k.stem.status = true) :
    stemRun reads writes s f = .next ((s.stemDone k npc).stemTrap .stem .singleStep 0) := by
  rw [stemRun_free h, hf]
  have hn' : ¬ 0x10000 ≤ npc := by omega
  simp [State.complete, hn', hs, State.stemDone, State.modCore]

/-- An instruction that goes on past the end of instruction memory raises IMEM_RANGE at itself (R89). -/
theorem stemRun_past {s : State} {reads writes : List Reg} {f : Core → Res} {npc : Nat} (h : s.regsFree reads writes)
    (hf : f (s.core s.cur) = .done s npc) (hn : 0x10000 ≤ npc) :
    stemRun reads writes s f = .next (s.stemTrap .stem .imemRange 0) := by
  rw [stemRun_free h, hf]
  simp only [State.complete, hn, if_true]

theorem exec_nop (s : State) : exec .nop s = stemRun [] [] s fun c => .done s (c.after 1) := rfl
theorem exec_li (d : Reg) (v : LiVal) (s : State) : exec (.li d v) s =
    stemRun [] [d] s fun c => .done (s.setCore s.cur (c.setX d (liValue v))) (c.after (1 + v.words.length)) := rfl

end Sys2Proof.Machine

namespace Sys2Proof
open Machine

theorem stemTrapEntry : Claims.StemTrapEntry := by
  intro s e c v
  obtain ⟨hstatus, hcause, hpc, hval, hvfault, hvec⟩ := stemTrap_registers s e c v
  obtain ⟨hx, htrapvec, hscratch, hmem, hhost⟩ := stemTrap_keeps s e c v
  exact ⟨hstatus.trans (statusMode_eq ..), hcause.trans (trapCauseWord_eq e c), hpc, hval, hvec, hvfault, hx, htrapvec,
    hscratch, hmem, hhost⟩

theorem stemStepping : Claims.StemStepping := by
  intro s d i
  refine ⟨fun h hn hs => ?_, fun h hn hs => ?_, fun h hn => ?_⟩
  · exact (exec_nop s).trans (stemRun_steps h (by rw [State.setCore_self]; rfl) hn hs)
  · exact (exec_li d _ s).trans (stemRun_steps h rfl hn (by rw [Core.setX_stem_status]; exact hs))
  · exact (exec_nop s).trans (stemRun_past h rfl hn)

/-- Settles O19: the law of a trap's registers, and the two ways a completion ends in a trap. -/
theorem stemTraps : Obligations.StemTraps := by
  unfold Obligations.StemTraps
  exact ⟨stemTrapEntry, stemStepping⟩

end Sys2Proof
end

section
/-! PROOFS. The reads and writes of the stem's system registers (R30, R33, R74, R130). -/

namespace Sys2Proof.Machine

section
variable {s : State} {a : Src} {d : Reg} {r : BitVec 12} {k : Core} {c : Cause} {v : Word}

theorem exec_sysrd (s : State) (d : Reg) (r : BitVec 12) : exec (.sysrd d r) s = execSysrd d r s := rfl
theorem exec_syswr (s : State) (a : Src) (r : BitVec 12) : exec (.syswr a r) s = execSyswr a r s := rfl

theorem sysNoUser_iff {n : Nat} : sysNoUser n = true ↔ 1 ≤ n ∧ n ≤ 6 := by simp [sysNoUser]

theorem sysrd_allowed (h : s.regsFree [] [d]) (hp : s.plain (Claims.after s []))
    (hok : (sysNoUser r.toNat && !statusSup (s.core s.cur).stem.status) = false) (hv : s.readSys (s.core s.cur) r.toNat = v) :
    exec (.sysrd d r) s = Claims.setsX s d v (Claims.after s []) := by
  rw [exec_sysrd]
  refine stemRun_core h ?_ hp.1 (by rw [Core.setX_stem_status]; exact hp.2)
  rw [hok, hv]; rfl

theorem sysrd_refused (h : s.regsFree [] [d]) (hno : sysNoUser r.toNat = true)
    (hsup : statusSup (s.core s.cur).stem.status = false) :
    exec (.sysrd d r) s = Claims.traps s .privViolation (s.core s.cur).firstWord := by
  rw [exec_sysrd]
  exact stemRun_trap h (by rw [hno, hsup]; rfl)

/-- No write of the register r is refused for the mode, and none waits for an engine. -/
structure MayWrite (s : State) (r : BitVec 12) : Prop where
  mode : (sysFixed r.toNat || (sysUserRo r.toNat && !statusSup (s.core s.cur).stem.status)) = false
  order : (sysOrdered r.toNat && !((s.core s.cur).enginesIdle && (r.toNat != 0xB || !(s.core s.cur).anyFilling))) = false

theorem syswr_done (h : s.regsFree (srcRegs a) []) (hm : MayWrite s r)
    (hk : (s.core s.cur).writeSys r.toNat ((s.core s.cur).src a) = .ok k) (hp : s.plain (Claims.after s [a]))
    (hs : statusSstep k.stem.status = false) : exec (.syswr a r) s = Claims.leaves s k [a] := by
  rw [exec_syswr]
  refine stemRun_core h ?_ hp.1 hs
  rw [hm.mode, hm.order, hk]; rfl

theorem syswr_error (h : s.regsFree (srcRegs a) []) (hm : MayWrite s r)
    (hk : (s.core s.cur).writeSys r.toNat ((s.core s.cur).src a) = .error (c, v)) :
    exec (.syswr a r) s = Claims.traps s c v := by
  rw [exec_syswr]
  exact stemRun_trap h (by rw [hm.mode, hm.order, hk]; rfl)

theorem syswr_refused (h : s.regsFree (srcRegs a) [])
    (hm : (sysFixed r.toNat || (sysUserRo r.toNat && !statusSup (s.core s.cur).stem.status)) = true) :
    exec (.syswr a r) s = Claims.traps s .privViolation (s.core s.cur).firstWord := by
  rw [exec_syswr]
  exact stemRun_trap h (by rw [hm]; rfl)

theorem not_fixed_of_ordered {n : Nat} (h : 10 ≤ n) (b : Bool) : (sysFixed n || (sysUserRo n && b)) = false := by
  simp [sysFixed, sysUserRo, sysNoUser]
  omega

theorem syswr_waits (h : s.regsFree (srcRegs a) []) (hi : (s.core s.cur).enginesIdle = false) (hr : 10 ≤ r.toNat) :
    exec (.syswr a r) s = Claims.waits s := by
  rw [exec_syswr]
  have ho : sysOrdered r.toNat = true := decide_eq_true hr
  exact stemRun_wait h (by rw [not_fixed_of_ordered hr, ho, hi]; rfl)

theorem mayWrite_low (hsup : Claims.supervisor s = true) (h1 : r.toNat ≤ 5) (h2 : r.toNat ≠ 1) : MayWrite s r := by
  have hsup' : statusSup (s.core s.cur).stem.status = true := hsup
  refine ⟨?_, ?_⟩
  · simp [sysFixed, hsup']; omega
  · have ho : sysOrdered r.toNat = false := decide_eq_false (by omega)
    rw [ho]; rfl

theorem mayWrite_high (hi : (s.core s.cur).enginesIdle = true) (hr : 10 ≤ r.toNat)
    (hf : r.toNat = 11 → (s.core s.cur).anyFilling = false) : MayWrite s r := by
  refine ⟨not_fixed_of_ordered hr _, ?_⟩
  rw [hi]
  by_cases h : r.toNat = 11
  · simp [h, hf h]
  · simp [h]

theorem vset_eq_setIfInBounds {α : Type} {n : Nat} (l : Vector α n) (i : Fin n) (x : α) :
    l.setIfInBounds i.val x = l.set i.val x i.isLt := by
  ext j hj
  simp [Vector.getElem_setIfInBounds, Vector.getElem_set]

theorem writeSys_gfmt (k : Core) (i : Fin 4) (v : Word) : k.writeSys (16 + i.val) v =
    if gfmtOk v then .ok (k.setStem { k.stem with gfmt := k.stem.gfmt.set i.val v i.isLt })
    else .error (.formatInvalid, 0) := by
  rw [← vset_eq_setIfInBounds]
  match i with
  | 0 | 1 | 2 | 3 => rfl
theorem writeSys_fmt (k : Core) (i : Fin 8) (v : Word) : k.writeSys (24 + i.val) v =
    if fmtOk v then .ok (k.setStem { k.stem with fmt := k.stem.fmt.set i.val v i.isLt })
    else .error (.formatInvalid, 0) := by
  rw [← vset_eq_setIfInBounds]
  match i with
  | 0 | 1 | 2 | 3 | 4 | 5 | 6 | 7 => rfl

theorem gfmtNum_toNat (i : Fin 4) : (BitVec.ofNat 12 (16 + i.val)).toNat = 16 + i.val := by revert i; decide
theorem fmtNum_toNat (i : Fin 8) : (BitVec.ofNat 12 (24 + i.val)).toNat = 24 + i.val := by revert i; decide

theorem pwindowBase_eq (v : Word) : pwindowBase v = 2048 * (v.toNat / 2 ^ 11 % 2 ^ 10) := by
  rw [pwindowBase, BitVec.extractLsb'_toNat, Nat.shiftRight_eq_div_pow, Nat.mul_comm]

theorem sstep_masked (x v : Word) : statusSstep ((x &&& ~~~statusWritable) ||| (v &&& statusWritable)) = statusSstep v := by
  simp [statusSstep, statusWritable]
end

end Sys2Proof.Machine
namespace Sys2Proof
open Machine

theorem vtoArray_getD {α : Type} {n : Nat} (l : Vector α n) (i : Fin n) (x : α) : l.toArray.getD i.val x = l[i] := by
  simp [Array.getD]

theorem readSys_gfmt (s : State) (k : Core) (i : Fin 4) : s.readSys k (16 + i.val) = k.stem.gfmt[i] := by
  rw [← vtoArray_getD _ i 0]
  match i with
  | 0 | 1 | 2 | 3 => rfl
theorem readSys_fmt (s : State) (k : Core) (i : Fin 8) : s.readSys k (24 + i.val) = k.stem.fmt[i] := by
  rw [← vtoArray_getD _ i 0]
  match i with
  | 0 | 1 | 2 | 3 | 4 | 5 | 6 | 7 => rfl

/-- Each number of Table 01-11 reads the register that it names. -/
theorem readSys_sysValues (s : State) : ∀ p ∈ Claims.sysValues s, s.readSys (s.core s.cur) p.1.toNat = p.2 := by
  simp only [Claims.sysValues, List.forall_mem_cons]
  exact ⟨rfl, rfl, rfl, rfl, rfl, rfl, rfl, (BitVec.ofNat_toNat ..).symm, rfl, rfl, rfl, rfl,
    readSys_gfmt s _ 0, readSys_gfmt s _ 1, readSys_gfmt s _ 2, readSys_gfmt s _ 3,
    readSys_fmt s _ 0, readSys_fmt s _ 1, readSys_fmt s _ 2, readSys_fmt s _ 3, readSys_fmt s _ 4, readSys_fmt s _ 5,
    readSys_fmt s _ 6, readSys_fmt s _ 7, nofun⟩

theorem stemSysrd : Claims.StemSysrd := by
  intro s d h p hp
  refine ⟨fun hm hpl => sysrd_allowed h hpl ?_ (readSys_sysValues s p hp), fun hu h1 h6 =>
    sysrd_refused h (sysNoUser_iff.2 ⟨h1, h6⟩) hu⟩
  rcases hm with hs | h0 | h7
  · have hs' : statusSup (s.core s.cur).stem.status = true := hs
    rw [hs']; exact Bool.and_false _
  · rw [h0]; rfl
  · have hn : sysNoUser p.1.toNat = false := by simp [sysNoUser]; omega
    rw [hn]; rfl

theorem stemSyswr : Claims.StemSyswr := by
  intro s a h
  refine ⟨fun r hr => syswr_refused h ?_, fun hp hsup => ?_, fun hi r hr => syswr_waits h hi hr, fun hi hp => ?_⟩
  · rcases hr with rfl | ⟨h6, h9⟩ | ⟨hu, h6⟩
    · rfl
    · simp [sysFixed]; omega
    · have hu' : statusSup (s.core s.cur).stem.status = false := hu
      simp [sysFixed, sysUserRo, sysNoUser, hu']; omega
  · refine ⟨fun hs => ?_, ?_, ?_, ?_, ?_⟩
    · exact syswr_done h (mayWrite_low hsup (by decide) (by decide)) rfl hp ((sstep_masked _ _).trans hs)
    all_goals exact syswr_done h (mayWrite_low hsup (by decide) (by decide)) rfl hp hp.2
  · refine ⟨?_, fun hf => ⟨fun hen hout => ?_, fun hok => ?_⟩, fun i hok => ?_, fun i hok => ?_, fun i hbad => ?_,
      fun i hbad => ?_⟩
    · exact syswr_done h (mayWrite_high hi (by decide) fun h => absurd h (by decide)) rfl hp hp.2
    · refine syswr_error h (mayWrite_high hi (by decide) fun _ => hf) ?_
      rw [← pwindowBase_eq] at hout ⊢
      have hcond : (pwindowEn ((s.core s.cur).src a) &&
          decide (scratchSize < pwindowBase ((s.core s.cur).src a) + 0x80000)) = true :=
        Bool.and_eq_true_iff.2 ⟨hen, decide_eq_true hout⟩
      exact if_pos hcond
    · refine syswr_done h (mayWrite_high hi (by decide) fun _ => hf) ?_ hp hp.2
      rw [← pwindowBase_eq] at hok
      have hcond : ¬(pwindowEn ((s.core s.cur).src a) &&
          decide (scratchSize < pwindowBase ((s.core s.cur).src a) + 0x80000)) = true := by
        rw [Bool.and_eq_true_iff]
        rintro ⟨hen, hout⟩
        have hout' := of_decide_eq_true hout
        rcases hok with hok | hok
        · exact absurd (hen.symm.trans hok) (by decide)
        · exact absurd hout' (Nat.not_lt.2 hok)
      exact if_neg hcond
    · refine syswr_done h (mayWrite_high hi ?_ ?_) ?_ hp hp.2
      · rw [gfmtNum_toNat]; omega
      · rw [gfmtNum_toNat]; omega
      · rw [gfmtNum_toNat, writeSys_gfmt, if_pos hok]
    · refine syswr_done h (mayWrite_high hi ?_ ?_) ?_ hp hp.2
      · rw [fmtNum_toNat]; omega
      · rw [fmtNum_toNat]; omega
      · rw [fmtNum_toNat, writeSys_fmt, if_pos hok]
    · refine syswr_error h (mayWrite_high hi ?_ ?_) ?_
      · rw [gfmtNum_toNat]; omega
      · rw [gfmtNum_toNat]; omega
      · rw [gfmtNum_toNat, writeSys_gfmt, hbad]; rfl
    · refine syswr_error h (mayWrite_high hi ?_ ?_) ?_
      · rw [fmtNum_toNat]; omega
      · rw [fmtNum_toNat]; omega
      · rw [fmtNum_toNat, writeSys_fmt, hbad]; rfl

/-- Settles O15: a read or write is allowed, refused or waits by its number and the mode, before it acts. -/
theorem stemSystem : Obligations.StemSystem := by
  unfold Obligations.StemSystem
  exact ⟨stemSysrd, stemSyswr⟩

end Sys2Proof
end

section
/-! PROOFS. The privileged and system instructions of the sequencers (R49, R226, R227, R266-R270). -/

namespace Sys2Proof.Machine

/-! ### How an instruction of the current sequencer completes -/

section
variable {s t : State} {priv : Bool} {f : Seqr → PRes} {npc v : Word} {d : Reg} {g : Seqr → Seqr}

theorem modCurSeq_modCurSeq (s : State) (f g : Seqr → Seqr) :
    (s.modCurSeq f).modCurSeq g = s.modSeq s.curDie s.curSeq fun q => g (f q) := State.modSeq_modSeq ..

theorem percoRun_pDone (hp : priv = true → s.curSeqr.tag.sup = true) (hf : f s.curSeqr = .done (s.modCurSeq g) npc) :
    percoRun priv s f = Claims.pDone s g npc := by
  rw [percoRun_done hp hf, modCurSeq_modCurSeq]; rfl

theorem percoRun_pSets (hp : priv = true → s.curSeqr.tag.sup = true)
    (hf : f s.curSeqr = .done (s.modCurSeq fun q => q.setG d v) npc) : percoRun priv s f = Claims.pSets s d v npc :=
  percoRun_pDone hp hf

theorem modRunner_id (s : State) (d : DieId) : s.modRunner d id = s := by
  have h : s.dies.set d.val (s.runner d) d.isLt = s.dies := vset_get ..
  show { s with dies := s.dies.set d.val (s.runner d) d.isLt } = s
  rw [h]
end

/-! ### The system registers -/

theorem seqNum_eq (n : Fin 16) (d : DieId) (b : Bool) :
    BitVec.ofNat 64 (2 ^ 20 * n.val + 2 ^ 16 * d.val) ||| bit b =
      BitVec.ofNat 64 (2 ^ 20 * n.val + 2 ^ 16 * d.val + if b then 1 else 0) := by
  revert n d b; decide

theorem and_low32 (v : Word) : v &&& 0xFFFFFFFF = (v.setWidth 32).setWidth 64 := by
  apply BitVec.eq_of_getLsbD_eq; intro i hi
  have hm : (0xFFFFFFFF : Word) = (BitVec.allOnes 32).setWidth 64 := by decide
  rw [hm]
  simp only [BitVec.getLsbD_and, BitVec.getLsbD_setWidth, BitVec.getLsbD_allOnes]
  by_cases h : i < 32 <;> simp [h, hi]

/-! ### TLBINV -/

theorem requestsOut_congr {s t : State} (f : BitVec 16 → Bool) (hb : ∀ c, (t.core c).bankq = (s.core c).bankq)
    (ha : ∀ c, t.ratomsOf c = s.ratomsOf c) (hp : ∀ d, (t.runner d).posted = (s.runner d).posted)
    (hs : ∀ d, (t.runner d).seqs = (s.runner d).seqs) (hh : ∀ d, (t.runner d).hbmq = (s.runner d).hbmq)
    (hw : ∀ d, (t.runner d).srcWins = (s.runner d).srcWins) : t.requestsOut f = s.requestsOut f := by
  simp only [State.requestsOut, hb, ha, hp, hs, hh, hw]

/-- The die with the translations dropped. -/
def Runner.dropped (r : Runner) (f : TlbEntry → Bool) (w : WalkEntry → Bool) : Runner :=
  { r with tlb := r.tlb.filter fun e => !f e, walks := r.walks.filter fun e => !w e }

section
variable (s : State) (f : TlbEntry → Bool) (w : WalkEntry → Bool) (g : Watch → Bool)

/-- Dropping translations changes the caches of every die, and answers watches. -/
theorem sameBut_dropTlb :
    SameButWatches { s with dies := s.dies.map fun r => r.dropped f w } (s.dropTlb f w g) := by
  unfold State.dropTlb
  show SameButWatches _ (List.foldl _ { s with dies := s.dies.map fun r => r.dropped f w } allDies)
  generalize allDies = l
  generalize ({ s with dies := s.dies.map fun r => r.dropped f w } : State) = t
  induction l generalizing t with
  | nil => exact .refl t
  | cons d l ih => exact (sameBut_fireOn ..).trans (ih _)

theorem dropTlb_runner (d : DieId) :
    ∃ l m, (s.dropTlb f w g).runner d = { (s.runner d).dropped f w with watches := l, messages := m } := by
  obtain ⟨l, m, h⟩ := (sameBut_dropTlb s f w g).runner d
  refine ⟨l, m, h.trans ?_⟩
  have hd : State.runner { s with dies := s.dies.map fun r => r.dropped f w } d = (s.runner d).dropped f w :=
    Vector.getElem_map ..
  rw [hd]

theorem dropTlb_core (c : CoreId) : ∃ x l, (s.dropTlb f w g).core c = (s.core c).withWaita x l :=
  (sameBut_dropTlb s f w g).core c

theorem sameSeqs_dropTlb : SameSeqs s (s.dropTlb f w g) := by
  refine ⟨(sameBut_dropTlb s f w g).curDie, (sameBut_dropTlb s f w g).curSeq, fun d n => ?_⟩
  obtain ⟨l, m, h⟩ := dropTlb_runner s f w g d
  rw [State.seqr, h]; rfl

theorem requestsOut_dropTlb (c : BitVec 16 → Bool) : (s.dropTlb f w g).requestsOut c = s.requestsOut c := by
  refine requestsOut_congr c (fun x => ?_) (fun x => ?_) (fun d => ?_) (fun d => ?_) (fun d => ?_) fun d => ?_
  case refine_1 => obtain ⟨y, l, h⟩ := dropTlb_core s f w g x; rw [h]
  case refine_2 =>
    obtain ⟨y, l, h⟩ := dropTlb_core s f w g x
    rw [State.ratomsOf, h, (sameBut_dropTlb s f w g).pkg]; rfl
  all_goals obtain ⟨l, m, h⟩ := dropTlb_runner s f w g d; rw [h]; rfl
end

theorem modSeq_runner_tlb (s : State) (d x : DieId) (n : Fin 16) (f : Seqr → Seqr) :
    ((s.modSeq d n f).runner x).tlb = (s.runner x).tlb ∧ ((s.modSeq d n f).runner x).walks = (s.runner x).walks := by
  unfold State.modSeq
  by_cases h : x = d
  · subst h; rw [State.modRunner_runner]; exact ⟨rfl, rfl⟩
  · rw [State.modRunner_runner_ne _ _ _ _ h]; exact ⟨rfl, rfl⟩

theorem curSeqr_modCurSeq {s t : State} (h : SameSeqs s t) (f : Seqr → Seqr) : (t.modCurSeq f).curSeqr = f s.curSeqr := by
  show (t.modSeq t.curDie t.curSeq f).seqr t.curDie t.curSeq = _
  rw [State.modSeq_seqr, h.die, h.seq, h.seqs]; rfl
theorem curSeqr_progWait {s t : State} (h : SameSeqs s t) :
    (t.progWait s.curDie s.curSeq).curSeqr.pc = s.curSeqr.pc := by
  show ((t.modSeq s.curDie s.curSeq _).seqr t.curDie t.curSeq).pc = _
  rw [h.die, h.seq, State.modSeq_seqr, h.seqs]; rfl

/-- TLBINV of a supervisor program: the translations go, and the program waits for the requests of its contexts. -/
theorem tlbRun_spec {s : State} {words : Nat} {ctxs : Seqr → BitVec 16 → Bool} {f : Seqr → TlbEntry → Bool}
    {w : Seqr → WalkEntry → Bool} {g : Seqr → Watch → Bool} (hp : s.curSeqr.tag.sup = true) :
    ∃ u, tlbRun words s ctxs f w g = .next u ∧
      (∀ x, (u.runner x).tlb = (s.runner x).tlb.filter (fun e => !f s.curSeqr e) ∧
        (u.runner x).walks = (s.runner x).walks.filter fun e => !w s.curSeqr e) ∧
      u.mem = s.mem ∧
      (s.requestsOut (ctxs s.curSeqr) = false → u.curSeqr = s.curSeqr.advance false (s.curSeqr.after words)) ∧
      (s.requestsOut (ctxs s.curSeqr) = true → u.curSeqr.pc = s.curSeqr.pc) := by
  have hseqs := sameSeqs_dropTlb s (f s.curSeqr) (w s.curSeqr) (g s.curSeqr)
  have hmem := (sameBut_dropTlb s (f s.curSeqr) (w s.curSeqr) (g s.curSeqr)).mem
  have htlb := fun x d n k => modSeq_runner_tlb (s.dropTlb (f s.curSeqr) (w s.curSeqr) (g s.curSeqr)) d x n k
  have hrun := dropTlb_runner s (f s.curSeqr) (w s.curSeqr) (g s.curSeqr)
  have hcaches : ∀ x d n k,
      (((s.dropTlb (f s.curSeqr) (w s.curSeqr) (g s.curSeqr)).modSeq d n k).runner x).tlb =
        (s.runner x).tlb.filter (fun e => !f s.curSeqr e) ∧
      (((s.dropTlb (f s.curSeqr) (w s.curSeqr) (g s.curSeqr)).modSeq d n k).runner x).walks =
        (s.runner x).walks.filter fun e => !w s.curSeqr e := by
    intro x d n k
    obtain ⟨l, m, h⟩ := hrun x
    rw [(htlb x d n k).1, (htlb x d n k).2, h]
    exact ⟨rfl, rfl⟩
  have hout := requestsOut_dropTlb s (f s.curSeqr) (w s.curSeqr) (g s.curSeqr) (ctxs s.curSeqr)
  cases hr : s.requestsOut (ctxs s.curSeqr) with
  | true =>
    exact ⟨_, percoRun_wait (fun _ => hp) (if_pos (hout.trans hr)), fun x => hcaches x _ _ _, (State.modSeq_mem ..).trans hmem, nofun,
      fun _ => curSeqr_progWait hseqs⟩
  | false =>
    have hf : ¬ (s.dropTlb (f s.curSeqr) (w s.curSeqr) (g s.curSeqr)).requestsOut (ctxs s.curSeqr) = true := by
      rw [hout, hr]; decide
    exact ⟨_, percoRun_done (fun _ => hp) (if_neg hf), fun x => hcaches x _ _ _, (State.modSeq_mem ..).trans hmem,
      fun _ => curSeqr_modCurSeq hseqs _, nofun⟩

end Sys2Proof.Machine
end

section
namespace Sys2Proof.Machine

/-! ### KILLCTX -/

theorem sameSeqs_core (s : State) (c : CoreId) (f : Core → Core) : SameSeqs s (s.modCore c f) := ⟨rfl, rfl, fun _ _ => rfl⟩

theorem sameSeqs_endGrain (s : State) (c : CoreId) (f : Nest → Nest) : SameSeqs s (s.endGrain c f) := by
  unfold State.endGrain
  split
  · exact .refl s
  · exact ((sameSeqs_watch (sameBut_cancelWaita s c)).trans (sameSeqs_core ..)).trans (sameSeqs_pkg ..)

theorem sameSeqs_endGrains (l : List CoreId) (f : Nest → Nest) : ∀ s, SameSeqs s (s.endGrains l f) := by
  induction l with
  | nil => exact fun s => .refl s
  | cons c l ih => exact fun s => (sameSeqs_endGrain s c f).trans (ih _)

theorem sameSeqs_requestStop (why : Option Nat) (l : List CoreId) : ∀ s, SameSeqs s (s.requestStop why l) := by
  induction l with
  | nil => exact fun s => .refl s
  | cons c l ih =>
    intro s
    refine SameSeqs.trans ?_ (ih _)
    dsimp only
    split
    · exact (sameSeqs_watch (sameBut_cancelWaita s c)).trans (sameSeqs_core ..)
    · exact .refl s

theorem sameSeqs_killStart (s : State) (ctx : BitVec 16) (d : DieId) (n : Fin 16) (k : KillBy) :
    SameSeqs s (s.killStart ctx d n k) := by
  unfold State.killStart State.haltCtx
  exact ((((sameSeqs_pkg ..).trans (sameSeqs_requestStop ..)).trans (sameSeqs_endGrains ..)).trans (sameSeqs_pkg ..)).trans
    (sameSeqs_pkg ..)

theorem killStart_kills (s : State) (ctx : BitVec 16) (d : DieId) (n : Fin 16) (k : KillBy) :
    ⟨d, n, ctx, 0, 0, k, .halting, [], [], false⟩ ∈ (s.killStart ctx d n k).pkg.kills :=
  List.mem_append_right _ (List.mem_singleton.2 rfl)

theorem not_killing {p : Package} {ctx : BitVec 16} : p.killing ctx = false ↔ ∀ k ∈ p.kills, k.ctx ≠ ctx := by
  simp [Package.killing]
theorem killing_iff {p : Package} {ctx : BitVec 16} : p.killing ctx = true ↔ ∃ k ∈ p.kills, k.ctx = ctx := by
  simp [Package.killing]

theorem exec_killctx (s : State) (d : Reg) (a : Src) : exec (.killctx d a) s = execKillctx d a s := rfl
theorem exec_mapchk (s : State) (d : Reg) (a b : Src) (sup wr : Bool) :
    exec (.mapchk d a b sup wr) s = execMapchk d a b sup wr s := rfl
theorem exec_percoSysrd (s : State) (d : Reg) (r : BitVec 12) : exec (.percoSysrd d r) s = execPercoSysrd d r s := rfl

/-- KILLCTX's program waits for the drain of the kill that it has begun. -/
theorem killStart_waits (s : State) (ctx : BitVec 16) :
    let t := s.killStart ctx s.curDie s.curSeq .prog
    let u := (t.modCurSeq fun q => { q with wait := some (.drain 0) }).progWait s.curDie s.curSeq
    ⟨s.curDie, s.curSeq, ctx, 0, 0, .prog, .halting, [], [], false⟩ ∈ u.pkg.kills ∧
      (u.seqr s.curDie s.curSeq).wait = some (.drain 0) := by
  have hs := sameSeqs_killStart s ctx s.curDie s.curSeq .prog
  have hk := killStart_kills s ctx s.curDie s.curSeq .prog
  dsimp only
  generalize s.killStart ctx s.curDie s.curSeq .prog = t at hs hk ⊢
  refine ⟨hk, ?_⟩
  rw [State.progWait, State.modSeq_seqr, State.modCurSeq, hs.die, hs.seq, State.modSeq_seqr]

section
variable {s : State} {d : Reg} {a b : Src} {sup wr : Bool} {t : State}

theorem killctx_answered {v : Word} (hp : s.curSeqr.tag.sup = true) (hw : s.curSeqr.wait = some (.answered v)) :
    exec (.killctx d a) s = Claims.pSets s d v (Claims.pAfter s [a]) := by
  rw [exec_killctx, execKillctx]
  refine percoRun_pSets (fun _ => hp) ?_
  dsimp only
  rw [hw]; rfl

theorem killctx_draining {n : Nat} (hp : s.curSeqr.tag.sup = true) (hw : s.curSeqr.wait = some (.drain n)) :
    exec (.killctx d a) s = if s.pkg.killing ((s.curSeqr.src a).setWidth 16) then Claims.pWaits s
      else Claims.pSets s d 0 (Claims.pAfter s [a]) := by
  rw [exec_killctx, execKillctx]
  cases hk : s.pkg.killing ((s.curSeqr.src a).setWidth 16) with
  | true =>
    refine percoRun_wait (fun _ => hp) ?_
    dsimp only
    rw [hw]; exact if_pos hk
  | false =>
    refine percoRun_pSets (fun _ => hp) ?_
    dsimp only
    rw [hw]; exact if_neg (by rw [hk]; decide)

theorem killctx_first (hp : s.curSeqr.tag.sup = true) (hw : s.curSeqr.wait = none)
    (hk : s.pkg.killing ((s.curSeqr.src a).setWidth 16) = false) :
    exec (.killctx d a) s = .next
      (((s.killStart ((s.curSeqr.src a).setWidth 16) s.curDie s.curSeq .prog).modCurSeq fun q =>
        { q with wait := some (.drain 0) }).progWait s.curDie s.curSeq) := by
  rw [exec_killctx, execKillctx]
  refine percoRun_wait (fun _ => hp) ?_
  dsimp only
  rw [hw]
  dsimp only
  rw [hk, if_neg Bool.false_ne_true]

theorem killctx_second (hp : s.curSeqr.tag.sup = true) (hw : s.curSeqr.wait = none)
    (hk : s.pkg.killing ((s.curSeqr.src a).setWidth 16) = true) :
    exec (.killctx d a) s = .next
      ((s.modCurSeq fun q => { q with wait := some (.drain 0) }).progWait s.curDie s.curSeq) := by
  rw [exec_killctx, execKillctx]
  refine percoRun_wait (fun _ => hp) ?_
  dsimp only
  rw [hw]
  dsimp only
  rw [hk, if_pos rfl]

/-! ### MAPCHK and RESUME -/

theorem mapchk_noCtx (hp : s.curSeqr.tag.sup = true)
    (h : s.lookup s.curDie ((s.curSeqr.src b).setWidth 16) (s.curSeqr.src a).toNat = .noCtx) :
    exec (.mapchk d a b sup wr) s = Claims.pSets s d 62 (Claims.pAfter s [a, b]) := by
  rw [exec_mapchk, execMapchk]
  refine percoRun_pSets (fun _ => hp) ?_
  dsimp only
  rw [h]; rfl

theorem mapchk_bad {c : Cause} (hp : s.curSeqr.tag.sup = true)
    (h : s.lookup s.curDie ((s.curSeqr.src b).setWidth 16) (s.curSeqr.src a).toNat = .bad c) :
    exec (.mapchk d a b sup wr) s = Claims.pSets s d (BitVec.ofNat 64 c.code) (Claims.pAfter s [a, b]) := by
  rw [exec_mapchk, execMapchk]
  refine percoRun_pSets (fun _ => hp) ?_
  dsimp only
  rw [h]; rfl

theorem mapchk_leaf {e : TlbEntry} {fill : Runner → Runner} (hp : s.curSeqr.tag.sup = true)
    (h : s.lookup s.curDie ((s.curSeqr.src b).setWidth 16) (s.curSeqr.src a).toNat = .leaf e fill) :
    exec (.mapchk d a b sup wr) s = if permOk e.perms sup (if wr then .write else .read)
      then Claims.pSets (s.modRunner s.curDie fill) d 0 (Claims.pAfter s [a, b])
      else Claims.pSets s d 37 (Claims.pAfter s [a, b]) := by
  rw [exec_mapchk, execMapchk]
  cases hk : permOk e.perms sup (if wr then .write else .read) with
  | true =>
    refine (percoRun_done (t := (s.modRunner s.curDie fill).modCurSeq fun q => q.setG d 0) (npc := Claims.pAfter s [a, b])
      (fun _ => hp) ?_).trans ?_
    · dsimp only
      rw [h]; exact if_pos hk
    · rw [modCurSeq_modCurSeq]; rfl
  | false =>
    refine percoRun_pSets (fun _ => hp) ?_
    dsimp only
    rw [h]; exact if_neg (by rw [hk]; decide)

theorem lookup_one {die : DieId} {ctx : BitVec 16} {va : Nat} {e : TlbEntry}
    (h : (s.runner die).tlb.filter (fun x => x.holds ctx va) = [e]) : s.lookup die ctx va = .leaf e id := by
  rw [State.lookup, h]

theorem resumeRun_none {act : State → Work → State} (hp : s.curSeqr.tag.sup = true)
    (h : s.work ((s.curSeqr.src a).setWidth 32) = none) :
    resumeRun act d a s = Claims.pSets s d 1 (Claims.pAfter s [a]) := by
  refine percoRun_pSets (fun _ => hp) ?_
  dsimp only
  rw [h]; rfl

theorem resumeRun_some {act : State → Work → State} {w : Work} (hp : s.curSeqr.tag.sup = true)
    (h : s.work ((s.curSeqr.src a).setWidth 32) = some w) :
    resumeRun act d a s = .next (((act s w).modCurSeq fun q => q.setG d 0).modCurSeq fun q =>
      q.advance false (Claims.pAfter s [a])) := by
  refine percoRun_done (fun _ => hp) ?_
  dsimp only
  rw [h]; rfl

/-- RESUME of a program of another sequencer acts on that sequencer, and then completes. -/
theorem resumeRun_other {act : State → Work → State} {x : DieId} {n : Fin 16} {f : Seqr → Seqr}
    (hp : s.curSeqr.tag.sup = true) (h : s.work ((s.curSeqr.src a).setWidth 32) = some (.prog x n))
    (hact : act s (.prog x n) = s.modSeq x n f) (hne : x ≠ s.curDie ∨ n ≠ s.curSeq) :
    ∃ u, resumeRun act d a s = .next u ∧ u.seqr x n = f (s.seqr x n) ∧
      u.curSeqr = (s.curSeqr.setG d 0).advance false (Claims.pAfter s [a]) := by
  refine ⟨_, resumeRun_some hp h, ?_, ?_⟩
  · rw [hact, modCurSeq_modCurSeq, State.modSeq_curDie, State.modSeq_curSeq, State.modSeq_seqr_ne _ _ _ _ _ _ hne,
      State.modSeq_seqr]
  · rw [hact, modCurSeq_modCurSeq]
    show ((s.modSeq x n f).modSeq s.curDie s.curSeq _).seqr s.curDie s.curSeq = _
    rw [State.modSeq_seqr, State.modSeq_seqr_ne _ _ _ _ _ _ (hne.imp Ne.symm Ne.symm)]
    rfl
end

theorem percoSysrd_reads {s : State} {d : Reg} {r : BitVec 12} {v : Word} (hr : ¬ 4 < r.toNat)
    (hv : s.percoSys s.curSeqr r.toNat = v) : exec (.percoSysrd d r) s = Claims.pSets s d v (Claims.pAfter s []) := by
  subst hv
  rw [exec_percoSysrd, execPercoSysrd]
  exact percoRun_pSets nofun (if_neg hr)

theorem percoSysrd_unassigned {s : State} {d : Reg} {r : BitVec 12} (hr : 4 < r.toNat) :
    exec (.percoSysrd d r) s = Claims.pFaults s .reservedField none 0 := by
  rw [exec_percoSysrd, execPercoSysrd]
  exact percoRun_fault nofun (if_pos hr)

theorem percoSyswr_eq (s : State) (a : Src) (r : BitVec 12) : exec (.percoSyswr a r) s = execPercoSyswr a r s := rfl

theorem percoSyswr_unassigned {s : State} {a : Src} {r : BitVec 12} (hr : 4 < r.toNat) :
    exec (.percoSyswr a r) s = Claims.pFaults s .reservedField none 0 := by
  rw [percoSyswr_eq, execPercoSyswr, if_pos hr]
  exact percoRun_fault nofun rfl

theorem percoSyswr_wdog {s : State} {a : Src} {r : BitVec 12} (hp : s.curSeqr.tag.sup = true) (hr : r.toNat = 4) :
    exec (.percoSyswr a r) s = Claims.pDone s (fun q =>
      { q with wdog := ((s.curSeqr.src a).setWidth 32).setWidth 64 }) (Claims.pAfter s [a]) := by
  rw [percoSyswr_eq, execPercoSyswr, if_neg (by omega)]
  refine percoRun_pDone (fun _ => hp) ((if_pos hr).trans ?_)
  rw [← and_low32]
  exact congrArg (PRes.done · _) (State.modSeq_congr rfl)

theorem percoSyswr_refused {s : State} {a : Src} {r : BitVec 12} (hp : s.curSeqr.tag.sup = true) (hr : r.toNat < 4) :
    exec (.percoSyswr a r) s = Claims.pFaults s .privViolation none 0 := by
  rw [percoSyswr_eq, execPercoSyswr, if_neg (by omega)]
  exact percoRun_fault (fun _ => hp) (if_neg (by omega))

theorem tlbRun_user {s : State} {words : Nat} {ctxs : Seqr → BitVec 16 → Bool} {f : Seqr → TlbEntry → Bool}
    {w : Seqr → WalkEntry → Bool} {g : Seqr → Watch → Bool} (h : s.curSeqr.tag.sup = false) :
    tlbRun words s ctxs f w g = Claims.pFaults s .privViolation none 0 := percoRun_user h
theorem resumeRun_user {s : State} {d : Reg} {a : Src} {act : State → Work → State} (h : s.curSeqr.tag.sup = false) :
    resumeRun act d a s = Claims.pFaults s .privViolation none 0 := percoRun_user h
theorem mapchk_user {s : State} {d : Reg} {a b : Src} {sup wr : Bool} (h : s.curSeqr.tag.sup = false) :
    exec (.mapchk d a b sup wr) s = Claims.pFaults s .privViolation none 0 := by
  rw [exec_mapchk, execMapchk]; exact percoRun_user h
theorem killctx_user {s : State} {d : Reg} {a : Src} (h : s.curSeqr.tag.sup = false) :
    exec (.killctx d a) s = Claims.pFaults s .privViolation none 0 := by
  rw [exec_killctx, execKillctx]; exact percoRun_user h
theorem percoSyswr_user {s : State} {a : Src} {r : BitVec 12} (h : s.curSeqr.tag.sup = false) (hr : r.toNat ≤ 4) :
    exec (.percoSyswr a r) s = Claims.pFaults s .privViolation none 0 := by
  rw [percoSyswr_eq, execPercoSyswr, if_neg (by omega)]; exact percoRun_user h

theorem exec_tlbinv (s : State) (a b : Src) : exec (.tlbinv a b) s = execTlbinv a b s := rfl
theorem exec_tlbinvCtx (s : State) (a b : Src) : exec (.tlbinvCtx a b) s = execTlbinvCtx a b s := rfl
theorem exec_tlbinvAll (s : State) : exec .tlbinvAll s = execTlbinvAll s := rfl
theorem exec_resume (s : State) (d : Reg) (a : Src) : exec (.resume d a) s = resumeRun State.resumeWork d a s := rfl
theorem exec_resumeDrop (s : State) (d : Reg) (a : Src) : exec (.resumeDrop d a) s = resumeRun State.dropWork d a s := rfl

theorem resume_other {s : State} {d : Reg} {a : Src} {x : DieId} {n : Fin 16} (hp : s.curSeqr.tag.sup = true)
    (h : s.work ((s.curSeqr.src a).setWidth 32) = some (.prog x n)) (hne : x ≠ s.curDie ∨ n ≠ s.curSeq) :
    ∃ u, exec (.resume d a) s = .next u ∧ u.seqr x n = { s.seqr x n with susp := none, waitSince := none } ∧
      u.curSeqr = (s.curSeqr.setG d 0).advance false (Claims.pAfter s [a]) := by
  rw [exec_resume]
  exact resumeRun_other (f := fun q => { q with susp := none, waitSince := none }) hp h rfl hne
theorem resumeDrop_other {s : State} {d : Reg} {a : Src} {x : DieId} {n : Fin 16} (hp : s.curSeqr.tag.sup = true)
    (h : s.work ((s.curSeqr.src a).setWidth 32) = some (.prog x n)) (hne : x ≠ s.curDie ∨ n ≠ s.curSeq) :
    ∃ u, exec (.resumeDrop d a) s = .next u ∧ u.seqr x n = (s.seqr x n).ended ∧
      u.curSeqr = (s.curSeqr.setG d 0).advance false (Claims.pAfter s [a]) := by
  rw [exec_resumeDrop]
  exact resumeRun_other (f := Seqr.ended) hp h rfl hne

theorem percoTrap_suspends (s : State) (imm : BitVec 16) : exec (.percoTrap imm) s =
    .next (s.progFault s.curDie s.curSeq .userTrap none 0 (imm.setWidth 64) fun q => q.advance false (q.after 1)) := by
  show execPercoTrap imm s = _
  rw [execPercoTrap]; exact percoRun_trap nofun rfl
theorem percoHalt_ends (s : State) : exec .percoHalt s = .next (s.endProg s.curDie s.curSeq) := by
  show execPercoHalt s = _
  rw [execPercoHalt]; exact percoRun_ended nofun rfl

/-- Each privileged instruction of a user program meets PRIV_VIOLATION (R49). -/
theorem percoPrivileged_user {s : State} {d : Reg} {a b : Src} {sup wr : Bool} {r : BitVec 12}
    (h : s.curSeqr.tag.sup = false) :
    ∀ i ∈ Claims.percoPrivileged d a b sup wr r, exec i s = Claims.pFaults s .privViolation none 0 := by
  unfold Claims.percoPrivileged
  simp only [List.forall_mem_append, List.forall_mem_cons]
  refine ⟨⟨?_, ?_, ?_, mapchk_user h, ?_, ?_, killctx_user h, fun i hi => absurd hi List.not_mem_nil⟩, fun i hi => ?_⟩
  · rw [exec_tlbinv, execTlbinv]; exact tlbRun_user h
  · rw [exec_tlbinvCtx, execTlbinvCtx]; exact tlbRun_user h
  · rw [exec_tlbinvAll, execTlbinvAll]; exact tlbRun_user h
  · rw [exec_resume]; exact resumeRun_user h
  · rw [exec_resumeDrop]; exact resumeRun_user h
  by_cases hr : r.toNat ≤ 4
  · rw [if_pos hr, List.mem_singleton] at hi
    exact hi ▸ percoSyswr_user h hr
  · rw [if_neg hr] at hi
    exact absurd hi List.not_mem_nil

end Sys2Proof.Machine
end

section
namespace Sys2Proof
open Machine

/-- Settles O39: the laws of percoRun for each instruction; a user program faults before any of them acts. -/
theorem percoSystem : Obligations.PercoSystem := by
  unfold Obligations.PercoSystem
  intro s d a b sup wr r imm q die ctx va kctx regs
  refine ⟨percoPrivileged_user, percoTrap_suspends s imm, percoHalt_ends s, fun hr => ?_, fun hr =>
    ⟨percoSysrd_unassigned hr, percoSyswr_unassigned hr⟩, fun hp => ⟨percoSyswr_refused hp, percoSyswr_wdog hp, ?_,
    fun c hc => mapchk_bad hp hc, fun hc => mapchk_noCtx hp hc, fun e he => ?_, fun e fill he => mapchk_leaf hp he,
    fun hn => ⟨resumeRun_none hp hn, resumeRun_none hp hn⟩, fun x n hw hne =>
      ⟨resume_other hp hw hne, resumeDrop_other hp hw hne⟩,
    fun v hw => killctx_answered hp hw, fun hw hk => ?_, fun hw hk => killctx_second hp hw (killing_iff.2 hk),
    fun n hw => killctx_draining hp hw⟩⟩
  · have hreg : ∀ n (hn : n < regs.length), s.percoSys s.curSeqr n = regs[n] := by
      intro n hn
      match n, hn with
      | 0, _ => exact seqNum_eq ..
      | 1, _ => rfl
      | 2, _ => rfl
      | 3, _ => rfl
      | 4, _ => rfl
    exact percoSysrd_reads (Nat.not_lt.2 (Nat.le_of_lt_succ hr)) (hreg _ hr)
  · simp only [List.forall_mem_cons]
    rw [exec_tlbinv, execTlbinv, exec_tlbinvCtx, execTlbinvCtx, exec_tlbinvAll, execTlbinvAll]
    exact ⟨tlbRun_spec hp, tlbRun_spec hp, tlbRun_spec hp, fun i hi => absurd hi List.not_mem_nil⟩
  · rw [mapchk_leaf hp (lookup_one he), modRunner_id]
    exact (apply_ite (fun v => Claims.pSets s d v (Claims.pAfter s [a, b])) _ _ _).symm
  · exact ⟨_, killctx_first hp hw (not_killing.2 hk), killStart_waits s kctx⟩

end Sys2Proof
end

section
/-! PROOFS. The events of the scheduler and of pre-emption (R295-R318): what each comes to, case by case. -/

namespace Sys2Proof.Machine

set_option Elab.async false

/-! ### The functions of the events -/

section
variable (s : State) (k : Fin 64) (c : CoreId) (id : Nat) (d : DieId) (f : Fin 17) (v : Word)

theorem exec_queueEntryRead : exec (.queueEntryRead k) s = execQueueEntryRead k s := rfl
theorem exec_nestReady : exec (.nestReady id) s = execNestReady id s := rfl
theorem exec_nestDone : exec (.nestDone id) s = execNestDone id s := rfl
theorem exec_grainDispatch : exec .grainDispatch s = execGrainDispatch s := rfl
theorem exec_grainStart : exec (.grainStart c) s = execGrainStart c s := rfl
theorem exec_spillEntryTaken : exec (.spillEntryTaken d) s = execSpillEntryTaken d s := rfl
theorem exec_preemptRequest : exec (.preemptRequest c) s = execPreemptRequest c s := rfl
theorem exec_coreHalted : exec (.coreHalted c) s = execCoreHalted c s := rfl
theorem exec_saveComplete : exec (.saveComplete c) s = execSaveComplete c s := rfl
theorem exec_restoreComplete : exec (.restoreComplete c) s = execRestoreComplete c s := rfl
theorem exec_slotMap : exec (.slotMap k) s = execSlotMap k s := rfl
theorem exec_slotUnmap : exec (.slotUnmap k) s = execSlotUnmap k s := rfl
theorem exec_notify : exec (.notify f k v) s = execNotify f k v s := rfl
theorem exec_childqWrite : exec (.childqWrite d v) s = execChildqWrite d v s := rfl
end

section
variable {s : State} {k : Fin 64} {c : CoreId} {id : Nat} {d : DieId}

/-! ### QUEUE_ENTRY_READ (R295-R297) -/

/-- An entry of the slot may be read now: the queue is mapped and served, and its two indices can be read. -/
structure EntryDue (s : State) (k : Fin 64) : Prop where
  mapped : (s.pkg.slots.get k).mapped = true
  dead : (s.pkg.slots.get k).dead = false
  dying : s.pkg.dying (descCtx (s.pkg.slots.get k).desc) = false
  due : (s.pkg.slots.get k).wakepend = true ∨ (s.pkg.slots.get k).look = true
  held : s.pkg.held k < 16
  rdOk : s.memBad ((s.pkg.slots.get k).phys + 0x10) 4 = false
  wrOk : s.memBad ((s.pkg.slots.get k).phys + 0x18) 4 = false

theorem EntryDue.served (h : EntryDue s k) : (!(s.pkg.slots.get k).mapped || (s.pkg.slots.get k).dead ||
    s.pkg.dying (descCtx (s.pkg.slots.get k).desc) || !((s.pkg.slots.get k).wakepend || (s.pkg.slots.get k).look) ||
    decide (16 ≤ s.pkg.held k)) = false := by
  rw [h.mapped, h.dead, h.dying, Bool.or_eq_true_iff.2 h.due, decide_eq_false (Nat.not_le.2 h.held)]; rfl
theorem EntryDue.readable (h : EntryDue s k) :
    (s.memBad ((s.pkg.slots.get k).phys + 0x10) 4 || s.memBad ((s.pkg.slots.get k).phys + 0x18) 4) = false := by
  rw [h.rdOk, h.wrOk]; rfl

/-- The index of the entry that is read next. -/
def State.slotRd (s : State) (k : Fin 64) : W32 := memW32 s.mem ((s.pkg.slots.get k).phys + 0x10)

/-- The read of the next entry. -/
def State.slotEntry (s : State) (k : Fin 64) : Except Cause (State × List Byte) :=
  s.serviceRead ⟨descCtx (s.pkg.slots.get k).desc, descVf (s.pkg.slots.get k).desc, true, none⟩
    ((descWord (s.pkg.slots.get k).desc 0).toNat +
      128 * ((s.slotRd k).toNat % 2 ^ descLog (s.pkg.slots.get k).desc)) 128

theorem queueEntryRead_empty (h : EntryDue s k)
    (he : s.slotRd k = memW32 s.mem ((s.pkg.slots.get k).phys + 0x18)) :
    exec (.queueEntryRead k) s = .next (s.modSlot k fun q => { q with wakepend := false, look := false }) := by
  rw [State.slotRd] at he
  rw [exec_queueEntryRead, execQueueEntryRead]
  simp only [h.served, h.readable, he, Bool.false_eq_true, if_false, if_true]

section
variable (h : EntryDue s k) (hne : s.slotRd k ≠ memW32 s.mem ((s.pkg.slots.get k).phys + 0x18))
include h hne

theorem queueEntryRead_unread {e : Cause} (hr : s.slotEntry k = .error e) :
    exec (.queueEntryRead k) s = .next (s.queueInvalid k (fnOf (descVf (s.pkg.slots.get k).desc))) := by
  rw [State.slotEntry, State.slotRd] at hr
  rw [State.slotRd] at hne
  rw [exec_queueEntryRead, execQueueEntryRead]
  simp only [h.served, h.readable, hne, hr, Bool.false_eq_true, if_false]

variable {s1 : State} {bs : List Byte} (hr : s.slotEntry k = .ok (s1, bs))
include hr

theorem queueEntryRead_full (hk : nestKind (BitVec.ofNat 1024 (leNat bs)) = 1) (hf : 64 ≤ (s1.runner 0).startq.length) :
    exec (.queueEntryRead k) s = .next s1 := by
  rw [State.slotEntry, State.slotRd] at hr
  rw [State.slotRd] at hne
  rw [exec_queueEntryRead, execQueueEntryRead]
  simp only [h.served, h.readable, hne, hr, hk, hf, Bool.false_eq_true, if_false, and_self, if_true]

theorem queueEntryRead_taken
    (hroom : nestKind (BitVec.ofNat 1024 (leNat bs)) ≠ 1 ∨ (s1.runner 0).startq.length < 64) :
    exec (.queueEntryRead k) s = .next ((s1.writeMem ((s.pkg.slots.get k).phys + 0x10)
      (leBytes 4 (s.slotRd k + 1).toNat)).takeEntry k (s.pkg.slots.get k).desc (BitVec.ofNat 1024 (leNat bs))) := by
  have hn : ¬(nestKind (BitVec.ofNat 1024 (leNat bs)) = 1 ∧ 64 ≤ (s1.runner 0).startq.length) := by
    rintro ⟨hk, hf⟩
    exact hroom.elim (fun h => h hk) fun h => absurd hf (Nat.not_le.2 h)
  rw [State.slotEntry, State.slotRd] at hr
  rw [State.slotRd] at hne ⊢
  rw [exec_queueEntryRead, execQueueEntryRead]
  simp only [h.served, h.readable, hne, hr, hn, Bool.false_eq_true, if_false]
end

/-! ### NEST_READY, NEST_DONE (R306, R308) -/

section
variable {n : Nest} {t : State} (hn : s.nest id = some n) (hw : n.state = .waiting)
include hn hw

theorem nestReady_met (h : nestWaits n.bits n.tag [0, 1, 2, 3] s = .ok (t, true)) :
    exec (.nestReady id) s = .next (t.modNest id fun n => { n with state := .ready }) := by
  rw [exec_nestReady, execNestReady, hn]
  simp only [hw, h, if_true]
theorem nestReady_unmet (h : nestWaits n.bits n.tag [0, 1, 2, 3] s = .ok (t, false)) :
    exec (.nestReady id) s = .next t := by
  rw [exec_nestReady, execNestReady, hn]
  simp only [hw, h, if_true]
theorem nestReady_unreadable {e : Cause} (h : nestWaits n.bits n.tag [0, 1, 2, 3] s = .error e) :
    exec (.nestReady id) s = .next ((s.serviceCause e n.ctx).modNest id fun n =>
      { (n.withCause e).noMore with state := .done }) := by
  rw [exec_nestReady, execNestReady, hn]
  simp only [hw, h, if_true]
end

theorem nestDone_over {n : Nest} (hn : s.nest id = some n) (hc : s.coresOf id = []) (hs : n.saved = [])
    (ht : n.total ≤ n.next) (hw : n.state ≠ .waiting) : exec (.nestDone id) s = .next (
      if s.pkg.dying n.ctx then s else (s.finishNest n).getD s) := by
  have hst : (n.state != .waiting) = true := bne_iff_ne.2 hw
  rw [exec_nestDone, execNestDone, hn]
  simp only [hc, hs, hst, ht, List.isEmpty_nil, decide_true, Bool.true_and]
  cases s.pkg.dying n.ctx <;> rfl

/-! ### Dispatch and pre-emption requests (R305, R307) -/

theorem grainDispatch_placed {n : Nest} {t : State}
    (h : s.offerOrder.findSome? (fun n => (s.tryPlace n).map fun t => (n, t)) = some (n, t)) :
    exec .grainDispatch s = .next (t.modPkg fun p => { p with rr := p.rr.setIfInBounds n.prio.toNat n.id }) := by
  rw [exec_grainDispatch, execGrainDispatch, h]

theorem grainDispatch_nothing (h : s.offerOrder = []) : exec .grainDispatch s = .next s := by
  rw [exec_grainDispatch, execGrainDispatch, h]; rfl

theorem preemptRequest_stops {n : Nest} {v : CoreId} (h : s.preemptor = some (n, v)) :
    exec (.preemptRequest c) s =
      .next (if (s.together v).contains c then s.requestStop (some n.id) (s.together v) else s) := by
  rw [exec_preemptRequest, execPreemptRequest, h]

/-! ### GRAIN_START (R29, R302) -/

section
variable {g : Grain} {n : Nest}

theorem grainStart_refused (hg : (s.core c).grain = some g) (hn : s.nest g.nest = some n)
    (hp : (s.core c).phase = .starting) (hc : s.ctxEntry g.ctx = none) :
    exec (.grainStart c) s = .next (s.startRefused c g) := by
  rw [exec_grainStart, execGrainStart]
  simp only [hg, hn, hp, hc, ne_eq, not_true_eq_false, if_false, Option.isNone_none, if_true]

theorem grainStart_started {s1 s2 : State} {si vi : Option (List Byte)} (hg : (s.core c).grain = some g)
    (hn : s.nest g.nest = some n) (hp : (s.core c).phase = .starting) (hc : (s.ctxEntry g.ctx).isSome = true)
    (hi : imageCopy n.tag (nestStext n.bits) (nestStlen n.bits) (nestReload n.bits) ((s.core c).switchTo g.ctx).stext s =
      .ok (s1, si))
    (hv : imageCopy n.tag (nestVtext n.bits) (nestVtlen n.bits) (nestReload n.bits) ((s.core c).switchTo g.ctx).vtext s1 =
      .ok (s2, vi)) :
    exec (.grainStart c) s = .next (s2.setCore c { (((((s.core c).switchTo g.ctx).loadStext
      ⟨nestStext n.bits, nestStlen n.bits, g.ctx⟩ si).loadVtext ⟨nestVtext n.bits, nestVtlen n.bits, g.ctx⟩ vi).grainStart
        c g n.bits) with phase := s.phaseAtStart c }) := by
  have hc' : (s.ctxEntry g.ctx).isNone = false := by
    rw [← Option.not_isSome, hc]; rfl
  rw [exec_grainStart, execGrainStart]
  simp only [hg, hn, hp, hc', ne_eq, not_true_eq_false, if_false, Bool.false_eq_true, hi, hv]

/-- Table 01-10: the registers of a grain's start. -/
theorem grainStart_registers (k : Core) (id : CoreId) (g : Grain) (b : BitVec 1024) :
    (∀ i : Fin 4, (k.grainStart id g b).getX ⟨i.val + 1, by omega⟩ = (g.idx.get i).setWidth 64) ∧
    (k.grainStart id g b).getX 5 = BitVec.ofNat 64 id.val ∧ (k.grainStart id g b).getX 6 = nestArgs b := by
  refine ⟨fun i => ?_, rfl, rfl⟩
  match i with
  | 0 | 1 | 2 | 3 => rfl
end

/-! ### SPILL_ENTRY_TAKEN (R303, R310, R315) -/

/-- The head of a die's spill queue leaves it. -/
def State.spillPopped (s : State) (d : DieId) : State := s.modPkg fun p =>
  { setSpill p d (p.spillWr d) (p.spillRd d + 1) with
    spillPrio := p.spillPrio.set d.val ((p.spillPrio.get d).drop 1) d.isLt
    spillGone := p.spillGone.set d.val ((p.spillGone.get d).filter (· ≠ p.spillRd d)) d.isLt }

theorem spillPopped_rd (s : State) (d : DieId) : (s.spillPopped d).pkg.spillRd d = s.pkg.spillRd d + 1 := by
  show ((s.pkg.childidx.set d.val (s.pkg.spillWr d ++ (s.pkg.spillRd d + 1)) d.isLt).get d).extractLsb' 0 32 = _
  rw [vget_set]
  exact low_halves ..

theorem spillEntryTaken_due (hlog : s.pkg.spillLog d ≠ 0) (hne : s.pkg.spillWr d ≠ s.pkg.spillRd d)
    (hbad : s.memBad (s.pkg.spillAt d (s.pkg.spillRd d)) 256 = false) :
    exec (.spillEntryTaken d) s = .next (
      let p := s.pkg
      let a := p.spillAt d (p.spillRd d)
      let b := BitVec.ofNat 1024 (memNat s.mem a 128)
      let w := memW64 s.mem (a + 0x80)
      let ctx : BitVec 16 := w.extractLsb' 32 16
      let vf := (w.extractLsb' 16 5).toNat
      if (p.spillGone.get d).contains (p.spillRd d) then s.spillPopped d
      else if p.dying ctx then s
      else if (s.ctxEntry ctx).isNone then (s.hostEvent (fnOf vf) .launchInvalid ctx.toNat).spillPopped d
      else if p.poolRoom d (w.getLsbD 0) then
        (s.addNest fun id => Nest.fresh id b ((p.spillPrio.get d).headD (nestPrio b)) ctx vf (w.getLsbD 8) true
          (some d) none (memW32 s.mem (a + 0x88)) (memW64 s.mem (a + 0x90))).spillPopped d
      else s) := by
  rw [exec_spillEntryTaken, execSpillEntryTaken]
  simp only [hlog, hne, hbad, decide_false, Bool.false_or, Bool.false_eq_true, if_false]
  rfl

/-! ### CORE_HALTED, SAVE_COMPLETE, RESTORE_COMPLETE (R307, R311-R315) -/

section
variable {g : Grain} {n : Nest}

section
variable (hg : (s.core c).grain = some g) (hp : (s.core c).phase = .stopping) (hq : (s.core c).stem.stq = [])
  (hv : (s.core c).vec.stopped = true) (hm : (s.core c).mat.stopped = true)
include hg hp hq hv hm

theorem coreHalted_killed {e : BitVec 16 × Cause} (h : s.pkg.ending.find? (fun e => e.1 == g.ctx) = some e) :
    exec (.coreHalted c) s = .next ((s.haltCore c).endGrain c fun n => n.withCause e.2) := by
  rw [exec_coreHalted, execCoreHalted]
  simp only [hg, hp, hq, hv, hm, h, decide_true, List.isEmpty_nil, Bool.and_self, if_true]
theorem coreHalted_kept (h : s.pkg.ending.find? (fun e => e.1 == g.ctx) = none) :
    exec (.coreHalted c) s = .next ((s.haltCore c).abortGrain g) := by
  rw [exec_coreHalted, execCoreHalted]
  simp only [hg, hp, hq, hv, hm, h, decide_true, List.isEmpty_nil, Bool.and_self, if_true]
end

section
variable (hg : (s.core c).grain = some g) (hp : (s.core c).phase = .halted) (hf : s.fillsLanded c = true)
  (hi : s.grainInsts g = []) (hn : s.nest g.nest = some n)
include hg hp hf hi hn

theorem saveComplete_written {t : State}
    (h : writeSections n.tag (saveAt g c 0) (s.sections (s.core c) (nestSaveKib n.bits)) s = .ok t) :
    exec (.saveComplete c) s = .next ((t.modCore c Core.vacated).modNest g.nest fun n =>
      { n with saved := n.saved ++ [⟨c, (s.core c).kept, .preempt, s.ticks, (s.core c).scratch, []⟩] }) := by
  rw [exec_saveComplete, execSaveComplete]
  simp only [hg, hp, hf, hi, hn, h, ne_eq, not_true_eq_false, decide_false, Bool.not_true, Bool.or_self,
    Bool.false_eq_true, if_false, List.any_nil, List.isEmpty_nil]
theorem saveComplete_unwritten {e : Cause}
    (h : writeSections n.tag (saveAt g c 0) (s.sections (s.core c) (nestSaveKib n.bits)) s = .error e) :
    exec (.saveComplete c) s = .next s := by
  rw [exec_saveComplete, execSaveComplete]
  simp only [hg, hp, hf, hi, hn, h, ne_eq, not_true_eq_false, decide_false, Bool.not_true, Bool.or_self,
    Bool.false_eq_true, if_false, List.any_nil, List.isEmpty_nil]
end

theorem restoreComplete_killed (hg : (s.core c).grain = some g) (hp : (s.core c).phase = .restoring)
    (hn : s.nest g.nest = some n) (hd : s.pkg.dying g.ctx = true) : exec (.restoreComplete c) s =
      .next ((s.modCore c fun k => { k with phase := .idle, grain := none }).modNest g.nest fun n =>
        (dropSaved c g.num n).settle) := by
  rw [exec_restoreComplete, execRestoreComplete]
  simp only [hg, hp, hn, hd, ne_eq, not_true_eq_false, if_false, if_true]

theorem restoreComplete_read {x : Saved} {t : State} {first regs tiles moulds imem seg scratch : List Byte}
    (hg : (s.core c).grain = some g) (hp : (s.core c).phase = .restoring) (hn : s.nest g.nest = some n)
    (hd : s.pkg.dying g.ctx = false)
    (hx : n.saved.find? (fun x => x.core == c && x.state.grain.any fun h => h.num == g.num) = some x)
    (hr : readSections n.tag (saveAt g c 0) [(0, 0x10000), (0x010000, 0x20000), (0x030000, 0x40000),
      (0x070000, 0x20000), (0x090000, 0x10000), (0x0A0000, 0x10000), (0x0B0000, 1024 * nestSaveKib n.bits)] s =
        .ok (t, [first, regs, tiles, moulds, imem, seg, scratch])) :
    exec (.restoreComplete c) s = .next ((t.modCore c fun k =>
      { k.restored (if first = openBytes x.tick then x.state else s.reread x.state) (s.cycles.get (dieOf c))
          (nestSaveKib n.bits) regs tiles moulds imem seg (memOver scratch x.late) with phase := s.phaseAtStart c }).modNest
        g.nest fun n => (dropSaved c g.num n).settle) := by
  rw [exec_restoreComplete, execRestoreComplete]
  simp only [hg, hp, hn, hd, hx, hr, ne_eq, not_true_eq_false, Bool.false_eq_true, if_false]
end

/-! ### Writes of the scheduler's window (R297, R298, R310) -/

theorem slotMap_maps (h : s.pkg.memready = true) : exec (.slotMap k) s = .next (s.mapSlot k) := by
  rw [exec_slotMap, execSlotMap, h, if_pos rfl]

theorem slotUnmap_unmaps (h : s.pkg.memready = true) :
    exec (.slotUnmap k) s = .next (s.unmapSlot k) := by
  rw [exec_slotUnmap, execSlotUnmap, h, if_pos rfl]
theorem unmapSlot_mapped (s : State) (k : Fin 64) : ((s.unmapSlot k).pkg.slots.get k).mapped = false := by
  show ((s.pkg.slots.set k.val _ k.isLt).get k).mapped = false
  rw [vget_set]

theorem notify_own {f : Fin 17} {v : Word} (h : s.pkg.memready = true) (hf : f = 0 ∨ s.pkg.slotFn k = f) :
    exec (.notify f k v) s = .next (s.notifySlot k v) := by
  have hc : (s.pkg.memready && (f == 0 || s.pkg.slotFn k == f)) = true := by simpa [h] using hf
  rw [exec_notify, execNotify, hc, if_pos rfl]
theorem notify_other {f : Fin 17} {v : Word} (h0 : f ≠ 0) (hf : s.pkg.slotFn k ≠ f) :
    exec (.notify f k v) s = .next s := by
  have hc : ¬(s.pkg.memready && (f == 0 || s.pkg.slotFn k == f)) = true := by simp [h0, hf]
  rw [exec_notify, execNotify, if_neg hc]

/-- CHILDQ written anew: the ring is empty, at index 0. -/
def State.spillMoved (s : State) (d : DieId) (v : Word) : State := s.modPkg fun p => { p with
  childq := p.childq.set d.val (v &&& 0xFFFFFFFFFFFFF01F) d.isLt
  childidx := p.childidx.set d.val 0 d.isLt }

theorem childqWrite_empty {v : Word} (h : s.pkg.memready = true) (he : s.pkg.spillWr d = s.pkg.spillRd d) :
    exec (.childqWrite d v) s = .next (s.spillMoved d v) := by
  have hc : (s.pkg.memready && s.pkg.spillWr d == s.pkg.spillRd d) = true := by simp [h, he]
  rw [exec_childqWrite, execChildqWrite, hc, if_pos rfl]; rfl
theorem childqWrite_busy {v : Word} (he : s.pkg.spillWr d ≠ s.pkg.spillRd d) : exec (.childqWrite d v) s = .next s := by
  have hc : ¬(s.pkg.memready && s.pkg.spillWr d == s.pkg.spillRd d) = true := by simp [he]
  rw [exec_childqWrite, execChildqWrite, if_neg hc]
theorem spillMoved_queue (s : State) (d : DieId) (v : Word) :
    (s.spillMoved d v).pkg.childq.get d = v &&& 0xFFFFFFFFFFFFF01F ∧ (s.spillMoved d v).pkg.childidx.get d = 0 :=
  ⟨vget_set .., vget_set ..⟩
end

end Sys2Proof.Machine
end

section
/-! PROOFS. What the scheduler and pre-emption do (O44). -/

namespace Sys2Proof.Machine

set_option Elab.async false

section
variable {s : State} {c : CoreId} {d : DieId}

/-! ### What a start leaves (R29, R302) -/

theorem grainStart_leaves {g : Grain} {n : Nest} {s1 s2 : State} {si vi : Option (List Byte)}
    (hg : (s.core c).grain = some g) (hn : s.nest g.nest = some n) (hp : (s.core c).phase = .starting)
    (hc : (s.ctxEntry g.ctx).isSome = true)
    (hi : imageCopy n.tag (nestStext n.bits) (nestStlen n.bits) (nestReload n.bits) ((s.core c).switchTo g.ctx).stext s =
      .ok (s1, si))
    (hv : imageCopy n.tag (nestVtext n.bits) (nestVtlen n.bits) (nestReload n.bits) ((s.core c).switchTo g.ctx).vtext s1 =
      .ok (s2, vi)) :
    ∃ u, exec (.grainStart c) s = .next u ∧ (u.core c).phase = (if s.peersStop c then .stopping else .running) ∧
      (∀ i : Fin 4, (u.core c).getX ⟨i.val + 1, by omega⟩ = (g.idx.get i).setWidth 64) ∧
      (u.core c).getX 5 = BitVec.ofNat 64 c.val ∧ (u.core c).getX 6 = nestArgs n.bits ∧
      (u.core c).stem.pc = nestEntry n.bits ∧ (u.core c).stem.status = statusStart g.prio g.sup ∧
      (u.core c).stem.ctxid = g.ctx ∧ u.mem = s2.mem := by
  refine ⟨_, grainStart_started hg hn hp hc hi hv, ?_⟩
  rw [State.setCore_core]
  obtain ⟨hidx, hcore, hargs⟩ := grainStart_registers
    ((((s.core c).switchTo g.ctx).loadStext ⟨nestStext n.bits, nestStlen n.bits, g.ctx⟩ si).loadVtext
      ⟨nestVtext n.bits, nestVtlen n.bits, g.ctx⟩ vi) c g n.bits
  exact ⟨rfl, hidx, hcore, hargs, rfl, rfl, rfl, rfl⟩

/-! ### The head of the spill queue (R303, R310, R315) -/

section
variable (hlog : s.pkg.spillLog d ≠ 0) (hne : s.pkg.spillWr d ≠ s.pkg.spillRd d)
  (hbad : s.memBad (s.pkg.spillAt d (s.pkg.spillRd d)) 256 = false)
include hlog hne hbad

theorem spillEntryTaken_gone (hgone : s.pkg.spillRd d ∈ s.pkg.spillGone.get d) :
    exec (.spillEntryTaken d) s = .next (s.spillPopped d) := by
  rw [spillEntryTaken_due hlog hne hbad]
  simp only [List.contains_iff_mem, hgone, if_true]

variable (hkept : s.pkg.spillRd d ∉ s.pkg.spillGone.get d)
include hkept

theorem spillEntryTaken_dying
    (hd : s.pkg.dying ((memW64 s.mem (s.pkg.spillAt d (s.pkg.spillRd d) + 0x80)).extractLsb' 32 16) = true) :
    exec (.spillEntryTaken d) s = .next s := by
  rw [spillEntryTaken_due hlog hne hbad]
  simp only [List.contains_iff_mem, hkept, hd, if_true, if_false]

variable (hd : s.pkg.dying ((memW64 s.mem (s.pkg.spillAt d (s.pkg.spillRd d) + 0x80)).extractLsb' 32 16) = false)
  (hc : (s.ctxEntry ((memW64 s.mem (s.pkg.spillAt d (s.pkg.spillRd d) + 0x80)).extractLsb' 32 16)).isSome = true)
include hd hc

theorem spillEntryTaken_noRoom
    (hroom : s.pkg.poolRoom d ((memW64 s.mem (s.pkg.spillAt d (s.pkg.spillRd d) + 0x80)).getLsbD 0) = false) :
    exec (.spillEntryTaken d) s = .next s := by
  rw [spillEntryTaken_due hlog hne hbad]
  simp only [List.contains_iff_mem, hkept, hd, Option.isNone_eq_false_iff.2 hc, hroom, Bool.false_eq_true, if_false]

theorem spillEntryTaken_pooled
    (hroom : s.pkg.poolRoom d ((memW64 s.mem (s.pkg.spillAt d (s.pkg.spillRd d) + 0x80)).getLsbD 0) = true) :
    exec (.spillEntryTaken d) s = .next (
      let p := s.pkg
      let a := p.spillAt d (p.spillRd d)
      let b := BitVec.ofNat 1024 (memNat s.mem a 128)
      let w := memW64 s.mem (a + 0x80)
      (s.addNest fun id => Nest.fresh id b ((p.spillPrio.get d).headD (nestPrio b)) (w.extractLsb' 32 16)
        (w.extractLsb' 16 5).toNat (w.getLsbD 8) true (some d) none (memW32 s.mem (a + 0x88))
        (memW64 s.mem (a + 0x90))).spillPopped d) := by
  rw [spillEntryTaken_due hlog hne hbad]
  simp only [List.contains_iff_mem, hkept, hd, Option.isNone_eq_false_iff.2 hc, hroom, Bool.false_eq_true, if_false,
    if_true]
end
end

end Sys2Proof.Machine

namespace Sys2Proof

open Machine

/-- Settles O44: each event of the scheduler and of pre-emption, by the lemma of its case. -/
theorem schedulerEvents : Obligations.SchedulerEvents := by
  unfold Obligations.SchedulerEvents
  intro s k c id d
  refine ⟨?queueEntryRead, ?nestReady, ?nestDone, fun _ _ => grainDispatch_placed, grainDispatch_nothing,
    fun _ _ => grainStart_refused, fun _ _ _ _ _ _ => grainStart_leaves, ?spillEntryTaken,
    fun _ _ => preemptRequest_stops, ?preemption, ?window⟩
  case queueEntryRead =>
    intro hmap hdead hdying hdue hheld hrd hwr
    have due : EntryDue s k := ⟨hmap, hdead, hdying, hdue, hheld, hrd, hwr⟩
    exact ⟨queueEntryRead_empty due,
      fun hne s1 bs hr => ⟨queueEntryRead_full due hne hr, queueEntryRead_taken due hne hr⟩,
      fun hne _ hr => queueEntryRead_unread due hne hr⟩
  case nestReady =>
    exact fun n hn hw => ⟨fun _ => nestReady_met hn hw, fun _ => nestReady_unmet hn hw,
      fun _ => nestReady_unreadable hn hw⟩
  case nestDone =>
    intro n hn hc hs ht hw
    have hover := nestDone_over hn hc hs ht hw
    exact ⟨fun h => by rw [hover, h]; rfl, fun h => by rw [hover, h]; rfl⟩
  case spillEntryTaken =>
    intro a w b hlog hne hbad ctx
    refine ⟨fun hgone => ⟨_, spillEntryTaken_gone hlog hne hbad hgone, rfl, spillPopped_rd s d, rfl, rfl⟩,
      spillEntryTaken_dying hlog hne hbad, spillEntryTaken_noRoom hlog hne hbad, fun hkept hd hc hroom => ?_⟩
    exact ⟨_, _, spillEntryTaken_pooled hlog hne hbad hkept hd hc hroom, rfl, rfl, rfl, rfl, rfl, rfl, rfl, rfl,
      spillPopped_rd .., rfl, rfl⟩
  case preemption =>
    exact fun g hg => ⟨fun hp hq hv hm => ⟨fun _ => coreHalted_killed hg hp hq hv hm, coreHalted_kept hg hp hq hv hm⟩,
      fun _ _ hp hf hi hn => saveComplete_written hg hp hf hi hn,
      fun _ _ hp hf hi hn => saveComplete_unwritten hg hp hf hi hn,
      fun n hp hn => ⟨restoreComplete_killed hg hp hn, fun _ _ _ _ _ _ _ _ _ => restoreComplete_read hg hp hn⟩⟩
  case window =>
    exact fun ready => ⟨slotMap_maps ready,
      ⟨_, slotUnmap_unmaps ready, unmapSlot_mapped s k, rfl⟩,
      fun _ _ => notify_own ready, fun _ _ => notify_other,
      fun v he => ⟨_, childqWrite_empty ready he, (spillMoved_queue s d v).1, (spillMoved_queue s d v).2, rfl⟩,
      fun _ => childqWrite_busy⟩

end Sys2Proof
end

section
/-! PROOFS. The floating and the special instructions of the vector engine (R79, R159, R160, R166). -/

namespace Sys2Proof.Machine

open Claims

/-! ### A lane instruction that fits the shape issues -/

section
variable {s : State} {r : Run} {i : Instr} {n : Nat} {d : Reg} {a b : VSrc} {m : Fin 8} {ty : Ty} {mode : Round}

/-- An instruction that comes to an effect with no late fault issues with it, or finds a pending read (R141). -/
theorem issues_of_vecRun {words : Nat} {f : VX → VRes VEff} {e : VEff} (hr : (s.core s.cur).vec.run = some r)
    (hi : exec i s = vecRun words s f) (hf : f (view s r) = .ok e) (hl : e.late = none) : issues s r i words e :=
  ⟨fun hp => hi.trans (vecRun_issue hr hf hp hl), fun hp => hi.trans (vecRun_pending hr hf hp)⟩

variable (hr : (s.core s.cur).vec.run = some r) (hn : (view s r).need ty = .ok n)
include hr hn

theorem issues_of_lane1 {lat : Nat} {f : Nat → Nat} (hi : exec i s = lane1 d a m ty lat f s) :
    issues s r i (vWords [a])
      ((view s r).lanes d n lat m ((view s r).rdSrc a (8 * n) n) fun q => f ((view s r).src a (8 * n) n q)) :=
  issues_of_vecRun hr hi (by rw [hn]; rfl) rfl

theorem issues_of_lane2 {lat : Nat} {f : Nat → Nat → Nat} (hi : exec i s = lane2 d a b m ty lat f s) :
    issues s r i (vWords [a, b])
      ((view s r).lanes d n lat m ((view s r).rdSrc a (8 * n) n ++ (view s r).rdSrc b (8 * n) n) fun q =>
        f ((view s r).src a (8 * n) n q) ((view s r).src b (8 * n) n q)) :=
  issues_of_vecRun hr hi (by rw [hn]; rfl) rfl

/-- The draws of a floating lane move the generators on (R75). -/
theorem issues_of_floatLane {op : Round → FVal → FVal → FVal} (hi : exec i s = floatLane d a b m ty mode op s) :
    issues s r i (vWords [a, b])
      { (view s r).lanes d n 4 m ((view s r).rdSrc a (8 * n) n ++ (view s r).rdSrc b (8 * n) n) (fun q =>
          fOp2 ty mode (((view s r).draws mode).1 q) (op mode) ((view s r).src a (8 * n) n q)
            ((view s r).src b (8 * n) n q)) with vec := ((view s r).draws mode).2 } :=
  issues_of_vecRun hr hi (by rw [hn]; rfl) rfl

theorem vfma_issues :
    issues s r (.vfma d a b m ty mode) (vWords [a, b])
      { (view s r).lanes d n 5 m
          ((view s r).rdSrc a (8 * n) n ++ (view s r).rdSrc b (8 * n) n ++ (view s r).rdReg d (8 * n) n) (fun q =>
          (ffOf ty).encode mode (((view s r).draws mode).1 q)
            (fFma mode ((ffOf ty).decode ((view s r).src a (8 * n) n q))
              ((ffOf ty).decode ((view s r).src b (8 * n) n q))
              ((ffOf ty).decode ((view s r).src (.reg d) (8 * n) n q)))) with vec := ((view s r).draws mode).2 } := by
  refine issues_of_vecRun hr (show exec (.vfma d a b m ty mode) s = execVfma d a b m ty mode s from rfl) ?_ rfl
  rw [hn]; rfl

end

/-! ### The instructions of each list are lanes -/

section
variable (d : Reg) (a b : VSrc) (m : Fin 8) (ty : Ty) (mode : Round) (s : State)

theorem exec_floatOps : ∀ p ∈ floatOps, exec (p.1 d a b m ty mode) s = floatLane d a b m ty mode p.2 s := by
  simp only [floatOps, List.forall_mem_cons]
  exact ⟨rfl, rfl, rfl, List.forall_mem_nil _⟩

theorem exec_minMaxOps : ∀ p ∈ minMaxOps, exec (p.1 d a b m ty) s = lane2 d a b m ty 4 (fOp2 ty .rne 0 p.2) s := by
  simp only [minMaxOps, List.forall_mem_cons]
  exact ⟨rfl, rfl, List.forall_mem_nil _⟩

theorem exec_specialOps : ∀ p ∈ specialOps, exec (p.1 d a m ty) s = lane1 d a m ty p.2.1 (special ty p.2.2) s := by
  simp only [specialOps, List.forall_mem_cons]
  exact ⟨rfl, rfl, rfl, rfl, rfl, List.forall_mem_nil _⟩

end

/-! ### The special functions of a zero, an infinity and one (R79) -/

section
variable (x : Nat) (n : Bool) (e : Int)

theorem spExp2_zero : spExp2 x (.fin n 0 e) = 0x3F800000 := rfl
theorem spExp2_inf : spExp2 x (.inf n) = if n then 0 else 0x7F800000 := by cases n <;> rfl
theorem spLog2_zero : spLog2 x (.fin n 0 e) = 0xFF800000 := rfl
theorem spLog2_posInf : spLog2 x (.inf false) = 0x7F800000 := rfl
theorem spRcp_zero : spRcp x (.fin n 0 e) = signBit n 32 + 0x7F800000 := rfl
theorem spRcp_inf : spRcp x (.inf n) = signBit n 32 := rfl
theorem spRsq_zero : spRsq x (.fin n 0 e) = signBit n 32 + 0x7F800000 := rfl
theorem spRsq_posInf : spRsq x (.inf false) = 0 := rfl
theorem spTanh_zero : spTanh x (.fin n 0 e) = signBit n 32 := rfl
theorem spTanh_inf : spTanh x (.inf n) = signBit n 32 + 0x3F800000 := rfl

/-- The logarithm of a power of two is its exponent, exactly. -/
theorem spLog2_pow2 (k : Nat) : spLog2 x (.fin false (2 ^ k) e) = ff32.encode .rne 0 (FVal.ofInt (k + e)) := by
  have hpow : isPow2 (2 ^ k) = true := by simp [isPow2, Nat.log2_two_pow]
  simp [spLog2, hpow, Nat.log2_two_pow]

end

section
variable (fn : Nat → FVal → Nat)

/-- On an FP32 code that is the code of its own flushed value a special function acts on the two. -/
theorem special_f32 {c : Nat} {v : FVal} (hv : flushIn (ff32.decode c) = v) (hc : ff32.encode .rne 0 v = c) :
    special .f32 fn c = fn c v := by
  show fn (ff32.encode .rne 0 (flushIn (ff32.decode c))) (flushIn (ff32.decode c)) = fn c v
  rw [hv, hc]

theorem special_posZero : special .f32 fn 0 = fn 0 (.fin false 0 0) := special_f32 fn (by decide) (by decide)
theorem special_negZero : special .f32 fn 0x80000000 = fn 0x80000000 (.fin true 0 0) :=
  special_f32 fn (by decide) (by decide)
theorem special_posInf : special .f32 fn 0x7F800000 = fn 0x7F800000 (.inf false) :=
  special_f32 fn (by decide) (by decide)
theorem special_negInf : special .f32 fn 0xFF800000 = fn 0xFF800000 (.inf true) :=
  special_f32 fn (by decide) (by decide)
theorem special_one : special .f32 fn 0x3F800000 = fn 0x3F800000 (.fin false (2 ^ 23) (-23)) :=
  special_f32 fn (by decide) (by decide)

end

end Sys2Proof.Machine

namespace Sys2Proof
open Machine

theorem vectorFloat : Claims.VectorFloat := by
  intro s r d a b m ty mode n hr hn
  refine ⟨fun p hp => ?_, ?_, fun p hp => ?_, ?_⟩
  · exact issues_of_floatLane hr hn (exec_floatOps d a b m ty mode s p hp)
  · exact vfma_issues hr hn
  · exact issues_of_lane2 (f := fOp2 ty .rne 0 p.2) hr hn (exec_minMaxOps d a b m ty s p hp)
  · exact issues_of_lane1 (f := fun c => roundInt (ffOf ty) mode ((ffOf ty).decode c)) hr hn rfl

theorem vectorSpecial : Claims.VectorSpecial := by
  refine ⟨fun s r d a m ty n hr hn p hp => issues_of_lane1 hr hn (exec_specialOps d a m ty s p hp),
    ?exp2Zero, ?exp2Inf, ?exp2NegInf, ?log2Zero, ?log2One, ?log2Inf, ?rcpZero, ?rcpNegZero, ?rcpNegInf,
    ?rsqZero, ?rsqInf, ?tanhInf, ?tanhNegInf, ?tanhNegZero⟩
  case exp2Zero => exact (special_posZero _).trans (spExp2_zero ..)
  case exp2Inf => exact (special_posInf _).trans (spExp2_inf ..)
  case exp2NegInf => exact (special_negInf _).trans (spExp2_inf ..)
  case log2Zero => exact (special_posZero _).trans (spLog2_zero ..)
  case log2One => exact ((special_one _).trans (spLog2_pow2 _ _ 23)).trans (by decide)
  case log2Inf => exact (special_posInf _).trans (spLog2_posInf ..)
  case rcpZero => exact (special_posZero _).trans (spRcp_zero ..)
  case rcpNegZero => exact (special_negZero _).trans (spRcp_zero ..)
  case rcpNegInf => exact (special_negInf _).trans (spRcp_inf ..)
  case rsqZero => exact (special_posZero _).trans (spRsq_zero ..)
  case rsqInf => exact (special_posInf _).trans (spRsq_posInf ..)
  case tanhInf => exact (special_posInf _).trans (spTanh_inf ..)
  case tanhNegInf => exact (special_negInf _).trans (spTanh_inf ..)
  case tanhNegZero => exact (special_negZero _).trans (spTanh_zero ..)

/-- Settles O22: each instruction is a lane, which issues with its effect when its TYPE fits the shape; the special
values follow from the laws of each function on a zero, an infinity and a power of two. -/
theorem vectorFloating : Obligations.VectorFloating := by
  unfold Obligations.VectorFloating
  exact ⟨vectorFloat, vectorSpecial⟩

end Sys2Proof
end

section
/-! PROOFS. The integer instructions of the stem over the integers (R92-R94). -/

namespace Sys2Proof.Machine

/-! ### Fewer registers named, free all the same -/

theorem State.regsFree.mono {s : State} {r r' w w' : List Reg} (h : s.regsFree r w) (hr : r' ⊆ r)
    (hw : w' ⊆ r ++ w) : s.regsFree r' w' := by
  obtain ⟨hpend, hpar⟩ := h
  refine ⟨fun x hx => hpend x ?_, fun x hx => hpar x (hr hx)⟩
  rcases List.mem_append.1 hx with hx | hx
  · exact List.mem_append_left _ (hr hx)
  · exact hw hx

/-- A completion that writes v to the register d. -/
theorem stemRun_setsX {s : State} {reads : List Reg} {d : Reg} {f : Core → Res} {v : Word} {npc : Nat}
    (h : s.regsFree reads [d]) (hf : f (s.core s.cur) = .done (s.setCore s.cur ((s.core s.cur).setX d v)) npc)
    (hp : s.plain npc) : stemRun reads [d] s f = Claims.setsX s d v npc :=
  stemRun_core h hf hp.1 (by rw [Core.setX_stem_status]; exact hp.2)

/-! ### Table 03-2 on bit vectors and over the integers -/

theorem intWidth_cases {ty : Ty} {n : Nat} (h : intWidth ty = some n) : n = 8 ∨ n = 16 ∨ n = 32 ∨ n = 64 := by
  cases ty <;> simp_all [intWidth]

/-- A width of the ALU divides the number of its values, so that a shift amount is the same signed and unsigned. -/
theorem intWidth_dvd {ty : Ty} {n : Nat} (h : intWidth ty = some n) : n ∣ 2 ^ n := by
  rcases intWidth_cases h with rfl | rfl | rfl | rfl <;> decide

/-- Integers that agree modulo 2^n are the same n-bit word. -/
theorem ofInt_congr {n : Nat} {i j : Int} (h : i % 2 ^ n = j % 2 ^ n) : BitVec.ofInt n i = BitVec.ofInt n j := by
  apply BitVec.eq_of_toNat_eq
  rw [BitVec.toNat_ofInt, BitVec.toNat_ofInt]
  push_cast
  rw [h]

theorem ediv_emod_pow (i p : Int) (hp : 0 < p) : i % (p * p) / p % p = i / p % p := by
  have hsplit : i / p = i % (p * p) / p + p * (i / (p * p)) := by
    rw [← Int.add_mul_ediv_left _ _ (by omega), ← Int.mul_assoc, Int.emod_add_mul_ediv]
  rw [hsplit, Int.add_mul_emod_self_left]

section
variable {n : Nat} (x y z : BitVec n)

/-- The upper half of a product of 2n bits. -/
theorem extract_upper (i : Int) : (BitVec.ofInt (2 * n) i).extractLsb' n n = BitVec.ofInt n (i / 2 ^ n) := by
  apply BitVec.eq_of_toNat_eq
  rw [BitVec.extractLsb'_toNat, Nat.shiftRight_eq_div_pow, BitVec.toNat_ofInt, BitVec.toNat_ofInt]
  have hp : (0 : Int) < 2 ^ n := by positivity
  have h := ediv_emod_pow i _ hp
  zify
  rw [Int.toNat_of_nonneg (Int.emod_nonneg _ (by positivity)), Int.toNat_of_nonneg (Int.emod_nonneg _ (by positivity)),
    two_mul, pow_add]
  exact h

theorem ofInt_min (i j : Int) : BitVec.ofInt n (min i j) = if j < i then BitVec.ofInt n j else BitVec.ofInt n i := by
  split
  · rw [min_eq_right (by omega)]
  · rw [min_eq_left (by omega)]

theorem ofInt_max (i j : Int) : BitVec.ofInt n (max i j) = if i < j then BitVec.ofInt n j else BitVec.ofInt n i := by
  split
  · rw [max_eq_right (by omega)]
  · rw [max_eq_left (by omega)]

theorem aluAdd_toInt : aluAdd n x y z = BitVec.ofInt n (x.toInt + y.toInt) := by
  rw [BitVec.ofInt_add, BitVec.ofInt_toInt, BitVec.ofInt_toInt]; rfl
theorem aluSub_toInt : aluSub n x y z = BitVec.ofInt n (x.toInt - y.toInt) := by
  apply BitVec.eq_of_toInt_eq
  rw [BitVec.toInt_ofInt]
  exact BitVec.toInt_sub ..
theorem aluMul_toInt : aluMul n x y z = BitVec.ofInt n (x.toInt * y.toInt) := by
  rw [BitVec.ofInt_mul, BitVec.ofInt_toInt, BitVec.ofInt_toInt]; rfl
theorem aluMadd_toInt : aluMadd n x y z = BitVec.ofInt n (z.toInt + x.toInt * y.toInt) := by
  rw [BitVec.ofInt_add, BitVec.ofInt_mul, BitVec.ofInt_toInt, BitVec.ofInt_toInt, BitVec.ofInt_toInt]; rfl
theorem aluMulh_toInt : aluMulh n x y z = BitVec.ofInt n (x.toInt * y.toInt / 2 ^ n) := by
  rw [← extract_upper, BitVec.ofInt_mul]; rfl
theorem aluMin_toInt : aluMin n x y z = BitVec.ofInt n (min x.toInt y.toInt) := by
  simp only [aluMin, ofInt_min, BitVec.slt_iff_toInt_lt, BitVec.ofInt_toInt]
theorem aluMax_toInt : aluMax n x y z = BitVec.ofInt n (max x.toInt y.toInt) := by
  simp only [aluMax, ofInt_max, BitVec.slt_iff_toInt_lt, BitVec.ofInt_toInt]
theorem aluSlt_toInt : aluSlt n x y z = BitVec.ofInt n (if x.toInt < y.toInt then 1 else 0) := by
  simp only [aluSlt, BitVec.slt_iff_toInt_lt]
  split <;> rfl

/-- A shift amount modulo the width is the same over the signed operand. -/
theorem shift_toInt (h : n ∣ 2 ^ n) : (y.toInt % n).toNat = y.toNat % n := by
  have hdvd : (n : Int) ∣ (2 ^ n : Nat) := Int.natCast_dvd_natCast.2 h
  have hy : y.toInt % (2 ^ n : Nat) = y.toNat := by
    rw [← BitVec.ofInt_toInt (x := y), BitVec.toNat_ofInt, BitVec.ofInt_toInt,
      Int.toNat_of_nonneg (Int.emod_nonneg _ (by positivity))]
  rw [← Int.emod_emod_of_dvd _ hdvd, hy]
  rfl
theorem aluSra_toInt (h : n ∣ 2 ^ n) : aluSra n x y z = BitVec.ofInt n (x.toInt / 2 ^ (y.toInt % n).toNat) := by
  have hsra := BitVec.toInt_sshiftRight (x := x) (n := y.toNat % n)
  rw [Int.shiftRight_eq_div_pow, Nat.cast_pow, Nat.cast_ofNat] at hsra
  rw [shift_toInt y h, ← hsra, BitVec.ofInt_toInt, aluSra]

theorem aluShl_toNat : aluShl n x y z = BitVec.ofNat n (x.toNat * 2 ^ (y.toNat % n)) := by
  apply BitVec.eq_of_toNat_eq
  rw [aluShl, BitVec.toNat_shiftLeft, BitVec.toNat_ofNat, Nat.shiftLeft_eq]
theorem aluShr_toNat : aluShr n x y z = BitVec.ofNat n (x.toNat / 2 ^ (y.toNat % n)) := by
  apply BitVec.eq_of_toNat_eq
  rw [aluShr, BitVec.toNat_ushiftRight, BitVec.toNat_ofNat, Nat.shiftRight_eq_div_pow,
    Nat.mod_eq_of_lt (Nat.lt_of_le_of_lt (Nat.div_le_self ..) x.isLt)]
theorem aluAnd_toNat : aluAnd n x y z = BitVec.ofNat n (x.toNat &&& y.toNat) := by
  rw [← BitVec.toNat_and, BitVec.ofNat_toNat, BitVec.setWidth_eq]; rfl
theorem aluOr_toNat : aluOr n x y z = BitVec.ofNat n (x.toNat ||| y.toNat) := by
  rw [← BitVec.toNat_or, BitVec.ofNat_toNat, BitVec.setWidth_eq]; rfl
theorem aluXor_toNat : aluXor n x y z = BitVec.ofNat n (x.toNat ^^^ y.toNat) := by
  rw [← BitVec.toNat_xor, BitVec.ofNat_toNat, BitVec.setWidth_eq]; rfl
theorem aluMulhUnsigned_toNat : aluMulhUnsigned n x y z = BitVec.ofNat n (x.toNat * y.toNat / 2 ^ n) := by
  rw [← BitVec.ofInt_natCast, Int.natCast_ediv, Int.natCast_mul]
  push_cast
  rw [← extract_upper, BitVec.ofInt_mul, BitVec.ofInt_natCast, BitVec.ofInt_natCast, BitVec.ofNat_toNat, BitVec.ofNat_toNat]
  rfl
theorem aluMinUnsigned_toNat : aluMinUnsigned n x y z = BitVec.ofNat n (min x.toNat y.toNat) := by
  simp only [aluMinUnsigned, BitVec.ult_iff_lt, BitVec.lt_def]
  split
  · rw [min_eq_right (by omega), BitVec.ofNat_toNat, BitVec.setWidth_eq]
  · rw [min_eq_left (by omega), BitVec.ofNat_toNat, BitVec.setWidth_eq]
theorem aluMaxUnsigned_toNat : aluMaxUnsigned n x y z = BitVec.ofNat n (max x.toNat y.toNat) := by
  simp only [aluMaxUnsigned, BitVec.ult_iff_lt, BitVec.lt_def]
  split
  · rw [max_eq_right (by omega), BitVec.ofNat_toNat, BitVec.setWidth_eq]
  · rw [max_eq_left (by omega), BitVec.ofNat_toNat, BitVec.setWidth_eq]
theorem aluSltu_toNat : aluSltu n x y z = BitVec.ofNat n (if x.toNat < y.toNat then 1 else 0) := by
  simp only [aluSltu, BitVec.ult_iff_lt, BitVec.lt_def]
  split <;> rfl

/-- The bits of a number other than 0 are one more than its logarithm. -/
theorem size_eq_log2 {m : Nat} (h : m ≠ 0) : m.size = m.log2 + 1 :=
  Nat.le_antisymm (Nat.size_le.2 Nat.lt_log2_self) (Nat.lt_size.2 (Nat.log2_self_le h))

theorem aluClz_toNat : aluClz n x y z = BitVec.ofNat n (n - x.toNat.size) := by
  unfold aluClz
  split
  next h => rw [h, Nat.size_zero, Nat.sub_zero]
  next h => rw [size_eq_log2 h, Nat.sub_add_eq, Nat.sub_right_comm]

theorem aluDiv_toInt : aluDiv n x y z = BitVec.ofInt n (x.toInt.tdiv y.toInt) := by
  apply BitVec.eq_of_toInt_eq
  rw [BitVec.toInt_ofInt]
  exact BitVec.toInt_sdiv ..
theorem aluRem_toInt : aluRem n x y z = BitVec.ofInt n (x.toInt.tmod y.toInt) := by
  rw [← BitVec.toInt_srem, BitVec.ofInt_toInt]; rfl
theorem aluDivUnsigned_toNat : aluDivUnsigned n x y z = BitVec.ofNat n (x.toNat / y.toNat) := by
  rw [← BitVec.toNat_udiv, BitVec.ofNat_toNat, BitVec.setWidth_eq]; rfl
theorem aluRemUnsigned_toNat : aluRemUnsigned n x y z = BitVec.ofNat n (x.toNat % y.toNat) := by
  rw [← BitVec.toNat_umod, BitVec.ofNat_toNat, BitVec.setWidth_eq]; rfl
end

/-! ### The meanings by their results -/

section
variable {s : State} {d : Reg} {a b : Src} {ty : Ty} {n : Nat} {f : AluFn} {useD : Bool}

theorem alu3_width (hn : intWidth ty = some n)
    (h : s.regsFree (srcRegs a ++ srcRegs b ++ if useD then [d] else []) [d]) (hp : s.plain (Claims.after s [a, b])) :
    alu3 useD f d a b ty s = Claims.setsX s d
      (aluValue f n ((s.core s.cur).src a) ((s.core s.cur).src b) ((s.core s.cur).getX d)) (Claims.after s [a, b]) :=
  stemRun_setsX h (by rw [hn]; rfl) hp

theorem alu3_noWidth (hn : intWidth ty = none)
    (h : s.regsFree (srcRegs a ++ srcRegs b ++ if useD then [d] else []) [d]) :
    alu3 useD f d a b ty s = Claims.traps s .formatInvalid (s.core s.cur).firstWord :=
  stemRun_trap h (by rw [hn])

theorem alu2_width (hn : intWidth ty = some n) (h : s.regsFree (srcRegs a) [d]) (hp : s.plain (Claims.after s [a])) :
    alu2 f d a ty s = Claims.setsX s d (aluValue f n ((s.core s.cur).src a) 0 0) (Claims.after s [a]) :=
  stemRun_setsX h (by rw [hn]; rfl) hp

theorem alu2_noWidth (hn : intWidth ty = none) (h : s.regsFree (srcRegs a) [d]) :
    alu2 f d a ty s = Claims.traps s .formatInvalid (s.core s.cur).firstWord :=
  stemRun_trap h (by rw [hn])

theorem aluDivide_done (hn : intWidth ty = some n) (h : s.regsFree (srcRegs a ++ srcRegs b) [d])
    (h0 : (((s.core s.cur).src b).setWidth n).toNat ≠ 0) (hp : s.plain (Claims.after s [a, b])) :
    aluDivide f d a b ty s = Claims.setsX s d
      (aluValue f n ((s.core s.cur).src a) ((s.core s.cur).src b) 0) (Claims.after s [a, b]) :=
  stemRun_setsX h (by rw [hn]; exact if_neg h0) hp

theorem aluDivide_zero (hn : intWidth ty = some n) (h : s.regsFree (srcRegs a ++ srcRegs b) [d])
    (h0 : (((s.core s.cur).src b).setWidth n).toNat = 0) : aluDivide f d a b ty s =
      Claims.traps s .divZero ((((s.core s.cur).src a).setWidth n).signExtend 64) :=
  stemRun_trap h (by rw [hn]; exact if_pos h0)

theorem aluDivide_noWidth (hn : intWidth ty = none) (h : s.regsFree (srcRegs a ++ srcRegs b) [d]) :
    aluDivide f d a b ty s = Claims.traps s .formatInvalid (s.core s.cur).firstWord :=
  stemRun_trap h (by rw [hn])

end

section
variable {n : Nat} {f : AluFn} {a b d : Word}

/-- An operation that is g of the signed operands. -/
theorem aluValue_signed {g : Int → Int → Int} (hf : ∀ x y z : BitVec n, f n x y z = BitVec.ofInt n (g x.toInt y.toInt)) :
    aluValue f n a b d = Claims.signed n (g (Claims.low n a) (Claims.low n b)) := by
  rw [aluValue, hf]; rfl

theorem lowU_eq (v : Word) : Claims.lowU n v = (v.setWidth n).toNat := (BitVec.toNat_setWidth n v).symm

/-- An operation that is g of the unsigned operands. -/
theorem aluValue_unsigned {g : Nat → Nat → Nat} (hf : ∀ x y z : BitVec n, f n x y z = BitVec.ofNat n (g x.toNat y.toNat)) :
    aluValue f n a b d = Claims.signed n (g (Claims.lowU n a) (Claims.lowU n b) : Nat) := by
  rw [aluValue, hf, lowU_eq, lowU_eq, ← BitVec.ofInt_natCast]; rfl

end

/-- The meaning of a constructor is a result of Table 03-2 that does not read the destination. -/
def IsAlu3 (c : Claims.Ctor3) (f : AluFn) : Prop := ∀ d a b ty s, exec (c d a b ty) s = alu3 false f d a b ty s

theorem signedAlu_results : ∀ p ∈ Claims.signedAlu, ∃ f, IsAlu3 p.1 f ∧ ∀ n, n ∣ 2 ^ n → ∀ x y z : BitVec n,
    f n x y z = BitVec.ofInt n (p.2 n x.toInt y.toInt) := by
  simp only [Claims.signedAlu, List.forall_mem_cons]
  exact ⟨⟨aluAdd, fun _ _ _ _ _ => rfl, fun _ _ => aluAdd_toInt⟩,
    ⟨aluSub, fun _ _ _ _ _ => rfl, fun _ _ => aluSub_toInt⟩,
    ⟨aluMul, fun _ _ _ _ _ => rfl, fun _ _ => aluMul_toInt⟩, ⟨aluMulh, fun _ _ _ _ _ => rfl, fun _ _ => aluMulh_toInt⟩,
    ⟨aluMin, fun _ _ _ _ _ => rfl, fun _ _ => aluMin_toInt⟩, ⟨aluMax, fun _ _ _ _ _ => rfl, fun _ _ => aluMax_toInt⟩,
    ⟨aluSlt, fun _ _ _ _ _ => rfl, fun _ _ => aluSlt_toInt⟩,
    ⟨aluSra, fun _ _ _ _ _ => rfl, fun _ h x y z => aluSra_toInt x y z h⟩, nofun⟩

theorem unsignedAlu_results : ∀ p ∈ Claims.unsignedAlu, ∃ f, IsAlu3 p.1 f ∧ ∀ n, ∀ x y z : BitVec n,
    f n x y z = BitVec.ofNat n (p.2 n x.toNat y.toNat) := by
  simp only [Claims.unsignedAlu, List.forall_mem_cons]
  exact ⟨⟨aluAnd, fun _ _ _ _ _ => rfl, fun _ => aluAnd_toNat⟩, ⟨aluOr, fun _ _ _ _ _ => rfl, fun _ => aluOr_toNat⟩,
    ⟨aluXor, fun _ _ _ _ _ => rfl, fun _ => aluXor_toNat⟩, ⟨aluShl, fun _ _ _ _ _ => rfl, fun _ => aluShl_toNat⟩,
    ⟨aluShr, fun _ _ _ _ _ => rfl, fun _ => aluShr_toNat⟩,
    ⟨aluMulhUnsigned, fun _ _ _ _ _ => rfl, fun _ => aluMulhUnsigned_toNat⟩,
    ⟨aluMinUnsigned, fun _ _ _ _ _ => rfl, fun _ => aluMinUnsigned_toNat⟩,
    ⟨aluMaxUnsigned, fun _ _ _ _ _ => rfl, fun _ => aluMaxUnsigned_toNat⟩,
    ⟨aluSltu, fun _ _ _ _ _ => rfl, fun _ => aluSltu_toNat⟩, nofun⟩

section
variable {s : State} {d : Reg} {a b : Src} {ty : Ty} {n : Nat}

theorem exec_madd : exec (.madd d a b ty) s = alu3 true aluMadd d a b ty s := rfl
theorem exec_clz : exec (.clz d a ty) s = alu2 aluClz d a ty s := rfl
theorem exec_popc : exec (.popc d a ty) s = alu2 aluPopc d a ty s := rfl
theorem exec_div : exec (.div d a b ty) s = aluDivide aluDiv d a b ty s := rfl
theorem exec_rem : exec (.rem d a b ty) s = aluDivide aluRem d a b ty s := rfl
theorem exec_divUnsigned : exec (.divUnsigned d a b ty) s = aluDivide aluDivUnsigned d a b ty s := rfl
theorem exec_remUnsigned : exec (.remUnsigned d a b ty) s = aluDivide aluRemUnsigned d a b ty s := rfl

/-- Every ALU instruction of two sources is one of the three forms. -/
theorem aluCtors_forms : ∀ c ∈ Claims.aluCtors, (∃ useD f, ∀ d a b ty s, exec (c d a b ty) s = alu3 useD f d a b ty s) ∨
    ∃ f, ∀ d a b ty s, exec (c d a b ty) s = aluDivide f d a b ty s := by
  intro c hc
  simp only [Claims.aluCtors, List.mem_append, List.mem_map] at hc
  rcases hc with (⟨p, hp, rfl⟩ | ⟨p, hp, rfl⟩) | hc
  · obtain ⟨f, hf, _⟩ := signedAlu_results p hp
    exact .inl ⟨false, f, hf⟩
  · obtain ⟨f, hf, _⟩ := unsignedAlu_results p hp
    exact .inl ⟨false, f, hf⟩
  · simp only [List.mem_cons, List.not_mem_nil, or_false] at hc
    rcases hc with rfl | rfl | rfl | rfl | rfl
    · exact .inl ⟨true, aluMadd, fun _ _ _ _ _ => rfl⟩
    · exact .inr ⟨aluDiv, fun _ _ _ _ _ => rfl⟩
    · exact .inr ⟨aluRem, fun _ _ _ _ _ => rfl⟩
    · exact .inr ⟨aluDivUnsigned, fun _ _ _ _ _ => rfl⟩
    · exact .inr ⟨aluRemUnsigned, fun _ _ _ _ _ => rfl⟩

theorem aluCtors_noWidth (hn : intWidth ty = none) (h : s.regsFree (srcRegs a ++ srcRegs b ++ [d]) [d]) :
    ∀ c ∈ Claims.aluCtors, exec (c d a b ty) s = Claims.traps s .formatInvalid (s.core s.cur).firstWord := by
  intro c hc
  rcases aluCtors_forms c hc with ⟨useD, f, he⟩ | ⟨f, he⟩
  · rw [he, alu3_noWidth hn (h.mono ?_ (List.subset_append_right _ _))]
    cases useD <;> simp
  · rw [he, aluDivide_noWidth hn (h.mono (List.subset_append_left _ _) (List.subset_append_right _ _))]

/-- The set bits of the low n bits of a word. -/
theorem aluPopc_low (v : Word) (y z : BitVec n) :
    aluPopc n (v.setWidth n) y z = BitVec.ofInt n ((List.range n).countP fun i => v.getLsbD i : Nat) := by
  rw [BitVec.ofInt_natCast, aluPopc]
  congr 1
  refine List.countP_congr fun i hi => ?_
  simp [List.mem_range.1 hi]

theorem aluClz_low (v : Word) (y z : BitVec n) :
    aluClz n (v.setWidth n) y z = BitVec.ofInt n (n - (Claims.lowU n v).size : Nat) := by
  rw [BitVec.ofInt_natCast, lowU_eq, aluClz_toNat]

end

end Sys2Proof.Machine

namespace Sys2Proof
open Machine

/-- Settles O1: each instruction is a result on bit vectors, which is that of Table 03-2 over the integers. -/
theorem stemAluResults : Obligations.StemAluResults := by
  unfold Obligations.StemAluResults
  intro s d a b ty
  refine ⟨fun n hn hp => ⟨fun h => ⟨fun p hq => ?_, fun p hq => ?_⟩, fun h => ?_⟩, fun n hn hp h => ⟨?_, ?_⟩,
    fun hn h => ⟨aluCtors_noWidth hn h, ?_, ?_⟩⟩
  · obtain ⟨f, he, hf⟩ := signedAlu_results p hq
    rw [he, alu3_width hn (by simpa using h) hp, aluValue_signed (hf n (intWidth_dvd hn))]
  · obtain ⟨f, he, hf⟩ := unsignedAlu_results p hq
    rw [he, alu3_width hn (by simpa using h) hp, aluValue_unsigned (hf n)]
  · rw [exec_madd, alu3_width hn h hp, aluValue, aluMadd_toInt]; rfl
  · rw [exec_clz, alu2_width hn h hp, aluValue, aluClz_low]; rfl
  · rw [exec_popc, alu2_width hn h hp, aluValue, aluPopc_low]; rfl
  all_goals
    refine alu2_noWidth hn (h.mono ?_ (List.subset_append_right _ _))
    exact fun x hx => by simp [hx]

/-- The only quotient that wraps, of the most negative value by -1, is the dividend again. -/
theorem signed_tdiv_negOne {n : Nat} (hn : 0 < n) {x : Int} (hx : x = -2 ^ (n - 1)) :
    Claims.signed n (x.tdiv (-1)) = Claims.signed n x := by
  have hpow : (2 : Int) ^ n = 2 * 2 ^ (n - 1) := by rw [← pow_succ', Nat.sub_add_cancel hn]
  have hwrap : x.tdiv (-1) = x + 2 ^ n * 1 := by rw [Int.tdiv_neg, Int.tdiv_one, hx, hpow]; ring
  rw [Claims.signed, Claims.signed, ofInt_congr (j := x) (by rw [hwrap, Int.add_mul_emod_self_left])]

/-- Settles O2: each instruction is a division of bit vectors, which truncates toward zero over the integers. -/
theorem stemDivision : Obligations.StemDivision := by
  unfold Obligations.StemDivision
  intro s d a b ty n k x y hn h
  have hzero : y = 0 ↔ ((k.src b).setWidth n).toNat = 0 := by
    rw [show y = ((k.src b).setWidth n).toInt from rfl, ← BitVec.toInt_zero (w := n), BitVec.toInt_inj]
    exact BitVec.toNat_eq
  refine ⟨fun hy hp => ?_, fun hy c hc => ?_⟩
  · have h0 : ((k.src b).setWidth n).toNat ≠ 0 := fun e => hy (hzero.2 e)
    have hdiv : exec (.div d a b ty) s = Claims.setsX s d (Claims.signed n (x.tdiv y)) (Claims.after s [a, b]) := by
      rw [exec_div, aluDivide_done hn h h0 hp, aluValue_signed aluDiv_toInt]
    have hrem : exec (.rem d a b ty) s = Claims.setsX s d (Claims.signed n (x.tmod y)) (Claims.after s [a, b]) := by
      rw [exec_rem, aluDivide_done hn h h0 hp, aluValue_signed aluRem_toInt]
    refine ⟨hdiv, hrem, ?_, ?_, fun hx hy1 => ⟨?_, ?_⟩⟩
    · rw [exec_divUnsigned, aluDivide_done hn h h0 hp, aluValue_unsigned aluDivUnsigned_toNat]
    · rw [exec_remUnsigned, aluDivide_done hn h h0 hp, aluValue_unsigned aluRemUnsigned_toNat]
    · have hn0 : 0 < n := by rcases intWidth_cases hn with rfl | rfl | rfl | rfl <;> decide
      rw [hdiv, hy1, signed_tdiv_negOne hn0 hx]
    · rw [hrem, hy1, Int.tmod_neg, Int.tmod_one]
      rw [Claims.signed, BitVec.ofInt_ofNat, BitVec.signExtend, BitVec.toInt_zero]; rfl
  · have hdivides : ∃ f, ∀ d a b ty s, exec (c d a b ty) s = aluDivide f d a b ty s := by
      simp only [List.mem_cons, List.not_mem_nil, or_false] at hc
      rcases hc with rfl | rfl | rfl | rfl
      exacts [⟨aluDiv, fun _ _ _ _ _ => rfl⟩, ⟨aluRem, fun _ _ _ _ _ => rfl⟩, ⟨aluDivUnsigned, fun _ _ _ _ _ => rfl⟩,
        ⟨aluRemUnsigned, fun _ _ _ _ _ => rfl⟩]
    obtain ⟨f, he⟩ := hdivides
    have hval : Claims.signed n x = ((k.src a).setWidth n).signExtend 64 := by
      rw [Claims.signed, show x = ((k.src a).setWidth n).toInt from rfl, BitVec.ofInt_toInt]
    rw [he, aluDivide_zero hn h (hzero.1 hy), hval]
    rfl

/-- What a word of LI decodes to: A must be 0, or 31 with no immediate (R94). -/
theorem decode_li (d : Reg) (a : BitVec 5) (i : BitVec 16) (ws : List W32) :
    decode .stem ((2#6 ++ regCode d ++ a ++ i) :: ws) = settle false (!(a == 0 || (a == 31 && i == 0)))
      (if a = 31 then 1 else 0) ws false (.li d (if a = 31 then .lit (ws.getD 0 0) else .imm i)) := by
  rw [decode_stem, decStem, maj_I]
  show liRow _ _ _ = _
  have hd : (regCode d == 31) = false := beq_eq_false_iff_ne.2 (regCode_ne_lit d)
  rw [liRow, liVal, rD, d_I, a_I, imm_I, regOf_regCode, hd, Bool.false_or]

/-- Settles O3: the completion writes the value, and the decoder's row reads A and IMM16. -/
theorem stemLi : Obligations.StemLi := by
  unfold Obligations.StemLi
  refine ⟨fun s d h => ⟨fun i hp => ?_, fun v hp => ?_⟩, fun d a i ws => ⟨fun h0 h31 => ?_, fun h31 hi => ?_,
    fun h0 => ?_, fun v h31 hi => ?_⟩⟩
  · rw [exec_li]; exact stemRun_setsX h rfl hp
  · rw [exec_li]; exact stemRun_setsX h rfl hp
  · rw [decode_li, beq_eq_false_iff_ne.2 h0, beq_eq_false_iff_ne.2 h31]; rfl
  · rw [decode_li, h31, beq_eq_false_iff_ne.2 hi]; rfl
  · rw [decode_li, h0]; rfl
  · rw [decode_li, h31, hi]; rfl

end Sys2Proof
end

section
/-! PROOFS. The stem's branches, jumps, calls, returns and loops (R95-R100). -/

namespace Sys2Proof.Machine
open Claims

/-! ### Branches -/

theorem condEq_iff (x y : Word) : condEq x y = true ↔ x = y := beq_iff_eq
theorem condNe_iff (x y : Word) : condNe x y = true ↔ x ≠ y := bne_iff_ne
theorem condLt_iff (x y : Word) : condLt x y = true ↔ x.toInt < y.toInt := BitVec.slt_iff_toInt_lt
theorem condLtu_iff (x y : Word) : condLtu x y = true ↔ x.toNat < y.toNat := BitVec.ult_iff_lt
theorem condGe_iff (x y : Word) : condGe x y = true ↔ y.toInt ≤ x.toInt := by
  rw [condGe, Bool.not_eq_true', Bool.eq_false_iff, ne_eq, BitVec.slt_iff_toInt_lt, Int.not_lt]
theorem condGeu_iff (x y : Word) : condGeu x y = true ↔ y.toNat ≤ x.toNat := by
  rw [condGeu, Bool.not_eq_true', Bool.eq_false_iff, ne_eq, BitVec.ult_iff_lt, BitVec.lt_def, Nat.not_lt]

/-- Each conditional branch is branchIf of a test that decides its condition. -/
theorem branches_cond : ∀ p ∈ branches, ∃ cond, (∀ x y ofs s, exec (p.1 x y ofs) s = branchIf cond x y ofs s) ∧
    ∀ v w, cond v w = true ↔ p.2 v w := by
  simp only [branches, List.forall_mem_cons]
  exact ⟨⟨condEq, fun _ _ _ _ => rfl, condEq_iff⟩, ⟨condNe, fun _ _ _ _ => rfl, condNe_iff⟩,
    ⟨condLt, fun _ _ _ _ => rfl, condLt_iff⟩, ⟨condGe, fun _ _ _ _ => rfl, condGe_iff⟩,
    ⟨condLtu, fun _ _ _ _ => rfl, condLtu_iff⟩, ⟨condGeu, fun _ _ _ _ => rfl, condGeu_iff⟩, nofun⟩

theorem targetOk_iff {t : Int} : targetOk t = true ↔ legal t := by simp [targetOk, legal]
theorem legal_lt {t : Int} (h : legal t) : t.toNat < 0x10000 := by obtain ⟨h0, h1⟩ := h; omega

section
variable {s : State} {reads : List Reg} {f : Core → Res}

/-- An instruction whose only effect is its next PC. -/
theorem stemRun_goesTo {npc : Nat} (h : s.regsFree reads []) (hf : f (s.core s.cur) = .done s npc) (hn : npc < 0x10000)
    (hs : steps s = false) : stemRun reads [] s f = goesTo s npc :=
  stemRun_same h hf ⟨hn, hs⟩

variable {x y : Src} {ofs : BitVec 16} {cond : Word → Word → Bool}

theorem branchIf_taken (h : s.regsFree (srcRegs x ++ srcRegs y) [])
    (hc : cond ((s.core s.cur).src x) ((s.core s.cur).src y) = true)
    (ht : legal (branchTarget (s.core s.cur).stem.pc.toNat ofs.toInt)) (hs : steps s = false) :
    branchIf cond x y ofs s = goesTo s (branchTarget (s.core s.cur).stem.pc.toNat ofs.toInt).toNat :=
  stemRun_goesTo h ((if_pos hc).trans (if_pos (targetOk_iff.2 ht))) (legal_lt ht) hs

theorem branchIf_out (h : s.regsFree (srcRegs x ++ srcRegs y) [])
    (hc : cond ((s.core s.cur).src x) ((s.core s.cur).src y) = true)
    (ht : ¬legal (branchTarget (s.core s.cur).stem.pc.toNat ofs.toInt)) :
    branchIf cond x y ofs s = trapsAt s .imemRange (branchTarget (s.core s.cur).stem.pc.toNat ofs.toInt) :=
  stemRun_trap h ((if_pos hc).trans (if_neg (mt targetOk_iff.1 ht)))

theorem branchIf_not (h : s.regsFree (srcRegs x ++ srcRegs y) [])
    (hc : ¬cond ((s.core s.cur).src x) ((s.core s.cur).src y) = true) (hp : s.plain (after s [x, y])) :
    branchIf cond x y ofs s = goesTo s (after s [x, y]) :=
  stemRun_goesTo h (if_neg hc) hp.1 hp.2
end

/-! ### Jumps, calls and returns -/

section
variable {s : State} {reads : List Reg} {f : Core → Res} {t : Int} {follow : Nat}

theorem jump_goes (h : s.regsFree reads []) (ht : legal t) (hs : steps s = false)
    (hf : f (s.core s.cur) = jumpTo false t follow s (s.core s.cur)) : stemRun reads [] s f = goesTo s t.toNat :=
  stemRun_goesTo h (hf.trans (if_pos (targetOk_iff.2 ht))) (legal_lt ht) hs

theorem call_goes (h : s.regsFree reads []) (ht : legal t) (hs : steps s = false)
    (hr : (s.core s.cur).stem.rets.length < 16) (hf : f (s.core s.cur) = jumpTo true t follow s (s.core s.cur)) :
    stemRun reads [] s f = .next (s.stemDone (pushed s follow) t.toNat) :=
  stemRun_core h (hf.trans ((if_pos (targetOk_iff.2 ht)).trans (if_pos hr))) (legal_lt ht) hs

theorem call_full (h : s.regsFree reads []) (ht : legal t) (hr : 16 ≤ (s.core s.cur).stem.rets.length)
    (hf : f (s.core s.cur) = jumpTo true t follow s (s.core s.cur)) : stemRun reads [] s f = trapsAt s .callDepth t :=
  stemRun_trap h (hf.trans ((if_pos (targetOk_iff.2 ht)).trans (if_neg (Nat.not_lt.2 hr))))

theorem jump_out {call : Bool} (h : s.regsFree reads []) (ht : ¬legal t)
    (hf : f (s.core s.cur) = jumpTo call t follow s (s.core s.cur)) : stemRun reads [] s f = trapsAt s .imemRange t :=
  stemRun_trap h (hf.trans (if_neg (mt targetOk_iff.1 ht)))

theorem exec_j (ofs : BitVec 26) (s : State) : exec (.j ofs) s =
    stemRun [] [] s fun c => jumpTo false (branchTarget c.stem.pc.toNat ofs.toInt) 0 s c := rfl
theorem exec_jal (ofs : BitVec 26) (s : State) : exec (.jal ofs) s =
    stemRun [] [] s fun c => jumpTo true (branchTarget c.stem.pc.toNat ofs.toInt) (c.after 1) s c := rfl
theorem exec_jr (a : Src) (s : State) : exec (.jr a) s = jumpReg false a s := rfl
theorem exec_jrCall (a : Src) (s : State) : exec (.jrCall a) s = jumpReg true a s := rfl
theorem exec_ret (s : State) : exec .ret s = stemRun [] [] s fun c => match c.stem.rets with
    | [] => .trap .callDepth 0
    | a :: rest => .done (s.setCore s.cur (c.setStem { c.stem with rets := rest })) a.toNat := rfl

variable {a : Src} {call : Bool}

/-- The test of JR on its register. -/
theorem regTarget_iff {v : Word} : (decide (v.toNat ≤ 0xFFFC) && v.toNat % 4 == 0) = true ↔
    v.toNat ≤ 0xFFFC ∧ v.toNat % 4 = 0 := by
  rw [Bool.and_eq_true_iff, decide_eq_true_iff, beq_iff_eq]

theorem jumpReg_out (h : s.regsFree (srcRegs a) [])
    (ht : 0xFFFC < ((s.core s.cur).src a).toNat ∨ ((s.core s.cur).src a).toNat % 4 ≠ 0) :
    jumpReg call a s = traps s .imemRange ((s.core s.cur).src a) := by
  refine stemRun_trap h (if_neg (mt regTarget_iff.1 ?_))
  omega
end

/-! ### Loops -/

section
variable {s : State} {a : Src} {imm : BitVec 16}

theorem exec_loop (a : Src) (imm : BitVec 16) (s : State) : exec (.loop a imm) s = execLoop a imm s := rfl

theorem exec_mvlc (n : Fin 4) (a : Src) (s : State) : exec (.mvlc n a) s = execMvlc n a s := rfl
theorem exec_mvlcRead (d : Reg) (n : Fin 4) (s : State) : exec (.mvlcRead d n) s = execMvlcRead d n s := rfl
theorem exec_lbrk (s : State) : exec .lbrk s = stemRun [] [] s fun c => match c.stem.loops with
    | [] => .trap .loopDepth 0
    | l :: ls => .done (s.setCore s.cur (c.setStem { c.stem with loops := ls })) l.fin := rfl

/-- The core in the body of its newest loop. -/
def Core.enterLoop (k : Core) (n : W32) (l : Loop) (h : k.stem.loops.length < 4) : Core :=
  { k with stem := { k.stem with lc := k.stem.lc.set k.stem.loops.length n, loops := l :: k.stem.loops } }

theorem enterLoop_eq (k : Core) (n : W32) (l : Loop) (h : k.stem.loops.length < 4) :
    k.setStem { k.stem with lc := k.stem.lc.setIfInBounds k.stem.loops.length n, loops := l :: k.stem.loops } =
      k.enterLoop n l h := by
  rw [vset_eq_setIfInBounds k.stem.lc ⟨_, h⟩]; rfl

end
/-! ### The back-edge test -/

theorem backEdge_nil {n : Nat} (lc : Vector W32 n) (pc : Nat) : backEdge lc [] pc = ([], lc, pc) := rfl

section
variable {n : Nat} (lc : Vector W32 n) {l : Loop} {ls : List Loop} {pc : Nat}

theorem lcGet_eq {k : Nat} (h : k < n) : lcGet lc k = lc[k] := by
  simp [lcGet, h]

theorem backEdge_elsewhere (h : pc ≠ l.fin) : backEdge lc (l :: ls) pc = (l :: ls, lc, pc) := if_neg h

theorem backEdge_last (hk : ls.length < n) (h : pc = l.fin) (h1 : lc[ls.length].toNat ≤ 1) :
    backEdge lc (l :: ls) pc = backEdge lc ls pc := by
  rw [backEdge, if_pos h, lcGet_eq lc hk, if_pos h1]

theorem backEdge_again (hk : ls.length < n) (h : pc = l.fin) (h1 : 1 < lc[ls.length].toNat) :
    backEdge lc (l :: ls) pc = (l :: ls, lc.set ls.length (lc[ls.length] - 1), l.start) := by
  rw [backEdge, if_pos h, lcGet_eq lc hk, if_neg (Nat.not_le.2 h1), vset_eq_setIfInBounds lc ⟨_, hk⟩]
end

section
variable (k : Core) (npc : Nat)

theorem goto_pc : (k.goto npc).stem.pc = BitVec.ofNat 16 (backEdge k.stem.lc k.stem.loops npc).2.2 := rfl
theorem goto_loops : (k.goto npc).stem.loops = (backEdge k.stem.lc k.stem.loops npc).1 := rfl
theorem goto_lc : (k.goto npc).stem.lc = (backEdge k.stem.lc k.stem.loops npc).2.1 := rfl

/-- The PC after a transfer depends on the loops and their counters alone. -/
theorem goto_congr {k' : Core} (h : backEdge k.stem.lc k.stem.loops npc = backEdge k'.stem.lc k'.stem.loops npc)
    (hk : k'.setStem { k'.stem with loops := k.stem.loops } = k) : k.goto npc = k'.goto npc := by
  unfold Core.goto
  rw [h, ← hk]
  rfl
end

end Sys2Proof.Machine

namespace Sys2Proof
open Machine Claims

theorem stemBranches : StemBranches := by
  intro s x y ofs h p hp k t
  obtain ⟨cond, he, hcond⟩ := branches_cond p hp
  rw [he]
  exact ⟨fun hc ht hs => branchIf_taken h ((hcond _ _).2 hc) ht hs, fun hc ht => branchIf_out h ((hcond _ _).2 hc) ht,
    fun hc hpl => branchIf_not h (mt (hcond _ _).1 hc) hpl⟩

theorem stemJumps : StemJumps := by
  intro s hs k
  refine ⟨fun h ofs => ⟨fun ht => ⟨?_, fun hr => ?_, fun hr => ?_⟩, fun ht => ⟨?_, ?_⟩⟩, fun a h =>
    ⟨fun h1 h4 => ?_, fun ht => ⟨jumpReg_out h ht, jumpReg_out h ht⟩⟩,
    fun h => ⟨fun a rest hr => ?_, fun hr => ⟨0, ?_⟩⟩⟩
  · exact (exec_j ..).trans (jump_goes h ht hs rfl)
  · exact (exec_jal ..).trans (call_goes h ht hs hr rfl)
  · exact (exec_jal ..).trans (call_full h ht hr rfl)
  · exact (exec_j ..).trans (jump_out h ht rfl)
  · exact (exec_jal ..).trans (jump_out h ht rfl)
  · have ht : legal ((k.src a).toNat : Int) := ⟨by omega, by omega⟩
    refine ⟨(exec_jr ..).trans (jump_goes h ht hs (if_pos (regTarget_iff.2 ⟨h1, h4⟩))), fun hr => ?_, fun hr => ?_⟩
    · exact (exec_jrCall ..).trans (call_goes h ht hs hr (if_pos (regTarget_iff.2 ⟨h1, h4⟩)))
    · refine ((exec_jrCall ..).trans (call_full h ht hr (if_pos (regTarget_iff.2 ⟨h1, h4⟩)))).trans ?_
      rw [trapsAt, BitVec.ofInt_natCast, BitVec.ofNat_toNat, BitVec.setWidth_eq]
  · rw [exec_ret]
    refine stemRun_core h ?_ a.isLt hs
    rw [hr]; rfl
  · rw [exec_ret]
    exact stemRun_trap h (by rw [hr])

/-- Settles O4: a branch or jump is a test of its target and, for a call, of the return stack. -/
theorem stemControl : Obligations.StemControl := by
  unfold Obligations.StemControl
  exact ⟨stemBranches, stemJumps⟩

theorem stemLoop : StemLoop := by
  intro s a imm h k n start fin
  rw [exec_loop]
  refine ⟨fun hf => stemRun_trap h (if_pos hf),
    fun hf hb => stemRun_trap h ((if_neg (Int.not_le.2 hf)).trans (if_pos hb)), fun hf hb => ?_⟩
  have hbody {r p q z : Res} (hz : p = z) : (if fin ≤ start then q else if 0xFFFC < fin then r else p) = z :=
    (if_neg (Int.not_le.2 hf)).trans ((if_neg (Int.not_lt.2 hb)).trans hz)
  refine ⟨fun hn hs => stemRun_goesTo h (hbody (if_pos hn)) (by omega) hs,
    fun hn hl => stemRun_trap h (hbody ((if_neg hn).trans (if_pos (Nat.le_of_eq hl.symm)))), fun hn hs hl =>
      stemRun_core (k := k.enterLoop n ⟨start, fin.toNat⟩ hl) h
        (hbody ((if_neg hn).trans ((if_neg (Nat.not_le.2 hl)).trans ?_)))
        (by omega) hs⟩
  rw [← enterLoop_eq]; rfl

theorem stemBackEdge : StemBackEdge := by
  intro k npc _ hn
  refine ⟨fun h0 => ?_, fun l ls hl h4 => ⟨fun hne => ?_, fun he h1 => ?_, fun he h1 hs => ?_⟩⟩
  · rw [goto_pc, goto_loops, goto_lc, h0, backEdge_nil]
    exact ⟨Nat.mod_eq_of_lt hn, rfl, rfl⟩
  · rw [goto_pc, goto_loops, goto_lc, hl, backEdge_elsewhere _ hne]
    exact ⟨Nat.mod_eq_of_lt hn, rfl, rfl⟩
  · exact goto_congr k npc (by rw [hl]; exact backEdge_last _ h4 he h1) rfl
  · rw [goto_pc, goto_loops, goto_lc, hl, backEdge_again _ h4 he h1]
    exact ⟨Nat.mod_eq_of_lt hs, rfl, rfl⟩

theorem stemLoopRegisters : StemLoopRegisters := by
  intro s k
  refine ⟨fun n a h hp => ?_, fun d n h hp => ?_, fun h hs l ls hl hf => ?_, fun h hl => ?_⟩
  · rw [exec_mvlc]; exact stemRun_core h rfl hp.1 hp.2
  · rw [exec_mvlcRead, BitVec.ofNat_toNat]; exact stemRun_setsX h rfl hp
  · rw [exec_lbrk]
    refine stemRun_core h ?_ hf hs
    rw [hl]; rfl
  · rw [exec_lbrk]
    exact stemRun_trap h (by rw [hl])

/-- Settles O5: LOOP by its tests in their order, the back-edge test by its cases. -/
theorem stemLoops : Obligations.StemLoops := by
  unfold Obligations.StemLoops
  exact ⟨stemLoop, stemBackEdge, stemLoopRegisters⟩

end Sys2Proof
end

section
/-! PROOFS. The stem's scratchpad accesses: addresses, the stores on their way, loads, stores, and the performance of a
store at its bank (R90, R102-R106, R112, R324, R327). -/

namespace Sys2Proof.Machine
open Claims

/-! ### Addresses (R90, R102) -/

section
variable {v : Word} {n : Nat} {bad : Cause} {f : Nat → Res}

theorem withAddr_ok (hr : v.toNat < 2 ^ 21) (ha : v.toNat % n = 0) : withAddr v n bad f = f v.toNat :=
  (if_neg (Nat.not_le.2 hr)).trans (if_neg (not_not.2 ha))
theorem withAddr_range (hr : 2 ^ 21 ≤ v.toNat) : withAddr v n bad f = .trap .scratchRange v := if_pos hr
theorem withAddr_align (hr : v.toNat < 2 ^ 21) (ha : v.toNat % n ≠ 0) : withAddr v n bad f = .trap bad v :=
  (if_neg (Nat.not_le.2 hr)).trans (if_pos ha)

theorem effAddr_eq (v : Word) (size : BitVec 2) (ofs : BitVec 10) :
    effAddr v size ofs = v + BitVec.ofInt 64 (ofs.toInt * nBytes size) := by
  rw [BitVec.ofInt_mul, BitVec.ofInt_natCast]; rfl
end

/-! ### What the stem's own stores leave (R104, R321) -/

theorem memGet_over (m : Mem) (e : StEntry) (b : Nat) : memGet (e.over m) b =
    if e.covers b 1 then (match e with | .store _ a bs _ => bs.getD (b - a) 0 | .fence _ => 0) else memGet m b := by
  cases e with
  | fence _ => rfl
  | store cls a bs r =>
    rw [StEntry.over, memGet_memPut]
    by_cases h : a ≤ b ∧ b < a + bs.length
    · rw [if_pos h, if_pos (by simp [StEntry.covers]; omega)]
    · rw [if_neg h, if_neg (by simp [StEntry.covers]; omega)]

/-- A byte under a list of stores: the last of them that has it, or the memory below. -/
theorem memGet_own (m : Mem) (b : Nat) (l : List StEntry) : memGet (l.foldl StEntry.over m) b =
    match (l.filter fun e => e.covers b 1).getLast? with
    | some (.store _ a bs _) => bs.getD (b - a) 0
    | _ => memGet m b := by
  induction l using List.reverseRecOn with
  | nil => rfl
  | append_singleton l e ih =>
    rw [List.foldl_append, List.foldl_cons, List.foldl_nil, memGet_over, List.filter_append]
    by_cases h : e.covers b 1 = true
    · cases e with
      | fence _ => cases h
      | store cls a bs r => simp [h]
    · rw [if_neg h, ih]
      simp [h]

theorem ownByte_eq (k : Core) (b : Nat) : ownByte k b = memGet k.own b := (memGet_own k.scratch b k.stem.stq).symm

theorem sees_eq (s : State) (a n : Nat) : sees s a n = (s.core s.cur).readOwn a n := by
  simp only [sees, ownByte_eq]; rfl

/-! ### What holds an access back (R104, R112, R327) -/

/-- A store of a list that comes before an access of a class: it has the class, or a FENCE of both follows it. -/
def StoreBefore (cls : BitVec 4) (l : List StEntry) : Prop :=
  ∃ l₁ c a bs r l₂, l = l₁ ++ .store c a bs r :: l₂ ∧
    (c = cls ∨ ∃ m, .fence m ∈ l₂ ∧ m.getLsbD c.toNat = true ∧ m.getLsbD cls.toNat = true)

theorem any_fences {c cls : BitVec 4} {l : List StEntry} : (l.any fun e => e.fences c cls) = true ↔
    ∃ m, StEntry.fence m ∈ l ∧ m.getLsbD c.toNat = true ∧ m.getLsbD cls.toNat = true := by
  rw [List.any_eq_true]
  constructor
  · rintro ⟨e, he, hf⟩
    cases e with
    | store _ _ _ _ => cases hf
    | fence m => exact ⟨m, he, Bool.and_eq_true_iff.1 hf⟩
  · rintro ⟨m, hm, hf⟩
    exact ⟨_, hm, Bool.and_eq_true_iff.2 hf⟩

theorem storeBefore_nil (cls : BitVec 4) : ¬StoreBefore cls [] := by
  rintro ⟨l₁, c, a, bs, r, l₂, h, _⟩
  simp at h

theorem storeBefore_fence {cls : BitVec 4} {m : BitVec 16} {l : List StEntry} :
    StoreBefore cls (.fence m :: l) ↔ StoreBefore cls l := by
  constructor
  · rintro ⟨l₁, c, a, bs, r, l₂, h, hc⟩
    cases l₁ with
    | nil => simp at h
    | cons e l₁ => exact ⟨l₁, c, a, bs, r, l₂, (List.cons.inj h).2, hc⟩
  · rintro ⟨l₁, c, a, bs, r, l₂, rfl, hc⟩
    exact ⟨.fence m :: l₁, c, a, bs, r, l₂, rfl, hc⟩

theorem storeBefore_store {cls c : BitVec 4} {a r : Nat} {bs : List Byte} {l : List StEntry} :
    StoreBefore cls (.store c a bs r :: l) ↔ (c = cls ∨ ∃ m, StEntry.fence m ∈ l ∧ m.getLsbD c.toNat = true ∧
      m.getLsbD cls.toNat = true) ∨ StoreBefore cls l := by
  constructor
  · rintro ⟨l₁, c', a', bs', r', l₂, h, hc⟩
    cases l₁ with
    | nil =>
      simp only [List.nil_append, List.cons.injEq, StEntry.store.injEq] at h
      obtain ⟨⟨rfl, -⟩, rfl⟩ := h
      exact .inl hc
    | cons e l₁ => exact .inr ⟨l₁, c', a', bs', r', l₂, (List.cons.inj h).2, hc⟩
  · rintro (hc | ⟨l₁, c', a', bs', r', l₂, rfl, hc⟩)
    · exact ⟨[], c, a, bs, r, l, rfl, hc⟩
    · exact ⟨_ :: l₁, c', a', bs', r', l₂, rfl, hc⟩

theorem orderedBefore_iff (cls : BitVec 4) : ∀ l, orderedBefore cls l = true ↔ StoreBefore cls l
  | [] => ⟨fun h => Bool.noConfusion h, fun h => (storeBefore_nil cls h).elim⟩
  | .fence m :: l => by rw [storeBefore_fence, ← orderedBefore_iff cls l]; rfl
  | .store c a bs r :: l => by
    rw [storeBefore_store, ← orderedBefore_iff cls l, ← any_fences, orderedBefore, Bool.or_eq_true_iff,
      Bool.or_eq_true_iff, beq_iff_eq]

theorem ratomFence_get (k : Core) (cls : BitVec 4) :
    k.stem.ratomFence.toArray.getD cls.toNat 0 = k.stem.ratomFence.get cls.toFin :=
  vtoArray_getD k.stem.ratomFence cls.toFin 0

theorem mustWait_iff (k : Core) (cls : BitVec 4) : k.mustWait cls = true ↔ heldBack k cls := by
  rw [Core.mustWait, Bool.or_eq_true_iff, orderedBefore_iff, List.any_eq_true, ratomFence_get]
  simp only [Bool.and_eq_true, Bool.not_eq_true', decide_eq_true_eq]
  rfl

/-! ### Corrected errors found by a read (R323) -/

section
variable (k : Core) (a n : Nat)

/-- Reading changes no more of a core than its counts of corrected errors and the words to write back. -/
theorem noteSoft_eq : ∃ fix count, k.noteSoft a n = { k with eccFix := fix, eccCount := count } := by
  unfold Core.noteSoft
  split
  · exact ⟨_, _, rfl⟩
  · exact ⟨k.eccFix, k.eccCount, rfl⟩

theorem noteSoft_stem : (k.noteSoft a n).stem = k.stem := by
  obtain ⟨_, _, h⟩ := noteSoft_eq k a n; rw [h]

theorem noteLoad_eq : ∃ fix count, k.noteLoad a n = { k with eccFix := fix, eccCount := count } := by
  unfold Core.noteLoad
  generalize k.bankWords a n = ws
  induction ws generalizing k with
  | nil => exact ⟨k.eccFix, k.eccCount, rfl⟩
  | cons w ws ih =>
    obtain ⟨_, _, h⟩ := noteSoft_eq k w 4
    obtain ⟨fix, count, h'⟩ := ih (k.noteSoft w 4)
    exact ⟨fix, count, h'.trans (by rw [h])⟩

theorem noteLoad_stem : (k.noteLoad a n).stem = k.stem := by
  obtain ⟨_, _, h⟩ := noteLoad_eq k a n; rw [h]
end

/-! ### Loads -/

section
variable {s : State} {d : Reg} {a : Src} {cls : BitVec 4} {size : BitVec 2} {ofs : BitVec 10} {ext : Nat → Word}

theorem loadRun_done (h : s.regsFree (srcRegs a) [d]) (hr : (ldAddr s a size ofs).toNat < 2 ^ 21)
    (ha : (ldAddr s a size ofs).toNat % nBytes size = 0) (hw : ¬heldBack (s.core s.cur) cls)
    (hb : (s.core s.cur).loadBad (ldAddr s a size ofs).toNat (nBytes size) = false) (hp : s.plain (after s [a])) :
    loadRun d a cls size ofs ext s = .next (s.stemDone
      (((s.core s.cur).noteLoad (ldAddr s a size ofs).toNat (nBytes size)).setX d
        (ext (sees s (ldAddr s a size ofs).toNat (nBytes size)))) (after s [a])) := by
  refine stemRun_core h ?_ hp.1 (by rw [Core.setX_stem_status, noteLoad_stem]; exact hp.2)
  rw [effAddr_eq]
  refine (withAddr_ok hr ha).trans ((if_neg (mt (mustWait_iff _ _).1 hw)).trans ((if_neg (Bool.eq_false_iff.1 hb)).trans ?_))
  rw [sees_eq]; rfl

theorem loadRun_waits (h : s.regsFree (srcRegs a) [d]) (hr : (ldAddr s a size ofs).toNat < 2 ^ 21)
    (ha : (ldAddr s a size ofs).toNat % nBytes size = 0) (hw : heldBack (s.core s.cur) cls) :
    loadRun d a cls size ofs ext s = waits s := by
  refine stemRun_wait h ?_
  rw [effAddr_eq]
  exact (withAddr_ok hr ha).trans (if_pos ((mustWait_iff _ _).2 hw))

theorem loadRun_range (h : s.regsFree (srcRegs a) [d]) (hr : 2 ^ 21 ≤ (ldAddr s a size ofs).toNat) :
    loadRun d a cls size ofs ext s = traps s .scratchRange (ldAddr s a size ofs) := by
  refine stemRun_trap h ?_
  rw [effAddr_eq]
  exact withAddr_range hr

theorem loadRun_align (h : s.regsFree (srcRegs a) [d]) (hr : (ldAddr s a size ofs).toNat < 2 ^ 21)
    (ha : (ldAddr s a size ofs).toNat % nBytes size ≠ 0) :
    loadRun d a cls size ofs ext s = traps s .misaligned (ldAddr s a size ofs) := by
  refine stemRun_trap h ?_
  rw [effAddr_eq]
  exact withAddr_align hr ha

theorem exec_ld : exec (.ld d a cls size ofs) s = loadRun d a cls size ofs (sext64 (8 * nBytes size)) s := rfl
theorem exec_ldZero (h3 : size ≠ 3) :
    exec (.ldZeroExtending d a cls size ofs) s = loadRun d a cls size ofs (BitVec.ofNat 64) s := if_neg h3
theorem exec_ldZero3 : exec (.ldZeroExtending d a cls 3 ofs) s =
    stemRun [] [] s fun c => .trap .reservedField c.firstWord := rfl
end

/-! ### Stores -/

/-- The low bytes of a value, each by its place. -/
theorem leBytes_eq_map : ∀ n v, leBytes n v = (List.range n).map fun i => BitVec.ofNat 8 (v / 256 ^ i)
  | 0, _ => rfl
  | n + 1, v => by
    rw [leBytes, leBytes_eq_map n, List.range_succ_eq_map, List.map_cons, List.map_map, pow_zero, Nat.div_one]
    congr 1
    refine List.map_congr_left fun i _ => ?_
    rw [Function.comp_apply, Nat.div_div_eq_div_mul, pow_succ']

theorem leBytes_word (n : Nat) (v : Word) :
    leBytes n v.toNat = (List.range n).map fun i => v.extractLsb' (8 * i) 8 := by
  rw [leBytes_eq_map]
  refine List.map_congr_left fun i _ => BitVec.eq_of_toNat_eq ?_
  rw [BitVec.toNat_ofNat, BitVec.extractLsb'_toNat, Nat.shiftRight_eq_div_pow, pow_mul]
  rfl

theorem slotsAllow_iff {s : State} {a n : Nat} : slotsAllow s a n ↔
    ¬(statusShchk (s.core s.cur).stem.status && (s.core s.cur).inSlot a n) = true := by
  rw [slotsAllow, Bool.and_eq_true_iff, not_and_or, Bool.not_eq_true, Bool.not_eq_true]

section
variable {s : State} {x a : Src} {cls : BitVec 4} {size : BitVec 2} {ofs : BitVec 10}

theorem exec_st : exec (.st x a cls size ofs) s = execSt x a cls size ofs s := rfl

theorem enqueueStore_eq (k : Core) (p : Nat) (v : Word) (n : Nat) : k.enqueueStore cls p (leBytes n v.toNat) =
    k.setStem { k.stem with stq := k.stem.stq ++ [.store cls p ((List.range n).map fun i => v.extractLsb' (8 * i) 8)
      (k.stem.ratomFence.get cls.toFin)] } := by
  rw [Core.enqueueStore, ratomFence_get, leBytes_word]

end

/-! ### A store at its bank -/

section
variable {s : State} {c : CoreId} {l l' : List StEntry} {cls : BitVec 4} {a r : Nat} {bs : List Byte}

/-- The entry that follows a list in the queue may perform when nothing of the list and no remote atomic holds it
back. -/
theorem mayPerform_of {k : Core} (hq : k.stem.stq = l ++ .store cls a bs r :: l')
    (hcov : ∀ e ∈ l, e.covers a bs.length = false) (hb : ¬StoreBefore cls l)
    (hr : ∀ q ∈ k.stem.ratoms, q.phase.performed = true ∨ r ≤ q.id) : k.mayPerform l.length = true := by
  have hget : k.stem.stq[l.length]? = some (.store cls a bs r) := by rw [hq]; simp
  have htake : k.stem.stq.take l.length = l := by rw [hq]; simp
  rw [Core.mayPerform, hget]
  simp only [htake, Bool.and_eq_true, Bool.not_eq_true', List.all_eq_true, Bool.or_eq_true, decide_eq_true_eq]
  exact ⟨⟨Bool.eq_false_iff.2 (mt (orderedBefore_iff _ _).1 hb), List.any_eq_false.2 fun e he => by simp [hcov e he]⟩, hr⟩

theorem performStore_eq (hq : (s.core c).stem.stq = l ++ .store cls a bs r :: l')
    (hm : (s.core c).mayPerform l.length = true) (hp : wordPart (s.core c).eccHard a bs.length = false) :
    s.performStore c l.length =
      (s.modCore c fun k => k.setStem { k.stem with stq := dropStore l.length k.stem.stq }).writeScratch c a bs := by
  have hget : (s.core c).stem.stq[l.length]? = some (.store cls a bs r) := by rw [hq]; simp
  simp only [State.performStore, hget, hm, hp, if_true, Bool.false_eq_true, if_false]

theorem dropStore_eq : dropStore l.length (l ++ .store cls a bs r :: l') = (l ++ l').dropWhile StEntry.isFence := by
  rw [dropStore, List.eraseIdx_append_of_length_le (Nat.le_refl _), Nat.sub_self]; rfl
end

/-! ### A write of the scratchpad -/

section
variable (s : State) (c : CoreId) (a : Nat) (bs : List Byte)

theorem writeScratch_core : ∃ w l, (s.writeScratch c a bs).core c = ((s.core c).write a bs).withWaita w l := by
  obtain ⟨w, l, h⟩ := (sameBut_writeScratch s c a bs).core c
  exact ⟨w, l, by rw [h, State.modCore_core]⟩

theorem writeScratch_core_ne {e : CoreId} (he : e ≠ c) :
    ∃ w l, (s.writeScratch c a bs).core e = (s.core e).withWaita w l := by
  obtain ⟨w, l, h⟩ := (sameBut_writeScratch s c a bs).core e
  exact ⟨w, l, by rw [h, State.modCore_core_ne _ _ _ _ he]⟩

theorem writeScratch_cur : (s.writeScratch c a bs).cur = s.cur := (sameBut_writeScratch s c a bs).cur
theorem writeScratch_mem : (s.writeScratch c a bs).mem = s.mem := (sameBut_writeScratch s c a bs).mem
theorem writeScratch_hostMem : (s.writeScratch c a bs).hostMem = s.hostMem := (sameBut_writeScratch s c a bs).hostMem

theorem memGet_memPut_at (m : Mem) (i : Nat) (h : i < bs.length) : memGet (memPut m a bs) (a + i) = bs[i] := by
  rw [memGet_memPut, if_pos (by omega), Nat.add_sub_cancel_left, List.getD_eq_getElem _ _ h]
end

end Sys2Proof.Machine

namespace Sys2Proof
open Machine Claims

theorem stemLoads : StemLoads := by
  intro s d a cls size ofs h k v n
  refine ⟨fun hr ha hw hb hp => ⟨exec_ld.trans (loadRun_done h hr ha hw hb hp), fun h3 =>
      (exec_ldZero h3).trans (loadRun_done h hr ha hw hb hp)⟩,
    fun hr ha hw => ⟨exec_ld.trans (loadRun_waits h hr ha hw), fun h3 => (exec_ldZero h3).trans (loadRun_waits h hr ha hw)⟩,
    fun hr => ⟨exec_ld.trans (loadRun_range h hr), fun h3 => (exec_ldZero h3).trans (loadRun_range h hr)⟩,
    fun hr ha => ⟨exec_ld.trans (loadRun_align h hr ha), fun h3 => (exec_ldZero h3).trans (loadRun_align h hr ha)⟩,
    fun h0 => exec_ldZero3.trans (stemRun_trap h0 rfl)⟩

theorem stemStore : StemStore := by
  intro s x a cls size ofs h k v n
  rw [exec_st]
  refine ⟨fun hr ha hp hs hpl => stemRun_core h ?_ hpl.1 hpl.2, fun hr => stemRun_trap h ?_,
    fun hr ha => stemRun_trap h ?_, fun hr ha hs => stemRun_trap h ?_⟩
  all_goals rw [effAddr_eq]
  · refine (withAddr_ok hr ha).trans ((if_neg (slotsAllow_iff.1 hs)).trans ((if_neg (Bool.eq_false_iff.1 hp)).trans ?_))
    rw [← enqueueStore_eq]; rfl
  · exact withAddr_range hr
  · exact withAddr_align hr ha
  · refine (withAddr_ok hr ha).trans ((if_pos (not_not.1 (mt slotsAllow_iff.2 hs))).trans ?_)
    rw [BitVec.ofNat_toNat, BitVec.setWidth_eq]

theorem stemPerform : StemPerform := by
  intro s c l l' cls a bs r k hq hcov hb hr hp
  refine ⟨s.performStore c l.length, rfl, ?_⟩
  rw [performStore_eq hq (mayPerform_of hq hcov hb hr) hp]
  obtain ⟨w, m, hc⟩ := writeScratch_core
    (s.modCore c fun k => k.setStem { k.stem with stq := dropStore l.length k.stem.stq }) c a bs
  rw [hc, State.modCore_core]
  refine ⟨fun i hi => memGet_memPut_at a bs _ i hi, fun b hb => memGet_memPut_out _ _ _ _ hb, fun d hd => ?_,
    writeScratch_mem .., writeScratch_hostMem .., rfl, rfl, ?_⟩
  · obtain ⟨w', m', hd'⟩ := writeScratch_core_ne
      (s.modCore c fun k => k.setStem { k.stem with stq := dropStore l.length k.stem.stq }) c a bs hd
    rw [hd', State.modCore_core_ne _ _ _ _ hd]
  · rw [← dropStore_eq (cls := cls) (a := a) (r := r) (bs := bs), ← hq]; rfl

/-- Settles O6: a load, a store and the performance of a store, each by the lemma of its case. -/
theorem stemMemory : Obligations.StemMemory := by
  unfold Obligations.StemMemory
  exact ⟨stemLoads, stemStore, stemPerform⟩

end Sys2Proof
end

section
/-! PROOFS. The stem's atomics and semaphores: one read and one write at the bank (R107, R108, R110, R330). -/

namespace Sys2Proof.Machine
open Claims

/-! ### Bytes and their value (R12) -/

theorem leBytes_leNat : ∀ bs : List Byte, leBytes bs.length (leNat bs) = bs
  | [] => rfl
  | b :: bs => by
    have hb := b.isLt
    rw [List.length_cons, leBytes, leNat]
    congr 1
    · exact BitVec.eq_of_toNat_eq (by rw [BitVec.toNat_ofNat]; omega)
    · rw [show (b.toNat + 256 * leNat bs) / 256 = leNat bs by omega]
      exact leBytes_leNat bs

theorem memNat_lt (m : Mem) (a n : Nat) : memNat m a n < 256 ^ n := by
  have h := leNat_lt (memBytes m a n)
  rwa [memBytes_length] at h

/-- Bytes that are written as they stand read as before. -/
theorem leBytes_memNat (m : Mem) (a n : Nat) : leBytes n (memNat m a n) = memBytes m a n := by
  have h := leBytes_leNat (memBytes m a n)
  rwa [memBytes_length] at h

/-! ### An access of the current core's scratchpad, then a write of a register -/

/-- A core that differs at most in its scratchpad with its check bits, and in its WAITA request. -/
def Core.ScratchOnly (k k' : Core) : Prop := ∃ m hard soft fix count w l, k' =
  { k with
    scratch := m, eccHard := hard, eccSoft := soft, eccFix := fix, eccCount := count, cancels := l
    stem := { k.stem with waita := w } }

theorem scratchOnly_noteSoft (k : Core) (a n : Nat) : k.ScratchOnly (k.noteSoft a n) := by
  obtain ⟨_, _, h⟩ := noteSoft_eq k a n
  exact ⟨_, _, _, _, _, _, _, h⟩

theorem scratchOnly_write (k : Core) (a n : Nat) (bs : List Byte) (w : Option Waita) (l : List Waita) :
    k.ScratchOnly (((k.noteSoft a n).write a bs).withWaita w l) := by
  obtain ⟨_, _, h⟩ := noteSoft_eq k a n
  rw [h]
  exact ⟨_, _, _, _, _, _, _, rfl⟩

/-- n bytes at a of the current core's scratchpad read, bytes written there, and v to the register d. -/
def State.swapped (s : State) (a n : Nat) (bs : List Byte) (d : Reg) (v : Word) : State :=
  ((s.setCore s.cur ((s.core s.cur).noteSoft a n)).writeScratch s.cur a bs).modCore s.cur fun k => k.setX d v

section
variable (s : State) (a n : Nat) (bs : List Byte) (d : Reg) (v : Word)

theorem swapped_core : ∃ k, (s.core s.cur).ScratchOnly k ∧ k.scratch = memPut (s.core s.cur).scratch a bs ∧
    (s.swapped a n bs d v).core s.cur = k.setX d v := by
  obtain ⟨w, l, h⟩ := writeScratch_core (s.setCore s.cur ((s.core s.cur).noteSoft a n)) s.cur a bs
  refine ⟨_, scratchOnly_write _ a n bs w l, ?_, by rw [State.swapped, State.modCore_core, h, State.setCore_core]⟩
  show memPut ((s.core s.cur).noteSoft a n).scratch a bs = _
  rw [(noteSoft_scratch ..).1]

theorem swapped_core_ne {c : CoreId} (hc : c ≠ s.cur) :
    ∃ w l, (s.swapped a n bs d v).core c = (s.core c).withWaita w l := by
  obtain ⟨w, l, h⟩ := writeScratch_core_ne (s.setCore s.cur ((s.core s.cur).noteSoft a n)) s.cur a bs hc
  exact ⟨w, l, by rw [State.swapped, State.modCore_core_ne _ _ _ _ hc, h, State.setCore_core_ne _ _ _ _ hc]⟩

theorem swapped_cur : (s.swapped a n bs d v).cur = s.cur := writeScratch_cur ..
theorem swapped_mem : (s.swapped a n bs d v).mem = s.mem := writeScratch_mem ..
theorem swapped_hostMem : (s.swapped a n bs d v).hostMem = s.hostMem := writeScratch_hostMem ..

theorem swapped_status : ((s.swapped a n bs d v).core s.cur).stem.status = (s.core s.cur).stem.status := by
  obtain ⟨k, ⟨_, _, _, _, _, _, _, rfl⟩, _, h⟩ := swapped_core s a n bs d v
  rw [h, Core.setX_stem_status]

/-- Without a register to write, only the scratchpad is written. -/
theorem swapped_zero : s.swapped a n bs 0 v =
    (s.setCore s.cur ((s.core s.cur).noteSoft a n)).writeScratch s.cur a bs := State.setCore_self ..
end

theorem setX_x {k k' : Core} (h : k'.stem.x = k.stem.x) (d : Reg) (v : Word) :
    (k'.setX d v).stem.x = (k.setX d v).stem.x := by
  unfold Core.setX
  split
  · exact h
  · exact congrArg (fun x : Vector Word 31 => x.set d.val v d.isLt) h

/-- A completion whose core differs in the scratchpad and in the destination leaves what Stored lists. -/
theorem stored_of {s t : State} {k : Core} {a : Nat} {bs : List Byte} {d : Reg} {v : Word} {npc : Nat}
    (hk : (s.core s.cur).ScratchOnly k) (hown : t.core s.cur = (k.setX d v).goto npc)
    (hin : ∀ i (_ : i < bs.length), memGet k.scratch (a + i) = bs[i])
    (hout : ∀ b, b < a ∨ a + bs.length ≤ b → memGet k.scratch b = memGet (s.core s.cur).scratch b)
    (hne : ∀ c, c ≠ s.cur → ∃ w l, t.core c = (s.core c).withWaita w l)
    (hmem : t.mem = s.mem) (hhost : t.hostMem = s.hostMem) :
    Stored s t a bs ((s.core s.cur).setX d v).stem.x npc := by
  have hstores (c : CoreId) : (t.core c).imem = (s.core c).imem ∧ (t.core c).seg = (s.core c).seg ∧
      (t.core c).tiles = (s.core c).tiles ∧ (t.core c).moulds = (s.core c).moulds := by
    by_cases hc : c = s.cur
    · obtain ⟨_, _, _, _, _, _, _, rfl⟩ := hk
      rw [hc, hown]
      simp
    · obtain ⟨w, l, h⟩ := hne c hc
      rw [h]
      exact ⟨rfl, rfl, rfl, rfl⟩
  have hothers (c : CoreId) (hc : c ≠ s.cur) :
      (t.core c).scratch = (s.core c).scratch ∧ (t.core c).stem.x = (s.core c).stem.x := by
    obtain ⟨w, l, h⟩ := hne c hc
    rw [h]
    exact ⟨rfl, rfl⟩
  have hx : k.stem.x = (s.core s.cur).stem.x := by obtain ⟨_, _, _, _, _, _, _, rfl⟩ := hk; rfl
  obtain ⟨m, hard, soft, fix, count, w, l, rfl⟩ := hk
  have hscratch : (t.core s.cur).scratch = m := by rw [hown]; simp
  refine ⟨fun i hi => ?_, fun b hb => ?_, hothers, hstores, ⟨hmem, hhost⟩, ?_, ?_, ?_, ?_, ?_⟩
  · rw [hscratch]; exact hin i hi
  · rw [hscratch]; exact hout b hb
  · rw [hown, Core.goto_stem_x]; exact setX_x hx d v
  · rw [hown, goto_pc, goto_pc, Core.setX_stem_lc, Core.setX_stem_loops]
  · rw [hown, goto_loops, goto_loops, goto_lc, goto_lc, Core.setX_stem_lc, Core.setX_stem_loops]
    exact ⟨rfl, rfl, by simp⟩
  · rw [hown]; simp
  · rw [hown]; simp

/-- An instruction that writes bytes at a and the register d, and completes. -/
theorem stemRun_swapped {s : State} {reads writes : List Reg} {f : Core → Res} {a n npc : Nat} {bs : List Byte} {d : Reg}
    {v : Word} (h : s.regsFree reads writes) (hf : f (s.core s.cur) = .done (s.swapped a n bs d v) npc)
    (hp : s.plain npc) :
    ∃ t, stemRun reads writes s f = .next t ∧ Stored s t a bs ((s.core s.cur).setX d v).stem.x npc := by
  have hs : statusSstep ((s.swapped a n bs d v).core (s.swapped a n bs d v).cur).stem.status = false := by
    rw [swapped_cur, swapped_status]; exact hp.2
  refine ⟨_, stemRun_done h hf hp.1 hs, ?_⟩
  rw [swapped_cur]
  obtain ⟨k, hk, hm, hc⟩ := swapped_core s a n bs d v
  refine stored_of hk (by rw [State.modCore_core, hc]) (fun i hi => ?_) (fun b hb => ?_) (fun c hc => ?_)
    (swapped_mem s a n bs d v) (swapped_hostMem s a n bs d v)
  · rw [hm]; exact memGet_memPut_at a bs _ i hi
  · rw [hm]; exact memGet_memPut_out _ _ _ _ hb
  · rw [State.modCore_core_ne _ _ _ _ hc]; exact swapped_core_ne s a n bs d v hc

/-- An instruction that writes the register d, and of the scratchpad nothing. -/
theorem stemRun_unswapped {s : State} {reads writes : List Reg} {f : Core → Res} {a n npc : Nat} {d : Reg}
    {v : Word} (h : s.regsFree reads writes)
    (hf : f (s.core s.cur) = .done (s.setCore s.cur (((s.core s.cur).noteSoft a n).setX d v)) npc)
    (hp : s.plain npc) : ∃ t, stemRun reads writes s f = .next t ∧
      Stored s t a (leBytes n (stands s a n)) ((s.core s.cur).setX d v).stem.x npc := by
  refine ⟨_, stemRun_core h hf hp.1 (by rw [Core.setX_stem_status, noteSoft_stem]; exact hp.2), ?_⟩
  refine stored_of (scratchOnly_noteSoft _ a n) (State.setCore_core ..) (fun i hi => ?_) (fun b hb => ?_) (fun c hc => ?_)
    rfl rfl
  · rw [(noteSoft_scratch ..).1]
    simp only [stands, leBytes_memNat, memBytes, List.getElem_map, List.getElem_range]
  · rw [(noteSoft_scratch ..).1]
  · exact ⟨_, _, (State.setCore_core_ne _ _ _ _ hc).trans (Core.withWaita_self _).symm⟩

/-! ### Atomics (R107, R108) -/

section
variable {s : State} {d : Reg} {a b : Src} {ty : Ty} {w : Nat} {useD : Bool} {f : AmoFn} {writes : Nat → Nat → Core → Bool}

/-- A TYPE of an atomic, with its bytes. -/
theorem intWidth_bytes (hw : intWidth ty = some w) : 8 * (w / 8) = w := by
  rcases intWidth_cases hw with rfl | rfl | rfl | rfl <;> rfl

theorem amoNew_width {n old : Nat} {v z : Word} (hn : 8 * n = w) : amoNew f n old v z =
    (f w (BitVec.ofNat w old) (v.setWidth w) (z.setWidth w)).toNat := by
  subst hn; rfl

theorem amoRun_writes (hw : intWidth ty = some w)
    (h : s.regsFree (srcRegs a ++ srcRegs b ++ if useD then [d] else []) [d])
    (hr : ((s.core s.cur).src a).toNat < 2 ^ 21) (ha : ((s.core s.cur).src a).toNat % (w / 8) = 0)
    (hq : (s.core s.cur).stem.stq = []) (hh : (s.core s.cur).hardAt ((s.core s.cur).src a).toNat (w / 8) = false)
    (hsl : slotsAllow s ((s.core s.cur).src a).toNat (w / 8))
    (hbk : (s.core s.cur).banksFree ((s.core s.cur).src a).toNat (w / 8) = true) (hp : s.plain (after s [a, b]))
    (hwr : writes (w / 8) (stands s ((s.core s.cur).src a).toNat (w / 8)) (s.core s.cur) = true) :
    ∃ t, amoRun useD f writes d a b ty s = .next t ∧
      Stored s t ((s.core s.cur).src a).toNat (leBytes (w / 8) (f w
        (BitVec.ofNat w (stands s ((s.core s.cur).src a).toNat (w / 8))) (((s.core s.cur).src b).setWidth w)
        (((s.core s.cur).getX d).setWidth w)).toNat)
      ((s.core s.cur).setX d
        ((BitVec.ofNat w (stands s ((s.core s.cur).src a).toNat (w / 8))).signExtend 64)).stem.x (after s [a, b]) := by
  refine stemRun_swapped (n := w / 8) h ?_ hp
  have hwait : ¬(!(s.core s.cur).stem.stq.isEmpty || !(s.core s.cur).banksFree ((s.core s.cur).src a).toNat (w / 8)) = true := by
    rw [hq, hbk]; decide
  rw [hw]
  refine (withAddr_ok hr ha).trans ((if_neg hwait).trans ((if_neg (Bool.eq_false_iff.1 hh)).trans ((if_pos hwr).trans
    ((if_neg (slotsAllow_iff.1 hsl)).trans ?_))))
  rw [amoNew_width (intWidth_bytes hw), intWidth_bytes hw]
  rfl

theorem amoRun_keeps (hw : intWidth ty = some w)
    (h : s.regsFree (srcRegs a ++ srcRegs b ++ if useD then [d] else []) [d])
    (hr : ((s.core s.cur).src a).toNat < 2 ^ 21) (ha : ((s.core s.cur).src a).toNat % (w / 8) = 0)
    (hq : (s.core s.cur).stem.stq = []) (hh : (s.core s.cur).hardAt ((s.core s.cur).src a).toNat (w / 8) = false)
    (hbk : (s.core s.cur).banksFree ((s.core s.cur).src a).toNat (w / 8) = true) (hp : s.plain (after s [a, b]))
    (hwr : writes (w / 8) (stands s ((s.core s.cur).src a).toNat (w / 8)) (s.core s.cur) = false) :
    ∃ t, amoRun useD f writes d a b ty s = .next t ∧
      Stored s t ((s.core s.cur).src a).toNat (leBytes (w / 8) (stands s ((s.core s.cur).src a).toNat (w / 8)))
      ((s.core s.cur).setX d
        ((BitVec.ofNat w (stands s ((s.core s.cur).src a).toNat (w / 8))).signExtend 64)).stem.x (after s [a, b]) := by
  refine stemRun_unswapped (n := w / 8) h ?_ hp
  have hwait : ¬(!(s.core s.cur).stem.stq.isEmpty || !(s.core s.cur).banksFree ((s.core s.cur).src a).toNat (w / 8)) = true := by
    rw [hq, hbk]; decide
  rw [hw]
  refine (withAddr_ok hr ha).trans ((if_neg hwait).trans ((if_neg (Bool.eq_false_iff.1 hh)).trans
    ((if_neg (Bool.eq_false_iff.1 hwr)).trans ?_)))
  rw [intWidth_bytes hw]
  rfl

theorem amoRun_waits (hw : intWidth ty = some w)
    (h : s.regsFree (srcRegs a ++ srcRegs b ++ if useD then [d] else []) [d])
    (hr : ((s.core s.cur).src a).toNat < 2 ^ 21) (ha : ((s.core s.cur).src a).toNat % (w / 8) = 0)
    (hq : (s.core s.cur).stem.stq ≠ []) : amoRun useD f writes d a b ty s = waits s := by
  refine stemRun_wait h ?_
  have hwait : (!(s.core s.cur).stem.stq.isEmpty || !(s.core s.cur).banksFree ((s.core s.cur).src a).toNat (w / 8)) = true := by
    rw [List.isEmpty_eq_false_iff.2 hq]; rfl
  rw [hw]
  exact (withAddr_ok hr ha).trans (if_pos hwait)

theorem amoRun_misaligned (hw : intWidth ty = some w)
    (h : s.regsFree (srcRegs a ++ srcRegs b ++ if useD then [d] else []) [d])
    (hr : ((s.core s.cur).src a).toNat < 2 ^ 21) (ha : ((s.core s.cur).src a).toNat % (w / 8) ≠ 0) :
    amoRun useD f writes d a b ty s = .next (s.stemTrap .stem .atomicMisaligned ((s.core s.cur).src a)) := by
  refine stemRun_trap h ?_
  rw [hw]
  exact withAddr_align hr ha

theorem amoRun_range (hw : intWidth ty = some w)
    (h : s.regsFree (srcRegs a ++ srcRegs b ++ if useD then [d] else []) [d])
    (hr : 2 ^ 21 ≤ ((s.core s.cur).src a).toNat) :
    amoRun useD f writes d a b ty s = .next (s.stemTrap .stem .scratchRange ((s.core s.cur).src a)) := by
  refine stemRun_trap h ?_
  rw [hw]
  exact withAddr_range hr
end

/-- The AMO forms are amoRun with the function of Table 03-4, which always writes. -/
theorem amoOps_forms : ∀ p ∈ amoOps, ∃ f : AmoFn,
    (∀ d a b ty s, exec (p.1 d a b ty) s = amoRun false f amoAlways d a b ty s) ∧ ∀ n x y z, f n x y z = p.2 n x y := by
  have hmin (n : Nat) (x y z : BitVec n) : amoMin n x y z = if x.toInt ≤ y.toInt then x else y := by
    simp only [amoMin, aluMin, BitVec.slt, decide_eq_true_eq]; grind [BitVec.toInt_inj]
  have hmax (n : Nat) (x y z : BitVec n) : amoMax n x y z = if x.toInt ≤ y.toInt then y else x := by
    simp only [amoMax, aluMax, BitVec.slt, decide_eq_true_eq]; grind [BitVec.toInt_inj]
  have hminu (n : Nat) (x y z : BitVec n) : amoMinu n x y z = if x.toNat ≤ y.toNat then x else y := by
    simp only [amoMinu, aluMinUnsigned, BitVec.ult, decide_eq_true_eq]; grind [BitVec.toNat_inj]
  have hmaxu (n : Nat) (x y z : BitVec n) : amoMaxu n x y z = if x.toNat ≤ y.toNat then y else x := by
    simp only [amoMaxu, aluMaxUnsigned, BitVec.ult, decide_eq_true_eq]; grind [BitVec.toNat_inj]
  simp only [amoOps, List.forall_mem_cons]
  exact ⟨⟨_, fun _ _ _ _ _ => rfl, fun _ _ _ _ => rfl⟩, ⟨_, fun _ _ _ _ _ => rfl, fun _ _ _ _ => rfl⟩,
    ⟨_, fun _ _ _ _ _ => rfl, fun _ _ _ _ => rfl⟩, ⟨_, fun _ _ _ _ _ => rfl, fun _ _ _ _ => rfl⟩,
    ⟨_, fun _ _ _ _ _ => rfl, hmin⟩, ⟨_, fun _ _ _ _ _ => rfl, hmax⟩, ⟨_, fun _ _ _ _ _ => rfl, hminu⟩,
    ⟨_, fun _ _ _ _ _ => rfl, hmaxu⟩, ⟨_, fun _ _ _ _ _ => rfl, fun _ _ _ _ => rfl⟩,
    fun _ h => absurd h List.not_mem_nil⟩

/-- CAS writes when the old word is D's. -/
def casWrites (d : Reg) (n old : Nat) (c : Core) : Bool := BitVec.ofNat (8 * n) old == (c.getX d).setWidth (8 * n)

theorem casWrites_iff {d : Reg} {w old : Nat} {c : Core} (hw : 8 * (w / 8) = w) :
    casWrites d (w / 8) old c = true ↔ BitVec.ofNat w old = (c.getX d).setWidth w := by
  unfold casWrites
  rw [hw, beq_iff_eq]

theorem exec_cas (d : Reg) (a b : Src) (ty : Ty) (s : State) :
    exec (.cas d a b ty) s = amoRun true amoCas (casWrites d) d a b ty s := rfl

/-- A word of the scratchpad as a bit vector, and back. -/
theorem stands_ofNat {s : State} {a w : Nat} (hw : 8 * (w / 8) = w) :
    (BitVec.ofNat w (stands s a (w / 8))).toNat = stands s a (w / 8) := by
  have h := memNat_lt (s.core s.cur).scratch a (w / 8)
  rw [show 256 = 2 ^ 8 by rfl, ← Nat.pow_mul, hw] at h
  rw [BitVec.toNat_ofNat]
  exact Nat.mod_eq_of_lt h

end Sys2Proof.Machine

namespace Sys2Proof
open Machine Claims

/-- Settles O7: every form is one read and at most one write at the bank; a CAS that fails leaves the bytes it read. -/
theorem stemAtomics : Obligations.StemAtomics := by
  unfold Obligations.StemAtomics
  intro s d a b ty w hw hfree k v old x stored
  have hbytes := intWidth_bytes hw
  have hamo : s.regsFree (srcRegs a ++ srcRegs b ++ if false then [d] else []) [d] :=
    hfree.mono (by simp) (List.subset_append_right ..)
  refine ⟨fun hr ha hq hh hsl hbk hp => ⟨fun p hpm => ?_, fun heq => ?_, fun hne => ?_⟩, fun hr ha hq => ?_,
    fun hr ha => ?_, fun hr => ?_⟩
  · obtain ⟨f, hexec, hf⟩ := amoOps_forms p hpm
    obtain ⟨t, ht, hst⟩ := amoRun_writes (f := f) hw hamo hr ha hq hh hsl hbk hp (writes := amoAlways) rfl
    rw [hf] at hst
    exact ⟨t, (hexec ..).trans ht, hst⟩
  · obtain ⟨t, ht, hst⟩ := amoRun_writes (f := amoCas) (useD := true) hw hfree hr ha hq hh hsl hbk hp
      ((casWrites_iff hbytes).2 heq)
    rw [show amoCas w (BitVec.ofNat w (stands s v (w / 8))) ((k.src b).setWidth w) ((k.getX d).setWidth w) =
      (k.src b).setWidth w from if_pos heq] at hst
    exact ⟨t, (exec_cas ..).trans ht, hst⟩
  · obtain ⟨t, ht, hst⟩ := amoRun_keeps (f := amoCas) (useD := true) hw hfree hr ha hq hh hbk hp
      (Bool.eq_false_iff.2 fun h => hne ((casWrites_iff hbytes).1 h))
    refine ⟨t, (exec_cas ..).trans ht, ?_⟩
    show Stored s t v (leBytes (w / 8) (BitVec.ofNat w (stands s v (w / 8))).toNat) x (after s [a, b])
    rwa [stands_ofNat hbytes]
  · refine ⟨fun p hpm => ?_, (exec_cas ..).trans (amoRun_waits hw hfree hr ha hq)⟩
    obtain ⟨f, hexec, _⟩ := amoOps_forms p hpm
    exact (hexec ..).trans (amoRun_waits hw hamo hr ha hq)
  · refine ⟨fun p hpm => ?_, (exec_cas ..).trans (amoRun_misaligned hw hfree hr ha)⟩
    obtain ⟨f, hexec, _⟩ := amoOps_forms p hpm
    exact (hexec ..).trans (amoRun_misaligned hw hamo hr ha)
  · refine ⟨fun p hpm => ?_, (exec_cas ..).trans (amoRun_range hw hfree hr)⟩
    obtain ⟨f, hexec, _⟩ := amoOps_forms p hpm
    exact (hexec ..).trans (amoRun_range hw hamo hr)

end Sys2Proof

namespace Sys2Proof.Machine
open Claims

/-! ### Semaphores (R110, R330) -/

theorem released_iff {k : Core} :
    k.released = true ↔ k.stem.stq = [] ∧ ∀ r ∈ k.stem.ratoms, r.phase.performed = true := by
  simp [Core.released]

section
variable {s : State} {reads : List Reg} {f : Core → Res} {a npc : Nat} {bs : List Byte}

/-- An instruction that writes bytes of the scratchpad and no register. -/
theorem stemRun_wrote (h : s.regsFree reads [])
    (hf : f (s.core s.cur) = .done ((s.setCore s.cur ((s.core s.cur).noteSoft a 4)).writeScratch s.cur a bs) npc)
    (hp : s.plain npc) :
    ∃ t, stemRun reads [] s f = .next t ∧ Stored s t a bs (s.core s.cur).stem.x npc := by
  have h0 : (s.core s.cur).setX 0 0 = s.core s.cur := rfl
  obtain ⟨t, ht, hst⟩ := stemRun_swapped (n := 4) (d := 0) (v := 0) (bs := bs) h (by rw [swapped_zero]; exact hf) hp
  rw [h0] at hst
  exact ⟨t, ht, hst⟩
end

section
variable (s : State) (a b : Src) (sc : Scope)

theorem exec_semwait : exec (.semwait a b sc) s = stemRun (srcRegs a ++ srcRegs b) [] s fun c =>
    withAddr (c.src a) 4 .semRange fun x =>
      if !c.stem.stq.isEmpty || (((c.src b).setWidth 32).toNat ≠ 0 && !c.banksFree x 4) then .wait s
      else if c.hardAt x 4 then .ecc x 4
      else if c.read x 4 < ((c.src b).setWidth 32).toNat then .wait (s.setCore s.cur (c.noteSoft x 4))
      else .done ((s.setCore s.cur (c.noteSoft x 4)).writeScratch s.cur x
        (leBytes 4 (c.read x 4 - ((c.src b).setWidth 32).toNat))) (c.after (1 + litWords [a, b])) := rfl

theorem exec_sempost : exec (.sempost a b sc) s = stemRun (srcRegs a ++ srcRegs b) [] s fun c =>
    withAddr (c.src a) 4 .semRange fun x =>
      if !c.released || !c.banksFree x 4 then .wait s
      else if c.hardAt x 4 then .ecc x 4
      else if 2 ^ 32 ≤ c.read x 4 + ((c.src b).setWidth 32).toNat then .trap .semOverflow 0
      else .done ((s.setCore s.cur (c.noteSoft x 4)).writeScratch s.cur x
        (leBytes 4 (c.read x 4 + ((c.src b).setWidth 32).toNat))) (c.after (1 + litWords [a, b])) := rfl
end

/-- A SEMWAIT that reaches the bank: the stores have performed, and a count other than 0 has its bank free. -/
theorem semwait_bank {s : State} {a b : Src} (hq : (s.core s.cur).stem.stq = [])
    (hbk : ((s.core s.cur).src b).toNat % 2 ^ 32 = 0 ∨ (s.core s.cur).banksFree ((s.core s.cur).src a).toNat 4 = true) :
    ¬(!(s.core s.cur).stem.stq.isEmpty || ((((s.core s.cur).src b).setWidth 32).toNat ≠ 0 &&
      !(s.core s.cur).banksFree ((s.core s.cur).src a).toNat 4)) = true := by
  rw [hq, BitVec.toNat_setWidth]
  rcases hbk with hb | hb
  · simp [show ((s.core s.cur).src b).toNat % 4294967296 = 0 from hb]
  · simp [hb]

section
variable {s : State} {a b : Src} {sc : Scope} (h : s.regsFree (srcRegs a ++ srcRegs b) [])
  (hr : ((s.core s.cur).src a).toNat < 2 ^ 21)
include h

theorem semwait_range (hr : 2 ^ 21 ≤ ((s.core s.cur).src a).toNat) :
    exec (.semwait a b sc) s = .next (s.stemTrap .stem .scratchRange ((s.core s.cur).src a)) :=
  (exec_semwait ..).trans (stemRun_trap h (withAddr_range hr))
theorem sempost_range (hr : 2 ^ 21 ≤ ((s.core s.cur).src a).toNat) :
    exec (.sempost a b sc) s = .next (s.stemTrap .stem .scratchRange ((s.core s.cur).src a)) :=
  (exec_sempost ..).trans (stemRun_trap h (withAddr_range hr))

include hr
theorem semwait_misaligned (ha : ((s.core s.cur).src a).toNat % 4 ≠ 0) :
    exec (.semwait a b sc) s = .next (s.stemTrap .stem .semRange ((s.core s.cur).src a)) :=
  (exec_semwait ..).trans (stemRun_trap h (withAddr_align hr ha))
theorem sempost_misaligned (ha : ((s.core s.cur).src a).toNat % 4 ≠ 0) :
    exec (.sempost a b sc) s = .next (s.stemTrap .stem .semRange ((s.core s.cur).src a)) :=
  (exec_sempost ..).trans (stemRun_trap h (withAddr_align hr ha))

variable (ha : ((s.core s.cur).src a).toNat % 4 = 0)
include ha

theorem semwait_stores (hq : (s.core s.cur).stem.stq ≠ []) : exec (.semwait a b sc) s = waits s := by
  refine (exec_semwait ..).trans (stemRun_wait h ((withAddr_ok hr ha).trans (if_pos ?_)))
  rw [List.isEmpty_eq_false_iff.2 hq]; rfl

theorem sempost_early (hrel : (s.core s.cur).released = false) : exec (.sempost a b sc) s = waits s := by
  refine (exec_sempost ..).trans (stemRun_wait h ((withAddr_ok hr ha).trans (if_pos ?_)))
  rw [hrel]; rfl

end
end Sys2Proof.Machine

namespace Sys2Proof
open Machine Claims

/-- Settles O8: the test and the update are one step at the bank, and each wait and trap comes before it. -/
theorem stemSemaphores : Obligations.StemSemaphores := by
  unfold Obligations.StemSemaphores
  intro s a b sc h k v n stored
  have hn : ((k.src b).setWidth 32).toNat = n := BitVec.toNat_setWidth ..
  refine ⟨fun hr ha hh hq hp => ⟨fun hbk => ?_, fun hbk hperf => ?_⟩, fun hr ha => ⟨fun hq => ?_, fun hx => ?_⟩,
    fun hr ha => ⟨semwait_misaligned h hr ha, sempost_misaligned h hr ha⟩,
    fun hr => ⟨semwait_range h hr, sempost_range h hr⟩⟩
  · have hbank := semwait_bank hq hbk
    rw [exec_semwait]
    refine ⟨fun hle => stemRun_wrote h ((withAddr_ok hr ha).trans ((if_neg hbank).trans
      ((if_neg (Bool.eq_false_iff.1 hh)).trans ((if_neg ?_).trans ?_)))) hp, fun hlt => stemRun_wait h ((withAddr_ok hr ha).trans
      ((if_neg hbank).trans ((if_neg (Bool.eq_false_iff.1 hh)).trans (if_pos ?_))))⟩
    · rw [hn]; exact Nat.not_lt.2 hle
    · rw [hn]; rfl
    · rw [hn]; exact hlt
  · have hbank : ¬(!k.released || !k.banksFree v 4) = true := by
      rw [released_iff.2 ⟨hq, hperf⟩, hbk]; decide
    rw [exec_sempost]
    refine ⟨fun hlt => stemRun_wrote h ((withAddr_ok hr ha).trans ((if_neg hbank).trans
      ((if_neg (Bool.eq_false_iff.1 hh)).trans ((if_neg ?_).trans ?_)))) hp, fun hle => stemRun_trap h ((withAddr_ok hr ha).trans
      ((if_neg hbank).trans ((if_neg (Bool.eq_false_iff.1 hh)).trans (if_pos ?_))))⟩
    · rw [hn]; exact Nat.not_le.2 hlt
    · rw [hn]; rfl
    · rw [hn]; exact hle
  · exact ⟨semwait_stores h hr ha hq, sempost_early h hr ha (Bool.eq_false_iff.2 fun hrel => hq (released_iff.1 hrel).1)⟩
  · obtain ⟨r, hr', hperf⟩ := hx
    exact sempost_early h hr ha (Bool.eq_false_iff.2 fun hrel => absurd ((released_iff.1 hrel).2 r hr') (by simp [hperf]))

end Sys2Proof
end

section
/-! PROOFS. The stem's waits, FENCE and BAR (R112-R114, R117, R118, R131, R216). -/

namespace Sys2Proof.Machine
open Claims

/-! ### The waits (R113, R117, R118, R131, R216) -/

section
variable (s : State)
theorem exec_ifence : exec .ifence s = stemRun [] [] s fun c =>
    .done (s.setCore s.cur (c.setStem { c.stem with stale := [] })) (c.after 1) := rfl
theorem exec_twait (t : Fin 4) : exec (.twait t) s = stemRun [] [] s fun c =>
    if c.full.get t then .done s (c.after 1) else .wait s := rfl
theorem exec_vsync : exec .vsync s = stemRun [] [] s fun c =>
    if c.vecIdle then .done (s.passTo (dieOf s.cur) c.vec.lastWrite) (c.after 1) else .wait s := rfl
theorem exec_msync : exec .msync s = stemRun [] [] s fun c =>
    if c.mat.pwait.isSome || c.mat.psig.isSome then .mtrap .mcmdInvalid 0
    else if c.matIdle then .done s (c.after 1) else .wait s := rfl
theorem exec_rdcyc (d : Reg) : exec (.rdcyc d) s = stemRun [] [d] s fun c =>
    .done (s.setCore s.cur (c.setX d (BitVec.ofNat 64 (s.cycles.get (dieOf s.cur))))) (c.after 1) := rfl
end

/-- A wait for a condition and nothing else: it completes at once when that holds. -/
theorem stemRun_await {s : State} {reads : List Reg} {f : Core → Res} {c : Bool} {npc : Nat} (h : s.regsFree reads [])
    (hf : f (s.core s.cur) = if c then .done s npc else .wait s) (hp : s.plain npc) :
    stemRun reads [] s f = if c then goesTo s npc else waits s := by
  cases c with
  | false => exact stemRun_wait h hf
  | true => exact stemRun_goesTo h hf hp.1 hp.2

theorem exec_yield {s : State} {t : State} (h : exec .nop s = .next t) :
    exec .yield s = .next (if s.coreWanted s.cur then t.requestStop none (t.together t.cur) else t) := by
  show execYield s = _
  rw [exec_nop] at h
  rw [execYield, h]

theorem stemWaits : StemWaits := by
  intro s hp k
  refine ⟨fun h => ?_, fun d h => (exec_rdcyc ..).trans (stemRun_setsX h rfl hp)⟩
  have hnop : exec .nop s = goesTo s (after s []) := by
    rw [exec_nop]
    exact stemRun_goesTo h rfl hp.1 hp.2
  refine ⟨hnop, (exec_ifence s).trans (stemRun_core h rfl hp.1 hp.2),
    fun t => (exec_twait s t).trans (stemRun_await h rfl hp), ?_, fun hw hs => ?_, fun hn => ?_, fun hw => ?_, fun hw => ?_⟩
  · rw [exec_vsync]
    split
    case isTrue hi => exact stemRun_done h (if_pos hi) hp.1 hp.2
    case isFalse hi => exact stemRun_wait h (if_neg hi)
  · rw [exec_msync]
    refine stemRun_await h ((if_neg ?_).trans rfl) hp
    rw [hw, hs]; decide
  · rw [exec_msync]
    refine stemRun_mtrap h (if_pos ?_)
    rw [Bool.or_eq_true, Option.isSome_iff_ne_none, Option.isSome_iff_ne_none]
    exact hn
  · rw [exec_yield hnop, hw]; rfl
  · rw [exec_yield hnop, hw]; rfl

/-! ### FENCE and BAR (R112, R114) -/

theorem fence_eq (k : Core) (mask : BitVec 16) (sc : Scope) : k.fence mask sc = fenced k mask sc := by
  simp only [Core.fence, fenced, fenceStores, addMark, fenceRatoms, Bool.or_eq_true, decide_eq_true_eq, List.isEmpty_iff]

section
variable (s : State) (a : Src) (sc : Scope)
theorem exec_fence : exec (.fence a sc) s = stemRun (srcRegs a) [] s fun c =>
    .done (s.setCore s.cur (if (c.src a).setWidth 16 = 0 then c else c.fence ((c.src a).setWidth 16) sc))
      (c.after (1 + litWords [a])) := rfl
end

/-- A core that differs at most in its arrivals at barriers. -/
def Core.withBars (k : Core) (l : List BarArrival) : Core := k.setStem { k.stem with bars := l }

section
variable (s : State) (num : BitVec 2) (sc : Scope)

theorem release_release (k : Core) : (k.release num sc).release num sc = k.release num sc := by
  have h : (k.release num sc).stem.bars.map (fun b => if b.num = num ∧ b.scope = sc then { b with released := true } else b) =
      (k.release num sc).stem.bars := by
    simp only [Core.release, Core.setStem, List.map_map]
    refine List.map_congr_left fun b _ => ?_
    simp only [Function.comp]
    split <;> rfl
  exact congrArg (k.withBars ·) h

/-- The last arrival frees the cores of the list, and no other. -/
theorem releaseBar_core (l : List CoreId) (c : CoreId) :
    (s.releaseBar num sc l).core c = if c ∈ l then (s.core c).release num sc else s.core c := by
  induction l generalizing s with
  | nil => rfl
  | cons d l ih =>
    show ((s.modCore d fun x => x.release num sc).releaseBar num sc l).core c = _
    rw [ih]
    by_cases hd : c = d
    · subst hd
      simp [release_release]
    · simp [hd, State.modCore_core_ne _ _ _ _ hd]

theorem releaseBar_cur (l : List CoreId) : (s.releaseBar num sc l).cur = s.cur := by
  induction l generalizing s with
  | nil => rfl
  | cons d l ih => exact ih (s.modCore d fun x => x.release num sc)

/-- A core whose arrivals alone change keeps its PC, its status and its loops. -/
theorem releaseBar_withBars (l : List CoreId) (c : CoreId) :
    ∃ bs, (s.releaseBar num sc l).core c = (s.core c).withBars bs := by
  rw [releaseBar_core]
  split
  · exact ⟨_, rfl⟩
  · exact ⟨_, rfl⟩

theorem arrive_withBars (k : Core) : ∃ bs, k.arrive num sc = k.withBars bs := by
  unfold Core.arrive
  split
  · exact ⟨_, rfl⟩
  · exact ⟨_, rfl⟩

theorem leaveBar_arrived (k : Core) : (k.leaveBar num sc).stem.arrived num sc = false := by
  simp only [Core.leaveBar, Core.setStem, Stem.arrived, List.any_filter]
  rw [List.any_eq_false]
  intro b _
  cases b.num == num <;> cases b.scope == sc <;> simp

theorem release_freed {k : Core} (h : k.stem.arrived num sc = true) :
    (k.release num sc).stem.bars.any (freed num sc) = true := by
  obtain ⟨b, hb, hm⟩ := List.any_eq_true.1 h
  simp only [Bool.and_eq_true, beq_iff_eq] at hm
  refine List.any_eq_true.2 ⟨{ b with released := true }, List.mem_map.2 ⟨b, hb, if_pos hm.1⟩, ?_⟩
  simp [freed, hm.1.1, hm.1.2]
end

/-- The current core arrives at a barrier. -/
def State.arrives (s : State) (num : BitVec 2) (sc : Scope) : State := s.modCore s.cur fun k => k.arrive num sc

/-- The current core arrives as the last of a list, which frees the others. -/
def State.passes (s : State) (num : BitVec 2) (sc : Scope) (l : List CoreId) : State :=
  ((s.arrives num sc).releaseBar num sc l).modCore s.cur fun k => k.leaveBar num sc

section
variable (s : State) (num : BitVec 2) (sc : Scope) (l : List CoreId)

theorem passes_cur : (s.passes num sc l).cur = s.cur := releaseBar_cur ..

theorem passes_core : ∃ bs, (s.passes num sc l).core s.cur = ((s.core s.cur).withBars bs).leaveBar num sc := by
  obtain ⟨bs, hown⟩ := releaseBar_withBars (s.arrives num sc) num sc l s.cur
  obtain ⟨bs', harr⟩ := arrive_withBars num sc (s.core s.cur)
  exact ⟨bs, by rw [State.passes, State.modCore_core, hown, State.arrives, State.modCore_core, harr]; rfl⟩

theorem passes_core_ne {c : CoreId} (hc : c ≠ s.cur) :
    (s.passes num sc l).core c = ((s.arrives num sc).releaseBar num sc l).core c := State.modCore_core_ne _ _ _ _ hc

theorem exec_bar (a : Src) : exec (.bar a sc) s = stemRun (srcRegs a) [] s fun c =>
    if sc = .core then (if c.released then .done s (c.after (1 + litWords [a])) else .wait s)
    else if !(s.nestOf s.cur).any Nest.coresident then .trap .launchInvalid 0
    else if c.stem.bars.any (freed ((c.src a).setWidth 2) sc) then
      .done (s.modCore s.cur fun k => k.leaveBar ((c.src a).setWidth 2) sc) (c.after (1 + litWords [a]))
    else if !c.released then .wait s
    else if ((s.arrives ((c.src a).setWidth 2) sc).barCores s.cur sc).all fun k =>
        ((s.arrives ((c.src a).setWidth 2) sc).core k).stem.arrived ((c.src a).setWidth 2) sc then
      .done (s.passes ((c.src a).setWidth 2) sc ((s.arrives ((c.src a).setWidth 2) sc).barCores s.cur sc))
        (c.after (1 + litWords [a]))
    else .wait (s.arrives ((c.src a).setWidth 2) sc) := rfl
end

theorem stemFenceBar : StemFenceBar := by
  intro s a sc h hp k mask num s1 l
  have hbar := exec_bar s sc a
  refine ⟨?_, fun hc => ⟨fun hd => ?_, fun hd => ?_⟩, fun hc hn => ?_, fun hc hn => ⟨fun hf => ?_, fun hf hd => ?_,
    fun hf hd hx => ?_, fun hf hd hall => ?_⟩⟩
  · rw [exec_fence, ← fence_eq]
    refine stemRun_core h rfl hp.1 ?_
    split
    · exact hp.2
    · exact hp.2
  · exact hbar.trans (stemRun_goesTo h ((if_pos hc).trans (if_pos (released_iff.2 hd))) hp.1 hp.2)
  · exact hbar.trans (stemRun_wait h ((if_pos hc).trans (if_neg (mt released_iff.1 hd))))
  · exact hbar.trans (stemRun_trap h ((if_neg hc).trans (if_pos (by rw [hn]; rfl))))
  · exact hbar.trans (stemRun_core h ((if_neg hc).trans ((if_neg (by rw [hn]; decide)).trans (if_pos hf))) hp.1 hp.2)
  · have hr : (!k.released) = true := by rw [Bool.eq_false_iff.2 (mt released_iff.1 hd)]; rfl
    exact hbar.trans (stemRun_wait h ((if_neg hc).trans ((if_neg (by rw [hn]; decide)).trans ((if_neg
      (Bool.eq_false_iff.1 hf)).trans (if_pos hr)))))
  · have hr : ¬(!k.released) = true := by rw [released_iff.2 hd]; decide
    have hl : ¬(l.all fun k => (s1.core k).stem.arrived num sc) = true := by
      obtain ⟨c, hc, hm⟩ := hx
      exact fun hl => absurd (List.all_eq_true.1 hl c hc) (by rw [hm]; decide)
    exact hbar.trans (stemRun_wait h ((if_neg hc).trans ((if_neg (by rw [hn]; decide)).trans ((if_neg
      (Bool.eq_false_iff.1 hf)).trans ((if_neg hr).trans (if_neg hl))))))
  · have hr : ¬(!k.released) = true := by rw [released_iff.2 hd]; decide
    have hl : (l.all fun k => (s1.core k).stem.arrived num sc) = true := List.all_eq_true.2 hall
    obtain ⟨bs, hown⟩ := passes_core s num sc l
    have hstatus : statusSstep ((s.passes num sc l).core (s.passes num sc l).cur).stem.status = false := by
      rw [passes_cur, hown]; exact hp.2
    refine ⟨_, hbar.trans (stemRun_done (t := s.passes num sc l) h ((if_neg hc).trans ((if_neg (by rw [hn]; decide)).trans
      ((if_neg (Bool.eq_false_iff.1 hf)).trans ((if_neg hr).trans (if_pos hl))))) hp.1 hstatus), ?_, ?_, fun c hc hne => ?_⟩
    · rw [passes_cur, State.modCore_core, hown]; rfl
    · rw [passes_cur, State.modCore_core, hown]; exact leaveBar_arrived ..
    · rw [passes_cur, State.modCore_core_ne _ _ _ _ hne, passes_core_ne _ _ _ _ hne, releaseBar_core, if_pos hc]
      exact release_freed num sc (hall c hc)

end Sys2Proof.Machine

namespace Sys2Proof
open Machine Claims

/-- Settles O9: each instruction's own wait or completion, and the last arrival of a BAR freeing the others. -/
theorem stemWaiting : Obligations.StemWaiting := by
  unfold Obligations.StemWaiting
  exact ⟨stemWaits, stemFenceBar⟩

end Sys2Proof
end

section
/-! PROOFS. What the stem sends: WAITA, TOKEN, posts and remote atomics (R111, R115, R119-R121). -/

namespace Sys2Proof.Machine
open Claims

/-! ### WAITA (R111) -/

/-- The bytes of the word of a WAITA or a remote atomic. -/
def atomBytes (ty : Ty) : Nat := if ty = .i64 then 8 else 4

theorem exec_waita (s : State) (d : Reg) (a b : Src) (ty : Ty) (sc : Scope) : exec (.waita d a b ty sc) s =
    stemRun (srcRegs a ++ srcRegs b ++ [d]) [d] s fun c =>
      if ty ≠ .i32 && ty ≠ .i64 then .trap .formatInvalid c.firstWord
      else if (c.src a).toNat % atomBytes ty ≠ 0 then .trap .atomicMisaligned (c.src a)
      else match c.stem.waita with
        | none => .wait (s.setCore s.cur (c.setStem { c.stem with waita := some {
            wide := ty = .i64
            va := c.src a
            expected := (c.getX d).setWidth (8 * atomBytes ty) |>.setWidth 64
            timeout := (c.src b).setWidth 32
            ctx := c.stem.ctxid
            sent := BitVec.ofNat 64 (s.cycles.get (dieOf s.cur))
            phase := .travelling
            target := none
            susp := none
            seen := 0 } }))
        | some q =>
          if q.phase = .replied then
            .done (s.setCore s.cur (c.setX d (sext64 (8 * atomBytes ty) q.seen.toNat))) (c.after (1 + litWords [a, b]))
          else .wait s := rfl

/-- The TYPEs of WAITA and RATOM. -/
theorem notWord_iff (ty : Ty) : (decide (ty ≠ .i32) && decide (ty ≠ .i64)) = true ↔ ty ≠ .i32 ∧ ty ≠ .i64 := by
  rw [Bool.and_eq_true, decide_eq_true_eq, decide_eq_true_eq]

theorem isWord_iff (ty : Ty) : ¬(decide (ty ≠ .i32) && decide (ty ≠ .i64)) = true ↔ ty = .i32 ∨ ty = .i64 := by
  rw [notWord_iff, not_and_or, not_not, not_not]

theorem setWidth_setWidth_ofNat (v : Word) (n : Nat) : (v.setWidth n).setWidth 64 = BitVec.ofNat 64 (v.toNat % 2 ^ n) :=
  BitVec.eq_of_toNat_eq (by rw [BitVec.toNat_setWidth, BitVec.toNat_setWidth, BitVec.toNat_ofNat])

end Sys2Proof.Machine

namespace Sys2Proof
open Machine Claims

/-- Settles O10: by the phase of the core's request, after the checks of its TYPE and its address. -/
theorem stemWaita : Obligations.StemWaita := by
  unfold Obligations.StemWaita
  intro s d a b ty sc h k n
  have hexec := exec_waita s d a b ty sc
  refine ⟨fun h32 h64 => hexec.trans (stemRun_trap h (if_pos ((notWord_iff ty).2 ⟨h32, h64⟩))), fun hty => ?_⟩
  have hword := (isWord_iff ty).2 hty
  refine ⟨fun ha => hexec.trans (stemRun_trap h ((if_neg hword).trans (if_pos ha))), fun ha =>
    ⟨fun hn => hexec.trans ?_, fun q hq hph => hexec.trans (stemRun_wait h ?_), fun q hq hph hp =>
      hexec.trans (stemRun_setsX h ?_ hp)⟩⟩
  · rw [← setWidth_setWidth_ofNat]
    refine stemRun_wait h ((if_neg hword).trans ((if_neg (not_not.2 ha)).trans ?_))
    rw [hn]
    rfl
  · refine (if_neg hword).trans ((if_neg (not_not.2 ha)).trans ?_)
    rw [hq]
    exact if_neg hph
  · refine (if_neg hword).trans ((if_neg (not_not.2 ha)).trans ?_)
    rw [hq]
    exact if_pos hph

end Sys2Proof

namespace Sys2Proof.Machine
open Claims

/-! ### TOKEN (R115) -/

theorem extractLsb'_eq_zero {w : Nat} (v : BitVec w) (lo n : Nat) : v.extractLsb' lo n = 0 ↔ v.toNat / 2 ^ lo % 2 ^ n = 0 := by
  rw [← BitVec.toNat_inj, BitVec.extractLsb'_toNat, Nat.shiftRight_eq_div_pow]
  rfl

theorem tokenBad_iff (a b : Word) : tokenBad a b = true ↔ ¬tokenFieldsZero a b := by
  have ha := a.isLt
  have hb := b.isLt
  have h1 : a.toNat / 2 ^ 32 % 2 ^ 32 = a.toNat / 2 ^ 32 := Nat.mod_eq_of_lt (by omega)
  have h2 : b.toNat / 2 ^ 48 % 2 ^ 16 = b.toNat / 2 ^ 48 := Nat.mod_eq_of_lt (by omega)
  simp only [tokenBad, tokenFieldsZero, Bool.or_eq_true, bne_iff_ne, ne_eq, extractLsb'_eq_zero, h1, h2, Nat.pow_zero,
    Nat.div_one]
  tauto

/-- The token that TOKEN reads from its operands. -/
theorem tokenOf_eq (s : State) (d n : Nat) (a b : Word) : tokenOf s d n a b =
    { ent := a.extractLsb' 0 16
      trip := (a.extractLsb' 16 16).toNat
      rows := b.extractLsb' 0 32
      tail := (b.extractLsb' 32 9).toNat
      grant := b.extractLsb' 44 4
      scal := (scalarRegs d n).map fun r => ((s.core s.cur).getX r).setWidth 32
      slots := (s.core s.cur).slots
      cycle := s.cycles.get (dieOf s.cur) } := by
  simp only [tokenOf, scalarRegs, List.map_map, Token.mk.injEq, BitVec.extractLsb'_toNat, Nat.shiftRight_eq_div_pow,
    true_and, and_true]
  exact ⟨BitVec.setWidth_eq_extractLsb' (by omega), BitVec.setWidth_eq_extractLsb' (by omega), rfl, rfl⟩

theorem exec_token (s : State) (d : Fin 32) (n : Fin 5) (a b : Src) : exec (.token d n a b) s =
    stemRun (srcRegs a ++ srcRegs b ++ scalarRegs d.val n.val) [] s fun c =>
      if tokenBad (c.src a) (c.src b) then .trap .tokenFormat 0
      else if (List.finRange 4).any fun t => ((c.src b).extractLsb' 44 4).getLsbD t.val && !c.full.get t then
        .trap .tileProtocol 0
      else if !c.stem.stq.isEmpty || 64 ≤ c.vec.queue.length then .wait s
      else .done (s.setCore s.cur (c.setVec { c.vec with queue := c.vec.queue ++ [{
          ent := (c.src a).extractLsb' 0 16
          trip := ((c.src a).extractLsb' 16 16).toNat
          rows := (c.src b).extractLsb' 0 32
          tail := ((c.src b).extractLsb' 32 9).toNat
          grant := (c.src b).extractLsb' 44 4
          scal := (scalarRegs d.val n.val).map fun r => (c.getX r).setWidth 32
          slots := c.slots
          cycle := s.cycles.get (dieOf s.cur) }] })) (c.after (1 + litWords [a, b])) := rfl

theorem grantsBad_iff (g : BitVec 4) (full : Vector Bool 4) :
    ((List.finRange 4).any fun t => g.getLsbD t.val && !full.get t) = true ↔
      ∃ i : Fin 4, g.getLsbD i.val = true ∧ full.get i = false := by
  simp [List.any_eq_true]

/-- What a queue of n that holds at most max waits for, with the stem's stores. -/
theorem queueWaits_iff {k : Core} {n max : Nat} :
    (!k.stem.stq.isEmpty || decide (max ≤ n)) = true ↔ k.stem.stq ≠ [] ∨ max ≤ n := by
  simp

theorem queueTakes {k : Core} {n max : Nat} (hq : k.stem.stq = []) (hn : n < max) :
    ¬(!k.stem.stq.isEmpty || decide (max ≤ n)) = true := by
  rw [queueWaits_iff]
  exact not_or.2 ⟨not_not.2 hq, Nat.not_le.2 hn⟩

end Sys2Proof.Machine

namespace Sys2Proof
open Machine Claims

/-- Settles O11: the checks in their order, then the queue. -/
theorem stemToken : Obligations.StemToken := by
  unfold Obligations.StemToken
  intro s d n a b _ regs h k t
  have hexec := exec_token s d n a b
  have hgrant : t.grant = (k.src b).extractLsb' 44 4 := by rw [show t = _ from tokenOf_eq ..]
  refine ⟨fun hz => hexec.trans (stemRun_trap h (if_pos ((tokenBad_iff ..).2 hz))), fun hz => ?_⟩
  have hzero : ¬tokenBad (k.src a) (k.src b) = true := mt (tokenBad_iff ..).1 (not_not.2 hz)
  rw [hgrant]
  refine ⟨fun hg => hexec.trans (stemRun_trap h ((if_neg hzero).trans (if_pos ((grantsBad_iff ..).2 hg)))), fun hg => ?_⟩
  have hfull : ¬((List.finRange 4).any fun t => ((k.src b).extractLsb' 44 4).getLsbD t.val && !k.full.get t) = true := by
    rw [grantsBad_iff]
    rintro ⟨i, hi, hf⟩
    rw [hg i hi] at hf
    exact absurd hf (by decide)
  refine ⟨fun hw => hexec.trans (stemRun_wait h ((if_neg hzero).trans ((if_neg hfull).trans (if_pos (queueWaits_iff.2 hw))))),
    fun hq hl hp => hexec.trans ?_⟩
  rw [show t = _ from tokenOf_eq ..]
  exact stemRun_core h ((if_neg hzero).trans ((if_neg hfull).trans (if_neg (queueTakes hq hl)))) hp.1 hp.2

end Sys2Proof

namespace Sys2Proof.Machine
open Claims

/-! ### Posts (R119, R120) -/

theorem exec_xfer (s : State) (a : Src) (hi : Bool) : exec (.xfer a hi) s = stemRun (srcRegs a) [] s fun c =>
    withAddr (c.src a) 128 .misaligned fun x =>
      if !c.stem.stq.isEmpty then .wait s
      else if c.hardAt x 128 then .ecc x 128
      else s.post (c.noteSoft x 128) hi true (BitVec.ofNat 1024 (c.read x 128)) 0 0 (c.after (1 + litWords [a])) := rfl

theorem exec_rcall (s : State) (a b : Src) (hi : Bool) : exec (.rcall a b hi) s =
    stemRun (srcRegs a ++ srcRegs b) [] s fun c =>
      if (c.src a).toNat % 4 ≠ 0 then .trap .imemRange (c.src a)
      else s.post c hi false 0 (c.src a) (c.src b) (c.after (1 + litWords [a, b])) := rfl

section
variable {s : State} {c : Core} {hi isBox : Bool} {desc : BitVec 1024} {entry arg : Word} {npc : Nat}

theorem post_waits (h : c.stem.stq ≠ [] ∨ 32 ≤ c.posts.length) : s.post c hi isBox desc entry arg npc = .wait s :=
  if_pos (queueWaits_iff.2 h)

theorem post_posts (hq : (s.core s.cur).stem.stq = []) (hl : (s.core s.cur).posts.length < 32) :
    s.post (s.core s.cur) hi isBox desc entry arg npc =
      .done (s.setCore s.cur (posted (s.core s.cur) (postOf s hi isBox desc entry arg))) npc :=
  if_neg (queueTakes hq hl)

/-- A post of XFER notes its read first, which changes nothing that the post takes. -/
theorem post_noteSoft {x n : Nat} (hq : (s.core s.cur).stem.stq = []) (hl : (s.core s.cur).posts.length < 32) :
    s.post ((s.core s.cur).noteSoft x n) hi isBox desc entry arg npc =
      .done (s.setCore s.cur (posted ((s.core s.cur).noteSoft x n) (postOf s hi isBox desc entry arg))) npc := by
  obtain ⟨fix, count, h⟩ := noteSoft_eq (s.core s.cur) x n
  rw [h]
  exact if_neg (queueTakes hq hl)

theorem posts_noteSoft (k : Core) (x n : Nat) : (k.noteSoft x n).posts = k.posts := by
  obtain ⟨fix, count, h⟩ := noteSoft_eq k x n
  rw [h]
end

end Sys2Proof.Machine

namespace Sys2Proof
open Machine Claims

/-- Settles O12: both forms end in one post, after their own checks. -/
theorem stemPosts : Obligations.StemPosts := by
  unfold Obligations.StemPosts
  intro s a b hi k v
  have hxfer := exec_xfer s a hi
  have hrcall := exec_rcall s a b hi
  refine ⟨fun h => ⟨fun hr ha hq hh => ⟨fun hl hp => hxfer.trans ?_, fun hl => hxfer.trans (stemRun_wait h ?_)⟩,
    fun hr ha hq => hxfer.trans (stemRun_wait h ((withAddr_ok hr ha).trans (if_pos ?_))),
    fun hr ha => hxfer.trans (stemRun_trap h (withAddr_align hr ha)),
    fun hr => hxfer.trans (stemRun_trap h (withAddr_range hr))⟩,
    fun h => ⟨fun ha => hrcall.trans (stemRun_trap h (if_pos ha)),
      fun ha hq hl hp => hrcall.trans (stemRun_core h ((if_neg (not_not.2 ha)).trans (post_posts hq hl)) hp.1 hp.2),
      fun ha hw => hrcall.trans (stemRun_wait h ((if_neg (not_not.2 ha)).trans (post_waits hw)))⟩⟩
  · refine stemRun_core h ((withAddr_ok hr ha).trans ((if_neg (by rw [hq]; decide)).trans
      ((if_neg (Bool.eq_false_iff.1 hh)).trans (post_noteSoft hq hl)))) hp.1 ?_
    show statusSstep (k.noteSoft v 128).stem.status = false
    rw [noteSoft_stem]
    exact hp.2
  · refine (withAddr_ok hr ha).trans ((if_neg (by rw [hq]; decide)).trans ((if_neg (Bool.eq_false_iff.1 hh)).trans
      (post_waits (.inr ?_))))
    rw [posts_noteSoft]
    exact hl
  · rw [List.isEmpty_eq_false_iff.2 hq]; rfl

end Sys2Proof

namespace Sys2Proof.Machine
open Claims

/-! ### Remote atomics (R121, R395) -/

/-- A live direction carries its own traffic. -/
theorem carrier_live {p : Package} {l : LinkId} {n : Nat} (h : (p.link l true).lanes ≠ 0) :
    p.carrier true (n + 1) l = some l := if_pos h

theorem setCore_modCore (s : State) (c : CoreId) (k : Core) (f : Core → Core) :
    (s.setCore c k).modCore c f = s.setCore c (f k) := by
  rw [State.modCore, State.setCore_core, State.setCore_setCore]

/-- A change of the machine that no core takes part in, and that comes before or after a change of a core. -/
structure OutsideCores (g : State → State) : Prop where
  modCore : ∀ u c f, (g u).modCore c f = g (u.modCore c f)
  cur : ∀ u, (g u).cur = u.cur
  core : ∀ u c, (g u).core c = u.core c

theorem outsideCores_sendOn (l : LinkId) (up : Bool) (p : Packet) : OutsideCores fun s => s.sendOn l up p :=
  ⟨fun _ _ _ => rfl, fun _ => rfl, fun _ _ => rfl⟩
theorem outsideCores_modRunner (d : DieId) (g : Runner → Runner) : OutsideCores fun s => s.modRunner d g :=
  ⟨fun _ _ _ => rfl, fun _ => rfl, fun _ _ => rfl⟩
theorem outsideCores_addNest (n : Nat → Nest) : OutsideCores fun s => s.addNest n :=
  ⟨fun _ _ _ => rfl, fun _ => rfl, fun _ _ => rfl⟩

/-- An instruction that leaves the current core k, and something that it sends. -/
theorem stemRun_sends {s : State} {reads writes : List Reg} {f : Core → Res} {k : Core} {g : State → State} {npc : Nat}
    (hg : OutsideCores g) (h : s.regsFree reads writes) (hf : f (s.core s.cur) = .done (g (s.setCore s.cur k)) npc)
    (hn : npc < 0x10000) (hs : statusSstep k.stem.status = false) :
    stemRun reads writes s f = .next (g (s.stemDone k npc)) := by
  have hcur : (g (s.setCore s.cur k)).cur = s.cur := hg.cur _
  rw [stemRun_done h hf hn (by rw [hcur, hg.core, State.setCore_core]; exact hs), hcur, hg.modCore, setCore_modCore]
  rfl

theorem upHop_live {s : State} {c : CoreId} {p : Packet}
    (h : (s.pkg.link (crownLink (dieOf c) (s.pkg.moduleOf c)) true).lanes ≠ 0) :
    s.upHop c false p = some (s.sendOn (crownLink (dieOf c) (s.pkg.moduleOf c)) true p) := by
  show Option.or ((s.pkg.carrier true 8 (crownLink (dieOf c) (s.pkg.moduleOf c))).map fun l => s.sendOn l true p) _ = _
  rw [carrier_live h]
  rfl

theorem ratomOps_forms : ∀ p ∈ ratomOps, ∀ d a b ty s, exec (p.1 d a b ty) s = ratomRun p.2 d a b ty s := by
  simp only [ratomOps, List.forall_mem_cons]
  exact ⟨fun _ _ _ _ _ => rfl, fun _ _ _ _ _ => rfl, fun _ _ _ _ _ => rfl, fun _ _ _ _ _ => rfl, fun _ _ _ _ _ => rfl,
    fun _ _ _ _ _ => rfl, fun _ _ _ _ _ => rfl, fun _ _ _ _ _ => rfl, fun _ _ _ _ _ => rfl, fun _ _ _ _ _ => rfl,
    fun _ h => absurd h List.not_mem_nil⟩

/-- A core with one more remote atomic outstanding. -/
def Core.withRatom (k : Core) (r : Ratom) : Core :=
  k.setStem { k.stem with ratoms := k.stem.ratoms ++ [r], ratomNext := r.id + 1 }

theorem ratomRun_eq (op : Nat) (d : Reg) (a b : Src) (ty : Ty) (s : State) : ratomRun op d a b ty s =
    stemRun (srcRegs a ++ srcRegs b ++ (if op = 9 then [d] else [])) [d] s fun c =>
      if ty ≠ .i32 && ty ≠ .i64 then .trap .formatInvalid c.firstWord
      else if (c.src a).toNat % atomBytes ty ≠ 0 then .trap .atomicMisaligned (c.src a)
      else if !c.stem.stq.isEmpty || 8 ≤ c.stem.ratoms.length then .wait s
      else
        let r : Ratom := {
          id := c.stem.ratomNext, op := op, wide := ty = .i64, va := c.src a, b := c.src b, c := c.getX d
          tag := s.coreTag s.cur, d := d, phase := .travelling, target := none, susp := none, old := 0
          fence := c.stem.ratomFence.get 0 }
        match ((s.setCore s.cur (c.withRatom r)).upHop s.cur false ⟨s.cur, r.id, false, none⟩).or
            ((s.setCore s.cur (c.withRatom r)).ratomFault s.cur r .peerUnreachable) with
        | some s2 => .done s2 (c.after (1 + litWords [a, b]))
        | none => .wait s := rfl

end Sys2Proof.Machine

namespace Sys2Proof
open Machine Claims

/-- Settles O13: the checks, then one more remote atomic, whose packet leaves by the core's own live link. -/
theorem stemRatom : Obligations.StemRatom := by
  unfold Obligations.StemRatom
  intro s d a b ty hfree k n link p hp r
  have h : s.regsFree (srcRegs a ++ srcRegs b ++ if p.2 = 9 then [d] else []) [d] := by
    split
    · exact hfree
    · exact hfree.mono (by simp) (List.subset_append_right ..)
  have hexec := (ratomOps_forms p hp d a b ty s).trans (ratomRun_eq ..)
  refine ⟨fun h32 h64 => hexec.trans (stemRun_trap h (if_pos ((notWord_iff ty).2 ⟨h32, h64⟩))), fun hty => ?_⟩
  have hword := (isWord_iff ty).2 hty
  refine ⟨fun ha => hexec.trans (stemRun_trap h ((if_neg hword).trans (if_pos ha))),
    fun ha hw => hexec.trans (stemRun_wait h ((if_neg hword).trans ((if_neg (not_not.2 ha)).trans
      (if_pos (queueWaits_iff.2 hw))))), fun ha hq hl hlive hpl => hexec.trans ?_⟩
  let s1 := s.setCore s.cur (k.withRatom r)
  have hhop : (s1.upHop s.cur false ⟨s.cur, r.id, false, none⟩).or (s1.ratomFault s.cur r .peerUnreachable) =
      some (s1.sendOn link true ⟨s.cur, r.id, false, none⟩) := by
    rw [upHop_live (s := s1) hlive]; rfl
  refine stemRun_sends (outsideCores_sendOn link true ⟨s.cur, r.id, false, none⟩) (k := k.withRatom r) h ((if_neg hword).trans
    ((if_neg (not_not.2 ha)).trans ((if_neg (queueTakes hq hl)).trans ?_))) hpl.1 hpl.2
  show (match (s1.upHop s.cur false ⟨s.cur, r.id, false, none⟩).or (s1.ratomFault s.cur r .peerUnreachable) with
    | some s2 => Res.done s2 (after s [a, b])
    | none => Res.wait s) = _
  rw [hhop]

end Sys2Proof
end

section
/-! PROOFS. The probe cache and the shape slots of a core (R123-R126). -/

namespace Sys2Proof.Machine
open Claims

/-! ### Which slot holds a block (R123) -/

theorem probeMatch_iff (k : Core) (a : Word) (i : Fin 256) :
    ((k.probes.get i).state != .invalid && (k.probes.get i).tag == a.extractLsb' 11 53 &&
      (k.probes.get i).ctx == k.stem.ctxid) = true ↔ holds k a i := by
  have hlt := a.isLt
  have htag : (k.probes.get i).tag = a.extractLsb' 11 53 ↔ (k.probes.get i).tag.toNat = a.toNat / 2048 := by
    rw [← BitVec.toNat_inj, BitVec.extractLsb'_toNat, Nat.shiftRight_eq_div_pow,
      Nat.mod_eq_of_lt (show a.toNat / 2 ^ 11 < 2 ^ 53 by omega)]
    rfl
  simp only [Bool.and_eq_true, bne_iff_ne, beq_iff_eq, htag, holds, ne_eq, and_assoc]

theorem probeHit_none {k : Core} {a : Word} (h : ∀ i, ¬holds k a i) : k.probeHit a = none :=
  List.find?_eq_none.2 fun i _ => mt (probeMatch_iff k a i).1 (h i)

theorem probeHit_some {k : Core} {a : Word} {i : Fin 256} (h : holdsFirst k a i) : k.probeHit a = some i := by
  obtain ⟨hi, hj⟩ := h
  refine List.find?_eq_some_iff_getElem.2 ⟨(probeMatch_iff k a i).2 hi, i.val, by simp, by simp, fun j hlt => ?_⟩
  rw [List.getElem_finRange, Bool.not_eq_true', Bool.eq_false_iff]
  exact mt (probeMatch_iff k a _).1 (hj _ hlt)

theorem slotBase_eq (k : Core) (i : Nat) : k.slotBase i = slotBase k i := by
  rw [Core.slotBase, pwindowBase_eq]
  rfl

/-! ### PROBE (R123) -/

section
variable {s : State} {d : Reg} {a : Src} {imm : BitVec 16} (h : s.regsFree (srcRegs a) [d])
include h

theorem probe_disabled (hen : (s.core s.cur).stem.pwindow.getLsbD 0 = false) :
    exec (.probe d a imm) s = traps s .probeFull 0 := by
  show execProbe d a imm s = _
  unfold execProbe
  refine stemRun_trap h (if_pos ?_)
  rw [pwindowEn, hen]; rfl

variable (hen : (s.core s.cur).stem.pwindow.getLsbD 0 = true)
include hen

theorem probe_valid {i : Fin 256} (hi : holdsFirst (s.core s.cur) ((s.core s.cur).src a) i)
    (hv : ((s.core s.cur).probes.get i).state = .valid) (hp : s.plain (after s [a])) : exec (.probe d a imm) s =
      setsX s d (BitVec.ofNat 64 (slotBase (s.core s.cur) i.val + ((s.core s.cur).src a).toNat % 2048)) (after s [a]) := by
  show execProbe d a imm s = _
  unfold execProbe
  refine stemRun_setsX h ((if_neg (by rw [pwindowEn, hen]; decide)).trans ?_) hp
  rw [probeHit_some hi, ← slotBase_eq]
  exact if_pos hv

theorem probe_filling {i : Fin 256} (hi : holdsFirst (s.core s.cur) ((s.core s.cur).src a) i)
    (hv : ((s.core s.cur).probes.get i).state = .filling) (hs : statusSstep (s.core s.cur).stem.status = false)
    (hm : legal ((s.core s.cur).stem.pc.toNat + 4 * imm.toInt)) : exec (.probe d a imm) s =
      setsX s d (BitVec.ofNat 64 (slotBase (s.core s.cur) i.val + ((s.core s.cur).src a).toNat % 2048))
        ((s.core s.cur).stem.pc.toNat + 4 * imm.toInt).toNat := by
  show execProbe d a imm s = _
  unfold execProbe
  refine stemRun_setsX h ((if_neg (by rw [pwindowEn, hen]; decide)).trans ?_) ⟨legal_lt hm, hs⟩
  rw [probeHit_some hi, ← slotBase_eq]
  exact (if_neg (by rw [hv]; decide)).trans (if_pos hm)

theorem probe_full (hi : ∀ i, ¬holds (s.core s.cur) ((s.core s.cur).src a) i) (hv : (s.core s.cur).probeVictim = none) :
    exec (.probe d a imm) s = traps s .probeFull 0 := by
  show execProbe d a imm s = _
  unfold execProbe
  refine stemRun_trap h ((if_neg (by rw [pwindowEn, hen]; decide)).trans ?_)
  rw [probeHit_none hi, hv]

theorem probe_allocates {i : Fin 256} (hi : ∀ i, ¬holds (s.core s.cur) ((s.core s.cur).src a) i)
    (hv : (s.core s.cur).probeVictim = some i) (hs : statusSstep (s.core s.cur).stem.status = false)
    (hm : legal ((s.core s.cur).stem.pc.toNat + 4 * imm.toInt)) : exec (.probe d a imm) s =
      .next ((s.stemDone (({ s.core s.cur with
          probes := (s.core s.cur).probes.set i.val
            ⟨((s.core s.cur).src a).extractLsb' 11 53, (s.core s.cur).stem.ctxid, .filling, false⟩ i.isLt
          victim := i + 1 } : Core).setX d
            (BitVec.ofNat 64 (slotBase (s.core s.cur) i.val + ((s.core s.cur).src a).toNat % 2048)))
          ((s.core s.cur).stem.pc.toNat + 4 * imm.toInt).toNat).modRunner (dieOf s.cur) fun r =>
        { r with fills := r.fills ++ [⟨s.cur, i, (s.core s.cur).src a &&& ~~~0x7FF, s.coreTag s.cur, false, none⟩] }) := by
  show execProbe d a imm s = _
  unfold execProbe
  rw [← slotBase_eq]
  refine stemRun_sends (outsideCores_modRunner _ _) h ((if_neg (by rw [pwindowEn, hen]; decide)).trans ?_) (legal_lt hm)
    (by rw [Core.setX_stem_status]; exact hs)
  rw [probeHit_none hi, hv]
  exact if_pos hm
end

/-! ### PWAIT, PIN and UNPIN (R124) -/

section
variable {s : State} {a : Src} {f : Core → Fin 256 → Res} (h : s.regsFree (srcRegs a) [])
include h

theorem slotRun_outside (hv : ((s.core s.cur).src a).toNat < slotBase (s.core s.cur) 0 ∨
    slotBase (s.core s.cur) 0 + 0x80000 ≤ ((s.core s.cur).src a).toNat) :
    slotRun a s f = traps s .scratchRange ((s.core s.cur).src a) := by
  rw [← slotBase_eq, Core.slotBase, Nat.mul_zero, Nat.add_zero] at hv
  have hout : (decide (scratchSize ≤ ((s.core s.cur).src a).toNat) ||
      decide (((s.core s.cur).src a).toNat < pwindowBase (s.core s.cur).stem.pwindow) ||
      decide (pwindowBase (s.core s.cur).stem.pwindow + 0x80000 ≤ ((s.core s.cur).src a).toNat)) = true := by
    rw [Bool.or_eq_true, Bool.or_eq_true, decide_eq_true_eq, decide_eq_true_eq, decide_eq_true_eq]
    exact hv.elim (fun h => .inl (.inr h)) .inr
  exact stemRun_trap h (if_pos hout)

/-- An address inside a slot names that slot. -/
theorem slotRun_inside {i : Fin 256} (hr : ((s.core s.cur).src a).toNat < 2 ^ 21)
    (hlo : slotBase (s.core s.cur) i.val ≤ ((s.core s.cur).src a).toNat)
    (hhi : ((s.core s.cur).src a).toNat < slotBase (s.core s.cur) i.val + 2048) :
    slotRun a s f = stemRun (srcRegs a) [] s fun c => f c i := by
  rw [← slotBase_eq, Core.slotBase] at hlo hhi
  have hi := i.isLt
  have hin : ¬(decide (scratchSize ≤ ((s.core s.cur).src a).toNat) ||
      decide (((s.core s.cur).src a).toNat < pwindowBase (s.core s.cur).stem.pwindow) ||
      decide (pwindowBase (s.core s.cur).stem.pwindow + 0x80000 ≤ ((s.core s.cur).src a).toNat)) = true := by
    rw [Bool.or_eq_true, Bool.or_eq_true, decide_eq_true_eq, decide_eq_true_eq, decide_eq_true_eq]
    rintro ((hx | hx) | hx)
    · exact absurd hx (Nat.not_le.2 hr)
    · omega
    · omega
  have hidx : (⟨(((s.core s.cur).src a).toNat - pwindowBase (s.core s.cur).stem.pwindow) / 2048 % 256, by omega⟩ : Fin 256)
      = i :=
    Fin.ext (by
      show (((s.core s.cur).src a).toNat - pwindowBase (s.core s.cur).stem.pwindow) / 2048 % 256 = i.val
      omega)
  unfold slotRun
  rw [stemRun_free h, stemRun_free h]
  dsimp only
  rw [if_neg hin, hidx]
end

section
variable (s : State) (a : Src)
theorem exec_pwait : exec (.pwait a) s = slotRun a s fun c k =>
    if (c.probes.get k).state = .valid then .done s (c.after (1 + litWords [a])) else .wait s := rfl
theorem exec_pin : exec (.pin a) s = slotRun a s fun c k =>
    .done (s.setCore s.cur (c.setProbe k { c.probes.get k with pin := true })) (c.after (1 + litWords [a])) := rfl
theorem exec_unpin : exec (.unpin a) s = slotRun a s fun c k =>
    .done (s.setCore s.cur (c.setProbe k { c.probes.get k with pin := false })) (c.after (1 + litWords [a])) := rfl
theorem exec_cinvAll : exec .cinvAll s = stemRun [] [] s fun c =>
    if c.anyFilling then .wait s else .done (s.setCore s.cur c.clearProbes) (c.after 1) := rfl
theorem exec_shinv (i : Fin 4) : exec (.shinv i) s = stemRun [] [] s fun c =>
    .done (s.setCore s.cur { c with slots := c.slots.set i.val { c.slots.get i with valid := false } i.isLt })
      (c.after 1) := rfl
end

/-! ### CINV (R125) -/

section
variable {s : State} {a : Src} (h : s.regsFree (srcRegs a) [])
include h

theorem cinv_absent (hi : ∀ i, ¬holds (s.core s.cur) ((s.core s.cur).src a) i) (hp : s.plain (after s [a])) :
    exec (.cinv a) s = goesTo s (after s [a]) := by
  show execCinv a s = _
  unfold execCinv
  refine stemRun_goesTo h ?_ hp.1 hp.2
  rw [probeHit_none hi]
  rfl

theorem cinv_filling {i : Fin 256} (hi : holdsFirst (s.core s.cur) ((s.core s.cur).src a) i)
    (hv : ((s.core s.cur).probes.get i).state = .filling) : exec (.cinv a) s = waits s := by
  show execCinv a s = _
  unfold execCinv
  refine stemRun_wait h ?_
  rw [probeHit_some hi]
  exact if_pos hv

theorem cinv_valid {i : Fin 256} (hi : holdsFirst (s.core s.cur) ((s.core s.cur).src a) i)
    (hv : ((s.core s.cur).probes.get i).state = .valid) (hp : s.plain (after s [a])) : exec (.cinv a) s =
      leaves s { s.core s.cur with
        probes := (s.core s.cur).probes.set i.val
          { (s.core s.cur).probes.get i with state := .invalid, pin := false } i.isLt } [a] := by
  show execCinv a s = _
  unfold execCinv
  refine stemRun_core h ?_ hp.1 hp.2
  rw [probeHit_some hi]
  exact if_neg (by rw [hv]; decide)
end

theorem stemProbeCache : StemProbeCache := by
  intro s a hp h k v next base
  refine ⟨fun d imm hd => ⟨probe_disabled hd, fun hen hm => ⟨fun i hi hv => probe_valid hd hen hi hv hp,
      fun i hi hv => probe_filling hd hen hi hv hp.2 hm,
      fun hi => ⟨fun i hv => ⟨_, probe_allocates hd hen hi hv hp.2 hm, rfl⟩,
      probe_full hd hen hi⟩⟩⟩, fun hv => ⟨(exec_pwait ..).trans (slotRun_outside h hv),
      (exec_pin ..).trans (slotRun_outside h hv), (exec_unpin ..).trans (slotRun_outside h hv)⟩,
    fun i hr hlo hhi => ⟨?_, ?_, ?_⟩, fun hi => cinv_absent h hi hp,
    fun i hi => ⟨cinv_filling h hi, fun hv => cinv_valid h hi hv hp⟩,
    fun hp0 => ⟨fun hf => ?_, fun hf => ?_⟩⟩
  · rw [exec_pwait, slotRun_inside h hr hlo hhi]
    split
    case isTrue hv => exact stemRun_goesTo h (if_pos hv) hp.1 hp.2
    case isFalse hv => exact stemRun_wait h (if_neg hv)
  · rw [exec_pin, slotRun_inside h hr hlo hhi]
    exact stemRun_core h rfl hp.1 hp.2
  · rw [exec_unpin, slotRun_inside h hr hlo hhi]
    exact stemRun_core h rfl hp.1 hp.2
  · exact (exec_cinvAll s).trans (stemRun_wait (h.mono (by simp) (by simp)) (if_pos hf))
  · exact (exec_cinvAll s).trans (stemRun_core (h.mono (by simp) (by simp)) (if_neg (Bool.eq_false_iff.1 hf)) hp0.1 hp0.2)

/-! ### Shape slots (R126) -/

theorem exec_shld (s : State) (i : Fin 4) (a : Src) : exec (.shld i a) s = stemRun (srcRegs a) [] s fun c =>
    withAddr (c.src a) 128 .misaligned fun x =>
      if !c.stem.stq.isEmpty then .wait s
      else if c.hardAt x 128 then .ecc x 128
      else if (shapeRec (BitVec.ofNat 1024 (c.read x 128))).isSome then
        .done (s.setCore s.cur { c.noteSoft x 128 with
          slots := (c.noteSoft x 128).slots.set i.val ⟨BitVec.ofNat 1024 (c.read x 128), x, true⟩ i.isLt })
          (c.after (1 + litWords [a]))
      else .trap .raggedTable 0 := rfl

theorem stemShapeSlots : StemShapeSlots := by
  intro s i a k v rec_
  have hexec := exec_shld s i a
  have hempty (hq : k.stem.stq = []) : ¬(!k.stem.stq.isEmpty) = true := by rw [hq]; decide
  refine ⟨fun h => ⟨fun hr ha hq => hexec.trans (stemRun_wait h ((withAddr_ok hr ha).trans (if_pos ?_))),
    fun hr ha hq hh => ⟨fun hs hp => hexec.trans ?_, fun hs => hexec.trans (stemRun_trap h ((withAddr_ok hr ha).trans
      ((if_neg (hempty hq)).trans ((if_neg (Bool.eq_false_iff.1 hh)).trans (if_neg (Bool.eq_false_iff.1 hs))))))⟩,
    fun hr ha => hexec.trans (stemRun_trap h (withAddr_align hr ha)),
    fun hr => hexec.trans (stemRun_trap h (withAddr_range hr))⟩,
    fun h hp => (exec_shinv ..).trans (stemRun_core h rfl hp.1 hp.2)⟩
  · rw [List.isEmpty_eq_false_iff.2 hq]; rfl
  · have hslots : (k.noteSoft v 128).slots = k.slots := by
      obtain ⟨fix, count, h⟩ := noteSoft_eq k v 128
      rw [h]
    rw [← hslots]
    refine stemRun_core h ((withAddr_ok hr ha).trans ((if_neg (hempty hq)).trans
      ((if_neg (Bool.eq_false_iff.1 hh)).trans (if_pos hs)))) hp.1 ?_
    show statusSstep (k.noteSoft v 128).stem.status = false
    rw [noteSoft_stem]
    exact hp.2

end Sys2Proof.Machine

namespace Sys2Proof
open Machine Claims

/-- Settles O14: each instruction by what the slot that it names, or the first that holds its block, stands at. -/
theorem stemSlots : Obligations.StemSlots := by
  unfold Obligations.StemSlots
  exact ⟨stemProbeCache, stemShapeSlots⟩

end Sys2Proof
end

section
/-! PROOFS. TRAP and ERET, LAUNCH, and the end of a grain (R127-R129, R131). -/

namespace Sys2Proof.Machine
open Claims

/-! ### TRAP, ERET and the privileged forms (R129, R131) -/

theorem exec_trap (s : State) (imm : BitVec 16) : exec (.trap imm) s =
    stemRun [] [] s fun _ => .trap .userTrap (imm.setWidth 64) := rfl

theorem exec_eret (s : State) : exec .eret s = stemRun [] [] s fun c =>
    if !statusSup c.stem.status then .trap .privViolation c.firstWord
    else if decide (0xFFFC < c.stem.trappc.toNat) || c.stem.trappc.toNat % 4 != 0 then .trap .imemRange c.stem.trappc
    else .done (s.setCore s.cur c.eretState) c.stem.trappc.toNat := rfl

theorem exec_halt (s : State) : exec .halt s = stemRun [] [] s fun c =>
    if !statusSup c.stem.status then .trap .privViolation c.firstWord
    else if c.stem.stq.isEmpty && (c.vec.taken || c.vecIdle) && (c.mat.taken || c.matIdle) then
      .stop (s.endGrain s.cur fun n => { n with halted := true })
    else .wait s := rfl

theorem exec_grainend (s : State) : exec .grainend s = stemRun [] [] s fun c =>
    if c.mat.pwait.isSome || c.mat.psig.isSome then .trap .mcmdInvalid 0
    else if c.stem.stq.isEmpty && c.enginesIdle && c.stem.ratoms.isEmpty && c.posts.isEmpty then .stop (s.endGrain s.cur id)
    else .wait s := rfl

/-- A TRAPPC that is no jump target (R96, R129). -/
theorem noTarget_iff (t : Word) :
    (decide (0xFFFC < t.toNat) || t.toNat % 4 != 0) = true ↔ 0xFFFC < t.toNat ∨ t.toNat % 4 ≠ 0 := by
  rw [Bool.or_eq_true, decide_eq_true_eq, bne_iff_ne]

theorem eretState_status (k : Core) : k.eretState.stem.status =
    (k.stem.status &&& ~~~3) ||| (if k.stem.status.getLsbD 1 then 3 else 0) := by
  refine (statusMode_eq ..).trans ?_
  rw [BitVec.or_assoc]
  congr 1
  show (if k.stem.status.getLsbD 1 then (1 : Word) else 0) ||| (if k.stem.status.getLsbD 1 then 2 else 0) = _
  cases k.stem.status.getLsbD 1 <;> rfl

theorem eretState_sstep (k : Core) : statusSstep k.eretState.stem.status = statusSstep k.stem.status := by
  rw [eretState_status]
  cases k.stem.status.getLsbD 1 <;> simp [statusSstep]

theorem eretState_taken (k : Core) : k.eretState.vec.taken = false ∧ k.eretState.mat.taken = false := by
  constructor
  · show (if k.vec.taken then { k.vec with taken := false } else k.vec).taken = false
    cases h : k.vec.taken
    · exact h
    · rfl
  · show (if k.mat.taken then { k.mat with taken := false } else k.mat).taken = false
    cases h : k.mat.taken
    · exact h
    · rfl

end Sys2Proof.Machine

namespace Sys2Proof
open Machine Claims

/-- Settles O16: the checks in their order, then the saved mode and the engines free again. -/
theorem stemTrapReturn : Obligations.StemTrapReturn := by
  unfold Obligations.StemTrapReturn
  intro s h k
  have huser (hs : supervisor s = false) : (!statusSup k.stem.status) = true := by
    rw [show statusSup k.stem.status = false from hs]; rfl
  have hsup (hs : supervisor s = true) : ¬(!statusSup k.stem.status) = true := by
    rw [show statusSup k.stem.status = true from hs]; decide
  refine ⟨fun imm => (exec_trap s imm).trans (stemRun_trap h (by rw [BitVec.ofNat_toNat])), fun hs =>
    ⟨(exec_eret s).trans (stemRun_trap h (if_pos (huser hs))), (exec_halt s).trans (stemRun_trap h (if_pos (huser hs)))⟩,
    fun hs ht => (exec_eret s).trans (stemRun_trap h ((if_neg (hsup hs)).trans (if_pos ((noTarget_iff _).2 ht)))),
    fun hs hle ha hstep => ?_⟩
  have htarget : ¬(decide (0xFFFC < k.stem.trappc.toNat) || k.stem.trappc.toNat % 4 != 0) = true := by
    rw [noTarget_iff]
    omega
  have hcore (npc : Nat) : (s.stemDone k.eretState npc).core s.cur = k.eretState.goto npc := State.setCore_core ..
  refine ⟨_, (exec_eret s).trans (stemRun_core h ((if_neg (hsup hs)).trans (if_neg htarget))
    (Nat.lt_of_le_of_lt hle (by decide))
    ((eretState_sstep k).trans hstep)), ?_⟩
  rw [hcore]
  exact ⟨eretState_status k, rfl, (eretState_taken k).1, (eretState_taken k).2, rfl, rfl, rfl, rfl⟩

end Sys2Proof

namespace Sys2Proof.Machine
open Claims

/-! ### The end of a grain (R128) -/

theorem endGrain_idle {s : State} {c : CoreId} {f : Nest → Nest} (h : (s.core c).grain ≠ none) :
    ((s.endGrain c f).core c).grain = none ∧ ((s.endGrain c f).core c).phase = .idle := by
  obtain ⟨g, hg⟩ := Option.ne_none_iff_exists'.1 h
  have hend : s.endGrain c f = ((s.cancelWaita c).modCore c fun k => { k with grain := none, phase := .idle }).modNest g.nest
      fun n => (f n).settle := by
    unfold State.endGrain
    rw [hg]
  have hcore : (s.endGrain c f).core c = { (s.cancelWaita c).core c with grain := none, phase := .idle } := by
    rw [hend, State.modNest, State.modPkg_core, State.modCore_core]
  rw [hcore]
  exact ⟨rfl, rfl⟩

/-- What GRAINEND waits for. -/
theorem grainDone_iff (k : Core) :
    (k.stem.stq.isEmpty && k.enginesIdle && k.stem.ratoms.isEmpty && k.posts.isEmpty) = true ↔
      k.stem.stq = [] ∧ k.enginesIdle = true ∧ k.stem.ratoms = [] ∧ k.posts = [] := by
  simp only [Bool.and_eq_true, List.isEmpty_iff, and_assoc]

section
variable {s : State} (h : s.regsFree [] [])
include h

theorem grainend_ends (hw : (s.core s.cur).mat.pwait = none) (hs : (s.core s.cur).mat.psig = none)
    (hd : (s.core s.cur).stem.stq = [] ∧ (s.core s.cur).enginesIdle = true ∧ (s.core s.cur).stem.ratoms = [] ∧
      (s.core s.cur).posts = []) : exec .grainend s = .next (s.endGrain s.cur id) :=
  (exec_grainend s).trans (stemRun_stop h ((if_neg (by rw [hw, hs]; decide)).trans (if_pos ((grainDone_iff _).2 hd))))

theorem grainend_waits (hw : (s.core s.cur).mat.pwait = none) (hs : (s.core s.cur).mat.psig = none)
    (hd : (s.core s.cur).stem.stq ≠ [] ∨ (s.core s.cur).enginesIdle = false ∨ (s.core s.cur).stem.ratoms ≠ [] ∨
      (s.core s.cur).posts ≠ []) : exec .grainend s = waits s := by
  refine (exec_grainend s).trans (stemRun_wait h ((if_neg (by rw [hw, hs]; decide)).trans (if_neg ?_)))
  rw [grainDone_iff]
  rintro ⟨hq, he, hr, hp⟩
  rcases hd with hd | hd | hd | hd
  · exact hd hq
  · exact absurd he (by rw [hd]; decide)
  · exact hd hr
  · exact hd hp

theorem halt_ends (hsup : supervisor s = true) (hq : (s.core s.cur).stem.stq = []) (hv : (s.core s.cur).vecIdle = true)
    (hm : (s.core s.cur).matIdle = true) :
    exec .halt s = .next (s.endGrain s.cur fun n => { n with halted := true }) := by
  refine (exec_halt s).trans (stemRun_stop h ((if_neg ?_).trans (if_pos ?_)))
  · rw [show statusSup (s.core s.cur).stem.status = true from hsup]; decide
  · rw [hq, hv, hm, Bool.or_true, Bool.or_true]; rfl
end

/-! ### LAUNCH (R127, R303, R310, R348) -/

/-- The priority that a launched record takes: lowered to the cap of a user's (R303). -/
def launchPrio (s : State) (b : BitVec 1024) : BitVec 4 :=
  if !supervisor s && statusPrio (s.core s.cur).stem.status < nestPrio b then statusPrio (s.core s.cur).stem.status
  else nestPrio b

/-- The record that LAUNCH adds to the pool. -/
def launched (s : State) (g : Grain) (b : BitVec 1024) (id : Nat) : Nest :=
  Nest.fresh id b (launchPrio s b) (s.core s.cur).stem.ctxid g.vf (supervisor s) true (some (dieOf s.cur)) none g.wdog g.saveva

/-- The record that LAUNCH adds to the spill queue: its bytes in main memory, its index and its priority. -/
def State.spill (s : State) (b : BitVec 1024) (g : Grain) (sup : Bool) (prio : BitVec 4) : State :=
  (s.writeMem (s.pkg.spillAt (dieOf s.cur) (s.pkg.spillWr (dieOf s.cur))) (spillBytes b g sup)).modPkg fun p =>
    { setSpill p (dieOf s.cur) (p.spillWr (dieOf s.cur) + 1) (p.spillRd (dieOf s.cur)) with
      spillPrio := p.spillPrio.set (dieOf s.cur).val (p.spillPrio.get (dieOf s.cur) ++ [prio]) (dieOf s.cur).isLt }

section
variable {s : State} {a : Src} {g : Grain}

/-- LAUNCH as it reads its record: what its checks and the pool's room decide. -/
theorem launch_reads (h : s.regsFree (srcRegs a) []) (hg : (s.core s.cur).grain = some g)
    (hr : ((s.core s.cur).src a).toNat < 2 ^ 21) (ha : ((s.core s.cur).src a).toNat % 128 = 0)
    (hq : (s.core s.cur).stem.stq = []) (hh : (s.core s.cur).hardAt ((s.core s.cur).src a).toNat 128 = false)
    (hl : (s.core s.cur).posts.length < 32) : exec (.launch a) s = stemRun (srcRegs a) [] s fun c =>
      let b := BitVec.ofNat 1024 (stands s (c.src a).toNat 128)
      let u := s.setCore s.cur (c.noteSoft (c.src a).toNat 128)
      if !s.pkg.nestOk b || !s.pkg.rangeInVf g.vf b || (s.ctxEntry c.stem.ctxid).isNone then .trap .launchInvalid 0
      else if s.pkg.poolRoom (dieOf s.cur) g.child then .done (u.addNest (launched s g b)) (c.after (1 + litWords [a]))
      else if s.pkg.spillFull (dieOf s.cur) || s.memWriteBad (s.pkg.spillAt (dieOf s.cur) (s.pkg.spillWr (dieOf s.cur))) 256 then
        .trap .childPool 0
      else .done (u.spill b g (supervisor s) (launchPrio s b)) (c.after (1 + litWords [a])) := by
  show execLaunch a s = _
  unfold execLaunch
  rw [stemRun_free h, stemRun_free h]
  dsimp only
  rw [withAddr_ok hr ha, if_neg (queueTakes hq hl), if_neg (Bool.eq_false_iff.1 hh), hg]
  rfl
end

section
variable (s : State) (b : BitVec 1024) (g : Grain) (sup : Bool) (prio : BitVec 4)

theorem writeMem_mem (pa : Nat) (bs : List Byte) : (s.writeMem pa bs).mem = memPut s.mem pa bs := (sameBut_fireAll ..).mem
theorem writeMem_cur (pa : Nat) (bs : List Byte) : (s.writeMem pa bs).cur = s.cur := (sameBut_fireAll ..).cur
theorem writeMem_pkg (pa : Nat) (bs : List Byte) : ∃ l, (s.writeMem pa bs).pkg = { s.pkg with poison := l } :=
  ⟨_, (sameBut_fireAll ..).pkg⟩
theorem writeMem_core (pa : Nat) (bs : List Byte) (c : CoreId) :
    ∃ w l, (s.writeMem pa bs).core c = (s.core c).withWaita w l := (sameBut_fireAll ..).core c

theorem spillBytes_length : (spillBytes b g sup).length = 256 := by
  simp only [spillBytes, List.length_append, leBytes_length, List.length_replicate]

theorem spill_mem : (s.spill b g sup prio).mem =
    memPut s.mem (s.pkg.spillAt (dieOf s.cur) (s.pkg.spillWr (dieOf s.cur))) (spillBytes b g sup) :=
  (State.modPkg_mem ..).trans (writeMem_mem ..)
theorem spill_cur : (s.spill b g sup prio).cur = s.cur :=
  (State.modPkg_cur ..).trans (writeMem_cur ..)
theorem spill_core (c : CoreId) : ∃ w l, (s.spill b g sup prio).core c = (s.core c).withWaita w l := by
  rw [State.spill, State.modPkg_core]
  exact writeMem_core ..

/-- The indices of a spill queue after one of them is set. -/
theorem setSpill_idx (p : Package) (d : DieId) (wr rd : W32) :
    (setSpill p d wr rd).spillWr d = wr ∧ (setSpill p d wr rd).spillRd d = rd := by
  have hidx : (setSpill p d wr rd).childidx.get d = wr ++ rd := vget_set ..
  simp only [Package.spillWr, Package.spillRd, hidx]
  exact ⟨(extract_append_high _ rd (by omega)).trans (extract_all _),
    (extract_append_low _ rd (by omega)).trans (extract_all _)⟩

theorem spill_pkg : (s.spill b g sup prio).pkg.spillWr (dieOf s.cur) = s.pkg.spillWr (dieOf s.cur) + 1 ∧
    (s.spill b g sup prio).pkg.spillRd (dieOf s.cur) = s.pkg.spillRd (dieOf s.cur) ∧
    (s.spill b g sup prio).pkg.spillPrio.get (dieOf s.cur) = s.pkg.spillPrio.get (dieOf s.cur) ++ [prio] := by
  obtain ⟨l, hl⟩ := writeMem_pkg s (s.pkg.spillAt (dieOf s.cur) (s.pkg.spillWr (dieOf s.cur))) (spillBytes b g sup)
  have hpkg : (s.spill b g sup prio).pkg = { setSpill { s.pkg with poison := l } (dieOf s.cur)
      (s.pkg.spillWr (dieOf s.cur) + 1) (s.pkg.spillRd (dieOf s.cur)) with
    spillPrio := s.pkg.spillPrio.set (dieOf s.cur).val (s.pkg.spillPrio.get (dieOf s.cur) ++ [prio]) (dieOf s.cur).isLt } := by
    show Package.mk .. = _
    rw [hl]
    rfl
  rw [hpkg]
  exact ⟨(setSpill_idx ..).1, (setSpill_idx ..).2, vget_set ..⟩
end

end Sys2Proof.Machine

namespace Sys2Proof
open Machine Claims

/-- Settles O17: LAUNCH by what its checks and the pool's room decide; GRAINEND and HALT by what they wait for. -/
theorem stemLaunchEnd : Obligations.StemLaunchEnd := by
  unfold Obligations.StemLaunchEnd
  intro s k
  refine ⟨fun a g h hp hg => ?_, fun h =>
    ⟨fun hw hs hq he hra hpo => ⟨_, grainend_ends h hw hs ⟨hq, he, hra, hpo⟩, rfl, endGrain_idle⟩,
      grainend_waits h, fun hsup hq hv hm => ⟨_, halt_ends h hsup hq hv hm, rfl, endGrain_idle⟩⟩⟩
  intro v b prio die place hr ha hq hh hl
  have hexec := launch_reads h hg hr ha hq hh hl
  have hstatus : statusSstep (k.noteSoft v 128).stem.status = false := by rw [noteSoft_stem]; exact hp.2
  refine ⟨fun hbad => hexec.trans (stemRun_trap h (if_pos ?_)), fun hok hrange hctx => ?_⟩
  · rw [Bool.or_eq_true, Bool.or_eq_true, Bool.not_eq_true', Bool.not_eq_true', Option.isNone_iff_eq_none]
    exact or_assoc.2 hbad
  have hchecks : ¬(!s.pkg.nestOk b || !s.pkg.rangeInVf g.vf b || (s.ctxEntry k.stem.ctxid).isNone) = true := by
    rw [Bool.or_eq_true, Bool.or_eq_true, Bool.not_eq_true', Bool.not_eq_true', Option.isNone_iff_eq_none, hok, hrange]
    simpa using hctx
  refine ⟨fun hroom => hexec.trans (stemRun_sends (outsideCores_addNest _) (k := k.noteSoft v 128) h
      ((if_neg hchecks).trans (if_pos hroom)) hp.1 hstatus), fun hroom hfull => hexec.trans (stemRun_trap h
      ((if_neg hchecks).trans ((if_neg (Bool.eq_false_iff.1 hroom)).trans (if_pos ?_)))), fun hroom hfull hbad => ?_⟩
  · rw [hfull]; rfl
  let u := s.setCore s.cur (k.noteSoft v 128)
  let t := u.spill b g (supervisor s) prio
  obtain ⟨w, l, hcore⟩ := spill_core u b g (supervisor s) prio s.cur
  have hcur : t.cur = s.cur := spill_cur ..
  have hown : t.core s.cur = (k.noteSoft v 128).withWaita w l :=
    hcore.trans (congrArg (Core.withWaita · w l) (State.setCore_core ..))
  have hfits : ¬(s.pkg.spillFull die || s.memWriteBad place 256) = true := by rw [hfull, hbad]; decide
  obtain ⟨hwr, hrd, hprio⟩ := spill_pkg u b g (supervisor s) prio
  have hlen := spillBytes_length b g (supervisor s)
  have hmem : t.mem = memPut s.mem place (spillBytes b g (supervisor s)) := spill_mem u b g (supervisor s) prio
  refine ⟨_, hexec.trans (stemRun_done (t := t) h ((if_neg hchecks).trans ((if_neg (Bool.eq_false_iff.1 hroom)).trans
    (if_neg hfits))) hp.1 (by rw [hcur, hown]; exact hstatus)), hwr, hrd, hprio, fun i hi => ?_, fun i hi => ?_, ?_⟩
  · have hi' : i < (spillBytes b g (supervisor s)).length := by rw [hlen]; exact hi
    rw [State.modCore_mem, hmem, memGet_memPut_at _ _ _ i hi', List.getD_eq_getElem _ _ hi']
  · rw [State.modCore_mem, hmem, memGet_memPut_out _ _ _ _ (by rw [hlen]; exact hi)]
  · rw [hcur, State.modCore_core, hown, goto_pc, goto_pc]
    show BitVec.ofNat 16 (backEdge (k.noteSoft v 128).stem.lc (k.noteSoft v 128).stem.loops _).2.2 = _
    rw [noteSoft_stem]
    rfl

end Sys2Proof
end

section
/-! PROOFS. Branches, calls, returns and loops of the sequencers, and the back-edge test there (R98, R231, R232). -/

namespace Sys2Proof.Machine
open Claims

/-! ### Targets and branches (R231) -/

theorem percoTarget_eq (q : Seqr) (n : Int) : percoTarget q n = q.pc + BitVec.ofInt 64 (4 * n) := by
  rw [percoTarget, branchTarget, BitVec.ofInt_add, BitVec.ofInt_natCast, BitVec.ofNat_toNat, BitVec.setWidth_eq]

theorem percoBranches_cond : ∀ p ∈ percoBranches, ∃ cond,
    (∀ x y ofs s, exec (p.1 x y ofs) s = percoBranch cond x y ofs s) ∧
    ∀ v w, cond v w = true ↔ p.2 v w := by
  simp only [percoBranches, List.forall_mem_cons]
  exact ⟨⟨condEq, fun _ _ _ _ => rfl, condEq_iff⟩, ⟨condNe, fun _ _ _ _ => rfl, condNe_iff⟩,
    ⟨condLt, fun _ _ _ _ => rfl, condLt_iff⟩, ⟨condGe, fun _ _ _ _ => rfl, condGe_iff⟩, nofun⟩

section
variable {s : State} {f : Seqr → PRes} {npc : Word} {cause : Cause} {acc : Option Access} {va : Word}

/-- A user instruction of a program that goes on, jumps or faults. -/
theorem percoRun_goes (hf : f s.curSeqr = .done s npc) : percoRun false s f = pDone s id npc := percoRun_done nofun hf
theorem percoRun_does {g : Seqr → Seqr} (hf : f s.curSeqr = .done (s.modCurSeq g) npc) : percoRun false s f = pDone s g npc :=
  percoRun_pDone nofun hf
theorem percoRun_jumps (hf : f s.curSeqr = .jump s npc) : percoRun false s f = pJumps s npc := percoRun_jump nofun hf
theorem percoRun_faults (hf : f s.curSeqr = .fault cause acc va) : percoRun false s f = pFaults s cause acc va :=
  percoRun_fault nofun hf

variable {x y : Src} {ofs : BitVec 16} {cond : Word → Word → Bool}

theorem percoBranch_taken (hc : cond (s.curSeqr.src x) (s.curSeqr.src y) = true) :
    percoBranch cond x y ofs s = pJumps s (s.curSeqr.pc + BitVec.ofInt 64 (4 * ofs.toInt)) :=
  percoRun_jumps ((if_pos hc).trans (congrArg (PRes.jump s) (percoTarget_eq ..)))

theorem percoBranch_falls (hc : cond (s.curSeqr.src x) (s.curSeqr.src y) = false) :
    percoBranch cond x y ofs s = pDone s id (pAfter s [x, y]) := percoRun_goes (if_neg (Bool.eq_false_iff.1 hc))
end

/-! ### Calls, returns and LOOP (R231, R232) -/

section
variable (s : State)
theorem exec_percoJ (ofs : BitVec 26) : exec (.percoJ ofs) s =
    percoRun false s fun q => .jump s (percoTarget q ofs.toInt) := rfl
theorem exec_percoCall (ofs : BitVec 26) : exec (.percoCall ofs) s = percoRun false s fun q =>
    if 8 ≤ q.rets.length then .fault .callDepth none 0
    else .done (s.modCurSeq fun q => { q with rets := q.after 1 :: q.rets }) (percoTarget q ofs.toInt) := rfl
theorem exec_percoNop : exec .percoNop s = percoRun false s fun q => .done s (q.after 1) := rfl

theorem exec_percoLoop (a : Src) (imm : BitVec 16) : exec (.percoLoop a imm) s = percoRun false s fun q =>
    if branchTarget q.pc.toNat imm.toInt ≤ (q.pc.toNat + 4 * (1 + litWords [a]) : Nat) then .fault .reservedField none 0
    else if (q.src a).setWidth 32 = (0 : W32) then .done s (percoTarget q imm.toInt)
    else if 2 ≤ q.loops.length then .fault .loopDepth none 0
    else .done (s.modCurSeq fun r => { r with
        lc := r.lc.setIfInBounds r.loops.length ((q.src a).setWidth 32)
        loops := ⟨(q.pc.toNat + 4 * (1 + litWords [a])) % 2 ^ 64,
          (branchTarget q.pc.toNat imm.toInt).toNat % 2 ^ 64⟩ :: r.loops })
      (BitVec.ofNat 64 (q.pc.toNat + 4 * (1 + litWords [a]))) := rfl

theorem percoRet_pops {a : Word} {rest : List Word} (h : s.curSeqr.rets = a :: rest) :
    exec .percoRet s = pDone s (fun q => { q with rets := rest }) a := by
  show execPercoRet s = _
  unfold execPercoRet
  refine percoRun_does ?_
  rw [h]

theorem percoRet_empty (h : s.curSeqr.rets = []) : exec .percoRet s = pFaults s .callDepth none 0 := by
  show execPercoRet s = _
  unfold execPercoRet
  refine percoRun_faults ?_
  rw [h]

/-- The address after an instruction, as a number. -/
theorem pAfter_ofNat (l : List Src) : BitVec.ofNat 64 (s.curSeqr.pc.toNat + 4 * (1 + litWords l)) = pAfter s l := by
  rw [BitVec.ofNat_add, BitVec.ofNat_toNat, BitVec.setWidth_eq]
  rfl
end

theorem percoFlow : PercoFlow := by
  intro s q at4
  refine ⟨fun x y ofs p hp => ?_, fun ofs => ⟨?_, fun hr => ?_, fun hr => ?_⟩, fun a rest => percoRet_pops s,
    percoRet_empty s,
    fun a imm => ?_, (exec_percoNop s).trans (percoRun_goes rfl)⟩
  · obtain ⟨cond, hexec, hcond⟩ := percoBranches_cond p hp
    rw [hexec, ← hcond, Bool.not_eq_true]
    exact ⟨percoBranch_taken, percoBranch_falls⟩
  · exact (exec_percoJ s ofs).trans (percoRun_jumps (congrArg (PRes.jump s) (percoTarget_eq ..)))
  · refine (exec_percoCall s ofs).trans ((percoRun_does (if_neg (Nat.not_le.2 hr))).trans ?_)
    rw [percoTarget_eq]
    exact congrArg Host.Outcome.next (State.modSeq_congr rfl)
  · exact (exec_percoCall s ofs).trans (percoRun_faults (if_pos hr))
  · intro n start fin
    have hexec := exec_percoLoop s a imm
    refine ⟨fun hle => hexec.trans (percoRun_faults (if_pos hle)), fun hlt hn => ?_, fun hlt hn hl => ?_,
      fun hlt hn hf hl => ?_⟩
    · exact hexec.trans (percoRun_goes ((if_neg (Int.not_le.2 hlt)).trans ((if_pos hn).trans
        (congrArg (PRes.done s) (percoTarget_eq ..)))))
    · exact hexec.trans (percoRun_faults ((if_neg (Int.not_le.2 hlt)).trans ((if_neg hn).trans (if_pos hl.ge))))
    · have hpos : (0 : Int) ≤ fin := by omega
      have hstart : start % 2 ^ 64 = start := Nat.mod_eq_of_lt (by omega)
      have hfin : fin.toNat % 2 ^ 64 = fin.toNat := Nat.mod_eq_of_lt (by omega)
      refine hexec.trans ((percoRun_does ((if_neg (Int.not_le.2 hlt)).trans ((if_neg hn).trans
        (if_neg (Nat.not_le.2 hl))))).trans ?_)
      refine congrArg Host.Outcome.next (State.modSeq_congr ?_)
      show Seqr.advance { q with
        lc := q.lc.setIfInBounds q.loops.length n
        loops := ⟨start % 2 ^ 64, fin.toNat % 2 ^ 64⟩ :: q.loops } false (BitVec.ofNat 64 start) = _
      rw [hstart, hfin, pAfter_ofNat, ← vset_eq_setIfInBounds q.lc ⟨_, hl⟩]

/-! ### The back-edge test (R98, R232) -/

section
variable (q : Seqr) (npc : Word) (jump : Bool)

theorem advance_pc : (q.advance jump npc).pc =
    BitVec.ofNat 64 (backEdge q.lc (if jump then popOutside q.loops npc.toNat else q.loops) npc.toNat).2.2 := rfl
theorem advance_loops : (q.advance jump npc).loops =
    (backEdge q.lc (if jump then popOutside q.loops npc.toNat else q.loops) npc.toNat).1 := rfl
theorem advance_lc : (q.advance jump npc).lc =
    (backEdge q.lc (if jump then popOutside q.loops npc.toNat else q.loops) npc.toNat).2.1 := rfl

/-- How a program goes on depends on what the loops and their counters come to. -/
theorem advance_congr {ls : List Loop} {j : Bool}
    (h : backEdge q.lc (if jump then popOutside q.loops npc.toNat else q.loops) npc.toNat =
      backEdge q.lc (if j then popOutside ls npc.toNat else ls) npc.toNat) :
    q.advance jump npc = ({ q with loops := ls } : Seqr).advance j npc := by
  unfold Seqr.advance
  rw [h]

theorem popOutside_inside {l : Loop} {ls : List Loop} {t : Nat} (h : l.start ≤ t ∧ t ≤ l.fin) :
    popOutside (l :: ls) t = l :: ls := if_pos h
theorem popOutside_outside {l : Loop} {ls : List Loop} {t : Nat} (h : ¬(l.start ≤ t ∧ t ≤ l.fin)) :
    popOutside (l :: ls) t = popOutside ls t := if_neg h
end

theorem percoBackEdge : PercoBackEdge := by
  intro q npc _
  have hofNat : BitVec.ofNat 64 npc.toNat = npc := by rw [BitVec.ofNat_toNat, BitVec.setWidth_eq]
  refine ⟨fun h0 jump => ?_, fun l ls hl h2 => ⟨fun hout => ?_, fun hin => ?_, fun hne => ?_, fun he h1 => ?_,
    fun he h1 => ?_⟩⟩
  · have hpop : (if jump then popOutside q.loops npc.toNat else q.loops) = [] := by
      rw [h0]
      exact ite_self _
    rw [advance_pc, advance_loops, advance_lc, hpop, backEdge_nil]
    exact ⟨hofNat, rfl, rfl⟩
  · exact advance_congr q npc true (j := true) (by rw [hl, popOutside_outside hout]; rfl)
  · exact advance_congr q npc true (j := false) (by rw [hl, popOutside_inside hin]; rfl)
  · have hstay : (if false then popOutside q.loops npc.toNat else q.loops) = l :: ls := hl
    rw [advance_pc, advance_loops, advance_lc, hstay, backEdge_elsewhere _ hne]
    exact ⟨hofNat, rfl, rfl⟩
  · refine advance_congr q npc false (j := false) ?_
    rw [hl]
    exact backEdge_last _ h2 he h1
  · have hstay : (if false then popOutside q.loops npc.toNat else q.loops) = l :: ls := hl
    rw [advance_pc, advance_loops, advance_lc, hstay, backEdge_again _ h2 he h1]
    exact ⟨rfl, rfl, rfl⟩

end Sys2Proof.Machine

namespace Sys2Proof
open Machine Claims

/-- Settles O34: each instruction as it goes on, jumps or faults, and the two steps that a transfer makes on the loops. -/
theorem percoControl : Obligations.PercoControl := by
  unfold Obligations.PercoControl
  exact ⟨percoFlow, percoBackEdge⟩

end Sys2Proof
end

section
/-! PROOFS. What the stem and the vector engine of a core do between instructions (R111, R121, R132, R154, R279,
R289-R291, R323). -/

namespace Sys2Proof.Machine
open Claims

variable {s : State} {c : CoreId}

/-! ### The vector engine: tokens and faults (R154, R279, R290) -/

theorem mayStart_of {k : Core} {tok : Token} (hp : k.phase = .running) (hr : k.vec.run = none) (hc : k.vec.clear = true)
    (he : k.vec.ecc = []) (hs : ∀ q ∈ k.vec.svc, k.vec.tokenCycle tok ≤ q.time) : k.mayStart tok = true := by
  simp only [Core.mayStart, hp, hr, hc, he, Option.isNone_none, List.isEmpty_nil, Bool.and_true, beq_self_eq_true,
    Bool.true_and, List.all_eq_true, decide_eq_true_eq]
  exact hs

/-- The state in which a token has started. -/
def State.tokenStarted (s : State) (c : CoreId) (tok : Token) (rest : List Token) : State :=
  (s.modCore c fun k => k.startToken tok rest ((s.core c).vec.tokenCycle tok)).passTo (dieOf c)
    ((s.core c).vec.tokenCycle tok)

theorem tokenStart_starts {tok : Token} {rest : List Token} (hq : (s.core c).vec.queue = tok :: rest)
    (hm : (s.core c).mayStart tok = true) : exec (.tokenStart c) s = .next (s.tokenStarted c tok rest) := by
  show execTokenStart c s = _
  unfold execTokenStart
  rw [hq]
  exact congrArg Host.Outcome.next (if_pos hm)

theorem tokenStarted_core (tok : Token) (rest : List Token) : (s.tokenStarted c tok rest).core c =
    (s.core c).startToken tok rest ((s.core c).vec.tokenCycle tok) := by
  exact State.modCore_core s c fun k => k.startToken tok rest ((s.core c).vec.tokenCycle tok)

theorem startToken_run (k : Core) (tok : Token) (rest : List Token) (t : Nat) :
    (tok.trip = 0 → (k.startToken tok rest t).vec.run = none) ∧
    (tok.trip ≠ 0 → ∃ r, (k.startToken tok rest t).vec.run = some r ∧ r.tok = tok ∧ r.iter = 0 ∧ r.pos = 0 ∧
      r.buf = segWords k.seg tok.ent.toNat) :=
  ⟨fun h => if_pos h, fun h => ⟨_, if_neg h, rfl, rfl, rfl, rfl⟩⟩

theorem eccDue_of {v : Vec} {f : EngFault} (hf : earliestFault v.ecc = some f) (hh : v.held = none) (ht : v.taken = false)
    (hg : ∀ g, v.found = some g → f.time < g.time) : v.eccDue = true := by
  unfold Vec.eccDue
  rw [hf]
  show (v.held.isNone && !v.taken && v.found.all fun g => decide (f.time < g.time)) = true
  rw [hh, ht]
  cases h : v.found with
  | none => rfl
  | some g => exact decide_eq_true (hg g h)

theorem vectorLoadEcc_finds {f : EngFault} (hf : earliestFault (s.core c).vec.ecc = some f)
    (hd : (s.core c).vec.eccDue = true) : exec (.vectorLoadEcc c) s =
      .next (((s.modCore c fun _ => (s.core c).setVec { (s.core c).vec with
        found := some f, ecc := (s.core c).vec.found.toList ++ (s.core c).vec.ecc.erase f }).tellFault c f).passTo
          (dieOf c) f.time) := by
  show execVectorLoadEcc c s = _
  unfold execVectorLoadEcc
  dsimp only
  rw [hf]
  exact congrArg Host.Outcome.next (if_pos hd)

/-- The core after its engine has reported a fault in cycle t. -/
def Core.reported (k : Core) (f : EngFault) (t : Nat) : Core :=
  { k with
    stem := { k.stem with vfault := f.loc }
    vec := { k.vec.retire t with
      found := none, held := some { f with time := t }, run := none, next := max (k.vec.retire t).next t } }

theorem vectorFaultReport_reports {f : EngFault} (hf : (s.core c).vec.found = some f) (hs : (s.core c).vec.svc = [])
    (hd : (s.core c).vec.eccDue = false) : exec (.vectorFaultReport c) s =
      .next ((s.setCore c ((s.core c).reported f (max (max f.time (s.core c).vec.lastWrite) (s.cycles.get (dieOf c))))).passTo
        (dieOf c) (max (max f.time (s.core c).vec.lastWrite) (s.cycles.get (dieOf c)))) := by
  show execVectorFaultReport c s = _
  unfold execVectorFaultReport
  dsimp only
  rw [hf]
  exact congrArg Host.Outcome.next (if_neg (by rw [hs, hd]; decide))

/-! ### The stem: engine faults and the watchdog (R132, R291) -/

theorem engineFaultTrap_traps {e : Engine} {f : EngFault} (hf : (s.core c).nextFault = some (e, f))
    (hm : (s.core c).mayTrap = true) :
    exec (.engineFaultTrap c) s = .next ((s.cancelWaita c).modCore c fun k => k.engineTrap e f) := by
  show execEngineFaultTrap c s = _
  unfold execEngineFaultTrap
  rw [hf]
  exact congrArg Host.Outcome.next (if_pos hm)

/-- Taking a fault touches its engine alone. -/
theorem takeFault_stem (k : Core) (e : Engine) : (k.takeFault e).stem = k.stem := by
  cases e <;> rfl

theorem engineTrap_stem (k : Core) (e : Engine) (f : EngFault) :
    (k.engineTrap e f).stem.trapcause = trapCauseWord e f.cause ∧ (k.engineTrap e f).stem.trapval = f.val ∧
    (k.engineTrap e f).stem.trappc = k.stem.pc.setWidth 64 ∧ (k.engineTrap e f).stem.pc = k.stem.trapvec.setWidth 16 ∧
    (k.engineTrap e f).stem.status = statusMode k.stem.status true (statusSup k.stem.status) ∧
    (k.engineTrap e f).stem.x = k.stem.x := by
  rw [← takeFault_stem k e]
  exact ⟨rfl, rfl, rfl, rfl, rfl, rfl⟩

theorem watchdog_traps {t : Word} {g : Grain} (ht : (s.core c).stem.waitSince = some t) (hg : (s.core c).grain = some g)
    (hp : (s.core c).phase = .running) (hw : statusWdog (s.core c).stem.status = true) (h0 : g.wdog ≠ 0)
    (hlt : 1024 * g.wdog.toNat < s.cycles.get (dieOf c) - t.toNat) :
    exec (.watchdog c) s = .next { ({ s with cur := c } : State).stemTrap .stem .watchdog 0 with cur := s.cur } := by
  show execWatchdog c s = _
  unfold execWatchdog
  dsimp only
  rw [ht, hg]
  refine congrArg Host.Outcome.next (if_pos ?_)
  rw [hp, hw, Bool.and_eq_true, decide_eq_true_eq, Bool.and_eq_true, bne_iff_ne]
  exact ⟨⟨rfl, h0⟩, hlt⟩

/-! ### WAITA (R111) -/

section
variable {q : Waita} (hq : (s.core c).stem.waita = some q)
include hq

theorem waitaReply_replies (hp : q.phase = .replying) :
    exec (.waitaReply c) s = .next (s.setWaita c fun w => { w with phase := .replied }) := by
  show execWaitaReply c s = _
  unfold execWaitaReply
  rw [hq]
  exact congrArg Host.Outcome.next (if_pos hp)

theorem waitaTimeout_fires (hp : q.phase = .atHome) (h0 : q.timeout ≠ 0)
    (ht : q.timeout.toNat ≤ (BitVec.ofNat 64 (s.cycles.get (dieOf c)) - q.sent).toNat)
    (hw : s.dies.toList.any (fun r => r.watches.any (watchOf s c)) = true) :
    exec (.waitaTimeout c) s = .next (s.fireAll (watchOf s c)) := by
  show execWaitaTimeout c s = _
  unfold execWaitaTimeout
  rw [hq]
  refine congrArg Host.Outcome.next ((if_pos ?_).trans (if_pos hw))
  rw [Bool.and_eq_true, Bool.and_eq_true, decide_eq_true_eq, decide_eq_true_eq, decide_eq_true_eq]
  exact ⟨⟨hp, h0⟩, ht⟩

theorem watchInstall_waits (hw : (s.core c).watchWaits q = true) : exec (.watchInstall c) s = .next s := by
  show execWatchInstall c s = _
  unfold execWatchInstall
  rw [hq]
  exact congrArg Host.Outcome.next (if_pos (by rw [hw, Bool.or_true]))

/-- A request that goes on is translated. -/
theorem watchInstall_translates (hp : q.phase = .travelling) (hw : (s.core c).watchWaits q = false) :
    exec (.watchInstall c) s = .next (match s.translate (dieOf c) (s.coreTag c) q.va.toNat .read with
      | .noCtx => (s.internalCheck (dieOf c) q.ctx).setWaita c fun w => { w with phase := .replying, seen := s.free 3 }
      | .bad cause => s.waitaFault c q cause
      | .ok t u =>
        if u.isLocal t then u.watchAt c q t
        else match u.sendFar (dieOf c) t.pkg (.waita c q.sent)
            (farReq 5 (s.coreTag c) t (if q.wide then 8 else 4) 0 q.expected 0) with
          | .sent s' => s'.setWaita c fun w => { w with phase := .atHome, target := some t }
          | .full => u
          | .bad cause => u.waitaFault c q cause) := by
  show execWatchInstall c s = _
  unfold execWatchInstall
  rw [hq]
  exact congrArg Host.Outcome.next (if_neg (by rw [hp, hw]; decide))

end

/-- The bytes of a WAITA's word. -/
def Waita.bytes (q : Waita) : Nat := if q.wide then 8 else 4

section
variable {q : Waita} {t : Target} (hok : s.homeReadBad t q.bytes = none)
include hok

theorem watchAt_answers (h : BitVec.ofNat 64 (leNat (s.homeBytes t q.bytes)) ≠ q.expected ∨
    2048 ≤ (s.runner (s.watchDie t)).watches.length) : s.watchAt c q t =
      s.setWaita c fun w => { w with phase := .replying, seen := BitVec.ofNat 64 (leNat (s.homeBytes t q.bytes)) } := by
  unfold State.watchAt
  dsimp only
  rw [show s.homeReadBad t (if q.wide then 8 else 4) = none from hok]
  refine if_pos ?_
  rw [Bool.or_eq_true, decide_eq_true_eq, decide_eq_true_eq]
  exact h

theorem watchAt_installs (he : BitVec.ofNat 64 (leNat (s.homeBytes t q.bytes)) = q.expected)
    (hl : (s.runner (s.watchDie t)).watches.length < 2048) : s.watchAt c q t =
      ((s.noteRead t q.bytes).modRunner (s.watchDie t) (addWatch ⟨t, q.wide, q.expected, s.pkg.pkgid.setWidth 12, c,
        q.ctx, q.va, 0, 0, 0, 0⟩)).setWaita c fun w => { w with phase := .atHome, target := some t } := by
  unfold State.watchAt
  dsimp only
  rw [show s.homeReadBad t (if q.wide then 8 else 4) = none from hok]
  refine if_neg ?_
  rw [Bool.or_eq_true, decide_eq_true_eq, decide_eq_true_eq]
  rintro (hne | hle)
  · exact hne he
  · exact absurd hle (Nat.not_le.2 hl)
end

/-! ### Remote atomics (R121) -/

section
variable {i : Nat} {r : Ratom} {t : Target} (hr : (s.ratomsOf c)[i]? = some r) (ht : r.target = some t)
  (hp : r.phase = .atHome) (hl : s.isLocal t = true) (hf : ratomFirst (s.ratomsOf c) r = true)
  (hh : s.homeFree t (if r.wide then 8 else 4) = true)
include hr ht hp hl hf hh

theorem ratomAtHome_dropped (hk : s.pkg.killed.contains r.tag.ctx = true) :
    exec (.ratomAtHome c i) s = .next (s.ratomReply c r (s.free 3)) := by
  show execRatomAtHome c i s = _
  unfold execRatomAtHome
  rw [hr]
  dsimp only
  rw [ht]
  exact congrArg Host.Outcome.next ((if_pos (by rw [hp, hl, hf, hh]; rfl)).trans (if_pos hk))

theorem ratomAtHome_performs (hk : s.pkg.killed.contains r.tag.ctx = false) {u : State} {old : Word}
    (ha : s.atomicAt t (if r.wide then 8 else 4) r.op r.b r.c = .ok (u, old)) :
    exec (.ratomAtHome c i) s = .next (u.ratomReply c r old) := by
  show execRatomAtHome c i s = _
  unfold execRatomAtHome
  rw [hr]
  dsimp only
  rw [ht]
  refine congrArg Host.Outcome.next ((if_pos (by rw [hp, hl, hf, hh]; rfl)).trans
    ((if_neg (Bool.eq_false_iff.1 hk)).trans ?_))
  rw [ha]
end

theorem ratomReply_takes {i : Nat} {r : Ratom} (hr : (s.core c).stem.ratoms[i]? = some r) (hp : r.phase = .replied) :
    exec (.ratomReply c i) s = .next (s.modCore c fun k => k.takeRatom r) := by
  show execRatomReply c i s = _
  unfold execRatomReply
  rw [hr]
  exact congrArg Host.Outcome.next (if_pos hp)

theorem takeRatom_ratoms (k : Core) (r : Ratom) :
    (k.takeRatom r).stem.ratoms = k.stem.ratoms.filter fun q => q.id ≠ r.id := Core.setX_stem_ratoms ..

theorem takeRatom_getX (k : Core) (r : Ratom) : (k.takeRatom r).getX r.d =
    if r.d = 0 then 0 else if r.wide then r.old else (r.old.setWidth 32).signExtend 64 := by
  by_cases hd : r.d = 0
  · rw [if_pos hd, hd]; rfl
  rw [if_neg hd, Core.takeRatom, Core.getX_setX _ _ _ hd, sext64]
  cases r.wide
  · exact congrArg (BitVec.signExtend 64) (BitVec.ofNat_toNat ..)
  · show (BitVec.ofNat 64 r.old.toNat).signExtend 64 = r.old
    rw [BitVec.ofNat_toNat, BitVec.setWidth_eq, BitVec.signExtend_eq]

/-! ### The banks (R287, R323) -/

theorem bankSideService_serves {b : Fin 128} {r : HomeReq} (h : headAt b.val [] (s.core c).bankq = some r) :
    exec (.bankSideService c b) s = .next (((s.modCore c fun k => { k with bankq := k.bankq.erase r }).serve r
      ⟨s.pkg.pkgid.setWidth 12, true, c, r.addr⟩).getD s) := by
  show execBankSideService c b s = _
  unfold execBankSideService
  rw [h]

theorem eccWriteback_writes {wd : Nat} (h : wd ∈ (s.core c).eccFix) : exec (.eccWriteback c wd) s =
    .next (s.modCore c fun k => { k with eccFix := k.eccFix.filter (· ≠ wd), eccSoft := k.eccSoft.filter (· ≠ wd) }) :=
  congrArg Host.Outcome.next (if_pos (List.contains_iff_mem.2 h))

end Sys2Proof.Machine

namespace Sys2Proof
open Machine Claims

/-- Settles O41: each event's own condition, and what it then comes to. -/
theorem coreEvents : Obligations.CoreEvents := by
  unfold Obligations.CoreEvents
  intro s c k die now
  refine ⟨fun tok rest hq hp hr hc he hs => ?_, fun f hf hh ht hg => ?_, fun f hf hs hd => ?_, fun e f hf hm => ?_,
    fun t g ht hg hp hw h0 hlt => watchdog_traps ht hg hp hw h0 hlt, fun q hq => ⟨waitaReply_replies hq,
      waitaTimeout_fires hq, fun _ => watchInstall_waits hq, fun hp hw ht => ?_, fun cause hp hw ht => ?_,
      fun t s1 hp hw ht hl => ?_⟩, fun i r t hr ht hp hl hf hh => ⟨ratomAtHome_dropped hr ht hp hl hf hh,
      fun hk s1 old => ratomAtHome_performs hr ht hp hl hf hh hk⟩, fun i r hr hp => ?_,
    fun b r hb => bankSideService_serves hb, fun wd hw => eccWriteback_writes hw⟩
  · obtain ⟨hzero, hruns⟩ := startToken_run k tok rest (k.vec.tokenCycle tok)
    refine ⟨_, tokenStart_starts hq (mayStart_of hp hr hc he hs), ?_⟩
    rw [tokenStarted_core]
    exact ⟨rfl, rfl, rfl, hzero, hruns⟩
  · rw [vectorLoadEcc_finds hf (eccDue_of hf hh ht hg)]
    rfl
  · refine ⟨_, vectorFaultReport_reports hf hs hd, ?_⟩
    have hcore (t : Nat) : ((s.setCore c (k.reported f t)).passTo (dieOf c) t).core c = k.reported f t :=
      State.setCore_core ..
    rw [hcore]
    exact ⟨rfl, rfl, rfl, rfl, rfl, rfl, rfl⟩
  · obtain ⟨w, l, hcore⟩ := (sameBut_cancelWaita s c).core c
    obtain ⟨hcause, hval, hpc, hvec, hstatus, hx⟩ := engineTrap_stem (k.withWaita w l) e f
    refine ⟨_, engineFaultTrap_traps hf hm, ?_⟩
    rw [State.modCore_core, hcore]
    exact ⟨hcause, hval, hpc, hvec, hstatus, hx, (sameBut_cancelWaita s c).mem⟩
  · rw [watchInstall_translates hq hp hw, ht]
  · rw [watchInstall_translates hq hp hw, ht]
  · intro n old hok
    have hat : exec (.watchInstall c) s = .next (s1.watchAt c q t) := by
      rw [watchInstall_translates hq hp hw, ht]
      exact congrArg Host.Outcome.next (if_pos hl)
    rw [hat]
    exact ⟨fun hne => congrArg _ (watchAt_answers (q := q) hok (.inl hne)),
      fun hle => congrArg _ (watchAt_answers (q := q) hok (.inr hle)), fun he hlt => congrArg _ (watchAt_installs hok he hlt)⟩
  · refine ⟨_, ratomReply_takes hr hp, ?_⟩
    rw [State.modCore_core]
    exact ⟨takeRatom_ratoms k r, takeRatom_getX k r, rfl⟩

end Sys2Proof
end

section
/-! PROOFS. What a turn runs: a stem's, a vector engine's, a sequencer's, an event (R89, R113, R227, R279, R291). -/

namespace Sys2Proof.Machine
open Claims

section
variable {s : State} {c : CoreId} {i : Instr} {n : Nat}

/-! ### Whose turn it is -/

theorem step_of_agenda {x : Turn} {rest : List Turn} (h : s.agenda = x :: rest) :
    step s = takeTurn x { s with agenda := rest, ticks := s.ticks + 1 } := by
  unfold step
  rw [h]

theorem step_of_empty (h : s.agenda = []) : step s = takeTurn (Config.arbiter s.ticks) { s with ticks := s.ticks + 1 } := by
  unfold step
  rw [h]

/-- No word of a list is among those of an empty one. -/
theorem find_none_bad (l bad : List Nat) (h : bad = []) : l.find? bad.contains = none := by
  subst h
  exact List.find?_eq_none.2 fun _ _ => Bool.false_ne_true

/-! ### A stem (R89, R91, R291) -/

/-- The words that a stem fetches at its PC. -/
def State.fetched (s : State) (c : CoreId) : List W32 := (fetchAddrs (s.core c).stem.pc.toNat).map (s.fetchWord (s.core c))

theorem stemFetch_runs (hb : (s.core c).imemBad = []) (hd : decode .stem (s.fetched c) = .ok i n) :
    s.stemFetch c = exec i (s.modCore c fun k => k.setStem { k.stem with ir := (s.fetched c).headD 0 }) := by
  have hpc : ¬(s.core c).imemBad.contains (s.core c).stem.pc.toNat = true := by rw [hb]; exact Bool.false_ne_true
  refine (if_neg hpc).trans ?_
  rw [show decode .stem ((fetchAddrs (s.core c).stem.pc.toNat).map (s.fetchWord (s.core c))) = .ok i n from hd]
  dsimp only
  rw [find_none_bad _ _ hb]
  rfl

/-- What lets a stem have its turn: its core runs, and no monitor halts the cores. -/
theorem notHalted (hp : (s.core c).phase = .running) (hm : s.pkg.monHalt = false) :
    ¬(decide ((s.core c).phase ≠ .running) || s.pkg.monHalt) = true := by
  rw [hp, hm]
  decide

/-- A running stem with no engine fault to take runs its instruction. -/
theorem stemTurn_runs (h : s.cur = c) (hp : (s.core c).phase = .running) (hm : s.pkg.monHalt = false)
    (ht : (s.core c).mayTrap = false) : s.stemTurn c = s.stemFetch c := by
  subst h
  exact (if_neg (notHalted hp hm)).trans (if_neg (Bool.eq_false_iff.1 ht))

/-- A running stem with an engine fault to take: one of its own instruction comes first. -/
theorem stemTurn_boundary (h : s.cur = c) (hp : (s.core c).phase = .running) (hm : s.pkg.monHalt = false)
    (ht : (s.core c).mayTrap = true) {u : State} (hu : s.stemFetch c = .next u) :
    s.stemTurn c = if (u.core c).ownTrap then .next u else exec (.engineFaultTrap c) s := by
  subst h
  refine (if_neg (notHalted hp hm)).trans ((if_pos ht).trans ?_)
  show s.stemBoundary s.cur = _
  unfold State.stemBoundary
  rw [hu]

/-! ### A vector engine (R154, R279) -/

theorem vecFetch_runs {r : Run} (hl : r.pos < r.buf.length) (hb : r.bad = [])
    (hd : decode .vector ((r.buf.drop r.pos).take 3) = .ok i n) : s.vecFetch r = exec i s := by
  have hpos : ¬r.bad.contains r.pos = true := by rw [hb]; exact Bool.false_ne_true
  refine (if_neg (Nat.not_le.2 hl)).trans ((if_neg hpos).trans ?_)
  rw [hd]
  dsimp only
  rw [find_none_bad _ _ hb]

/-- An engine that may work has its turn. -/
theorem mayTurn (hm : s.vecMay c = true) : ¬(!s.vecMay c) = true := by
  rw [hm]
  decide

section
variable (h : s.cur = c) (hm : s.vecMay c = true)
include h hm

theorem vectorTurn_serves (hs : (s.core c).svcDue = true) : s.vectorTurn c = .next (s.serveWord c) := by
  subst h
  exact (if_neg (mayTurn hm)).trans (if_pos hs)

variable (hs : (s.core c).svcDue = false)
include hs

theorem vectorTurn_finds (he : (s.core c).vec.eccDue = true) : s.vectorTurn c = exec (.vectorLoadEcc c) s := by
  subst h
  exact (if_neg (mayTurn hm)).trans
    ((if_neg (Bool.eq_false_iff.1 hs)).trans (if_pos he))

variable (he : (s.core c).vec.eccDue = false)
include he

theorem vectorTurn_reports (hf : (s.core c).vec.found.isSome = true) :
    s.vectorTurn c = exec (.vectorFaultReport c) s := by
  subst h
  exact (if_neg (mayTurn hm)).trans
    ((if_neg (Bool.eq_false_iff.1 hs)).trans ((if_neg (Bool.eq_false_iff.1 he)).trans (if_pos hf)))

/-- An engine with nothing to serve or report goes on with its token, or starts one. -/
theorem vectorTurn_runs (hf : (s.core c).vec.found = none) (hc : (s.core c).vec.clear = true) :
    s.vectorTurn c = match (s.core c).vec.run with
      | none => exec (.tokenStart c) s
      | some r => s.vecFetch r := by
  subst h
  refine (if_neg (mayTurn hm)).trans
    ((if_neg (Bool.eq_false_iff.1 hs)).trans ((if_neg (Bool.eq_false_iff.1 he)).trans
      ((if_neg ?_).trans ((if_neg ?_).trans rfl))))
  · show ¬(s.core s.cur).vec.found.isSome = true
    rw [hf]; decide
  · show ¬(!(s.core s.cur).vec.clear) = true
    rw [hc]; decide
end

/-! ### A sequencer (R227) -/

theorem seqFetch_runs {d : DieId} {m : Fin 16} {t u : State} {w : W32} {i0 : Instr} {k0 : Nat} {lits : List W32}
    (hw : s.seqFetchWord d (s.seqr d m).tag (s.seqr d m).pc = .word w t) (h0 : decode .perco [w, 0, 0] = .ok i0 k0)
    (hl : t.seqFetchLits d (s.seqr d m).tag (k0 - 1) ((s.seqr d m).pc + 4) = .ok lits u)
    (hd : decode .perco (w :: lits) = .ok i n) : s.seqFetch d m = exec i u := by
  unfold State.seqFetch
  dsimp only
  rw [hw]
  dsimp only
  rw [h0]
  dsimp only
  rw [hl]
  dsimp only
  rw [hd]

theorem seqTurn_runs {d : DieId} {m : Fin 16} (hd : s.curDie = d) (hm : s.curSeq = m) (hr : (s.seqr d m).running = true)
    (hs : (s.seqr d m).susp = none) : s.seqTurn d m = s.seqFetch d m := by
  subst hd hm
  refine if_pos ?_
  show ((s.seqr s.curDie s.curSeq).running && (s.seqr s.curDie s.curSeq).susp.isNone) = true
  rw [hr, hs]
  rfl
end

end Sys2Proof.Machine

namespace Sys2Proof
open Machine Claims

/-- Settles O57: the agenda's head has its turn, and each agent's turn by what stands before its instruction. -/
theorem stepRuns : Obligations.StepRuns := by
  unfold Obligations.StepRuns
  intro s rest i k
  refine ⟨fun c t ha ht hp hm hb ws hws hd => ?_, fun c t ha ht hm => ?_,
    fun d n t t1 w i0 k0 lits u ha ht hr hs hw h0 hl hd => ?_, fun ha he => ?_, step_of_empty⟩
  · subst hws
    have hcur : t.cur = c := by rw [ht]
    have hstep : step s = t.stemTurn c := by rw [step_of_agenda ha, ht]; rfl
    have hrun := stemFetch_runs hb hd
    rw [hstep]
    exact ⟨fun htrap => (stemTurn_runs hcur hp hm htrap).trans hrun,
      fun htrap u hu => stemTurn_boundary hcur hp hm htrap (hrun.trans hu)⟩
  · have hcur : t.cur = c := by rw [ht]
    have hstep : step s = t.vectorTurn c := by rw [step_of_agenda ha, ht]; rfl
    rw [hstep]
    refine ⟨vectorTurn_serves hcur hm, fun hs => ⟨vectorTurn_finds hcur hm hs, vectorTurn_reports hcur hm hs,
      fun he hf hc => ⟨fun hr => ?_, fun r hr hl hb hd => ?_⟩⟩⟩
    · rw [vectorTurn_runs hcur hm hs he hf hc, hr]
    · rw [vectorTurn_runs hcur hm hs he hf hc, hr]
      exact vecFetch_runs hl hb hd
  · have hstep : step s = t.seqTurn d n := by rw [step_of_agenda ha, ht]; rfl
    rw [hstep, seqTurn_runs (by rw [ht]) (by rw [ht]) hr hs]
    exact seqFetch_runs hw h0 hl hd
  · exact (step_of_agenda ha).trans (if_pos he)

end Sys2Proof
end

section
/-! PROOFS. The frames of the stem's instructions: what they leave of the machine, whatever they come to (R92-R110). -/

namespace Sys2Proof.Machine
open Claims

/-! ### The part of a core that these instructions may change -/

/-- What the register and scratchpad instructions may change of their core, short of a trap. -/
structure CorePart where
  scratch : Mem
  eccHard : List Nat
  eccSoft : List Nat
  eccFix : List Nat
  eccCount : Nat
  eccWords : List Nat
  cancels : List Waita
  x : Vector Word 31
  parity : List Reg
  lc : Vector W32 4
  loops : List Loop
  pc : BitVec 16
  waitSince : Option Word
  waita : Option Waita
  stq : List StEntry

def Core.part (k : Core) : CorePart :=
  ⟨k.scratch, k.eccHard, k.eccSoft, k.eccFix, k.eccCount, k.eccWords, k.cancels, k.stem.x, k.stem.parity, k.stem.lc,
    k.stem.loops, k.stem.pc, k.stem.waitSince, k.stem.waita, k.stem.stq⟩

def Core.withPart (k : Core) (p : CorePart) : Core :=
  { k with
    scratch := p.scratch, eccHard := p.eccHard, eccSoft := p.eccSoft, eccFix := p.eccFix, eccCount := p.eccCount
    eccWords := p.eccWords, cancels := p.cancels
    stem := { k.stem with
      x := p.x, parity := p.parity, lc := p.lc, loops := p.loops, pc := p.pc, waitSince := p.waitSince, waita := p.waita
      stq := p.stq } }

/-- A core that differs from k in that part only: in its scratchpad outside st not at all, in its registers only in w,
and in the stores on their way at most by q. -/
structure CoreFrame (k k' : Core) (w : List Reg) (st : Nat → Prop) (q : Option StEntry) : Prop where
  rest : k' = k.withPart k'.part
  scratch : ∀ b, ¬st b → memGet k'.scratch b = memGet k.scratch b
  regs : ∀ r, r ∉ w → k'.getX r = k.getX r
  stores : k'.stem.stq = k.stem.stq ∨ ∃ e, q = some e ∧ k'.stem.stq = k.stem.stq ++ [e]

section
variable {k k' : Core} {w : List Reg} {st : Nat → Prop} {q : Option StEntry}

/-- Of two changes of the part, the second stands. -/
theorem withPart_withPart (h : k' = k.withPart k'.part) (p : CorePart) : k'.withPart p = k.withPart p := by
  rw [h]
  rfl

theorem CoreFrame.refl (k : Core) (w : List Reg) (st : Nat → Prop) (q : Option StEntry) : CoreFrame k k w st q :=
  ⟨rfl, fun _ _ => rfl, fun _ _ => rfl, .inl rfl⟩

/-- A further change of the same part, of neither the scratchpad, the registers nor the stores on their way. -/
theorem CoreFrame.step (h : CoreFrame k k' w st q) {k'' : Core} (hr : k'' = k'.withPart k''.part)
    (hs : k''.scratch = k'.scratch) (hx : k''.stem.x = k'.stem.x) (hq : k''.stem.stq = k'.stem.stq) :
    CoreFrame k k'' w st q := by
  refine ⟨hr.trans (withPart_withPart h.rest _), fun b hb => ?_, fun r hw => ?_, ?_⟩
  · rw [hs]; exact h.scratch b hb
  · rw [Core.getX, hx]; exact h.regs r hw
  · rw [hq]; exact h.stores

theorem CoreFrame.goto (h : CoreFrame k k' w st q) (npc : Nat) : CoreFrame k (k'.goto npc) w st q := h.step rfl rfl rfl rfl
theorem CoreFrame.withWaita (h : CoreFrame k k' w st q) (v : Option Waita) (l : List Waita) :
    CoreFrame k (k'.withWaita v l) w st q := h.step rfl rfl rfl rfl
theorem CoreFrame.noteHard (h : CoreFrame k k' w st q) (a n : Nat) : CoreFrame k (k'.noteHard a n) w st q :=
  h.step rfl rfl rfl rfl

theorem CoreFrame.noteSoft (h : CoreFrame k k' w st q) (a n : Nat) : CoreFrame k (k'.noteSoft a n) w st q := by
  obtain ⟨fix, count, he⟩ := noteSoft_eq k' a n
  rw [he]
  exact h.step rfl rfl rfl rfl

theorem CoreFrame.noteLoad (h : CoreFrame k k' w st q) (a n : Nat) : CoreFrame k (k'.noteLoad a n) w st q := by
  obtain ⟨fix, count, he⟩ := noteLoad_eq k' a n
  rw [he]
  exact h.step rfl rfl rfl rfl

theorem setX_rest (k : Core) (d : Reg) (v : Word) : k.setX d v = k.withPart (k.setX d v).part := by
  unfold Core.setX
  split
  · rfl
  · rfl

theorem CoreFrame.setX (h : CoreFrame k k' w st q) {d : Reg} (hd : d = 0 ∨ d ∈ w) (v : Word) :
    CoreFrame k (k'.setX d v) w st q := by
  rcases eq_or_ne d 0 with rfl | h0
  · exact h
  have hw : d ∈ w := hd.resolve_left h0
  refine ⟨(setX_rest k' d v).trans (withPart_withPart h.rest _), fun b hb => ?_, fun r hr => ?_, ?_⟩
  · rw [Core.setX_scratch]; exact h.scratch b hb
  · rw [Core.getX_setX_ne _ _ _ fun e : r = d => hr (e ▸ hw)]; exact h.regs r hr
  · rw [Core.setX_stem_stq]; exact h.stores

/-- A change of the loops and their counters. -/
theorem coreFrame_loops (k : Core) (lc : Vector W32 4) (loops : List Loop) :
    CoreFrame k (k.setStem { k.stem with lc := lc, loops := loops }) w st q := ⟨rfl, fun _ _ => rfl, fun _ _ => rfl, .inl rfl⟩

theorem coreFrame_scratchOnly (h : k.ScratchOnly k') (hs : ∀ b, ¬st b → memGet k'.scratch b = memGet k.scratch b) :
    CoreFrame k k' w st q := by
  obtain ⟨m, hard, soft, fix, count, u, l, rfl⟩ := h
  exact ⟨rfl, hs, fun _ _ => rfl, .inl rfl⟩
end

/-! ### The machine short of a trap -/

/-- A state in which the current core has changed so, and every other core at most in its WAITA. -/
structure Near (s t : State) (w : List Reg) (st : Nat → Prop) (q : Option StEntry) : Prop where
  cur : t.cur = s.cur
  core : CoreFrame (s.core s.cur) (t.core s.cur) w st q
  others : ∀ c, c ≠ s.cur → ∃ v l, t.core c = (s.core c).withWaita v l
  hostMem : t.hostMem = s.hostMem

section
variable {s t : State} {w : List Reg} {st : Nat → Prop} {q : Option StEntry}

theorem Near.refl (s : State) (w : List Reg) (st : Nat → Prop) (q : Option StEntry) : Near s s w st q :=
  ⟨rfl, .refl .., fun _ _ => ⟨_, _, (Core.withWaita_self _).symm⟩, rfl⟩

theorem Near.modCore (h : Near s t w st q) {f : Core → Core}
    (hf : CoreFrame (s.core s.cur) (f (t.core s.cur)) w st q) : Near s (t.modCore s.cur f) w st q := by
  refine ⟨h.cur, by rw [State.modCore_core]; exact hf, fun c hc => ?_, h.hostMem⟩
  rw [State.modCore_core_ne _ _ _ _ hc]
  exact h.others c hc

theorem near_setCore {k : Core} (h : CoreFrame (s.core s.cur) k w st q) : Near s (s.setCore s.cur k) w st q := by
  refine ⟨rfl, by rw [State.setCore_core]; exact h, fun c hc => ?_, rfl⟩
  rw [State.setCore_core_ne _ _ _ _ hc]
  exact ⟨_, _, (Core.withWaita_self _).symm⟩

/-- Bytes that are written, and a register. -/
theorem near_swapped {a n : Nat} {bs : List Byte} {d : Reg} {v : Word} (hd : d = 0 ∨ d ∈ w)
    (hst : ∀ b, ¬st b → b < a ∨ a + bs.length ≤ b) : Near s (s.swapped a n bs d v) w st q := by
  obtain ⟨k, honly, hm, hk⟩ := swapped_core s a n bs d v
  refine ⟨swapped_cur .., ?_, fun c hc => swapped_core_ne s a n bs d v hc, swapped_hostMem ..⟩
  rw [hk]
  refine CoreFrame.setX (coreFrame_scratchOnly honly fun b hb => ?_) hd v
  rw [hm]
  exact memGet_memPut_out _ _ _ _ (hst b hb)

/-- What Kept lists of the memories that no instruction of the stem writes. -/
theorem Near.stores (h : Near s t w st q) (c : CoreId) : (t.core c).imem = (s.core c).imem ∧ (t.core c).seg = (s.core c).seg ∧
    (t.core c).tiles = (s.core c).tiles ∧ (t.core c).moulds = (s.core c).moulds ∧ (t.core c).full = (s.core c).full := by
  by_cases hc : c = s.cur
  · rw [hc, h.core.rest]
    exact ⟨rfl, rfl, rfl, rfl, rfl⟩
  · obtain ⟨v, l, hk⟩ := h.others c hc
    rw [hk]
    exact ⟨rfl, rfl, rfl, rfl, rfl⟩

theorem Near.kept (h : Near s t w st q) (hm : t.mem = s.mem) : Kept s t w st q := by
  refine ⟨h.core.scratch, fun c hc => ?_, h.stores, ⟨h.hostMem, .inl hm⟩, h.core.regs, ?_, ?_, .inl ?_, ?_⟩
  · obtain ⟨v, l, hk⟩ := h.others c hc
    rw [hk]
    exact ⟨rfl, rfl, rfl, rfl, rfl, rfl⟩
  · rw [h.core.rest]
    exact ⟨rfl, rfl, rfl, rfl, rfl, rfl, rfl, rfl, rfl, rfl, rfl⟩
  · refine ⟨?_, ?_, h.core.stores⟩
    · rw [h.core.rest]; rfl
    · rw [h.core.rest]; rfl
  · rw [h.core.rest]
    exact ⟨rfl, rfl, rfl, rfl⟩
  · rw [h.core.rest]
    exact ⟨rfl, rfl, rfl, rfl⟩

/-! ### A trap after it -/

/-- The core of a stem that has entered a trap. -/
def Core.trapped (k : Core) (e : Engine) (cause : Cause) (val : Word) : Core :=
  let k' := k.trapEntry e cause val k.stem.pc none
  if k.vec.held.isSome || k.mat.held.isSome then k'.setStem { k'.stem with deferred := true } else k'

/-- What a trap entry changes of a core. -/
theorem trapped_eq (k : Core) (e : Engine) (cause : Cause) (val : Word) : ∃ b, k.trapped e cause val =
    { k with stem := { k.stem with
        status := statusMode k.stem.status true (statusSup k.stem.status)
        trapcause := trapCauseWord e cause
        trappc := k.stem.pc.setWidth 64
        trapval := val
        pc := k.stem.trapvec.setWidth 16
        waitSince := none
        deferred := b } } := by
  unfold Core.trapped
  dsimp only
  split
  · exact ⟨true, rfl⟩
  · exact ⟨k.stem.deferred, rfl⟩

/-- A trap after a change leaves what the change left; main memory may have changed only under an error that is
logged. -/
theorem Near.trap (h : Near s t w st q) {e : Engine} {cause : Cause} {val : Word}
    (hm : t.mem = s.mem ∨ trapCauseWord e cause = trapCauseWord .stem .eccUncorrectable) :
    Kept s (t.stemTrap e cause val) w st q := by
  obtain ⟨u, hu, htrap⟩ := sameBut_stemTrap t e cause val
  rw [h.cur] at htrap
  obtain ⟨v, l, hown⟩ := hu.core s.cur
  have hn : Near s u w st q := by
    refine ⟨hu.cur.trans h.cur, by rw [hown]; exact h.core.withWaita v l, fun c hc => ?_, hu.hostMem.trans h.hostMem⟩
    obtain ⟨v', l', hk⟩ := hu.core c
    obtain ⟨v'', l'', hk'⟩ := h.others c hc
    exact ⟨v', l', by rw [hk, hk']⟩
  have hcore : (t.stemTrap e cause val).core s.cur = (u.core s.cur).trapped e cause val := by
    rw [htrap, State.modCore_core]
    rfl
  have hne {c : CoreId} (hc : c ≠ s.cur) : (t.stemTrap e cause val).core c = u.core c := by
    rw [htrap, State.modCore_core_ne _ _ _ _ hc]
  obtain ⟨b, hb⟩ := trapped_eq (u.core s.cur) e cause val
  rw [hb] at hcore
  refine ⟨?_, fun c hc => ?_, fun c => ?_, ⟨?_, ?_⟩, ?_, ?_, ?_, .inr ?_, ?_⟩
  · rw [hcore]; exact hn.core.scratch
  · obtain ⟨v', l', hk⟩ := hn.others c hc
    rw [hne hc, hk]
    exact ⟨rfl, rfl, rfl, rfl, rfl, rfl⟩
  · by_cases hc : c = s.cur
    · subst hc
      rw [hcore]
      exact hn.stores _
    · rw [hne hc]
      exact hn.stores c
  · rw [htrap]
    exact hn.hostMem
  · refine hm.imp (fun hm => ?_) fun hc => ?_
    · rw [htrap]
      exact hu.mem.trans hm
    · rw [hcore]
      exact hc
  · rw [hcore]; exact hn.core.regs
  · rw [hcore, hn.core.rest]
    exact ⟨rfl, rfl, rfl, rfl, rfl, rfl, rfl, rfl, rfl, rfl, rfl⟩
  · rw [hcore]
    refine ⟨?_, ?_, hn.core.stores⟩
    · rw [hn.core.rest]; rfl
    · rw [hn.core.rest]; rfl
  · rw [hcore, hn.core.rest]
    exact ⟨rfl, rfl⟩
  · rw [hcore, hn.core.rest]
    exact ⟨rfl, rfl, rfl, rfl⟩

/-! ### What an instruction comes to -/

theorem Near.complete (h : Near s t w st q) (hm : t.mem = s.mem) (npc : Nat) : Kept s (t.complete npc) w st q := by
  have hgoto : Near s (t.modCore t.cur fun c => c.goto npc) w st q := by
    rw [h.cur]
    exact h.modCore (h.core.goto npc)
  unfold State.complete
  split
  · exact h.trap (.inl hm)
  · dsimp only
    split
    · exact hgoto.trap (.inl hm)
    · exact hgoto.kept hm

theorem Near.keepWaiting (h : Near s t w st q) (hm : t.mem = s.mem) : Kept s t.keepWaiting w st q := by
  have hwait : Near s t.keepWaiting w st q := by
    unfold State.keepWaiting
    rw [h.cur]
    exact h.modCore (h.core.step rfl rfl rfl rfl)
  exact hwait.kept hm

theorem errLog_near (d : DieId) (r : ErrRec) : (s.errLog d r).cur = s.cur ∧ (s.errLog d r).cores = s.cores ∧
    (s.errLog d r).hostMem = s.hostMem := by
  unfold State.errLog
  dsimp only
  split
  · exact ⟨rfl, rfl, rfl⟩
  · exact ⟨rfl, rfl, rfl⟩

/-- Logging an error touches main memory and the package alone. -/
theorem logCore_near (c : CoreId) (cause : Cause) (v : Word) : (s.logCore c cause v).cur = s.cur ∧
    (s.logCore c cause v).cores = s.cores ∧ (s.logCore c cause v).hostMem = s.hostMem := by
  unfold State.logCore State.logCause State.logFar
  split
  · simp only [State.countEvent, State.heartEvent, State.modPkg_cur, State.modPkg_cores, State.modPkg_hostMem]
    exact errLog_near _ _
  · exact ⟨rfl, rfl, rfl⟩

/-- An uncorrectable check is counted and logged, and traps. -/
theorem kept_ecc (s : State) (w : List Reg) (st : Nat → Prop) (q : Option StEntry) (a n : Nat) (v v' : Word) :
    Kept s (((s.modCore s.cur fun k => k.noteHard a n).logCore s.cur .eccUncorrectable v).stemTrap .stem .eccUncorrectable v')
      w st q := by
  have hnote : Near s (s.modCore s.cur fun k => k.noteHard a n) w st q :=
    (Near.refl s w st q).modCore ((CoreFrame.refl ..).noteHard a n)
  obtain ⟨hcur, hcores, hhost⟩ := logCore_near (s := s.modCore s.cur fun k => k.noteHard a n) s.cur .eccUncorrectable v
  have hcore (c : CoreId) : ((s.modCore s.cur fun k => k.noteHard a n).logCore s.cur .eccUncorrectable v).core c =
      (s.modCore s.cur fun k => k.noteHard a n).core c := congrArg (fun l : Vector Core 256 => l.get c) hcores
  refine Near.trap (s := s) ⟨hcur, ?_, fun c hc => ?_, hhost⟩ (.inr rfl)
  · rw [hcore]; exact hnote.core
  · rw [hcore]; exact hnote.others c hc

/-- What an instruction comes to lies in a frame: its completion or its wait is near the state that it began in. -/
def Res.Keeps (s : State) (w : List Reg) (st : Nat → Prop) (q : Option StEntry) : Res → Prop
  | .done t _ => Near s t w st q ∧ t.mem = s.mem
  | .wait t => Near s t w st q ∧ t.mem = s.mem
  | .stop _ => False
  | _ => True

theorem keeps_done (npc : Nat) : (Res.done s npc).Keeps s w st q := ⟨.refl .., rfl⟩
theorem keeps_trap {c : Cause} {v : Word} : (Res.trap c v).Keeps s w st q := trivial
theorem keeps_ecc {a n : Nat} : (Res.ecc a n).Keeps s w st q := trivial
theorem keeps_wait : (Res.wait s).Keeps s w st q := ⟨.refl .., rfl⟩
theorem keeps_core {k : Core} (h : CoreFrame (s.core s.cur) k w st q) (npc : Nat) :
    (Res.done (s.setCore s.cur k) npc).Keeps s w st q := ⟨near_setCore h, rfl⟩
theorem keeps_setX {d : Reg} (hd : d ∈ w) (v : Word) (npc : Nat) :
    (Res.done (s.setCore s.cur ((s.core s.cur).setX d v)) npc).Keeps s w st q :=
  keeps_core ((CoreFrame.refl ..).setX (.inr hd) v) npc

theorem keeps_ite {c : Prop} [Decidable c] {a b : Res} (ha : a.Keeps s w st q) (hb : b.Keeps s w st q) :
    (if c then a else b).Keeps s w st q := by
  split
  · exact ha
  · exact hb

theorem keeps_withAddr {v : Word} {n : Nat} {bad : Cause} {f : Nat → Res} (h : (f v.toNat).Keeps s w st q) :
    (withAddr v n bad f).Keeps s w st q := keeps_ite keeps_trap (keeps_ite keeps_trap h)

/-- The frame of an instruction, from what its meaning comes to. -/
theorem kept_stemRun {reads writes : List Reg} {f : Core → Res} (hf : (f (s.core s.cur)).Keeps s w st q)
    (h : stemRun reads writes s f = .next t) : Kept s t w st q := by
  obtain ⟨u, hu, hcases⟩ := stemRun_cases (s := s) (reads := reads) (writes := writes) (f := f)
  obtain rfl : u = t := Host.Outcome.next.inj (hu.symm.trans h)
  have hself : Near s s w st q := .refl ..
  rcases hcases with rfl | rfl | ⟨v, npc, hv, rfl⟩ | ⟨c, v, _, rfl⟩ | ⟨a, n, _, rfl⟩ | ⟨c, v, _, rfl⟩ |
    ⟨v, hv, rfl⟩ | ⟨v, hv, rfl⟩
  · exact hself.keepWaiting rfl
  · exact hself.trap (.inl rfl)
  · rw [hv] at hf
    exact hf.1.complete hf.2 npc
  · exact hself.trap (.inl rfl)
  · exact kept_ecc ..
  · exact hself.trap (.inl rfl)
  · rw [hv] at hf
    exact hf.1.keepWaiting hf.2
  · rw [hv] at hf
    exact hf.elim

end

/-! ### The register instructions (R92-R100, R130) -/

section
variable {s t : State} {d : Reg} {a b : Src} {ty : Ty} {st : Nat → Prop} {q : Option StEntry}

theorem kept_alu3 {useD : Bool} {f : AluFn} (h : alu3 useD f d a b ty s = .next t) : Kept s t [d] st q := by
  refine kept_stemRun ?_ h
  cases intWidth ty with
  | none => exact keeps_trap
  | some n => exact keeps_setX (List.mem_singleton_self d) _ _

theorem kept_aluDivide {f : AluFn} (h : aluDivide f d a b ty s = .next t) : Kept s t [d] st q := by
  refine kept_stemRun ?_ h
  cases intWidth ty with
  | none => exact keeps_trap
  | some n => exact keeps_ite keeps_trap (keeps_setX (List.mem_singleton_self d) _ _)

theorem kept_alu2 {f : AluFn} (h : alu2 f d a ty s = .next t) : Kept s t [d] st q := by
  refine kept_stemRun ?_ h
  cases intWidth ty with
  | none => exact keeps_trap
  | some n => exact keeps_setX (List.mem_singleton_self d) _ _

theorem kept_aluCtors {c : Ctor3} (hc : c ∈ aluCtors) (h : exec (c d a b ty) s = .next t) : Kept s t [d] st q := by
  rcases aluCtors_forms c hc with ⟨useD, f, he⟩ | ⟨f, he⟩
  · exact kept_alu3 ((he ..).symm.trans h)
  · exact kept_aluDivide ((he ..).symm.trans h)

theorem kept_branchIf {w : List Reg} {cond : Word → Word → Bool} {ofs : BitVec 16} (h : branchIf cond a b ofs s = .next t) :
    Kept s t w st q := kept_stemRun (keeps_ite (keeps_ite (keeps_done _) keeps_trap) (keeps_done _)) h

/-- A jump that is no call changes nothing but the PC. -/
theorem keeps_jumpTo {w : List Reg} (target : Int) (follow : Nat) :
    (jumpTo false target follow s (s.core s.cur)).Keeps s w st q := keeps_ite (keeps_done _) keeps_trap

theorem kept_jumpReg {w : List Reg} (h : jumpReg false a s = .next t) : Kept s t w st q :=
  kept_stemRun (keeps_ite (keeps_jumpTo _ _) keeps_trap) h

theorem kept_loop {w : List Reg} {o : BitVec 16} (h : execLoop a o s = .next t) : Kept s t w st q :=
  kept_stemRun (keeps_ite keeps_trap (keeps_ite keeps_trap (keeps_ite (keeps_done _) (keeps_ite keeps_trap
    (keeps_core (coreFrame_loops ..) _))))) h

theorem kept_lbrk {w : List Reg} (h : execLbrk s = .next t) : Kept s t w st q := by
  refine kept_stemRun ?_ h
  cases (s.core s.cur).stem.loops with
  | nil => exact keeps_trap
  | cons l ls => exact keeps_core (coreFrame_loops ..) _

theorem kept_mvlcRead {n : Fin 4} (h : execMvlcRead d n s = .next t) : Kept s t [d] st q :=
  kept_stemRun (keeps_setX (List.mem_singleton_self d) _ _) h

theorem kept_sysrd {r : BitVec 12} (h : execSysrd d r s = .next t) : Kept s t [d] st q :=
  kept_stemRun (keeps_ite keeps_trap (keeps_setX (List.mem_singleton_self d) _ _)) h

theorem kept_mvlc {w : List Reg} {n : Fin 4} (h : execMvlc n a s = .next t) : Kept s t w st q :=
  kept_stemRun (keeps_core (coreFrame_loops ..) _) h
end

end Sys2Proof.Machine

namespace Sys2Proof
open Machine Claims

/-- Settles O20: each instruction completes near the state that it began in, and a wait or a trap adds nothing else. -/
theorem stemRegisterFrame : Obligations.StemRegisterFrame := by
  unfold Obligations.StemRegisterFrame
  intro s t d a b ty v o o26 n r
  refine List.forall_mem_append.2 ⟨List.forall_mem_append.2 ⟨?_, ?_⟩, ?_⟩
  · exact List.forall_mem_map.2 fun c hc h => kept_aluCtors hc h
  · refine List.forall_mem_map.2 fun p hp h => ?_
    obtain ⟨cond, hexec, _⟩ := branches_cond p hp
    exact kept_branchIf ((hexec ..).symm.trans h)
  · have hd : d ∈ [d] := List.mem_singleton_self d
    simp only [List.forall_mem_cons]
    exact ⟨fun h => kept_alu2 (exec_clz.symm.trans h), fun h => kept_alu2 (exec_popc.symm.trans h),
      fun h => kept_stemRun (keeps_setX hd _ _) ((exec_li ..).symm.trans h),
      fun h => kept_mvlcRead ((exec_mvlcRead ..).symm.trans h),
      fun h => kept_sysrd ((exec_sysrd ..).symm.trans h),
      fun h => kept_stemRun (keeps_setX hd _ _) ((exec_rdcyc ..).symm.trans h),
      fun h => kept_stemRun (keeps_done _) ((exec_nop ..).symm.trans h),
      fun h => kept_stemRun (keeps_jumpTo _ _) ((exec_j ..).symm.trans h), fun h => kept_jumpReg ((exec_jr ..).symm.trans h),
      fun h => kept_loop ((exec_loop ..).symm.trans h), fun h => kept_mvlc ((exec_mvlc ..).symm.trans h),
      fun h => kept_lbrk ((exec_lbrk ..).symm.trans h),
      fun _ h => absurd h List.not_mem_nil⟩

end Sys2Proof

namespace Sys2Proof.Machine
open Claims

/-! ### Loads, stores, atomics and semaphores (R102-R110) -/

section
variable {s t : State} {d : Reg} {x a b : Src} {ty : Ty} {cls : BitVec 4} {size : BitVec 2} {ofs : BitVec 10}

theorem kept_loadRun {ext : Nat → Word} {st : Nat → Prop} {q : Option StEntry}
    (h : loadRun d a cls size ofs ext s = .next t) :
    Kept s t [d] st q :=
  kept_stemRun (keeps_withAddr (keeps_ite keeps_wait (keeps_ite keeps_ecc
    (keeps_core (((CoreFrame.refl ..).noteLoad _ _).setX (.inr (List.mem_singleton_self d)) _) _)))) h

/-- One more store on its way. -/
theorem coreFrame_enqueue (k : Core) (w : List Reg) (st : Nat → Prop) (e : StEntry) :
    CoreFrame k (k.setStem { k.stem with stq := k.stem.stq ++ [e] }) w st (some e) :=
  ⟨rfl, fun _ _ => rfl, fun _ _ => rfl, .inr ⟨e, rfl, rfl⟩⟩

theorem kept_st {w : List Reg} {st : Nat → Prop} (h : execSt x a cls size ofs s = .next t) :
    Kept s t w st (some (storeSent s x a cls size ofs)) := by
  refine kept_stemRun (keeps_withAddr (keeps_ite keeps_trap (keeps_ite keeps_ecc (keeps_core ?_ _)))) h
  rw [effAddr_eq]
  rw [show sizeBytes size = nBytes size from rfl, enqueueStore_eq]
  exact coreFrame_enqueue ..

/-- The bytes from v on, n of them. -/
theorem outside_bytes {v n : Nat} {bs : List Byte} (hl : bs.length = n) (c : Nat) (h : ¬(v ≤ c ∧ c < v + n)) :
    c < v ∨ v + bs.length ≤ c := by omega

theorem keeps_swapped {w : List Reg} {v n m : Nat} {bs : List Byte} {r : Reg} {u : Word} (hr : r = 0 ∨ r ∈ w)
    (hl : bs.length = n) (npc : Nat) :
    (Res.done (s.swapped v m bs r u) npc).Keeps s w (fun c => v ≤ c ∧ c < v + n) none :=
  ⟨near_swapped hr (outside_bytes hl), swapped_mem ..⟩

theorem kept_amoRun {useD : Bool} {f : AmoFn} {writes : Nat → Nat → Core → Bool} {w : Nat} (hw : intWidth ty = some w)
    (h : amoRun useD f writes d a b ty s = .next t) :
    Kept s t [d] (fun c => ((s.core s.cur).src a).toNat ≤ c ∧ c < ((s.core s.cur).src a).toNat + w / 8) none := by
  refine kept_stemRun ?_ h
  have hd : d = 0 ∨ d ∈ [d] := .inr (List.mem_singleton_self d)
  rw [hw]
  exact keeps_withAddr (keeps_ite keeps_wait (keeps_ite keeps_ecc (keeps_ite
    (keeps_ite keeps_trap (keeps_swapped hd (leBytes_length ..) _))
    (keeps_core (((CoreFrame.refl ..).noteSoft _ _).setX hd _) _))))

/-- A semaphore's count written, and no register. -/
theorem keeps_wrote {w : List Reg} {v m : Nat} {bs : List Byte} (hl : bs.length = 4) (npc : Nat) :
    (Res.done ((s.setCore s.cur ((s.core s.cur).noteSoft v m)).writeScratch s.cur v bs) npc).Keeps s w
      (fun c => v ≤ c ∧ c < v + 4) none := by
  rw [← swapped_zero s v m bs 0]
  exact keeps_swapped (.inl rfl) hl npc

/-- A wait that has read the semaphore. -/
theorem keeps_reread {w : List Reg} {st : Nat → Prop} {v n : Nat} :
    (Res.wait (s.setCore s.cur ((s.core s.cur).noteSoft v n))).Keeps s w st none :=
  ⟨near_setCore ((CoreFrame.refl ..).noteSoft v n), rfl⟩

theorem kept_semwait {sc : Scope} (h : execSemwait a b sc s = .next t) :
    Kept s t [] (fun c => ((s.core s.cur).src a).toNat ≤ c ∧ c < ((s.core s.cur).src a).toNat + 4) none :=
  kept_stemRun (keeps_withAddr (keeps_ite keeps_wait (keeps_ite keeps_ecc (keeps_ite
    keeps_reread (keeps_wrote (leBytes_length ..) _))))) h

theorem kept_sempost {sc : Scope} (h : execSempost a b sc s = .next t) :
    Kept s t [] (fun c => ((s.core s.cur).src a).toNat ≤ c ∧ c < ((s.core s.cur).src a).toNat + 4) none :=
  kept_stemRun (keeps_withAddr (keeps_ite keeps_wait (keeps_ite keeps_ecc (keeps_ite keeps_trap
    (keeps_wrote (leBytes_length ..) _))))) h
end

end Sys2Proof.Machine

namespace Sys2Proof
open Machine Claims

/-- Settles O21: as O20, with the bytes that an atomic or a semaphore writes, and the entry that a store adds. -/
theorem stemStoreFrame : Obligations.StemStoreFrame := by
  unfold Obligations.StemStoreFrame
  intro s t d x a b ty w cls size ofs sc
  refine ⟨fun hw => List.forall_mem_append.2 ⟨?_, ?_⟩, kept_st, ?_⟩
  · refine List.forall_mem_map.2 fun p hp h => ?_
    obtain ⟨f, hexec, _⟩ := amoOps_forms p hp
    exact kept_amoRun hw ((hexec ..).symm.trans h)
  · simp only [List.forall_mem_cons]
    exact ⟨fun h => kept_amoRun hw ((exec_cas ..).symm.trans h), kept_semwait (sc := sc), kept_sempost (sc := sc),
      fun _ h => absurd h List.not_mem_nil⟩
  · simp only [List.forall_mem_cons]
    refine ⟨fun h => kept_loadRun (exec_ld.symm.trans h), fun h => ?_, fun _ h => absurd h List.not_mem_nil⟩
    rcases eq_or_ne size 3 with rfl | h3
    · exact kept_stemRun keeps_trap (exec_ldZero3.symm.trans h)
    · exact kept_loadRun ((exec_ldZero h3).symm.trans h)

end Sys2Proof
end
